-- ==== Sys2Proof/Word.lean ====
section
/-! DEFINITION. The words of the Yilith Y7: scalar registers, instruction words, vector registers,
stream commands and register-field numbers (R5, R84, R108, R121, R124, R181). -/

namespace Sys2Proof

/-- A byte of memory. -/
abbrev Byte := BitVec 8
/-- A scalar register, pointer or sync word (64 bits). -/
abbrev Word := BitVec 64
/-- A 32-bit instruction word (R108). -/
abbrev IWord := BitVec 32
/-- A vector register: 256 bytes, 64 lanes of 32 bits (R181). -/
abbrev VReg := BitVec 2048
/-- A 128-bit stream command word (R124). -/
abbrev KWord := BitVec 128
/-- The data of one channel token; the longest is an activation row of 488 bytes (R139). -/
abbrev TokenData := BitVec 3904

/-- A 5-bit register field (g or v). -/
abbrev R5 := BitVec 5
/-- A 3-bit register field (m or k). -/
abbrev R3 := BitVec 3
/-- A z-register number. -/
abbrev R4 := BitVec 4
/-- A 7-bit port number (R123). -/
abbrev Port := BitVec 7

/-- Bit `i` of `x` as a Bool-free one-or-zero word. -/
abbrev bit64 (b : Bool) : Word := if b then 1 else 0

end Sys2Proof
end

