-- ==== Sys2Proof/Syntax.lean ====
section
/-! DEFINITION. The instruction set: one constructor per row of the opcode table. The first 200 are the
words of the Thister scalar stream (R117, R118); the other 100 are the commands, graph nodes and events the
table lists as steps of the part. A scalar constructor holds its decoded fields; an event constructor holds
what names the unit that acts and what the outside world brings. -/

namespace Sys2Proof

/-- Scope codes 0..5 of R72. -/
inductive Scope | bay | plot | fld | mod | dom | sys
  deriving DecidableEq, Repr

/-- Access width of SM (R112): 1, 2, 4 or 8 bytes. -/
inductive Width | byte | half | word | dbl
  deriving DecidableEq, Repr

/-- Integer element width of VV (R119). -/
inductive EW | i32 | i16 | i8
  deriving DecidableEq, Repr

/-- Floating-point element type of VV (R119). -/
inductive FT | f32 | bf16 | f16
  deriving DecidableEq, Repr

/-- Block format of VBXENC and VBXDEC (R119). -/
inductive BXT | bx8 | bx4
  deriving DecidableEq, Repr

/-- Target of VQNT (R119). -/
inductive QT | i8 | i16
  deriving DecidableEq, Repr

/-- The control registers of R122. -/
inductive Ctl
  | fire | bayxy | fldorg | fldsz | section_ | tenant | cause | epc | faddr | rmode | flags | cyc | dtime
  | lc0 | lc1 | samplep | slicemin
  deriving DecidableEq, Repr

/-- Where a storage error of R389 strikes; the event's number says which item. -/
inductive ErrKind
  /-- The HBM4E line of a global physical address. -/
  | hbm
  /-- A shared-cache line not written since fill, a cached translation, a cached handle entry, by the global physical
  address it holds; a cached image, by its pointer; a slot of a bay's weight buffer: clean copies. -/
  | cleanLine
  | translation
  | handleEntry
  | image
  | slot (b : Nat)
  /-- The only copy, at a global physical address: a written cache line, scratchpad, accumulator memory, a loft or a
  register through its window. -/
  | held
  /-- Bins, runs and the open batch of a line. -/
  | entries
  /-- The merge buffer of a bay's die. -/
  | merge (b : Nat)
  /-- A scale entry or the running set of a bay's array. -/
  | scale (b : Nat)
  | running (b : Nat)
  /-- The cells of a bay's array. -/
  | cells (b : Nat)
  /-- A token of a channel, by its place: first the FIFO, then the crossing FIFO and routers, then a partly built row. -/
  | fifo (f i c : Nat)
  /-- A word of the code of a live instance. -/
  | code (f i : Nat)
  deriving DecidableEq, Repr

/-- A PCIe function of a host port (R392): `vf = 0` is the physical function. -/
structure HostFn where
  port : BitVec 1
  vf : BitVec 4
  deriving DecidableEq, Repr

/-- Who writes a management register: a function, with the Relaxed Ordering attribute of its write (R396), or Clotus. -/
inductive RegWriter
  | host (ro : Bool)
  | clotus
  deriving DecidableEq, Repr

/-- A write of PRQDONE: the port of the physical function that makes it and the sequence number in it (R320). -/
structure PrqWrite where
  port : BitVec 1
  seq : BitVec 32
  deriving DecidableEq, Repr

/-- One instruction, command, node or event of the opcode table. -/
inductive Instr
  -- host launches and the scheduler
  | launchPacketWrite (fn : HostFn) (off : Nat) (size : Nat) (data : BitVec 512)
  | launchDistribute (t : BitVec 4)
  | fieldStart (f : Nat)
  | gangDeadline (t : BitVec 4) (placed : Bool) (n : Nat)
  | launchComplete (f : Nat)
  | fireActor (b : Nat)
  | firingResume (b : Nat)
  -- major 0x00, control
  | nop
  | fend
  | trap (a : R5)
  | brk
  | mfc (d : R5) (c : Ctl)
  | mtc (c : Ctl) (d : R5)
  | jr (a : R5)
  | jalr (d a : R5)
  | fence (s : Scope)
  | idmb
  | idme
  | clmask (a : R5)
  | clunmask (a : R5)
  -- major 0x01, integer and address arithmetic
  | add (d a b : R5)
  | sub (d a b : R5)
  | and (d a b : R5)
  | or (d a b : R5)
  | xor (d a b : R5)
  | andn (d a b : R5)
  | sll (d a b : R5)
  | srl (d a b : R5)
  | sra (d a b : R5)
  | slli (d a : R5) (sh : BitVec 6)
  | srli (d a : R5) (sh : BitVec 6)
  | srai (d a : R5) (sh : BitVec 6)
  | slt (d a b : R5)
  | sltu (d a b : R5)
  | min (d a b : R5)
  | max (d a b : R5)
  | minu (d a b : R5)
  | maxu (d a b : R5)
  | mul (d a b : R5)
  | mulh (d a b : R5)
  | mulhu (d a b : R5)
  | div (d a b : R5)
  | divu (d a b : R5)
  | rem (d a b : R5)
  | remu (d a b : R5)
  | clz (d a : R5)
  | ctz (d a : R5)
  | popc (d a : R5)
  | sextb (d a : R5)
  | sexth (d a : R5)
  | sextw (d a : R5)
  | addw (d a b : R5)
  | subw (d a b : R5)
  | addh (d a b : R5)
  -- majors 0x02-0x0A
  | addi (d a : R5) (imm : BitVec 16)
  | andi (d a : R5) (imm : BitVec 16)
  | ori (d a : R5) (imm : BitVec 16)
  | xori (d a : R5) (imm : BitVec 16)
  | slti (d a : R5) (imm : BitVec 16)
  | sltiu (d a : R5) (imm : BitVec 16)
  | lui (d : R5) (imm : BitVec 16)
  | lhi (d a : R5) (imm : BitVec 12)
  | addih (d a : R5) (imm : BitVec 16)
  -- loads, stores, branches, jumps, LOOP
  | ld (w : Width) (t a : R5) (off : BitVec 14)
  | ldx (w : Width) (t a : R5) (off : BitVec 14)
  | st (w : Width) (t a : R5) (off : BitVec 14)
  | beq (a b : R5) (off : BitVec 16)
  | bne (a b : R5) (off : BitVec 16)
  | blt (a b : R5) (off : BitVec 16)
  | bge (a b : R5) (off : BitVec 16)
  | bltu (a b : R5) (off : BitVec 16)
  | bgeu (a b : R5) (off : BitVec 16)
  | j (off : BitVec 26)
  | jal (off : BitVec 26)
  | loop (a : R5) (off : BitVec 16)
  | lda (s : Scope) (t a : R5) (off : BitVec 13)
  | stl (s : Scope) (t a : R5) (off : BitVec 13)
  -- major 0x1C, synchronisation
  | semadd (a b : R5)
  | semsub (d a b : R5)
  | semwait (a b : R5)
  | semget (d a : R5)
  | rvinit (a b : R5)
  | rvarr (d a : R5)
  | rvwait (a b : R5)
  | acq (s : Scope) (a : R5)
  | rel (s : Scope) (a : R5)
  | syncadd (s : Scope) (d a b : R5)
  | synccas (s : Scope) (d a b : R5)
  | waitv (s : Scope) (isAcq ge : Bool) (d a b : R5)
  | msg (c : R3) (a : R5)
  -- major 0x1D, update emission
  | upd (a b : R5)
  | updv (d a b : R5)
  | updfl
  -- major 0x20, vector integer
  | vadd (t : EW) (d a b : R5) (k : R3)
  | vsub (t : EW) (d a b : R5) (k : R3)
  | vmul (t : EW) (d a b : R5) (k : R3)
  | vmulh (t : EW) (d a b : R5) (k : R3)
  | vand (t : EW) (d a b : R5) (k : R3)
  | vor (t : EW) (d a b : R5) (k : R3)
  | vxor (t : EW) (d a b : R5) (k : R3)
  | vsll (t : EW) (d a b : R5) (k : R3)
  | vsrl (t : EW) (d a b : R5) (k : R3)
  | vsra (t : EW) (d a b : R5) (k : R3)
  | vmin (t : EW) (d a b : R5) (k : R3)
  | vmax (t : EW) (d a b : R5) (k : R3)
  | vminu (t : EW) (d a b : R5) (k : R3)
  | vmaxu (t : EW) (d a b : R5) (k : R3)
  | vabs (t : EW) (d a : R5) (k : R3)
  | vadds (t : EW) (d a b : R5) (k : R3)
  -- major 0x21, vector floating point
  | vfadd (t : FT) (d a b : R5) (k : R3)
  | vfsub (t : FT) (d a b : R5) (k : R3)
  | vfmul (t : FT) (d a b : R5) (k : R3)
  | vfma (t : FT) (d a b : R5) (k : R3)
  | vfnma (t : FT) (d a b : R5) (k : R3)
  | vfmin (t : FT) (d a b : R5) (k : R3)
  | vfmax (t : FT) (d a b : R5) (k : R3)
  | vfabs (t : FT) (d a : R5) (k : R3)
  | vfneg (t : FT) (d a : R5) (k : R3)
  | vfrcp (t : FT) (d a : R5) (k : R3)
  | vfrsq (t : FT) (d a : R5) (k : R3)
  | vfexp2 (t : FT) (d a : R5) (k : R3)
  | vflog2 (t : FT) (d a : R5) (k : R3)
  -- major 0x22, compares and masks
  | vceq (t : EW) (md : R3) (a b : R5) (k : R3)
  | vcne (t : EW) (md : R3) (a b : R5) (k : R3)
  | vclt (t : EW) (md : R3) (a b : R5) (k : R3)
  | vcle (t : EW) (md : R3) (a b : R5) (k : R3)
  | vcltu (t : EW) (md : R3) (a b : R5) (k : R3)
  | vcfeq (t : FT) (md : R3) (a b : R5) (k : R3)
  | vcflt (t : FT) (md : R3) (a b : R5) (k : R3)
  | vcfle (t : FT) (md : R3) (a b : R5) (k : R3)
  | vcfun (t : FT) (md : R3) (a b : R5) (k : R3)
  | mand (md ma mb k : R3)
  | mor (md ma mb k : R3)
  | mxor (md ma mb k : R3)
  | mnot (md ma k : R3)
  | mpopc (d : R5) (ma k : R3)
  | mfirst (d : R5) (ma k : R3)
  -- major 0x23, permutes
  | vperm (d a b : R5) (k : R3)
  | vslideup (d a b : R5) (k : R3)
  | vslidedn (d a b : R5) (k : R3)
  | vbcast (d a b : R5) (k : R3)
  | vcompress (d a : R5) (k : R3)
  | vexpand (d a : R5) (k : R3)
  | vsel (d a b : R5) (k : R3)
  -- major 0x24, conversions
  | vcvtF32I32 (d a : R5) (k : R3)
  | vcvtI32F32 (d a : R5) (k : R3)
  | vcvtBf16F32 (d a : R5) (h : BitVec 1) (k : R3)
  | vcvtF32Bf16 (d a : R5) (h : BitVec 1) (k : R3)
  | vcvtF16F32 (d a : R5) (h : BitVec 1) (k : R3)
  | vcvtF32F16 (d a : R5) (h : BitVec 1) (k : R3)
  | vcvtI8I32 (d a : R5) (h : BitVec 2) (k : R3)
  | vcvtI32I8 (d a : R5) (h : BitVec 2) (k : R3)
  | vcvtE2m1F32 (d a : R5) (h : BitVec 1) (k : R3)
  | vcvtF32E2m1 (d a : R5) (h : BitVec 1) (k : R3)
  | vbxenc (t : BXT) (d a b : R5) (k : R3)
  | vbxdec (t : BXT) (d a b : R5) (k : R3)
  | vqnt (t : QT) (d a b : R5) (k : R3)
  -- major 0x25, reductions
  | vrsum (t : EW) (d a : R5) (k : R3)
  | vfrsum (t : FT) (d a : R5) (k : R3)
  | vrmin (t : EW) (d a : R5) (k : R3)
  | vrmax (t : EW) (d a : R5) (k : R3)
  | vfrmin (t : FT) (d a : R5) (k : R3)
  | vfrmax (t : FT) (d a : R5) (k : R3)
  | vdot (t : EW) (d a b : R5) (k : R3)
  | vfdot (t : FT) (d a b : R5) (k : R3)
  | vargmax (t : EW) (d a : R5) (k : R3)
  -- major 0x26, vector memory
  | vld (d gb : R5) (k : R3) (off4 : BitVec 4)
  | vst (s gb : R5) (k : R3) (off4 : BitVec 4)
  | vlds (d gb gs : R5) (k : R3) (off4 : BitVec 4)
  | vldx (d gb vs : R5) (k : R3) (off4 : BitVec 4)
  | vstx (s gb vs : R5) (k : R3) (off4 : BitVec 4)
  | vldb (d gb : R5) (k : R3) (off4 : BitVec 4)
  -- major 0x27, moves
  | vmovg (d a : R5) (k : R3)
  | vget (d a b : R5) (k : R3)
  | vput (d a b : R5) (k : R3)
  | viota (d a : R5) (k : R3)
  | vmov (d a : R5) (k : R3)
  -- major 0x28, T5
  | t5pk (d a : R5) (h : BitVec 3) (k : R3)
  | t5upk (d a : R5) (h : BitVec 3) (k : R3)
  | t5cnt (d a : R5) (h : BitVec 3) (k : R3)
  -- major 0x29, tile predicates
  | zset (d : R4) (a : R5)
  | zclr (d : R4)
  | zld (d : R4) (a : R5)
  | zst (a : R5) (b : R4)
  | zand (d a b : R4)
  | zor (d a b : R4)
  | ztest (d : R5) (a : R4) (b : R5)
  | zfromm (d : R4) (a : R3)
  -- major 0x2A, ports
  | recv (d : R5) (p : Port) (k : R3)
  | recvg (d : R5) (p : Port) (k : R3)
  | send (s : R5) (p : Port) (k : R3)
  | sendg (s : R5) (p : Port) (k : R3)
  | peektag (d : R5) (p : Port) (k : R3)
  | sendtag (s : R5) (p : Port) (k : R3)
  | pcount (d : R5) (p : Port) (k : R3)
  -- major 0x30, command registers
  | kld (n : R3) (a : R5)
  | kst (n : R3) (a : R5)
  | kins (n : R3) (a : R5) (h : BitVec 1)
  | kclr (n : R3)
  | kissue (n : R3) (p : Port)
  | kwait (p : Port)
  -- major 0x3E, privileged
  | hinv (a b : R5)
  | imginv (a b : R5)
  | tlbi (a b : R5)
  | ctxsave (d a b : R5)
  | ctxload (d a b : R5)
  | solvreq (a b : R5)
  -- engines: `b` is the module bay, `p` the engine port
  | prqEntryGrant (t : BitVec 4)
  | doneTokenTake (b : Nat) (p : Port)
  | commandSemaphoreWait (b : Nat) (p : Port)
  | engineTokenPush (b : Nat) (p : Port)
  | engineTokenTake (b : Nat) (p : Port)
  | commandComplete (b : Nat) (p : Port)
  | lds (b : Nat) (p : Port)
  | sts (b : Nat) (p : Port)
  | ldl (b : Nat) (p : Port)
  | cpy (b : Nat)
  | cpym (b : Nat)
  | fill (b : Nat)
  | sct (b : Nat) (p : Port)
  | sctGleaner (b : Nat)
  | splrd (b : Nat) (p : Port)
  | nopc (b : Nat) (p : Port)
  | spillRingRefill (f i c : Nat)
  | registerWindowLand (b : Nat)
  | gth (b : Nat)
  | gleanerLineReply (b t l : Nat)
  | upds (b : Nat) (p : Port)
  | apnl (b : Nat)
  | arun (b : Nat)
  | arunRowDispatch (b : Nat)
  | adrn (b : Nat)
  | asort (b : Nat)
  | acfg (b : Nat)
  | coll (b : Nat)
  | collectiveMatch (n : Nat)
  | collectiveComplete (n : Nat)
  -- graph sequencer: `f` is the field, `t` the walk task
  | nodeSection (f t : Nat)
  | sectionArm (f t : Nat)
  | sectionEnd (f i : Nat)
  | nodeSeq (f t : Nat)
  | nodePipe (f t : Nat)
  | nodeStream (f t : Nat)
  | childDone (f t : Nat)
  | nodeCond (f t : Nat)
  | nodeWhile (f t : Nat)
  | nodeSwitch (f t : Nat)
  | nodeWaitf (f t : Nat)
  | waitfSatisfied (f t : Nat)
  | nodeRate (f t : Nat)
  | nodeEnd (f t : Nat)
  | sequencerFault (f : Nat)
  -- fabric, Granary and solver
  | messageDeliver (n : Nat)
  | pairArrive (n : Nat)
  | batchTimeout (slice : Nat)
  | batchInsert (slice : Nat)
  | sweep (slice : Nat) (word : Nat)
  | multicastRequest (b : Nat)
  | solve (t : BitVec 4)
  | ratioApply (i : Nat)
  | railSettled (i : Nat)
  | sampleBoundary
  | powerIntervalEnd
  -- tenants
  | partitionCreate (t : BitVec 4) (v : Word)
  | partitionRemove (t : BitVec 4)
  | slicecfgWrite (t : BitVec 4) (v : Word)
  | precmdStop (t : BitVec 4)
  | precmdStopNow (t : BitVec 4)
  | precmdResume (t : BitVec 4)
  | sliceExpire (t : BitVec 4)
  | graceExpire (t : BitVec 4)
  | drainExpire (t : BitVec 4)
  | stopWaveHalt (t : BitVec 4)
  | stopComplete (t : BitVec 4)
  | restoreComplete (t : BitVec 4)
  -- host, boot, links
  | prqtake
  | prqdoneFill (w : PrqWrite)
  | prqdoneFail (w : PrqWrite)
  | mailboxInvalidate
  | mailboxUnknown
  | hostBar2Write (fn : HostFn) (off : Nat) (data : List (BitVec 8)) (ro : Bool)
  | hostBar2Read (fn : HostFn) (off len : Nat)
  | hostWriteForward (fn : HostFn)
  | registerWrite (writer : RegWriter) (fn : HostFn) (off : Nat) (size : Nat) (v : Word)
  | reset
  | moduleNumberAssign (n : BitVec 9)
  | linkCrcError (port n : Nat)
  | linkAckTimeout (port n : Nat)
  | linkRetrain (port : Nat)
  | linkDown (port next : Nat)
  | linkRouteTimeout (n : Nat)
  | deviceTimeAlign (inBound : Bool) (ahead : Nat)
  | storageError (k : ErrKind) (corrected : Bool) (addr : Nat)
  | illegalInstruction (w : BitVec 32)
  | notANodeVisit (f t : Nat)
  | routeReturn (m port : Nat)
  | channelTokenArrive (f i c : Nat)
  | coincidentEdge (f i c : Nat)
  | bootReady
  | hostPortTrain (port : BitVec 1) (rate width : Nat)
  deriving DecidableEq, Repr

end Sys2Proof
end

