-- ==== Sys2Proof/WellFormed.lean ====
section
/-! DEFINITION. Well-formed instructions: the operand limits that the constructors' types do not already
give. A destination mask is m1..m7 (R121); MTC names a register that is not RO (R122); LDX has no width D
(R112); a T5 group is 0..4 (R199); an engine event names a bay, port or island the module has. -/

namespace Sys2Proof

/-- Access column of R122: registers MTC may name. -/
def Ctl.writable : Ctl → Bool
  | .rmode | .flags | .lc0 | .lc1 | .samplep => true
  | .fire | .bayxy | .fldorg | .fldsz | .section_ | .tenant | .cause | .epc | .faddr | .cyc | .dtime
  | .slicemin => false

/-- A module bay number (R11). -/
def okBay (b : Nat) : Bool := b < 2048
/-- An engine port 0x20..0x2C (R123). -/
def okEngine (p : Port) : Bool := 0x20 ≤ p.toNat && p.toNat ≤ 0x2C
/-- A load element port. -/
def okLe (p : Port) : Bool := 0x20 ≤ p.toNat && p.toNat ≤ 0x23
/-- A store element port. -/
def okSe (p : Port) : Bool := 0x24 ≤ p.toNat && p.toNat ≤ 0x27

/-- The checks of R121, R122 and the entries that the operand types leave open. -/
def Instr.wf : Instr → Bool
  | .mtc c _ => c.writable
  | .ldx w _ _ _ => w ≠ .dbl
  | .vceq _ m _ _ _ | .vcne _ m _ _ _ | .vclt _ m _ _ _ | .vcle _ m _ _ _ | .vcltu _ m _ _ _ => m ≠ 0
  | .vcfeq _ m _ _ _ | .vcflt _ m _ _ _ | .vcfle _ m _ _ _ | .vcfun _ m _ _ _ => m ≠ 0
  | .mand m _ _ _ | .mor m _ _ _ | .mxor m _ _ _ | .mnot m _ _ => m ≠ 0
  | .t5pk _ _ h _ | .t5upk _ _ h _ | .t5cnt _ _ h _ => h.toNat ≤ 4
  | .fireActor b | .firingResume b | .cpy b | .cpym b | .fill b | .sctGleaner b | .registerWindowLand b
  | .gth b | .gleanerLineReply b _ _ | .apnl b | .arun b | .arunRowDispatch b | .adrn b | .asort b | .acfg b
  | .coll b | .multicastRequest b => okBay b
  | .doneTokenTake b p | .commandSemaphoreWait b p | .engineTokenPush b p | .engineTokenTake b p
  | .commandComplete b p | .nopc b p => okBay b && okEngine p
  | .lds b p | .ldl b p | .splrd b p => okBay b && okLe p
  | .sts b p | .sct b p => okBay b && okSe p
  | .upds b p => okBay b && (okSe p || p = 0x2A)
  | .batchTimeout s | .batchInsert s | .sweep s _ => s < 1024
  | .ratioApply i | .railSettled i => i < 512
  | .partitionCreate t _ | .partitionRemove t | .slicecfgWrite t _ | .precmdStop t | .precmdStopNow t
  | .precmdResume t | .sliceExpire t | .graceExpire t | .drainExpire t | .stopWaveHalt t | .stopComplete t
  | .restoreComplete t => t ≠ 0
  | .linkCrcError p _ | .linkAckTimeout p _ | .linkRetrain p | .linkDown p _ => p < 18
  | .moduleNumberAssign n => n.toNat ≤ 319
  | _ => true

end Sys2Proof
end

