-- ==== Sys2Proof/Decode.lean ====
section
/-! DEFINITION. Decoding of instruction words and, after it, the encoder. Words are 32 bits, little-endian
(R108); the formats are those of R109-R116, the majors and minors those of R117 and R118, T and MOD those of
R119 and R120, the register files those of R121, the control registers those of R122. Every word that no row
assigns is rejected by name (R129). -/

namespace Sys2Proof

/-- Why a word is no instruction (R129): each is an illegal-instruction fault when issued. -/
inductive Reject
  | unassignedMajor | unassignedMinor | reservedField | badRegister | badType | badScope | badControl
  | readOnlyControl | ldxWidth | badLiteral | shortInput
  deriving DecidableEq, Repr

/-! ### Fields -/

/-- Major opcode, bits [31:26]. -/
def fMajor (w : IWord) : BitVec 6 := w.extractLsb' 26 6
/-- d, t, vd or reg field, bits [25:21]. -/
def fD (w : IWord) : R5 := w.extractLsb' 21 5
/-- a or gbase field, bits [20:16]. -/
def fA (w : IWord) : R5 := w.extractLsb' 16 5
/-- b, vb, gs or g field, bits [15:11]. -/
def fB (w : IWord) : R5 := w.extractLsb' 11 5
/-- MOD field, bits [10:6]. -/
def fMod (w : IWord) : BitVec 5 := w.extractLsb' 6 5
/-- Minor code, bits [5:0]. -/
def fMinor (w : IWord) : BitVec 6 := w.extractLsb' 0 6
/-- imm16 or offset16, bits [15:0]. -/
def fImm (w : IWord) : BitVec 16 := w.extractLsb' 0 16
/-- offset26, bits [25:0]. -/
def fOff26 (w : IWord) : BitVec 26 := w.extractLsb' 0 26
/-- Width code of SM, bits [15:14]. -/
def fW (w : IWord) : BitVec 2 := w.extractLsb' 14 2
/-- offset14, bits [13:0]. -/
def fOff14 (w : IWord) : BitVec 14 := w.extractLsb' 0 14
/-- Scope of LDA and STL, bits [15:13]. -/
def fScope (w : IWord) : BitVec 3 := w.extractLsb' 13 3
/-- offset13, bits [12:0]. -/
def fOff13 (w : IWord) : BitVec 13 := w.extractLsb' 0 13
/-- mk of VV and VM, bits [10:8]. -/
def fMk (w : IWord) : R3 := w.extractLsb' 8 3
/-- T of VV, bits [7:6]. -/
def fT (w : IWord) : BitVec 2 := w.extractLsb' 6 2
/-- op of VM, bits [7:4]. -/
def fOp (w : IWord) : BitVec 4 := w.extractLsb' 4 4
/-- off4 of VM, bits [3:0]. -/
def fOff4 (w : IWord) : BitVec 4 := w.extractLsb' 0 4
/-- port of VP, bits [20:14]. -/
def fPort (w : IWord) : Port := w.extractLsb' 14 7
/-- mk of VP, bits [13:11]. -/
def fPk (w : IWord) : R3 := w.extractLsb' 11 3
/-- k of VK, bits [25:23]. -/
def fK (w : IWord) : R3 := w.extractLsb' 23 3
/-- port of VK, bits [22:16]. -/
def fKPort (w : IWord) : Port := w.extractLsb' 16 7

/-! ### Field codes -/

/-- Scope codes (R72); 6 and 7 are reserved. -/
def Scope.ofCode (c : BitVec 3) : Option Scope :=
  match c.toNat with
  | 0 => some .bay | 1 => some .plot | 2 => some .fld | 3 => some .mod | 4 => some .dom | 5 => some .sys
  | _ => none
/-- The code of a scope (R72). -/
def Scope.code : Scope → BitVec 3
  | .bay => 0 | .plot => 1 | .fld => 2 | .mod => 3 | .dom => 4 | .sys => 5
/-- Width codes (R112). -/
def Width.ofCode (c : BitVec 2) : Width :=
  match c.toNat with | 0 => .byte | 1 => .half | 2 => .word | _ => .dbl
/-- The code of a width. -/
def Width.code : Width → BitVec 2
  | .byte => 0 | .half => 1 | .word => 2 | .dbl => 3
/-- T codes of integer majors (R119). -/
def EW.ofCode (c : BitVec 2) : Option EW :=
  match c.toNat with | 0 => some .i32 | 1 => some .i16 | 2 => some .i8 | _ => none
/-- The T code of an integer width. -/
def EW.code : EW → BitVec 2
  | .i32 => 0 | .i16 => 1 | .i8 => 2
/-- T codes of floating-point majors (R119). -/
def FT.ofCode (c : BitVec 2) : Option FT :=
  match c.toNat with | 0 => some .f32 | 1 => some .bf16 | 2 => some .f16 | _ => none
/-- The T code of a floating-point type. -/
def FT.code : FT → BitVec 2
  | .f32 => 0 | .bf16 => 1 | .f16 => 2
/-- T codes of VBXENC and VBXDEC. -/
def BXT.ofCode (c : BitVec 2) : Option BXT :=
  match c.toNat with | 0 => some .bx8 | 1 => some .bx4 | _ => none
/-- The T code of a block format. -/
def BXT.code : BXT → BitVec 2
  | .bx8 => 0 | .bx4 => 1
/-- T codes of VQNT. -/
def QT.ofCode (c : BitVec 2) : Option QT :=
  match c.toNat with | 0 => some .i8 | 1 => some .i16 | _ => none
/-- The T code of a VQNT target. -/
def QT.code : QT → BitVec 2
  | .i8 => 0 | .i16 => 1
/-- Control register numbers (R122). -/
def Ctl.ofCode (c : BitVec 10) : Option Ctl :=
  match c.toNat with
  | 0 => some .fire | 1 => some .bayxy | 2 => some .fldorg | 3 => some .fldsz | 4 => some .section_
  | 5 => some .tenant | 6 => some .cause | 7 => some .epc | 8 => some .faddr | 9 => some .rmode
  | 10 => some .flags | 11 => some .cyc | 12 => some .dtime | 13 => some .lc0 | 14 => some .lc1
  | 15 => some .samplep | 16 => some .slicemin | _ => none
/-- The number of a control register. -/
def Ctl.code : Ctl → BitVec 10
  | .fire => 0 | .bayxy => 1 | .fldorg => 2 | .fldsz => 3 | .section_ => 4 | .tenant => 5 | .cause => 6
  | .epc => 7 | .faddr => 8 | .rmode => 9 | .flags => 10 | .cyc => 11 | .dtime => 12 | .lc0 => 13 | .lc1 => 14
  | .samplep => 15 | .slicemin => 16

/-- Go on when a check of R129 holds; otherwise reject by name. -/
def need (c : Bool) (r : Reject) (k : Except Reject Instr) : Except Reject Instr :=
  if c then k else .error r
/-- Go on with a field's value when its code is assigned. -/
def want {α : Type} (o : Option α) (r : Reject) (k : α → Except Reject Instr) : Except Reject Instr :=
  match o with | some x => k x | none => .error r
/-- A mask register in a 5-bit field: 0..7 (R121). -/
def m5 (f : R5) : Option R3 := if f.toNat ≤ 7 then some (f.setWidth 3) else none
/-- A mask destination in a 5-bit field: 1..7 (R121). -/
def md5 (f : R5) : Option R3 := if 1 ≤ f.toNat ∧ f.toNat ≤ 7 then some (f.setWidth 3) else none
/-- A z register in a 5-bit field: 0..15 (R121). -/
def z5 (f : R5) : Option R4 := if f.toNat ≤ 15 then some (f.setWidth 4) else none
/-- A literal h of at most `n` in the b field (R183). -/
def lit (n : Nat) (w : Nat) (f : R5) : Option (BitVec w) := if f.toNat ≤ n then some (f.setWidth w) else none

/-- Major 0x00 (R156). -/
def decControl (w : IWord) : Except Reject Instr :=
  match (fMinor w).toNat with
  | 0 => need (w = 0) .reservedField <| .ok .nop
  | 1 => need (fD w = 0) .reservedField <| need (fA w = 0) .reservedField <| need (fB w = 0) .reservedField <| need (fMod w = 0) .reservedField <| .ok .fend
  | 2 => need (fD w = 0) .reservedField <| need (fB w = 0) .reservedField <| need (fMod w = 0) .reservedField <| .ok (.trap (fA w))
  | 3 => need (fD w = 0) .reservedField <| need (fA w = 0) .reservedField <| need (fB w = 0) .reservedField <| need (fMod w = 0) .reservedField <| .ok .brk
  | 4 => need (fMod w = 0) .reservedField <| want (Ctl.ofCode (fA w ++ fB w)) .badControl fun c => .ok (.mfc (fD w) c)
  | 5 => need (fMod w = 0) .reservedField <| want (Ctl.ofCode (fA w ++ fB w)) .badControl fun c =>
      need c.writable .readOnlyControl <| .ok (.mtc c (fD w))
  | 6 => need (fD w = 0) .reservedField <| need (fB w = 0) .reservedField <| need (fMod w = 0) .reservedField <| .ok (.jr (fA w))
  | 7 => need (fB w = 0) .reservedField <| need (fMod w = 0) .reservedField <| .ok (.jalr (fD w) (fA w))
  | 8 => need (fD w = 0) .reservedField <| need (fA w = 0) .reservedField <| need (fB w = 0) .reservedField <| need ((fMod w).extractLsb' 3 2 = 0) .reservedField <| want (Scope.ofCode ((fMod w).extractLsb' 0 3)) .badScope fun s => .ok (.fence s)
  | 9 => need (fD w = 0) .reservedField <| need (fA w = 0) .reservedField <| need (fB w = 0) .reservedField <| need (fMod w = 0) .reservedField <| .ok .idmb
  | 10 => need (fD w = 0) .reservedField <| need (fA w = 0) .reservedField <| need (fB w = 0) .reservedField <| need (fMod w = 0) .reservedField <| .ok .idme
  | 11 => need (fD w = 0) .reservedField <| need (fB w = 0) .reservedField <| need (fMod w = 0) .reservedField <| .ok (.clmask (fA w))
  | 12 => need (fD w = 0) .reservedField <| need (fB w = 0) .reservedField <| need (fMod w = 0) .reservedField <| .ok (.clunmask (fA w))
  | _ => .error .unassignedMinor

/-- Major 0x01 (R164). -/
def decInt (w : IWord) : Except Reject Instr :=
  match (fMinor w).toNat with
  | 0 => need (fMod w = 0) .reservedField <| .ok (.add (fD w) (fA w) (fB w))
  | 1 => need (fMod w = 0) .reservedField <| .ok (.sub (fD w) (fA w) (fB w))
  | 2 => need (fMod w = 0) .reservedField <| .ok (.and (fD w) (fA w) (fB w))
  | 3 => need (fMod w = 0) .reservedField <| .ok (.or (fD w) (fA w) (fB w))
  | 4 => need (fMod w = 0) .reservedField <| .ok (.xor (fD w) (fA w) (fB w))
  | 5 => need (fMod w = 0) .reservedField <| .ok (.andn (fD w) (fA w) (fB w))
  | 6 => need (fMod w = 0) .reservedField <| .ok (.sll (fD w) (fA w) (fB w))
  | 7 => need (fMod w = 0) .reservedField <| .ok (.srl (fD w) (fA w) (fB w))
  | 8 => need (fMod w = 0) .reservedField <| .ok (.sra (fD w) (fA w) (fB w))
  | 9 => need ((fMod w).extractLsb' 1 4 = 0) .reservedField <| .ok (.slli (fD w) (fA w) ((fMod w).extractLsb' 0 1 ++ fB w))
  | 10 => need ((fMod w).extractLsb' 1 4 = 0) .reservedField <| .ok (.srli (fD w) (fA w) ((fMod w).extractLsb' 0 1 ++ fB w))
  | 11 => need ((fMod w).extractLsb' 1 4 = 0) .reservedField <| .ok (.srai (fD w) (fA w) ((fMod w).extractLsb' 0 1 ++ fB w))
  | 12 => need (fMod w = 0) .reservedField <| .ok (.slt (fD w) (fA w) (fB w))
  | 13 => need (fMod w = 0) .reservedField <| .ok (.sltu (fD w) (fA w) (fB w))
  | 14 => need (fMod w = 0) .reservedField <| .ok (.min (fD w) (fA w) (fB w))
  | 15 => need (fMod w = 0) .reservedField <| .ok (.max (fD w) (fA w) (fB w))
  | 16 => need (fMod w = 0) .reservedField <| .ok (.minu (fD w) (fA w) (fB w))
  | 17 => need (fMod w = 0) .reservedField <| .ok (.maxu (fD w) (fA w) (fB w))
  | 18 => need (fMod w = 0) .reservedField <| .ok (.mul (fD w) (fA w) (fB w))
  | 19 => need (fMod w = 0) .reservedField <| .ok (.mulh (fD w) (fA w) (fB w))
  | 20 => need (fMod w = 0) .reservedField <| .ok (.mulhu (fD w) (fA w) (fB w))
  | 21 => need (fMod w = 0) .reservedField <| .ok (.div (fD w) (fA w) (fB w))
  | 22 => need (fMod w = 0) .reservedField <| .ok (.divu (fD w) (fA w) (fB w))
  | 23 => need (fMod w = 0) .reservedField <| .ok (.rem (fD w) (fA w) (fB w))
  | 24 => need (fMod w = 0) .reservedField <| .ok (.remu (fD w) (fA w) (fB w))
  | 25 => need (fB w = 0) .reservedField <| need (fMod w = 0) .reservedField <| .ok (.clz (fD w) (fA w))
  | 26 => need (fB w = 0) .reservedField <| need (fMod w = 0) .reservedField <| .ok (.ctz (fD w) (fA w))
  | 27 => need (fB w = 0) .reservedField <| need (fMod w = 0) .reservedField <| .ok (.popc (fD w) (fA w))
  | 28 => need (fB w = 0) .reservedField <| need (fMod w = 0) .reservedField <| .ok (.sextb (fD w) (fA w))
  | 29 => need (fB w = 0) .reservedField <| need (fMod w = 0) .reservedField <| .ok (.sexth (fD w) (fA w))
  | 30 => need (fB w = 0) .reservedField <| need (fMod w = 0) .reservedField <| .ok (.sextw (fD w) (fA w))
  | 31 => need (fMod w = 0) .reservedField <| .ok (.addw (fD w) (fA w) (fB w))
  | 32 => need (fMod w = 0) .reservedField <| .ok (.subw (fD w) (fA w) (fB w))
  | 33 => need (fMod w = 0) .reservedField <| .ok (.addh (fD w) (fA w) (fB w))
  | _ => .error .unassignedMinor

/-- Major 0x1c (R169-R174). -/
def decSync (w : IWord) : Except Reject Instr :=
  match (fMinor w).toNat with
  | 0 => need (fD w = 0) .reservedField <| need (fMod w = 0) .reservedField <| .ok (.semadd (fA w) (fB w))
  | 1 => need (fMod w = 0) .reservedField <| .ok (.semsub (fD w) (fA w) (fB w))
  | 2 => need (fD w = 0) .reservedField <| need (fMod w = 0) .reservedField <| .ok (.semwait (fA w) (fB w))
  | 3 => need (fB w = 0) .reservedField <| need (fMod w = 0) .reservedField <| .ok (.semget (fD w) (fA w))
  | 4 => need (fD w = 0) .reservedField <| need (fMod w = 0) .reservedField <| .ok (.rvinit (fA w) (fB w))
  | 5 => need (fB w = 0) .reservedField <| need (fMod w = 0) .reservedField <| .ok (.rvarr (fD w) (fA w))
  | 6 => need (fD w = 0) .reservedField <| need (fMod w = 0) .reservedField <| .ok (.rvwait (fA w) (fB w))
  | 7 => need (fD w = 0) .reservedField <| need (fB w = 0) .reservedField <| need ((fMod w).extractLsb' 3 2 = 0) .reservedField <| want (Scope.ofCode ((fMod w).extractLsb' 0 3)) .badScope fun s => .ok (.acq s (fA w))
  | 8 => need (fD w = 0) .reservedField <| need (fB w = 0) .reservedField <| need ((fMod w).extractLsb' 3 2 = 0) .reservedField <| want (Scope.ofCode ((fMod w).extractLsb' 0 3)) .badScope fun s => .ok (.rel s (fA w))
  | 9 => need ((fMod w).extractLsb' 3 2 = 0) .reservedField <| want (Scope.ofCode ((fMod w).extractLsb' 0 3)) .badScope fun s => .ok (.syncadd s (fD w) (fA w) (fB w))
  | 10 => need ((fMod w).extractLsb' 3 2 = 0) .reservedField <| want (Scope.ofCode ((fMod w).extractLsb' 0 3)) .badScope fun s => .ok (.synccas s (fD w) (fA w) (fB w))
  | 11 => want (Scope.ofCode ((fMod w).extractLsb' 0 3)) .badScope fun s =>
      .ok (.waitv s ((fMod w).getLsbD 3) ((fMod w).getLsbD 4) (fD w) (fA w) (fB w))
  | 12 => need (fD w = 0) .reservedField <| need (fB w = 0) .reservedField <|
      need ((fMod w).extractLsb' 3 2 = 0) .reservedField <| .ok (.msg ((fMod w).extractLsb' 0 3) (fA w))
  | _ => .error .unassignedMinor

/-- Major 0x1d (R184). -/
def decUpd (w : IWord) : Except Reject Instr :=
  match (fMinor w).toNat with
  | 0 => need (fD w = 0) .reservedField <| need (fMod w = 0) .reservedField <| .ok (.upd (fA w) (fB w))
  | 1 => need (fMod w = 0) .reservedField <| .ok (.updv (fD w) (fA w) (fB w))
  | 2 => need (fD w = 0) .reservedField <| need (fA w = 0) .reservedField <| need (fB w = 0) .reservedField <| need (fMod w = 0) .reservedField <| .ok .updfl
  | _ => .error .unassignedMinor

/-- Major 0x29 (R200). -/
def decTile (w : IWord) : Except Reject Instr :=
  match (fMinor w).toNat with
  | 0 => want (z5 (fD w)) .badRegister fun zd => need (fB w = 0) .reservedField <| need (fMod w = 0) .reservedField <| .ok (.zset zd (fA w))
  | 1 => want (z5 (fD w)) .badRegister fun zd => need (fA w = 0) .reservedField <| need (fB w = 0) .reservedField <| need (fMod w = 0) .reservedField <| .ok (.zclr zd)
  | 2 => want (z5 (fD w)) .badRegister fun zd => need (fB w = 0) .reservedField <| need (fMod w = 0) .reservedField <| .ok (.zld zd (fA w))
  | 3 => need (fD w = 0) .reservedField <| want (z5 (fB w)) .badRegister fun zb => need (fMod w = 0) .reservedField <| .ok (.zst (fA w) zb)
  | 4 => want (z5 (fD w)) .badRegister fun zd => want (z5 (fA w)) .badRegister fun za => want (z5 (fB w)) .badRegister fun zb => need (fMod w = 0) .reservedField <| .ok (.zand zd za zb)
  | 5 => want (z5 (fD w)) .badRegister fun zd => want (z5 (fA w)) .badRegister fun za => want (z5 (fB w)) .badRegister fun zb => need (fMod w = 0) .reservedField <| .ok (.zor zd za zb)
  | 6 => want (z5 (fA w)) .badRegister fun za => need (fMod w = 0) .reservedField <| .ok (.ztest (fD w) za (fB w))
  | 7 => want (z5 (fD w)) .badRegister fun zd => want (m5 (fA w)) .badRegister fun ma => need (fB w = 0) .reservedField <| need (fMod w = 0) .reservedField <| .ok (.zfromm zd ma)
  | _ => .error .unassignedMinor

/-- Major 0x3e (R52, R263, R264, R342, R385). -/
def decPriv (w : IWord) : Except Reject Instr :=
  match (fMinor w).toNat with
  | 0 => need (fD w = 0) .reservedField <| need (fMod w = 0) .reservedField <| .ok (.hinv (fA w) (fB w))
  | 1 => need (fD w = 0) .reservedField <| need (fMod w = 0) .reservedField <| .ok (.imginv (fA w) (fB w))
  | 2 => need (fD w = 0) .reservedField <| need (fMod w = 0) .reservedField <| .ok (.tlbi (fA w) (fB w))
  | 3 => need (fMod w = 0) .reservedField <| .ok (.ctxsave (fD w) (fA w) (fB w))
  | 4 => need (fMod w = 0) .reservedField <| .ok (.ctxload (fD w) (fA w) (fB w))
  | 5 => need (fD w = 0) .reservedField <| need (fMod w = 0) .reservedField <| .ok (.solvreq (fA w) (fB w))
  | _ => .error .unassignedMinor

/-- Major 0x20 (R187). -/
def decVInt (w : IWord) : Except Reject Instr :=
  match (fMinor w).toNat with
  | 0 => want (EW.ofCode (fT w)) .badType fun t => .ok (.vadd t (fD w) (fA w) (fB w) (fMk w))
  | 1 => want (EW.ofCode (fT w)) .badType fun t => .ok (.vsub t (fD w) (fA w) (fB w) (fMk w))
  | 2 => want (EW.ofCode (fT w)) .badType fun t => .ok (.vmul t (fD w) (fA w) (fB w) (fMk w))
  | 3 => want (EW.ofCode (fT w)) .badType fun t => .ok (.vmulh t (fD w) (fA w) (fB w) (fMk w))
  | 4 => want (EW.ofCode (fT w)) .badType fun t => .ok (.vand t (fD w) (fA w) (fB w) (fMk w))
  | 5 => want (EW.ofCode (fT w)) .badType fun t => .ok (.vor t (fD w) (fA w) (fB w) (fMk w))
  | 6 => want (EW.ofCode (fT w)) .badType fun t => .ok (.vxor t (fD w) (fA w) (fB w) (fMk w))
  | 7 => want (EW.ofCode (fT w)) .badType fun t => .ok (.vsll t (fD w) (fA w) (fB w) (fMk w))
  | 8 => want (EW.ofCode (fT w)) .badType fun t => .ok (.vsrl t (fD w) (fA w) (fB w) (fMk w))
  | 9 => want (EW.ofCode (fT w)) .badType fun t => .ok (.vsra t (fD w) (fA w) (fB w) (fMk w))
  | 10 => want (EW.ofCode (fT w)) .badType fun t => .ok (.vmin t (fD w) (fA w) (fB w) (fMk w))
  | 11 => want (EW.ofCode (fT w)) .badType fun t => .ok (.vmax t (fD w) (fA w) (fB w) (fMk w))
  | 12 => want (EW.ofCode (fT w)) .badType fun t => .ok (.vminu t (fD w) (fA w) (fB w) (fMk w))
  | 13 => want (EW.ofCode (fT w)) .badType fun t => .ok (.vmaxu t (fD w) (fA w) (fB w) (fMk w))
  | 14 => want (EW.ofCode (fT w)) .badType fun t => need (fB w = 0) .reservedField <| .ok (.vabs t (fD w) (fA w) (fMk w))
  | 15 => want (EW.ofCode (fT w)) .badType fun t => .ok (.vadds t (fD w) (fA w) (fB w) (fMk w))
  | _ => .error .unassignedMinor

/-- Major 0x21 (R188). -/
def decVFloat (w : IWord) : Except Reject Instr :=
  match (fMinor w).toNat with
  | 0 => want (FT.ofCode (fT w)) .badType fun t => .ok (.vfadd t (fD w) (fA w) (fB w) (fMk w))
  | 1 => want (FT.ofCode (fT w)) .badType fun t => .ok (.vfsub t (fD w) (fA w) (fB w) (fMk w))
  | 2 => want (FT.ofCode (fT w)) .badType fun t => .ok (.vfmul t (fD w) (fA w) (fB w) (fMk w))
  | 3 => want (FT.ofCode (fT w)) .badType fun t => .ok (.vfma t (fD w) (fA w) (fB w) (fMk w))
  | 4 => want (FT.ofCode (fT w)) .badType fun t => .ok (.vfnma t (fD w) (fA w) (fB w) (fMk w))
  | 5 => want (FT.ofCode (fT w)) .badType fun t => .ok (.vfmin t (fD w) (fA w) (fB w) (fMk w))
  | 6 => want (FT.ofCode (fT w)) .badType fun t => .ok (.vfmax t (fD w) (fA w) (fB w) (fMk w))
  | 7 => want (FT.ofCode (fT w)) .badType fun t => need (fB w = 0) .reservedField <| .ok (.vfabs t (fD w) (fA w) (fMk w))
  | 8 => want (FT.ofCode (fT w)) .badType fun t => need (fB w = 0) .reservedField <| .ok (.vfneg t (fD w) (fA w) (fMk w))
  | 9 => want (FT.ofCode (fT w)) .badType fun t => need (fB w = 0) .reservedField <| .ok (.vfrcp t (fD w) (fA w) (fMk w))
  | 10 => want (FT.ofCode (fT w)) .badType fun t => need (fB w = 0) .reservedField <| .ok (.vfrsq t (fD w) (fA w) (fMk w))
  | 11 => want (FT.ofCode (fT w)) .badType fun t => need (fB w = 0) .reservedField <| .ok (.vfexp2 t (fD w) (fA w) (fMk w))
  | 12 => want (FT.ofCode (fT w)) .badType fun t => need (fB w = 0) .reservedField <| .ok (.vflog2 t (fD w) (fA w) (fMk w))
  | _ => .error .unassignedMinor

/-- Major 0x22 (R190, R191). -/
def decVMask (w : IWord) : Except Reject Instr :=
  match (fMinor w).toNat with
  | 0 => want (EW.ofCode (fT w)) .badType fun t => want (md5 (fD w)) .badRegister fun md => .ok (.vceq t md (fA w) (fB w) (fMk w))
  | 1 => want (EW.ofCode (fT w)) .badType fun t => want (md5 (fD w)) .badRegister fun md => .ok (.vcne t md (fA w) (fB w) (fMk w))
  | 2 => want (EW.ofCode (fT w)) .badType fun t => want (md5 (fD w)) .badRegister fun md => .ok (.vclt t md (fA w) (fB w) (fMk w))
  | 3 => want (EW.ofCode (fT w)) .badType fun t => want (md5 (fD w)) .badRegister fun md => .ok (.vcle t md (fA w) (fB w) (fMk w))
  | 4 => want (EW.ofCode (fT w)) .badType fun t => want (md5 (fD w)) .badRegister fun md => .ok (.vcltu t md (fA w) (fB w) (fMk w))
  | 5 => want (FT.ofCode (fT w)) .badType fun t => want (md5 (fD w)) .badRegister fun md => .ok (.vcfeq t md (fA w) (fB w) (fMk w))
  | 6 => want (FT.ofCode (fT w)) .badType fun t => want (md5 (fD w)) .badRegister fun md => .ok (.vcflt t md (fA w) (fB w) (fMk w))
  | 7 => want (FT.ofCode (fT w)) .badType fun t => want (md5 (fD w)) .badRegister fun md => .ok (.vcfle t md (fA w) (fB w) (fMk w))
  | 8 => want (FT.ofCode (fT w)) .badType fun t => want (md5 (fD w)) .badRegister fun md => .ok (.vcfun t md (fA w) (fB w) (fMk w))
  | 9 => want (md5 (fD w)) .badRegister fun md => want (m5 (fA w)) .badRegister fun ma => want (m5 (fB w)) .badRegister fun mb => need (fT w = 0) .reservedField <| .ok (.mand md ma mb (fMk w))
  | 10 => want (md5 (fD w)) .badRegister fun md => want (m5 (fA w)) .badRegister fun ma => want (m5 (fB w)) .badRegister fun mb => need (fT w = 0) .reservedField <| .ok (.mor md ma mb (fMk w))
  | 11 => want (md5 (fD w)) .badRegister fun md => want (m5 (fA w)) .badRegister fun ma => want (m5 (fB w)) .badRegister fun mb => need (fT w = 0) .reservedField <| .ok (.mxor md ma mb (fMk w))
  | 12 => want (md5 (fD w)) .badRegister fun md => want (m5 (fA w)) .badRegister fun ma => need (fB w = 0) .reservedField <| need (fT w = 0) .reservedField <| .ok (.mnot md ma (fMk w))
  | 13 => want (m5 (fA w)) .badRegister fun ma => need (fB w = 0) .reservedField <| need (fT w = 0) .reservedField <| .ok (.mpopc (fD w) ma (fMk w))
  | 14 => want (m5 (fA w)) .badRegister fun ma => need (fB w = 0) .reservedField <| need (fT w = 0) .reservedField <| .ok (.mfirst (fD w) ma (fMk w))
  | _ => .error .unassignedMinor

/-- Major 0x23 (R192). -/
def decVPerm (w : IWord) : Except Reject Instr :=
  match (fMinor w).toNat with
  | 0 => need (fT w = 0) .reservedField <| .ok (.vperm (fD w) (fA w) (fB w) (fMk w))
  | 1 => need (fT w = 0) .reservedField <| .ok (.vslideup (fD w) (fA w) (fB w) (fMk w))
  | 2 => need (fT w = 0) .reservedField <| .ok (.vslidedn (fD w) (fA w) (fB w) (fMk w))
  | 3 => need (fT w = 0) .reservedField <| .ok (.vbcast (fD w) (fA w) (fB w) (fMk w))
  | 4 => need (fB w = 0) .reservedField <| need (fT w = 0) .reservedField <| .ok (.vcompress (fD w) (fA w) (fMk w))
  | 5 => need (fB w = 0) .reservedField <| need (fT w = 0) .reservedField <| .ok (.vexpand (fD w) (fA w) (fMk w))
  | 6 => need (fT w = 0) .reservedField <| .ok (.vsel (fD w) (fA w) (fB w) (fMk w))
  | _ => .error .unassignedMinor

/-- Major 0x24 (R194). -/
def decVConv (w : IWord) : Except Reject Instr :=
  match (fMinor w).toNat with
  | 0 => need (fB w = 0) .reservedField <| need (fT w = 0) .reservedField <| .ok (.vcvtF32I32 (fD w) (fA w) (fMk w))
  | 1 => need (fB w = 0) .reservedField <| need (fT w = 0) .reservedField <| .ok (.vcvtI32F32 (fD w) (fA w) (fMk w))
  | 2 => want (lit 1 1 (fB w)) .badLiteral fun h => need (fT w = 0) .reservedField <| .ok (.vcvtBf16F32 (fD w) (fA w) h (fMk w))
  | 3 => want (lit 1 1 (fB w)) .badLiteral fun h => need (fT w = 0) .reservedField <| .ok (.vcvtF32Bf16 (fD w) (fA w) h (fMk w))
  | 4 => want (lit 1 1 (fB w)) .badLiteral fun h => need (fT w = 0) .reservedField <| .ok (.vcvtF16F32 (fD w) (fA w) h (fMk w))
  | 5 => want (lit 1 1 (fB w)) .badLiteral fun h => need (fT w = 0) .reservedField <| .ok (.vcvtF32F16 (fD w) (fA w) h (fMk w))
  | 6 => want (lit 3 2 (fB w)) .badLiteral fun h => need (fT w = 0) .reservedField <| .ok (.vcvtI8I32 (fD w) (fA w) h (fMk w))
  | 7 => want (lit 3 2 (fB w)) .badLiteral fun h => need (fT w = 0) .reservedField <| .ok (.vcvtI32I8 (fD w) (fA w) h (fMk w))
  | 8 => want (lit 1 1 (fB w)) .badLiteral fun h => need (fT w = 0) .reservedField <| .ok (.vcvtE2m1F32 (fD w) (fA w) h (fMk w))
  | 9 => want (lit 1 1 (fB w)) .badLiteral fun h => need (fT w = 0) .reservedField <| .ok (.vcvtF32E2m1 (fD w) (fA w) h (fMk w))
  | 10 => want (BXT.ofCode (fT w)) .badType fun t => .ok (.vbxenc t (fD w) (fA w) (fB w) (fMk w))
  | 11 => want (BXT.ofCode (fT w)) .badType fun t => .ok (.vbxdec t (fD w) (fA w) (fB w) (fMk w))
  | 12 => want (QT.ofCode (fT w)) .badType fun t => .ok (.vqnt t (fD w) (fA w) (fB w) (fMk w))
  | _ => .error .unassignedMinor

/-- Major 0x25 (R195). -/
def decVRed (w : IWord) : Except Reject Instr :=
  match (fMinor w).toNat with
  | 0 => want (EW.ofCode (fT w)) .badType fun t => need (fB w = 0) .reservedField <| .ok (.vrsum t (fD w) (fA w) (fMk w))
  | 1 => want (FT.ofCode (fT w)) .badType fun t => need (fB w = 0) .reservedField <| .ok (.vfrsum t (fD w) (fA w) (fMk w))
  | 2 => want (EW.ofCode (fT w)) .badType fun t => need (fB w = 0) .reservedField <| .ok (.vrmin t (fD w) (fA w) (fMk w))
  | 3 => want (EW.ofCode (fT w)) .badType fun t => need (fB w = 0) .reservedField <| .ok (.vrmax t (fD w) (fA w) (fMk w))
  | 4 => want (FT.ofCode (fT w)) .badType fun t => need (fB w = 0) .reservedField <| .ok (.vfrmin t (fD w) (fA w) (fMk w))
  | 5 => want (FT.ofCode (fT w)) .badType fun t => need (fB w = 0) .reservedField <| .ok (.vfrmax t (fD w) (fA w) (fMk w))
  | 6 => want (EW.ofCode (fT w)) .badType fun t => .ok (.vdot t (fD w) (fA w) (fB w) (fMk w))
  | 7 => want (FT.ofCode (fT w)) .badType fun t => .ok (.vfdot t (fD w) (fA w) (fB w) (fMk w))
  | 8 => want (EW.ofCode (fT w)) .badType fun t => need (fB w = 0) .reservedField <| .ok (.vargmax t (fD w) (fA w) (fMk w))
  | _ => .error .unassignedMinor

/-- Major 0x27 (R198). -/
def decVMove (w : IWord) : Except Reject Instr :=
  match (fMinor w).toNat with
  | 0 => need (fB w = 0) .reservedField <| need (fT w = 0) .reservedField <| .ok (.vmovg (fD w) (fA w) (fMk w))
  | 1 => need (fT w = 0) .reservedField <| .ok (.vget (fD w) (fA w) (fB w) (fMk w))
  | 2 => need (fT w = 0) .reservedField <| .ok (.vput (fD w) (fA w) (fB w) (fMk w))
  | 3 => need (fB w = 0) .reservedField <| need (fT w = 0) .reservedField <| .ok (.viota (fD w) (fA w) (fMk w))
  | 4 => need (fB w = 0) .reservedField <| need (fT w = 0) .reservedField <| .ok (.vmov (fD w) (fA w) (fMk w))
  | _ => .error .unassignedMinor

/-- Major 0x28 (R199). -/
def decT5 (w : IWord) : Except Reject Instr :=
  match (fMinor w).toNat with
  | 0 => want (lit 4 3 (fB w)) .badLiteral fun h => need (fT w = 0) .reservedField <| .ok (.t5pk (fD w) (fA w) h (fMk w))
  | 1 => want (lit 4 3 (fB w)) .badLiteral fun h => need (fT w = 0) .reservedField <| .ok (.t5upk (fD w) (fA w) h (fMk w))
  | 2 => want (lit 4 3 (fB w)) .badLiteral fun h => need (fT w = 0) .reservedField <| .ok (.t5cnt (fD w) (fA w) h (fMk w))
  | _ => .error .unassignedMinor

/-- Major 0x26, vector memory (R114, R197). -/
def decVMem (w : IWord) : Except Reject Instr :=
  match (fOp w).toNat with
  | 0 => need (fB w = 0) .reservedField <| .ok (.vld (fD w) (fA w) (fMk w) (fOff4 w))
  | 1 => need (fB w = 0) .reservedField <| .ok (.vst (fD w) (fA w) (fMk w) (fOff4 w))
  | 2 => .ok (.vlds (fD w) (fA w) (fB w) (fMk w) (fOff4 w))
  | 3 => .ok (.vldx (fD w) (fA w) (fB w) (fMk w) (fOff4 w))
  | 4 => .ok (.vstx (fD w) (fA w) (fB w) (fMk w) (fOff4 w))
  | 5 => need (fB w = 0) .reservedField <| .ok (.vldb (fD w) (fA w) (fMk w) (fOff4 w))
  | _ => .error .unassignedMinor

/-- Major 0x2A, ports (R115). -/
def decPort (w : IWord) : Except Reject Instr :=
  need (fMod w = 0) .reservedField <|
  match (fMinor w).toNat with
  | 0 => .ok (.recv (fD w) (fPort w) (fPk w))
  | 1 => .ok (.recvg (fD w) (fPort w) (fPk w))
  | 2 => .ok (.send (fD w) (fPort w) (fPk w))
  | 3 => .ok (.sendg (fD w) (fPort w) (fPk w))
  | 4 => .ok (.peektag (fD w) (fPort w) (fPk w))
  | 5 => .ok (.sendtag (fD w) (fPort w) (fPk w))
  | 6 => .ok (.pcount (fD w) (fPort w) (fPk w))
  | _ => .error .unassignedMinor

/-- Major 0x30, command registers (R116, R210). -/
def decCmd (w : IWord) : Except Reject Instr :=
  match (fMinor w).toNat with
  | 0 => need (fKPort w = 0) .reservedField <| need (fMod w = 0) .reservedField <| .ok (.kld (fK w) (fB w))
  | 1 => need (fKPort w = 0) .reservedField <| need (fMod w = 0) .reservedField <| .ok (.kst (fK w) (fB w))
  | 2 => need (fKPort w = 0) .reservedField <| need ((fMod w).extractLsb' 1 4 = 0) .reservedField <| .ok (.kins (fK w) (fB w) ((fMod w).extractLsb' 0 1))
  | 3 => need (fKPort w = 0) .reservedField <| need (fB w = 0) .reservedField <| need (fMod w = 0) .reservedField <| .ok (.kclr (fK w))
  | 4 => need (fB w = 0) .reservedField <| need (fMod w = 0) .reservedField <| .ok (.kissue (fK w) (fKPort w))
  | 5 => need (fK w = 0) .reservedField <| need (fB w = 0) .reservedField <| need (fMod w = 0) .reservedField <| .ok (.kwait (fKPort w))
  | _ => .error .unassignedMinor

/-- Decode one instruction word (R117): total, rejecting by name (R129). -/
def decode (w : IWord) : Except Reject Instr :=
  match (fMajor w).toNat with
  | 0x00 => decControl w
  | 0x01 => decInt w
  | 0x02 => .ok (.addi (fD w) (fA w) (fImm w))
  | 0x03 => .ok (.andi (fD w) (fA w) (fImm w))
  | 0x04 => .ok (.ori (fD w) (fA w) (fImm w))
  | 0x05 => .ok (.xori (fD w) (fA w) (fImm w))
  | 0x06 => .ok (.slti (fD w) (fA w) (fImm w))
  | 0x07 => .ok (.sltiu (fD w) (fA w) (fImm w))
  | 0x08 => need (fA w = 0) .reservedField <| .ok (.lui (fD w) (fImm w))
  | 0x09 => need ((fImm w).extractLsb' 12 4 = 0) .reservedField <| .ok (.lhi (fD w) (fA w) ((fImm w).extractLsb' 0 12))
  | 0x0a => .ok (.addih (fD w) (fA w) (fImm w))
  | 0x0c => .ok (.ld (Width.ofCode (fW w)) (fD w) (fA w) (fOff14 w))
  | 0x0d => need (fW w ≠ 3) .ldxWidth <| .ok (.ldx (Width.ofCode (fW w)) (fD w) (fA w) (fOff14 w))
  | 0x0e => .ok (.st (Width.ofCode (fW w)) (fD w) (fA w) (fOff14 w))
  | 0x10 => .ok (.beq (fD w) (fA w) (fImm w))
  | 0x11 => .ok (.bne (fD w) (fA w) (fImm w))
  | 0x12 => .ok (.blt (fD w) (fA w) (fImm w))
  | 0x13 => .ok (.bge (fD w) (fA w) (fImm w))
  | 0x14 => .ok (.bltu (fD w) (fA w) (fImm w))
  | 0x15 => .ok (.bgeu (fD w) (fA w) (fImm w))
  | 0x16 => .ok (.j (fOff26 w))
  | 0x17 => .ok (.jal (fOff26 w))
  | 0x18 => need (fA w = 0) .reservedField <| .ok (.loop (fD w) (fImm w))
  | 0x1a => want (Scope.ofCode (fScope w)) .badScope fun s => .ok (.lda s (fD w) (fA w) (fOff13 w))
  | 0x1b => want (Scope.ofCode (fScope w)) .badScope fun s => .ok (.stl s (fD w) (fA w) (fOff13 w))
  | 0x1c => decSync w
  | 0x1d => decUpd w
  | 0x20 => decVInt w
  | 0x21 => decVFloat w
  | 0x22 => decVMask w
  | 0x23 => decVPerm w
  | 0x24 => decVConv w
  | 0x25 => decVRed w
  | 0x26 => decVMem w
  | 0x27 => decVMove w
  | 0x28 => decT5 w
  | 0x29 => decTile w
  | 0x2a => decPort w
  | 0x30 => decCmd w
  | 0x3e => decPriv w
  | _ => .error .unassignedMajor

/-- The word at the head of a byte string, least significant byte first (R108), and the rest. -/
def wordOf : List Byte → Option (IWord × List Byte)
  | b0 :: b1 :: b2 :: b3 :: rest => some (b3 ++ b2 ++ b1 ++ b0, rest)
  | _ => none

/-- Decode the instruction at the head of a byte string. -/
def decodeBytes (bs : List Byte) : Except Reject (Instr × List Byte) :=
  match wordOf bs with
  | none => .error .shortInput
  | some (w, rest) => match decode w with
    | .ok i => .ok (i, rest)
    | .error r => .error r

/-- The four bytes of a word as memory holds them (R108). -/
def wordBytes (w : IWord) : List Byte :=
  [w.extractLsb' 0 8, w.extractLsb' 8 8, w.extractLsb' 16 8, w.extractLsb' 24 8]

/-- What the decoder reads from an instruction whose bits are `w`; the bits above `nbits` are 0. -/
def decodeTableWord (nbits w : Nat) : Option Instr :=
  match decodeBytes (wordBytes (BitVec.ofNat 32 (w % 2 ^ nbits))) with
  | .ok (i, _) => some i
  | .error _ => none

/-! ### The encoder -/

/-- SA (R109). -/
def encSA (mj : BitVec 6) (d a b md : BitVec 5) (mn : BitVec 6) : IWord := mj ++ d ++ a ++ b ++ md ++ mn
/-- SI, and SB with its a and b fields in the places of d and a (R110, R111). -/
def encSI (mj : BitVec 6) (d a : BitVec 5) (i : BitVec 16) : IWord := mj ++ d ++ a ++ i
/-- SJ (R111). -/
def encSJ (mj : BitVec 6) (o : BitVec 26) : IWord := mj ++ o
/-- SM (R112). -/
def encSM (mj : BitVec 6) (t a : BitVec 5) (w : BitVec 2) (o : BitVec 14) : IWord := mj ++ t ++ a ++ w ++ o
/-- LDA and STL (R112). -/
def encLDA (mj : BitVec 6) (t a : BitVec 5) (s : BitVec 3) (o : BitVec 13) : IWord := mj ++ t ++ a ++ s ++ o
/-- VV (R113). -/
def encVV (mj : BitVec 6) (d a b : BitVec 5) (k : BitVec 3) (t : BitVec 2) (mn : BitVec 6) : IWord :=
  mj ++ d ++ a ++ b ++ k ++ t ++ mn
/-- VM (R114). -/
def encVM (mj : BitVec 6) (d g s : BitVec 5) (k : BitVec 3) (op o : BitVec 4) : IWord :=
  mj ++ d ++ g ++ s ++ k ++ op ++ o
/-- VP (R115). -/
def encVP (mj : BitVec 6) (r : BitVec 5) (p : BitVec 7) (k : BitVec 3) (md : BitVec 5) (mn : BitVec 6) : IWord :=
  mj ++ r ++ p ++ k ++ md ++ mn
/-- VK (R116). -/
def encVK (mj : BitVec 6) (k : BitVec 3) (p : BitVec 7) (g md : BitVec 5) (mn : BitVec 6) : IWord :=
  mj ++ k ++ p ++ g ++ md ++ mn

/-- The word of an instruction of the scalar stream; commands, nodes and events have none. -/
def encode : Instr → Option IWord
  | .nop => some 0
  | .fend => some (encSA 0#6 0 0 0 0 1#6)
  | .trap a => some (encSA 0#6 0 a 0 0 2#6)
  | .brk => some (encSA 0#6 0 0 0 0 3#6)
  | .mfc d c => some (encSA 0#6 d (c.code.extractLsb' 5 5) (c.code.extractLsb' 0 5) 0 4#6)
  | .mtc c d => some (encSA 0#6 d (c.code.extractLsb' 5 5) (c.code.extractLsb' 0 5) 0 5#6)
  | .jr a => some (encSA 0#6 0 a 0 0 6#6)
  | .jalr d a => some (encSA 0#6 d a 0 0 7#6)
  | .fence s => some (encSA 0#6 0 0 0 (s.code.setWidth 5) 8#6)
  | .idmb => some (encSA 0#6 0 0 0 0 9#6)
  | .idme => some (encSA 0#6 0 0 0 0 10#6)
  | .clmask a => some (encSA 0#6 0 a 0 0 11#6)
  | .clunmask a => some (encSA 0#6 0 a 0 0 12#6)
  | .add d a b => some (encSA 1#6 d a b 0 0#6)
  | .sub d a b => some (encSA 1#6 d a b 0 1#6)
  | .and d a b => some (encSA 1#6 d a b 0 2#6)
  | .or d a b => some (encSA 1#6 d a b 0 3#6)
  | .xor d a b => some (encSA 1#6 d a b 0 4#6)
  | .andn d a b => some (encSA 1#6 d a b 0 5#6)
  | .sll d a b => some (encSA 1#6 d a b 0 6#6)
  | .srl d a b => some (encSA 1#6 d a b 0 7#6)
  | .sra d a b => some (encSA 1#6 d a b 0 8#6)
  | .slli d a sh => some (encSA 1#6 d a (sh.extractLsb' 0 5) ((sh.extractLsb' 5 1).setWidth 5) 9#6)
  | .srli d a sh => some (encSA 1#6 d a (sh.extractLsb' 0 5) ((sh.extractLsb' 5 1).setWidth 5) 10#6)
  | .srai d a sh => some (encSA 1#6 d a (sh.extractLsb' 0 5) ((sh.extractLsb' 5 1).setWidth 5) 11#6)
  | .slt d a b => some (encSA 1#6 d a b 0 12#6)
  | .sltu d a b => some (encSA 1#6 d a b 0 13#6)
  | .min d a b => some (encSA 1#6 d a b 0 14#6)
  | .max d a b => some (encSA 1#6 d a b 0 15#6)
  | .minu d a b => some (encSA 1#6 d a b 0 16#6)
  | .maxu d a b => some (encSA 1#6 d a b 0 17#6)
  | .mul d a b => some (encSA 1#6 d a b 0 18#6)
  | .mulh d a b => some (encSA 1#6 d a b 0 19#6)
  | .mulhu d a b => some (encSA 1#6 d a b 0 20#6)
  | .div d a b => some (encSA 1#6 d a b 0 21#6)
  | .divu d a b => some (encSA 1#6 d a b 0 22#6)
  | .rem d a b => some (encSA 1#6 d a b 0 23#6)
  | .remu d a b => some (encSA 1#6 d a b 0 24#6)
  | .clz d a => some (encSA 1#6 d a 0 0 25#6)
  | .ctz d a => some (encSA 1#6 d a 0 0 26#6)
  | .popc d a => some (encSA 1#6 d a 0 0 27#6)
  | .sextb d a => some (encSA 1#6 d a 0 0 28#6)
  | .sexth d a => some (encSA 1#6 d a 0 0 29#6)
  | .sextw d a => some (encSA 1#6 d a 0 0 30#6)
  | .addw d a b => some (encSA 1#6 d a b 0 31#6)
  | .subw d a b => some (encSA 1#6 d a b 0 32#6)
  | .addh d a b => some (encSA 1#6 d a b 0 33#6)
  | .semadd a b => some (encSA 28#6 0 a b 0 0#6)
  | .semsub d a b => some (encSA 28#6 d a b 0 1#6)
  | .semwait a b => some (encSA 28#6 0 a b 0 2#6)
  | .semget d a => some (encSA 28#6 d a 0 0 3#6)
  | .rvinit a b => some (encSA 28#6 0 a b 0 4#6)
  | .rvarr d a => some (encSA 28#6 d a 0 0 5#6)
  | .rvwait a b => some (encSA 28#6 0 a b 0 6#6)
  | .acq s a => some (encSA 28#6 0 a 0 (s.code.setWidth 5) 7#6)
  | .rel s a => some (encSA 28#6 0 a 0 (s.code.setWidth 5) 8#6)
  | .syncadd s d a b => some (encSA 28#6 d a b (s.code.setWidth 5) 9#6)
  | .synccas s d a b => some (encSA 28#6 d a b (s.code.setWidth 5) 10#6)
  | .waitv s q g d a b => some (encSA 28#6 d a b (BitVec.ofBool g ++ BitVec.ofBool q ++ s.code) 11#6)
  | .msg c a => some (encSA 28#6 0 a 0 (c.setWidth 5) 12#6)
  | .upd a b => some (encSA 29#6 0 a b 0 0#6)
  | .updv d a b => some (encSA 29#6 d a b 0 1#6)
  | .updfl => some (encSA 29#6 0 0 0 0 2#6)
  | .zset d a => some (encSA 41#6 (d.setWidth 5) a 0 0 0#6)
  | .zclr d => some (encSA 41#6 (d.setWidth 5) 0 0 0 1#6)
  | .zld d a => some (encSA 41#6 (d.setWidth 5) a 0 0 2#6)
  | .zst a b => some (encSA 41#6 0 a (b.setWidth 5) 0 3#6)
  | .zand d a b => some (encSA 41#6 (d.setWidth 5) (a.setWidth 5) (b.setWidth 5) 0 4#6)
  | .zor d a b => some (encSA 41#6 (d.setWidth 5) (a.setWidth 5) (b.setWidth 5) 0 5#6)
  | .ztest d a b => some (encSA 41#6 d (a.setWidth 5) b 0 6#6)
  | .zfromm d a => some (encSA 41#6 (d.setWidth 5) (a.setWidth 5) 0 0 7#6)
  | .hinv a b => some (encSA 62#6 0 a b 0 0#6)
  | .imginv a b => some (encSA 62#6 0 a b 0 1#6)
  | .tlbi a b => some (encSA 62#6 0 a b 0 2#6)
  | .ctxsave d a b => some (encSA 62#6 d a b 0 3#6)
  | .ctxload d a b => some (encSA 62#6 d a b 0 4#6)
  | .solvreq a b => some (encSA 62#6 0 a b 0 5#6)
  | .vadd t d a b k => some (encVV 32#6 d a b k t.code 0#6)
  | .vsub t d a b k => some (encVV 32#6 d a b k t.code 1#6)
  | .vmul t d a b k => some (encVV 32#6 d a b k t.code 2#6)
  | .vmulh t d a b k => some (encVV 32#6 d a b k t.code 3#6)
  | .vand t d a b k => some (encVV 32#6 d a b k t.code 4#6)
  | .vor t d a b k => some (encVV 32#6 d a b k t.code 5#6)
  | .vxor t d a b k => some (encVV 32#6 d a b k t.code 6#6)
  | .vsll t d a b k => some (encVV 32#6 d a b k t.code 7#6)
  | .vsrl t d a b k => some (encVV 32#6 d a b k t.code 8#6)
  | .vsra t d a b k => some (encVV 32#6 d a b k t.code 9#6)
  | .vmin t d a b k => some (encVV 32#6 d a b k t.code 10#6)
  | .vmax t d a b k => some (encVV 32#6 d a b k t.code 11#6)
  | .vminu t d a b k => some (encVV 32#6 d a b k t.code 12#6)
  | .vmaxu t d a b k => some (encVV 32#6 d a b k t.code 13#6)
  | .vabs t d a k => some (encVV 32#6 d a 0 k t.code 14#6)
  | .vadds t d a b k => some (encVV 32#6 d a b k t.code 15#6)
  | .vfadd t d a b k => some (encVV 33#6 d a b k t.code 0#6)
  | .vfsub t d a b k => some (encVV 33#6 d a b k t.code 1#6)
  | .vfmul t d a b k => some (encVV 33#6 d a b k t.code 2#6)
  | .vfma t d a b k => some (encVV 33#6 d a b k t.code 3#6)
  | .vfnma t d a b k => some (encVV 33#6 d a b k t.code 4#6)
  | .vfmin t d a b k => some (encVV 33#6 d a b k t.code 5#6)
  | .vfmax t d a b k => some (encVV 33#6 d a b k t.code 6#6)
  | .vfabs t d a k => some (encVV 33#6 d a 0 k t.code 7#6)
  | .vfneg t d a k => some (encVV 33#6 d a 0 k t.code 8#6)
  | .vfrcp t d a k => some (encVV 33#6 d a 0 k t.code 9#6)
  | .vfrsq t d a k => some (encVV 33#6 d a 0 k t.code 10#6)
  | .vfexp2 t d a k => some (encVV 33#6 d a 0 k t.code 11#6)
  | .vflog2 t d a k => some (encVV 33#6 d a 0 k t.code 12#6)
  | .vceq t md a b k => some (encVV 34#6 (md.setWidth 5) a b k t.code 0#6)
  | .vcne t md a b k => some (encVV 34#6 (md.setWidth 5) a b k t.code 1#6)
  | .vclt t md a b k => some (encVV 34#6 (md.setWidth 5) a b k t.code 2#6)
  | .vcle t md a b k => some (encVV 34#6 (md.setWidth 5) a b k t.code 3#6)
  | .vcltu t md a b k => some (encVV 34#6 (md.setWidth 5) a b k t.code 4#6)
  | .vcfeq t md a b k => some (encVV 34#6 (md.setWidth 5) a b k t.code 5#6)
  | .vcflt t md a b k => some (encVV 34#6 (md.setWidth 5) a b k t.code 6#6)
  | .vcfle t md a b k => some (encVV 34#6 (md.setWidth 5) a b k t.code 7#6)
  | .vcfun t md a b k => some (encVV 34#6 (md.setWidth 5) a b k t.code 8#6)
  | .mand md ma mb k => some (encVV 34#6 (md.setWidth 5) (ma.setWidth 5) (mb.setWidth 5) k 0 9#6)
  | .mor md ma mb k => some (encVV 34#6 (md.setWidth 5) (ma.setWidth 5) (mb.setWidth 5) k 0 10#6)
  | .mxor md ma mb k => some (encVV 34#6 (md.setWidth 5) (ma.setWidth 5) (mb.setWidth 5) k 0 11#6)
  | .mnot md ma k => some (encVV 34#6 (md.setWidth 5) (ma.setWidth 5) 0 k 0 12#6)
  | .mpopc d ma k => some (encVV 34#6 d (ma.setWidth 5) 0 k 0 13#6)
  | .mfirst d ma k => some (encVV 34#6 d (ma.setWidth 5) 0 k 0 14#6)
  | .vperm d a b k => some (encVV 35#6 d a b k 0 0#6)
  | .vslideup d a b k => some (encVV 35#6 d a b k 0 1#6)
  | .vslidedn d a b k => some (encVV 35#6 d a b k 0 2#6)
  | .vbcast d a b k => some (encVV 35#6 d a b k 0 3#6)
  | .vcompress d a k => some (encVV 35#6 d a 0 k 0 4#6)
  | .vexpand d a k => some (encVV 35#6 d a 0 k 0 5#6)
  | .vsel d a b k => some (encVV 35#6 d a b k 0 6#6)
  | .vcvtF32I32 d a k => some (encVV 36#6 d a 0 k 0 0#6)
  | .vcvtI32F32 d a k => some (encVV 36#6 d a 0 k 0 1#6)
  | .vcvtBf16F32 d a h k => some (encVV 36#6 d a (h.setWidth 5) k 0 2#6)
  | .vcvtF32Bf16 d a h k => some (encVV 36#6 d a (h.setWidth 5) k 0 3#6)
  | .vcvtF16F32 d a h k => some (encVV 36#6 d a (h.setWidth 5) k 0 4#6)
  | .vcvtF32F16 d a h k => some (encVV 36#6 d a (h.setWidth 5) k 0 5#6)
  | .vcvtI8I32 d a h k => some (encVV 36#6 d a (h.setWidth 5) k 0 6#6)
  | .vcvtI32I8 d a h k => some (encVV 36#6 d a (h.setWidth 5) k 0 7#6)
  | .vcvtE2m1F32 d a h k => some (encVV 36#6 d a (h.setWidth 5) k 0 8#6)
  | .vcvtF32E2m1 d a h k => some (encVV 36#6 d a (h.setWidth 5) k 0 9#6)
  | .vbxenc t d a b k => some (encVV 36#6 d a b k t.code 10#6)
  | .vbxdec t d a b k => some (encVV 36#6 d a b k t.code 11#6)
  | .vqnt t d a b k => some (encVV 36#6 d a b k t.code 12#6)
  | .vrsum t d a k => some (encVV 37#6 d a 0 k t.code 0#6)
  | .vfrsum t d a k => some (encVV 37#6 d a 0 k t.code 1#6)
  | .vrmin t d a k => some (encVV 37#6 d a 0 k t.code 2#6)
  | .vrmax t d a k => some (encVV 37#6 d a 0 k t.code 3#6)
  | .vfrmin t d a k => some (encVV 37#6 d a 0 k t.code 4#6)
  | .vfrmax t d a k => some (encVV 37#6 d a 0 k t.code 5#6)
  | .vdot t d a b k => some (encVV 37#6 d a b k t.code 6#6)
  | .vfdot t d a b k => some (encVV 37#6 d a b k t.code 7#6)
  | .vargmax t d a k => some (encVV 37#6 d a 0 k t.code 8#6)
  | .vmovg d a k => some (encVV 39#6 d a 0 k 0 0#6)
  | .vget d a b k => some (encVV 39#6 d a b k 0 1#6)
  | .vput d a b k => some (encVV 39#6 d a b k 0 2#6)
  | .viota d a k => some (encVV 39#6 d a 0 k 0 3#6)
  | .vmov d a k => some (encVV 39#6 d a 0 k 0 4#6)
  | .t5pk d a h k => some (encVV 40#6 d a (h.setWidth 5) k 0 0#6)
  | .t5upk d a h k => some (encVV 40#6 d a (h.setWidth 5) k 0 1#6)
  | .t5cnt d a h k => some (encVV 40#6 d a (h.setWidth 5) k 0 2#6)
  | .vld d g k o => some (encVM 38#6 d g 0 k 0#4 o)
  | .vst d g k o => some (encVM 38#6 d g 0 k 1#4 o)
  | .vlds d g gs k o => some (encVM 38#6 d g gs k 2#4 o)
  | .vldx d g gs k o => some (encVM 38#6 d g gs k 3#4 o)
  | .vstx d g gs k o => some (encVM 38#6 d g gs k 4#4 o)
  | .vldb d g k o => some (encVM 38#6 d g 0 k 5#4 o)
  | .recv r p k => some (encVP 42#6 r p k 0 0#6)
  | .recvg r p k => some (encVP 42#6 r p k 0 1#6)
  | .send r p k => some (encVP 42#6 r p k 0 2#6)
  | .sendg r p k => some (encVP 42#6 r p k 0 3#6)
  | .peektag r p k => some (encVP 42#6 r p k 0 4#6)
  | .sendtag r p k => some (encVP 42#6 r p k 0 5#6)
  | .pcount r p k => some (encVP 42#6 r p k 0 6#6)
  | .kld n a => some (encVK 48#6 n 0 a 0 0#6)
  | .kst n a => some (encVK 48#6 n 0 a 0 1#6)
  | .kins n a h => some (encVK 48#6 n 0 a (h.setWidth 5) 2#6)
  | .kclr n => some (encVK 48#6 n 0 0 0 3#6)
  | .kissue n p => some (encVK 48#6 n p 0 0 4#6)
  | .kwait p => some (encVK 48#6 0 p 0 0 5#6)
  | .addi d a i => some (encSI 2#6 d a i)
  | .andi d a i => some (encSI 3#6 d a i)
  | .ori d a i => some (encSI 4#6 d a i)
  | .xori d a i => some (encSI 5#6 d a i)
  | .slti d a i => some (encSI 6#6 d a i)
  | .sltiu d a i => some (encSI 7#6 d a i)
  | .lui d i => some (encSI 8#6 d 0 i)
  | .lhi d a i => some (encSI 9#6 d a (i.setWidth 16))
  | .addih d a i => some (encSI 10#6 d a i)
  | .ld w t a o => some (encSM 12#6 t a w.code o)
  | .ldx w t a o => some (encSM 13#6 t a w.code o)
  | .st w t a o => some (encSM 14#6 t a w.code o)
  | .beq a b o => some (encSI 16#6 a b o)
  | .bne a b o => some (encSI 17#6 a b o)
  | .blt a b o => some (encSI 18#6 a b o)
  | .bge a b o => some (encSI 19#6 a b o)
  | .bltu a b o => some (encSI 20#6 a b o)
  | .bgeu a b o => some (encSI 21#6 a b o)
  | .j o => some (encSJ 22#6 o)
  | .jal o => some (encSJ 23#6 o)
  | .loop a o => some (encSI 24#6 a 0 o)
  | .lda s t a o => some (encLDA 26#6 t a s.code o)
  | .stl s t a o => some (encLDA 27#6 t a s.code o)
  | _ => none

end Sys2Proof
end

