-- ==== Sys2Proof/Config.lean ====
section
/-! DEFINITION. What the part fixes (sizes and counts of R15-R20), what each part fixes when it is built
(fused values), and the free values: opaque constants with no body, one for each value the spec calls
undefined, unspecified or leaves unstated. Nothing can evaluate them, so a theorem holds whatever they are. -/

namespace Sys2Proof.Config

/-! ### Sizes (R7-R19) -/

/-- Logical bays of the module (R11). -/
def bays : Nat := 2048
/-- Islands of the module (R14). -/
def islands : Nat := 512
/-- Home slices of the module (R16). -/
def slices : Nat := 1024
/-- Issue slots of a bay's actor core (R36). -/
def issueSlots : Nat := 4
/-- Entries of an engine port's command queue (R207). -/
def queueDepth : Nat := 16
/-- Entries of a bay's range scoreboard (R60). -/
def scoreboardSize : Nat := 16
/-- Entries of a bay's store-to-load forwarding table (R61). -/
def forwardSize : Nat := 8
/-- Pairs the stage of an idempotent region holds (R176). -/
def stageSize : Nat := 4096
/-- Entries of a tenant's launch queue (R23). -/
def launchQueue : Nat := 64
/-- Messages a bay's queue holds (R174). -/
def messageQueue : Nat := 16
/-- First byte past the HBM4E range of the local map (R53). -/
def hbmTop : Nat := 0x20000000000
/-- First byte of the bay windows (R53, R54). -/
def windowBase : Nat := 0x400000000000
/-- Bytes of one bay window (R53). -/
def windowSize : Nat := 0x400000
/-- Offset of the accumulator memory in a bay window (R54). -/
def accBase : Nat := 0x100000
/-- Offset of the register window (R54). -/
def regBase : Nat := 0x140000
/-- Offset of the loft share (R54). -/
def loftBase : Nat := 0x180000
/-- First offset past the loft share (R54). -/
def loftTop : Nat := 0x2E0000
/-- Bytes of one loft share (R384). -/
def shareSize : Nat := 0x160000

/-! ### Values fused or chosen when a module is built -/

/-- Silicon revision (R20, fused). -/
opaque sirev : BitVec 8
/-- The pseudo-channels disabled when the module was built (R9, R20, fused). -/
opaque channelOff : Nat → Bool
/-- Spare bays in use (R20, fused). -/
opaque sparesRaw : Nat
/-- Disabled ring stops (R20, fused). -/
opaque rsdis : BitVec 7
/-- The enabled pseudo-channels, in ascending module-wide number (R59); PCDIS is at most 16,383 (R20), so one is. -/
def enabledChannels : List Nat :=
  match (List.range 16384).filter fun c => !channelOff c with
  | [] => [0]
  | c :: l => c :: l
/-- PCDIS (R20). -/
def pcdis : Nat := 16384 - enabledChannels.length
/-- SPARES lies in 0..256 (R20). -/
def spares : Nat := sparesRaw % 257
/-- The unconstrained part of the fused minimum-code table (R331). -/
opaque vminStep : Nat → Nat → Nat
/-- VMIN(i, k): nondecreasing in k and at most 64 (R331, R18). -/
def vmin (i : Nat) : Nat → Nat
  | 0 => 0
  | k + 1 => Nat.min 64 (vmin i k + vminStep i (k + 1) % 65)
/-- How far above 38,000 ns Clotus publishes SLICEMIN (R377). -/
opaque sliceminExtra : Nat
/-- SLICEMIN.FLOOR: at least 38,000 (R377). -/
def slicemin : BitVec 32 := BitVec.ofNat 32 (38000 + sliceminExtra % 1000000)
/-- Words of the COSTT table as Clotus writes them at boot (R344). -/
opaque costt : Nat → BitVec 32
/-- Whether the image in flash slot A passes both signatures and the version check (R399). -/
opaque slotAVerifies : Bool
/-- Whether the image in flash slot B passes them (R399). -/
opaque slotBVerifies : Bool
/-- Security version of the image in slot A. -/
opaque slotASvn : BitVec 32
/-- Security version of the image in slot B. -/
opaque slotBSvn : BitVec 32
/-- Usable HBM4E bytes of a member module other than this one, by its number (R53). -/
opaque remoteHbm : Nat → Nat

/-- BINQ of a region whose handle entry stands in another module's table (R297), by tenant and key of the region. -/
opaque farQuota : Nat → Nat → Nat

/-- Significant bits past 24 of the format that holds VFDOT.BF16's products and partial sums (R90). -/
opaque dotExtra : Nat

/-- Module number and port at the other end of each Selrin Link port, as the domain is cabled (R362). -/
opaque linkPeer : Nat → Nat × Nat

/-! ### Free values -/

/-- Whether another module of a gang completed its launch with code 0x0004 (R28, R355), by draw. -/
opaque partnerFailed : Nat → Bool

/-- Position of this module among the modules of a gang (R354), by field id. -/
opaque gangPosition : Nat → Nat

/-- Module number of each module of a gang (R28), by field id and position. -/
opaque gangMember : Nat → Nat → Nat

/-- Undefined g registers at firing entry (R37), by draw and register. -/
opaque freeG : Nat → Nat → Word
/-- Undefined v registers at firing entry. -/
opaque freeV : Nat → Nat → VReg
/-- Undefined m registers at firing entry. -/
opaque freeM : Nat → Nat → Word
/-- Undefined z registers at firing entry. -/
opaque freeZ : Nat → Nat → Word
/-- Undefined k registers at firing entry. -/
opaque freeK : Nat → Nat → KWord
/-- LC0 and LC1 at firing entry (R122). -/
opaque freeLc : Nat → Nat → Word
/-- An undefined byte of memory or of a register window (R2, R56, R222, R313, R356, R357), by draw and position. -/
opaque freeByte : Nat → Nat → Byte
/-- Which of several listed outcomes an unspecified choice takes (R2), by draw, kind of choice and index. -/
opaque freePick : Nat → Nat → Nat → Nat
/-- Device ticks that pass during a step (R6, R150), by draw. -/
opaque elapse : Nat → Nat
/-- Bay cycles that pass on a bay during a step (R40, R150, R338), by draw and bay. -/
opaque cycles : Nat → Nat → Nat
/-- Module power in W over an interval (R401), by draw. -/
opaque measuredPower : Nat → BitVec 16
/-- VFEXP2 and VFLOG2 where the model's bounds round two ways (R87), by operand. -/
opaque freeTranscendental : BitVec 32 → BitVec 32

end Sys2Proof.Config
end

