-- ==== Sys2Proof/Machine/Parts.lean ====
section
/-! DEFINITION. The parts of the machine's state, as plain data: registers and firings of a bay, command
queues, the Flail array, parsed Kreid images and channels, section instances, the walk of a graph sequencer,
fields, tenants, home slices, islands, links and the host side. Sparse tables are lists of (key, value) pairs;
a key that is not listed has the default value its docstring names. -/

namespace Sys2Proof.Machine

/-- Memory of one address space: addresses strictly rising, no entry equal to what an unlisted address reads as. -/
abbrev Memory := List Host.Cell
/-- A sparse table: keys strictly rising. -/
abbrev Table (α : Type) := List (Nat × α)

/-! ### Units that access memory or wait -/

/-- Who makes an access, waits for a word or sends a pair (R63). -/
inductive Who
  | actor (bay idx : Nat)
  | cmd (bay port : Nat)
  | walk (field task : Nat)
  | host (port vf : Nat)
  | unit
  deriving DecidableEq, Repr

/-- The bay a party stands on. -/
def Who.bay : Who → Option Nat
  | .actor b _ => some b
  | .cmd b _ => some b
  | _ => none

/-! ### Stream commands -/

/-- Steps of a command at the head of its queue (R208). -/
inductive Phase | tokens | sema | run | finish
  deriving DecidableEq, Repr

/-- One entry of a command queue (R207), with the position R232 saves. -/
structure Cmd where
  /-- The model's own number for the command. -/
  id : Nat
  word : KWord
  ext : KWord
  actor : Nat
  fidx : BitVec 32
  /-- PC of the KISSUE (R231). -/
  pc : Word
  /-- The z register captured at KISSUE (R272). -/
  zcap : Word
  phase : Phase
  /-- Next access, token, row, key, pair, element or granule. -/
  pos : Nat
  /-- LDL: pointer of the next node. -/
  ptr : Word
  /-- Issued in an open idempotent region (R230). -/
  region : Bool
  /-- Waiting on its semaphore: joined the waiters already. -/
  waiting : Bool
  /-- GTH: lines read early and not yet delivered, by byte position of the gather (R311). LDS and CPY: bytes of a source granule
  read with those before them; STS: bytes taken for a granule not yet whole, in order (R65). -/
  lines : Table (Byte × Bool)
  /-- CPYM: stream joined (0 = none yet) and its first granule joined at (R353). -/
  stream : Nat
  joined : Nat
  /-- COLL: match sequence number for its pair (R354). -/
  seq : Nat
  /-- Channel that it feeds (number + 1; 0 before its first token) and the channel's count of tokens sent, with its
  latest token (R215). -/
  fed : Nat
  last : Nat
  /-- The step at which it reached step 3, by the count of draws (R311). -/
  started : Nat
  deriving DecidableEq, Repr

/-! ### Firings -/

/-- The registers of a firing that IDMB checkpoints (R149, R176). -/
structure Regs where
  /-- g0..g31; g0 is stored and reads as 0. -/
  g : Vector Word 32
  /-- Poison bits of g0..g31 (R155). -/
  gp : BitVec 32
  /-- v0..v31. -/
  v : Vector VReg 32
  /-- Poison bits of the 64 lanes of each v register (R182). -/
  vp : Vector Word 32
  /-- m0..m7; m0 is stored and reads as all lanes. -/
  m : Vector Word 8
  /-- z0..z15. -/
  z : Vector Word 16
  /-- k0..k7. -/
  k : Vector KWord 8
  /-- Poison bits of k0..k7 (R209). -/
  kp : BitVec 8
  /-- RMODE.MODE (R150). -/
  rmode : BitVec 2
  /-- FLAGS[4:0]: NV, DZ, OF, UF, NX (R88). -/
  flags : BitVec 5
  /-- LC0. -/
  lc0 : Word
  /-- LC1. -/
  lc1 : Word
  /-- DEPTH, the number of active loops (R163). -/
  depth : Nat
  /-- LS[0], LE[0]: hidden start and end of the outer loop. -/
  ls0 : Word
  le0 : Word
  /-- LS[1], LE[1]. -/
  ls1 : Word
  le1 : Word
  /-- The program counter, a pointer (R149). -/
  pc : Word
  deriving DecidableEq, Repr

/-- An update pair (R288). -/
structure Pair where
  tenant : Nat
  handle : Nat
  op : Nat
  sync : Nat
  va : Nat
  pa : Nat
  value : Word
  poison : Bool
  /-- Section instance id when versioned, else 0. -/
  tag : Nat
  field : Nat
  /-- The section instance of the party that emitted it. -/
  inst : Nat
  who : Who
  deriving DecidableEq, Repr

/-- An entry of the forwarding table whose store waits to be performed (R61): its actor and firing, the runs and bytes it
writes, in the order of its lanes, the pairs of the bay that were on their way when it was issued, and the commands issued
after it that follow it (R76). -/
structure HeldStore where
  actor : Nat
  fidx : BitVec 32
  segs : List (Nat × Nat)
  bytes : List (Byte × Bool)
  behind : List Pair
  cmds : List Nat
  /-- The handle its address was formed through. -/
  handle : Nat
  deriving DecidableEq, Repr

/-- A register-window unit on its way to a bay (R229). -/
structure RwUnit where
  bay : Nat
  /-- Offset in the register window, a multiple of 8. -/
  off : Nat
  value : Word
  /-- Bytes of the unit that are written. -/
  mask : BitVec 8
  poison : Bool
  /-- The party that wrote it, its tenant, and the handle its address was formed through, 0 for none that a table holds. -/
  who : Who
  tenant : Nat
  handle : Nat
  deriving DecidableEq, Repr

/-- A host write held at the ordering point (R396). -/
structure HostWrite where
  addr : List (Nat × Nat)
  data : List Byte
  ro : Bool
  /-- Order in which it was sent to its route; 0 while it is held. -/
  sent : Nat
  deriving DecidableEq, Repr

/-- Accesses whose addresses an invalidation waits for (R52, R263): pairs on their way or staged, register-window units, held
stores, multicast streams by number, and host writes. -/
structure Pending where
  pairs : List Pair
  units : List RwUnit
  stores : List HeldStore
  streams : List Nat
  writes : List (List (Nat × Nat))
  deriving DecidableEq, Repr

/-- What a parked firing waits for. -/
inductive Park
  | sem (n thr : Nat)
  | yard (y : Nat) (phase : BitVec 1)
  | acq (va : Nat)
  | waitv (va : Nat) (d : R5) (isAcq poison : Bool)
  | tokens (p : Port) (n : Nat)
  | room (p : Port) (n : Nat)
  | row (p : Port)
  /-- KISSUE: the command to queue, and the range its scoreboard entry still has to take (R212). -/
  | queue (p : Port) (c : Cmd) (range : Option (Nat × Nat))
  | cmds (p : Port)
  | region
  | pairs
  | route
  /-- The effects of an acquiring operation are done; it waits for the sweeps of modules with no route (R297). -/
  | sweep (va : Nat)
  /-- A page request in a region: PC and FADDR of the access (R178). -/
  | page (epc faddr : Word)
  /-- HINV or TLBI: the accesses formed through what it has dropped (R52, R263). -/
  | inval (p : Pending)
  /-- A stop saved the firing before its instruction had completed: it is issued again (R153). -/
  | reissue
  deriving DecidableEq, Repr

/-- Whether a firing runs, is parked (and whether its instruction has completed at its home, R153) or has ended. -/
inductive Status
  | ready
  | parked (p : Park) (done : Bool)
  | ended
  deriving DecidableEq, Repr

/-- An open idempotent region: its checkpoint and staged pairs (R176). -/
structure Region where
  ckpt : Regs
  staged : List Pair
  deriving DecidableEq, Repr

/-- A ROW port of a firing: its part pointer P and the part of a row held (R203). -/
structure RowPart where
  port : Nat
  p : Nat
  buf : TokenData
  poison : BitVec 128
  deriving DecidableEq, Repr

/-- A firing (R149). -/
structure Firing where
  bay : Nat
  /-- Actor index on the bay, 0..15. -/
  actor : Nat
  field : Nat
  /-- Section instance id. -/
  inst : Nat
  /-- Index of the firing within the section instance (FIRE.FIDX). -/
  fidx : BitVec 32
  /-- Field coordinates of the bay (BAYXY). -/
  fx : Nat
  fy : Nat
  regs : Regs
  status : Status
  /-- Holds one of the four issue slots (R36). -/
  slot : Bool
  /-- Has not issued since it took its slot: slots issue in turn (R36). -/
  fresh : Bool
  region : Option Region
  /-- Tokens moved per port number; default 0 (R39, R202). -/
  moved : Table Nat
  rows : List RowPart
  /-- Unparked bay cycles spent (R40). -/
  cycles : Nat
  /-- Arrival number of the latest parking: earlier parks have lower numbers (R36). -/
  since : Nat
  deriving DecidableEq, Repr

/-- The persistent set of an actor: g16..g23 and v24..v31 with their poison (R37). -/
structure Persist where
  g : Vector Word 8
  gp : BitVec 8
  v : Vector VReg 8
  vp : Vector Word 8
  deriving DecidableEq, Repr

/-! ### Waiters, messages and scoreboards of a bay -/

/-- A waiter on a semaphore: an actor's SEMWAIT or a command's step 2 (R170). -/
structure SemWaiter where
  sem : Nat
  thr : Nat
  who : Who
  /-- Times younger waiters were satisfied first. -/
  passed : Nat
  deriving DecidableEq, Repr

/-- A queued route-class message (R174). -/
structure Msg where
  cls : Nat
  /-- BAYXY of the sender. -/
  sender : Word
  body : BitVec 512
  poison : BitVec 8
  /-- Indices of the handlers of the bay that have fired for it. -/
  served : List Nat
  deriving DecidableEq, Repr

/-- An entry of a range scoreboard: offsets `lo..hi-1` of the bay's window, and the command that took it (R60, R228). -/
structure SbEntry where
  lo : Nat
  hi : Nat
  bay : Nat
  port : Nat
  id : Nat
  deriving DecidableEq, Repr

/-! ### The Flail array -/

/-- A weight slot: valid bit, source pointer, contents by byte, poison (R266). -/
structure Slot where
  valid : Bool
  source : Word
  bytes : Table Byte
  poison : Bool
  /-- Its contents were lost to a storage error and are read again at the next use (R389). -/
  stale : Bool
  deriving DecidableEq, Repr

/-- The array of a bay (R266). -/
structure Flail where
  /-- `true` in Winnow mode. -/
  winnow : Bool
  len : Nat
  ksel : Nat
  /-- The running set, highest rank first. -/
  running : List (BitVec 128)
  runPoison : Bool
  slots : Table Slot
  /-- Scale entries; default 64 copies of BF16 1.0. -/
  scales : Table (BitVec 1024 × Bool)
  resident : Option Nat
  deriving DecidableEq, Repr

/-! ### Bays -/

/-- Actor code that a bay caches from a Kreid image (R262): the tenant and pointer of the image, the offset of its code
region, the region as words, and the words that hold an uncorrectable error (R389). -/
structure CachedCode where
  tenant : Nat
  ptr : Word
  codeOff : Nat
  code : List IWord
  codePoison : List Nat
  deriving DecidableEq, Repr

/-- One logical bay (R15). -/
structure Bay where
  /-- Field and section instance live on the bay. -/
  inst : Option (Nat × Nat)
  /-- Frozen by a stop wave (R381). -/
  halted : Bool
  /-- A fault stopped further firings of the instance (R152). -/
  faulted : Bool
  firings : List Firing
  /-- Actor whose FEND retired in the latest bay cycle (R346). -/
  ended : Option Nat
  /-- Fireable actors, longest first, with the bay cycle on which each became fireable (R36). -/
  fireOrder : List (Nat × Word)
  persist : Table Persist
  /-- Firings started per actor in the instance (R37, R242). -/
  fired : Table Nat
  /-- Semaphores s0..s255; default 0 (R169). -/
  sems : Table (BitVec 16)
  semWaiters : List SemWaiter
  /-- The class mask (R175). -/
  cmask : BitVec 8
  /-- The message queue, oldest first, at most 16 (R174). -/
  msgs : List Msg
  /-- Command queues by port number (R207). -/
  queues : Table (List Cmd)
  /-- Ports on which a command has faulted: the commands behind it never start (R231). -/
  stuck : List Nat
  /-- Done-token counters of the edges that end here, by edge record; default 0 (R216). -/
  edges : Table (BitVec 16)
  /-- Done tokens held back by a full counter: port and edge record (R216). -/
  held : List (Nat × Nat)
  scoreboard : List SbEntry
  /-- Commands of other bays that wait for an entry, in arrival order (R60). -/
  inbound : List Nat
  /-- The forwarding table: the stores that wait to be performed, oldest first (R61). -/
  fwd : List HeldStore
  /-- CAUSE.CODE (R150). -/
  cause : BitVec 8
  epc : Word
  faddr : Word
  cyc : Word
  /-- Cached handle entries, keyed tenant * 4096 + index (R48, R262). -/
  hcache : Table (BitVec 256)
  /-- Cached actor code (R262). -/
  codes : List CachedCode
  /-- Code that the live instance runs here, when the bay had it cached at the arm; else that of the instance's image. -/
  code : Option CachedCode
  array : Flail
  /-- The counter block, by byte offset; default 0 (R338). -/
  counters : Table (BitVec 32)
  deriving DecidableEq, Repr

/-! ### Kreid images (R144-R146) -/

structure ActorRec where
  cbase : Nat
  clen : Nat
  entry : Nat
  bx : Nat
  by_ : Nat
  idx : Nat
  handler : Bool
  cls : Nat
  bound : Nat
  rep : Nat
  order : Nat
  pchan : Nat
  deriving DecidableEq, Repr

structure ChanRec where
  pact : Nat
  cact : Nat
  pport : Nat
  cport : Nat
  pn : Nat
  pe : Nat
  cn : Nat
  ce : Nat
  fmtp : Nat
  fmtc : Nat
  bxd : Nat
  pvar : Bool
  cvar : Bool
  vch : Nat
  depth : Nat
  scale : BitVec 32
  spix : Nat
  route : Nat
  deriving DecidableEq, Repr

structure RouteRec where
  kind : Nat
  cls : Nat
  vch : Nat
  src : Nat
  dst : Nat
  deriving DecidableEq, Repr

structure RateRec where
  rpn : Nat
  snk : Bool
  chan : Nat
  toks : Nat
  deriving DecidableEq, Repr

structure EdgeRec where
  sbx : Nat
  sby : Nat
  sel : Nat
  scope : Nat
  dbx : Nat
  dby : Nat
  del : Nat
  deriving DecidableEq, Repr

structure PanelRec where
  wptr : Word
  sptr : Word
  bx : Nat
  by_ : Nat
  slot : Nat
  deriving DecidableEq, Repr

structure RegionRec where
  handle : Nat
  op : Nat
  deriving DecidableEq, Repr

structure SpillRec where
  ptr : Word
  size : Nat
  chan : Nat
  deriving DecidableEq, Repr

/-- A parsed Kreid image: its tables and its code region as words. -/
structure Image where
  lw : Nat
  lh : Nat
  actors : List ActorRec
  chans : List ChanRec
  routes : List RouteRec
  rates : List RateRec
  edges : List EdgeRec
  panels : List PanelRec
  regions : List RegionRec
  spills : List SpillRec
  /-- Byte offset of the code region in the image. -/
  codeOff : Nat
  code : List IWord
  /-- The code region holds an uncorrectable error at these word numbers (R389). -/
  codePoison : List Nat
  deriving DecidableEq, Repr

/-! ### Channels and section instances -/

/-- One token: its data, its poison mark (by lane of four bytes) and the open region that keeps it pending (R230). -/
structure Tok where
  data : TokenData
  poison : BitVec 128
  /-- Pending mark: bay and actor of the region's firing. -/
  pend : Option (Nat × Nat)
  deriving DecidableEq, Repr

/-- A channel of a live instance. -/
structure Chan where
  /-- Tokens in the consumer's FIFO, oldest first. -/
  fifo : List Tok
  /-- Tokens between the producer and the consumer's FIFO (network and crossing FIFO), oldest first. -/
  flight : List Tok
  /-- Unfinished group of a conversion to ROW (R101, R102). -/
  part : List Tok
  /-- Rows built since arm (R270). -/
  rows : Nat
  /-- Tokens in the spill ring: head index and count (R226). -/
  ringHead : Nat
  ringCount : Nat
  ringPoison : List (BitVec 128)
  /-- Producer-end tokens sent, consumed, and consumed as the producer has seen (R326). -/
  sent : Nat
  consumed : Nat
  seen : Nat
  /-- Tokens in flight whose write pointer the consumer's side has learnt, on a crossing channel (R326). -/
  passed : Nat
  /-- End of stream has been sent by the producer side; has reached the FIFO. -/
  eosSent : Bool
  closed : Bool
  /-- The next row built carries CUT (R281). -/
  cut : Bool
  /-- Tag record that the latest row taken into the array's record store has, and its value (R281). -/
  stored : Option (Nat × Nat)
  /-- `sent` at the latest sample boundary, when a load element was waiting for room then (R341). -/
  waited : Option Nat
  deriving DecidableEq, Repr

/-- A nonnegative exact rational. -/
structure Ratio where
  num : Nat
  den : Nat
  deriving DecidableEq, Repr

/-- Solver measurements of one actor (R340). -/
structure Measure where
  rep : Ratio
  beff : Ratio
  deriving DecidableEq, Repr

/-- A live section instance (R33). -/
structure Inst where
  field : Nat
  id : Nat
  /-- Walk task that armed it, and its SECTION node. -/
  task : Nat
  node : Word
  plot : BitVec 24
  image : Image
  imgPtr : Word
  tiles : Nat
  chans : Table Chan
  /-- Channels of the tokens on their way over the network, in the order the tokens were sent (R349). -/
  sends : List Nat
  versioned : Bool
  /-- Version overlay: byte and poison by address (R253). -/
  overlay : Table (Byte × Bool)
  measures : Table Measure
  /-- Measured tokens per firing of variable-rate ends, keyed 2 * channel, + 1 for the consumer end (R340). -/
  ends : Table Ratio
  /-- The solved rate in tokens per µs (R341). -/
  solved : Ratio
  /-- Consecutive samples off the solved rate, by rate point record (R341). -/
  off : Table Nat
  /-- Poisoned lines written and the first of them (R387 TYPE 2). -/
  poisonLines : List Nat
  poisonAddr : Nat
  poisonSent : Bool
  /-- DROPS added and first address affected (R387 TYPE 3). -/
  drops : Nat
  dropAddr : Nat
  deriving DecidableEq, Repr

/-! ### The walk (R240) -/

/-- One list being walked: its current node, iteration index and where it goes on. -/
structure Frame where
  ptr : Word
  it : Nat
  /-- Node after the current one, `none` at the end of the list; fixed when the current node is visited. -/
  nxt : Option Word
  /-- The list is the body of a WHILE; with `ptr` 0, the WHILE is about to test its word for iteration `it`. -/
  body : Bool
  /-- Record of the current node, as its visit read it. -/
  record : BitVec 256
  deriving DecidableEq, Repr

/-- The kind of a controller. -/
inductive CtrlKind | seq | pipe | stream
  deriving DecidableEq, Repr

/-- A running controller (R246, R247): iterations done and started per child. -/
structure CtrlState where
  kind : CtrlKind
  children : List Word
  count : Nat
  depth : Nat
  done : List Nat
  started : List Nat
  deriving DecidableEq, Repr

/-- What a walk task is doing. -/
inductive TaskState
  | visit (record : Option (BitVec 256))
  | arm (tiles : Nat)
  | live (inst : Nat)
  | ctrl (c : CtrlState)
  | waitf (word : Nat) (val : Word) (ge : Bool) (met registered : Bool)
  | page (back : Option Nat)
  | done
  deriving DecidableEq, Repr

/-- A walk task: a list of the graph, or one iteration of a controller's child. -/
structure Task where
  id : Nat
  /-- Controller task, child number and iteration, for a child. -/
  parent : Option (Nat × Nat × Nat)
  /-- Walk-stack levels above this task. -/
  base : Nat
  /-- Innermost list first: the head is the list being walked. -/
  frames : List Frame
  st : TaskState
  deriving DecidableEq, Repr

/-- A yard (R171). -/
structure Yard where
  n : Nat
  plot : BitVec 24
  count : Nat
  phase : BitVec 1
  deriving DecidableEq, Repr

/-- A fault as it is reported (R258, R387). -/
structure FaultRec where
  cause : BitVec 8
  faddr : Word
  epc : Word
  node : Word
  inst : Nat
  /-- Module bay, 0x7FF for the sequencer. -/
  bay : Nat
  /-- A fault of reading or checking the ROOT record (R29 code 0x0003). -/
  root : Bool
  deriving DecidableEq, Repr

/-- Where a field stands. -/
inductive FieldStage | placed | cleared | running | ended | complete
  deriving DecidableEq, Repr

/-- A placed field (R30). -/
structure Field where
  id : Nat
  tenant : Nat
  packet : BitVec 512
  ox : Nat
  oy : Nat
  stage : FieldStage
  /-- Completion code decided. -/
  code : Nat
  tasks : List Task
  nextTask : Nat
  yards : Table Yard
  rate : BitVec 32
  rpn : Nat
  nextInst : Nat
  fault : Option FaultRec
  faults : Nat
  /-- COLLs issued per (bay, GRP, PLOT), keyed bay * 2^26 + GRP * 2^24 + PLOT (R354). -/
  colls : Table Nat
  /-- The field has yielded at a section boundary (R265). -/
  yielded : Bool
  /-- Rung at which it stopped. -/
  rung : Nat
  deriving DecidableEq, Repr

/-! ### Tenants -/

/-- Where a stop of a tenant stands (R378). -/
inductive StopStage | idle | rung1 | rung2 | rung3 | halted
  deriving DecidableEq, Repr

/-- A tenant: its register block (R393), launch queue and stop. -/
structure Tenant where
  htbase : Word
  xroot : Word
  apbase : Word
  partcfg : Word
  verq : Word
  grncnt : Word
  prqcfg : Word
  slicecfg : Word
  prestat : Word
  fltring : Word
  fltptr : Word
  solvst : Word
  pwrcfg : Word
  pwrgnt : Word
  mcstat : Word
  /-- LQDISC (R394). -/
  lqdisc : Word
  /-- The launch queue, oldest first (R23). -/
  launches : List (BitVec 512)
  /-- The partition map as read when VALID rose (R373). -/
  pmap : List Nat
  stop : StopStage
  /-- The hypervisor's stop started at this device time. -/
  stopAt : Nat
  /-- Device time at which the slice started. -/
  sliceAt : Nat
  /-- Stop count of the tenant (R384 SEQ). -/
  stopSeq : BitVec 32
  /-- A solve is pending with this CAUSE (R341). -/
  solve : Option Nat
  /-- The last solve of the interval asked for more than TOKENS (R332). -/
  asked : Bool
  deriving DecidableEq, Repr

/-! ### Home slices (R291) -/

/-- What the pairs of one instance have brought into an entry. -/
structure Part where
  field : Nat
  inst : Nat
  value : Word
  deriving DecidableEq, Repr

/-- A bin entry or run entry: element address, virtual address, combined value, poison. -/
structure Entry where
  pa : Nat
  va : Nat
  /-- The combined value: one part for each instance that sent pairs, the one with the latest pair last; for a float sum
  the partials not yet summed, whose order is unspecified (R103). -/
  parts : List Part
  poison : Bool
  deriving DecidableEq, Repr

/-- A bin of one line, with its key (R291): the version tag names an instance of a field; with tag 0 the field is 0. -/
structure Bin where
  tenant : Nat
  handle : Nat
  op : Nat
  sync : Nat
  field : Nat
  tag : Nat
  line : Nat
  entries : List Entry
  deriving DecidableEq, Repr

/-- A run in the run directory (R293). -/
structure Run where
  tenant : Nat
  handle : Nat
  op : Nat
  sync : Nat
  field : Nat
  tag : Nat
  /-- Physical address of the run and of its spill area's header, and its size. -/
  addr : List (Nat × Nat)
  header : List (Nat × Nat)
  size : Nat
  entries : List Entry
  deriving DecidableEq, Repr

/-- The copy of a region's entry a Granary keeps (R288). -/
structure RegionCopy where
  tenant : Nat
  handle : Nat
  binq : Nat
  spill : Nat
  sync : Nat
  deriving DecidableEq, Repr

/-- One Granary. -/
structure Slice where
  /-- The open batch, oldest first. -/
  batch : List Pair
  closed : Bool
  /-- Bins, opened earliest first. -/
  bins : List Bin
  /-- Runs, oldest first. -/
  runs : List Run
  copies : List RegionCopy
  deriving DecidableEq, Repr

/-- A multicast stream at a home slice (R352, R353). -/
structure McStream where
  id : Nat
  tenant : Nat
  /-- The source's bytes: address and length of each run. -/
  src : List (Nat × Nat)
  /-- Length in granules. -/
  len : Nat
  /-- Granules read so far; those past `len` are replays. -/
  read : Nat
  /-- A write to the source range has been serialised since it began. -/
  written : Bool
  joins : Nat
  /-- Largest first granule of its joiners. -/
  replayTo : Nat
  /-- The request never reached the home slice: its data comes marked poisoned (R361). -/
  lost : Bool
  deriving DecidableEq, Repr

/-- A waiter on a word at its home slice, in arrival order (R70, R173, R250). -/
structure WordWaiter where
  who : Who
  word : Nat
  v : Word
  ge : Bool
  isAcq : Bool
  tag : Word
  deriving DecidableEq, Repr

/-! ### Islands, links, host -/

/-- ISLST of one island (R343), field by field. -/
structure Island where
  k : Nat
  tgtk : Nat
  vcode : Nat
  tgtv : Nat
  state : Nat
  floor : Bool
  ten : Nat
  /-- Where the rail stood, in 1/125 of a code, when it was commanded last, and the device tick of that (R18, R335). -/
  railFrom : Nat
  railAt : Nat
  deriving DecidableEq, Repr

/-- A translation that a unit caches: the unit, the tenant, first virtual address and size of the page, physical page, W
(R51). A bay is named by its module bay number, the DFI of a die by 2048 + die, the I/O die of a host port by 2080 +
port. -/
structure TlbEntry where
  unit : Nat
  tenant : Nat
  va : Nat
  size : Nat
  pa : Nat
  w : Bool
  deriving DecidableEq, Repr

/-- A table entry that a walk of a unit has read and cached: the unit, the tenant, level (its low index bit), virtual
address above that bit, and the entry (R51). -/
structure WalkEntry where
  unit : Nat
  tenant : Nat
  lo : Nat
  page : Nat
  entry : Word
  deriving DecidableEq, Repr

/-- A Kreid image that the sequencers of one die cache (R262). -/
structure CachedImage where
  die : Nat
  tenant : Nat
  ptr : Word
  bytes : List (Byte × Bool)
  deriving DecidableEq, Repr

/-- A Selrin Link port: LNKST (R362), field by field. -/
structure Link where
  peer : BitVec 9
  peerPort : BitVec 5
  crcerr : BitVec 16
  replay : BitVec 16
  downs : BitVec 8
  lanes : BitVec 4
  up : Bool
  deriving DecidableEq, Repr

/-- An access waiting for a route to its module (R361). -/
structure RouteWait where
  who : Who
  module : Nat
  expired : Bool
  deriving DecidableEq, Repr

/-- A page request: a queue entry or a request waiting for one (R317, R319). -/
structure PageReq where
  va : Nat
  tenant : Nat
  psize : Nat
  waiters : List Who
  count : Nat
  seq : BitVec 32
  leaf : Nat
  postt : Nat
  taken : Bool
  deriving DecidableEq, Repr

/-- The outcome of a page request for one waiter: its page by first virtual address and size code (R320); kept while the
waiter's bay is saved (R321). -/
structure PageFill where
  tenant : Nat
  who : Who
  failed : Bool
  va : Nat
  psize : Nat
  deriving DecidableEq, Repr

/-- A collective being matched or executed (R354, R356). -/
structure Coll where
  field : Nat
  grp : Nat
  plot : Nat
  /-- Sequence number of the match for its pair (GRP, PLOT). -/
  seq : Nat
  /-- Module bays whose COLL has reached step 3. -/
  bays : List Nat
  matched : Bool
  deriving DecidableEq, Repr

/-- A message on its way to a handler bay (R261). -/
structure MsgFlight where
  field : Nat
  inst : Nat
  bay : Nat
  msg : Msg
  from_ : Who
  deriving DecidableEq, Repr

/-- The context of one island in its loft (R384). -/
structure LoftCtx where
  tenant : Nat
  island : Nat
  seq : BitVec 32
  rung : Nat
  dtime : Nat
  /-- The four bays, by module bay number. -/
  bays : List (Nat × Bay)
  /-- Scratchpad and accumulator bytes of the four bays, by global address, and their poison. -/
  mem : Memory
  mpoison : Memory
  /-- Fields whose origin bay lies on the island, with their walk state, and the field's instances. -/
  fields : List Field
  insts : List Inst
  deriving DecidableEq, Repr

/-- State of the loft of one island. -/
inductive Loft
  | empty
  | full (ctx : Nat)
  | restoring (ctx : Nat)
  deriving DecidableEq, Repr

/-- An MSI-X message sent to a function, newest last. -/
structure Msix where
  tenant : Nat
  physical : Bool
  deriving DecidableEq, Repr

/-- What a host access returned. -/
inductive HostReply
  | data (bytes : List Byte)
  | unsupported
  deriving DecidableEq, Repr

/-- What holds a module set of R296: a party; or, for a party that acquires the completion of an UPDS (R74, R76), a
semaphore it has signalled, an edge that holds its done token, or its port for the KWAIT of one actor. -/
inductive Carrier
  | party (w : Who)
  | sem (bay n : Nat)
  | edge (bay n : Nat)
  | port (bay p actor : Nat)
  deriving DecidableEq, Repr

/-- Modules to which a party has sent pairs of a sync object since its last release on it (R296). -/
structure SentSet where
  who : Carrier
  sync : Nat
  tenant : Nat
  modules : BitVec 320
  deriving DecidableEq, Repr

/-- A range of memory that reads as undefined until its owner is done (R79, R356). -/
structure Veil where
  lo : Nat
  hi : Nat
  field : Nat
  /-- Section instance and channel of a spill ring, or sequence number of a collective. -/
  inst : Nat
  chan : Nat
  deriving DecidableEq, Repr

/-- An access of a party of a member module that has travelled here (R359); addresses are local ones of this module. -/
inductive PeerAccess
  /-- A read of runs: a load, a gather, a copy's source, a poll of a sync word. -/
  | read (at_ : List (Nat × Nat))
  /-- A write of runs: a store, a copy's write, a sync word's release by a plain value. -/
  | write (at_ : List (Nat × Nat)) (bytes : List (Byte × Bool))
  /-- An update pair: operator, sync object and virtual address of its region, address, value. -/
  | pair (handle op sync va at_ : Nat) (value : Word) (poison : Bool)
  /-- SYNCADD at the word's home (R75). -/
  | add (at_ : Nat) (value : Word) (poison : Bool)
  /-- SYNCCAS, and with it ACQ and REL, at the word's home (R70, R75). -/
  | cas (at_ : Nat) (old new : Word) (poison : Bool)
  /-- A release on a sync word homed here reports the modules of its party's pairs (R296). -/
  | report (va : Nat) (modules : BitVec 320)
  /-- An acquire of a sync object homed here takes its module set (R296). -/
  | acquire (va : Nat)
  /-- A sweep of a sync object's pairs (R296). -/
  | sweep (va : Nat)
  deriving DecidableEq, Repr

/-- What the agenda names: a firing to issue one instruction, an event of the opcode table, or one of three things that have
no row there. -/
inductive Turn
  | issue (bay actor : Nat)
  /-- A store that a bay's forwarding table holds is performed (R61). -/
  | perform (bay n : Nat)
  /-- A function reads a register of its BAR0 (R393, R394). -/
  | regRead (fn : HostFn) (off size : Nat)
  /-- An access of a tenant's party arrives from a member module (R359). -/
  | peer (module tenant : Nat) (a : PeerAccess)
  | event (i : Instr)
  deriving DecidableEq, Repr

end Sys2Proof.Machine
end

