-- ==== Sys2Proof/Machine/State.lean ====
section
/-! DEFINITION. The state of the machine, the reasons a step can stop, and the machine right after reset. -/

namespace Sys2Proof.Machine

/-- Reasons a step stops. -/
inductive Fault
  /-- Raised by `step` when the agenda names as an event an instruction that only a firing issues. No hardware does
  this: it is a bad schedule, so stopping is safe. -/
  | badSchedule
  deriving DecidableEq, Repr

/-- Reasons an instruction has no meaning. -/
inductive Refusal
  /-- Raised by an arm of `exec` that has no meaning yet; safe. -/
  | notModelled (mnemonic : String)
  deriving DecidableEq, Repr

/-- The registers with every bit 0. -/
def Regs.zero : Regs where
  g := Vector.replicate 32 0
  gp := 0
  v := Vector.replicate 32 0
  vp := Vector.replicate 32 0
  m := Vector.replicate 8 0
  z := Vector.replicate 16 0
  k := Vector.replicate 8 0
  kp := 0
  rmode := 0
  flags := 0
  lc0 := 0
  lc1 := 0
  depth := 0
  ls0 := 0
  le0 := 0
  ls1 := 0
  le1 := 0
  pc := 0

/-- No firing: what the issue stage holds before any firing is issued. -/
def Firing.none : Firing where
  bay := 0
  actor := 0
  field := 0
  inst := 0
  fidx := 0
  fx := 0
  fy := 0
  regs := Regs.zero
  status := .ended
  slot := false
  fresh := true
  region := Option.none
  moved := []
  rows := []
  cycles := 0
  since := 0

/-- A persistent set at the first firing of an instance: all zero (R37). -/
def Persist.zero : Persist where
  g := Vector.replicate 8 0
  gp := 0
  v := Vector.replicate 8 0
  vp := Vector.replicate 8 0

/-- An invalid weight slot. -/
def Slot.invalid : Slot := ⟨false, 0, [], false, false⟩

/-- The array as SECTION arm sets it (R266). -/
def Flail.armed : Flail where
  winnow := false
  len := 0
  ksel := 0
  running := []
  runPoison := false
  slots := []
  scales := []
  resident := Option.none

/-- A bay with nothing on it. -/
def Bay.idle : Bay where
  inst := Option.none
  halted := false
  faulted := false
  firings := []
  ended := Option.none
  fireOrder := []
  persist := []
  fired := []
  sems := []
  semWaiters := []
  cmask := 0
  msgs := []
  queues := []
  stuck := []
  edges := []
  held := []
  scoreboard := []
  inbound := []
  fwd := []
  cause := 0
  epc := 0
  faddr := 0
  cyc := 0
  hcache := []
  codes := []
  code := Option.none
  array := Flail.armed
  counters := []

/-- An empty channel. -/
def Chan.empty : Chan where
  fifo := []
  flight := []
  part := []
  rows := 0
  ringHead := 0
  ringCount := 0
  ringPoison := []
  sent := 0
  consumed := 0
  seen := 0
  passed := 0
  eosSent := false
  closed := false
  cut := false
  stored := Option.none
  waited := Option.none

/-- A tenant's registers at reset (R257, R301, R318, R344, R365, R373, R376, R387, R403). -/
def Tenant.reset : Tenant where
  htbase := 0
  xroot := 0
  apbase := 0
  partcfg := 0
  verq := 0
  grncnt := 0
  prqcfg := 8
  slicecfg := 0x0032006400000000
  prestat := 0
  fltring := 0
  fltptr := 0
  solvst := 0
  pwrcfg := 0x00000001000FFFFF
  pwrgnt := 0x0FFFFF0000000000
  mcstat := 0
  lqdisc := 0
  launches := []
  pmap := []
  stop := .idle
  stopAt := 0
  sliceAt := 0
  stopSeq := 0
  solve := Option.none
  asked := false

/-- A Granary with nothing pending. -/
def Slice.empty : Slice := ⟨[], false, [], [], []⟩

/-- ISLST of an island at reset: 0 (R343). -/
def Island.reset : Island := ⟨0, 0, 0, 0, 0, false, 0, 0, 0⟩

/-- LNKST at reset (R362): PEER 0x1FF, the rest 0. -/
def Link.reset : Link := ⟨0x1FF, 0, 0, 0, 0, 0, false⟩

/-- The machine. -/
structure State where
  /-- The issue stage: the firing whose instruction is being executed. -/
  fir : Firing
  /-- The model's own field: which unit acts in each coming step. -/
  agenda : List Turn
  /-- The model's own field: counts free values drawn. -/
  draw : Nat
  /-- The model's own field: counts parkings, so that the earliest is known (R36). -/
  parkings : Nat
  /-- The model's own field: number of the next command. -/
  nextCmd : Nat
  /-- Device time in ticks (DTIME, R150). -/
  dtime : Word
  /-- HBM4E and bay-window bytes by global physical address (R53). -/
  mem : Memory
  /-- 1 at each byte marked poisoned (R389). -/
  mpoison : Memory
  /-- Bays by module bay number; default `Bay.idle`. -/
  bays : Table Bay
  fields : List Field
  insts : List Inst
  /-- Number of the next placed field; 0 stands for no field. -/
  nextField : Nat
  /-- Tenants 0..15; default `Tenant.reset`. -/
  tenants : Table Tenant
  /-- Translation caches of the module's units (R51). -/
  tlb : List TlbEntry
  /-- Cached table entries that point to tables (R51). -/
  walks : List WalkEntry
  /-- Handle entries cached by sequencers, keyed die * 65536 + tenant * 4096 + index (R262). -/
  seqCache : Table (BitVec 256)
  images : List CachedImage
  /-- Granaries by module slice number; default `Slice.empty`. -/
  slices : Table Slice
  /-- Pairs on their way to their home slices, oldest first (R289). -/
  pairs : List Pair
  sentSets : List SentSet
  /-- Module sets of sync objects by word address; default none (R296). -/
  syncSets : Table (BitVec 320)
  /-- Waiters on words, in arrival order. -/
  waiters : List WordWaiter
  streams : List McStream
  nextStream : Nat
  colls : List Coll
  /-- Route-class messages on their way (R351). -/
  msgs : List MsgFlight
  /-- Register-window units on their way (R229). -/
  rwq : List RwUnit
  veils : List Veil
  /-- MODINFO.MODNUM (R20). -/
  modnum : BitVec 9
  errstat : Word
  domcfg : Word
  bootst : Word
  modpwr : Word
  hosterr : Word
  /-- ARTB, ARTL, ARTS of entries 0..63; default 0 (R57). -/
  art : Table (Word × Word × Word)
  /-- Page-request entries by queue index (R317). -/
  prq : Table PageReq
  prqWaiting : List PageReq
  /-- Next sequence number, from 1 (R319). -/
  prqSeq : BitVec 32
  fills : List PageFill
  /-- COSTT as written over the boot values (R344). -/
  costt : Table (BitVec 32)
  /-- SAMPLEP.PERIOD (R150). -/
  samplep : BitVec 14
  /-- Islands 0..511; default `Island.reset`. -/
  islands : Table Island
  /-- Selrin Link ports 0..17; default `Link.reset`. -/
  links : Table Link
  /-- Outgoing port per destination module, and, keyed past 512 by `routeKey`, of one source die and home slice where that
  differs; a port above 17 and an absent entry are no route (R359). -/
  routes : Table Nat
  /-- Other members of the domain (R359). -/
  members : List Nat
  routeWaits : List RouteWait
  /-- Mailbox ring bytes at offsets 0x3000..0x4FFF; default 0 (R398). -/
  mbox : Table Byte
  h2cprod : BitVec 16
  h2ccons : BitVec 16
  c2hprod : BitVec 16
  c2hcons : BitVec 16
  /-- Messages of Clotus that wait for room in the Clotus-to-host ring (R398). -/
  c2hWait : List (List Byte)
  /-- The invalidation that Clotus performs for the host waits for these accesses (R398). -/
  mboxInval : Option Pending
  /-- Writes of each function held at its ordering point, keyed port * 16 + vf (R396). -/
  hostWrites : Table (List HostWrite)
  hostReply : Option HostReply
  msix : List Msix
  /-- Rate and width each host port trained to (R392). -/
  hostPorts : Table (Nat × Nat)
  /-- The loft of each island; default empty (R384). -/
  lofts : Table Loft
  ctxs : List LoftCtx
  /-- Counter blocks at the latest sample boundary, by bay (R339). -/
  snaps : Table (Table (BitVec 32))
  snapAt : Nat
  /-- PERIOD of the sample in progress: a write of SAMPLEP applies from the next boundary (R339). -/
  sampleLen : Nat
  /-- Changes of the counters over the last complete sample, by bay (R339, R340). -/
  samples : Table (Table (BitVec 32))
  /-- Device tick of the latest power interval's end (R332). -/
  powerAt : Nat
  /-- A ratio or code of the tenant changed in the current sample (R341). -/
  changing : List Nat
  deriving DecidableEq, Repr

/-- The machine right after reset: every register at the value its rule states; the boot ROM runs (R399, R400). -/
def State.reset : State where
  fir := Firing.none
  agenda := []
  draw := 0
  parkings := 0
  nextCmd := 1
  dtime := 0
  mem := []
  mpoison := []
  bays := []
  fields := []
  insts := []
  nextField := 1
  tenants := []
  tlb := []
  walks := []
  seqCache := []
  images := []
  slices := []
  pairs := []
  sentSets := []
  syncSets := []
  waiters := []
  streams := []
  nextStream := 1
  colls := []
  msgs := []
  rwq := []
  veils := []
  modnum := 0x1FF
  errstat := 0
  domcfg := 10000
  bootst := 0
  modpwr := 7200
  hosterr := 0
  art := []
  prq := []
  prqWaiting := []
  prqSeq := 1
  fills := []
  costt := []
  samplep := 10
  islands := []
  links := []
  routes := []
  members := []
  routeWaits := []
  mbox := []
  h2cprod := 0
  h2ccons := 0
  c2hprod := 0
  c2hcons := 0
  c2hWait := []
  mboxInval := none
  hostWrites := []
  hostReply := none
  msix := []
  hostPorts := []
  lofts := []
  ctxs := []
  snaps := []
  snapAt := 0
  sampleLen := 10
  samples := []
  powerAt := 0
  changing := []

end Sys2Proof.Machine
end

