-- ==== Sys2Proof/Machine/Sparse.lean ====
section
/-! DEFINITION. Sparse tables and memory: reads and writes that keep keys strictly rising, and the canonical
form of memory (no entry equal to what an unlisted address reads as). -/

namespace Sys2Proof.Machine

/-- The value of key `k`, if listed. -/
def tget {α : Type} (k : Nat) : Table α → Option α
  | [] => none
  | (j, a) :: t => if j = k then some a else if k < j then none else tget k t

/-- List key `k` with value `a`. -/
def tput {α : Type} (k : Nat) (a : α) : Table α → Table α
  | [] => [(k, a)]
  | (j, b) :: t => if j = k then (k, a) :: t else if k < j then (k, a) :: (j, b) :: t else (j, b) :: tput k a t

/-- Drop key `k`. -/
def tdel {α : Type} (k : Nat) : Table α → Table α
  | [] => []
  | (j, b) :: t => if j = k then t else if k < j then (j, b) :: t else (j, b) :: tdel k t

/-- The value of key `k`, or `d`. -/
def tgetD {α : Type} (k : Nat) (d : α) (t : Table α) : α := (tget k t).getD d

/-- Change the value of key `k`, which is `d` when it is not listed. -/
def tmod {α : Type} (k : Nat) (d : α) (f : α → α) (t : Table α) : Table α := tput k (f (tgetD k d t)) t

/-- What an unlisted byte reads as (notes/assumptions/2.md). DESIGN CHOICE. -/
def Memory.unlisted : Byte := 0

/-- Read one byte. -/
def Memory.read (m : Memory) (a : Nat) : Byte := tgetD a Memory.unlisted m

/-- Write one byte; the byte an unlisted address reads as is not listed. -/
def Memory.write (m : Memory) (a : Nat) (b : Byte) : Memory :=
  if b = Memory.unlisted then tdel a m else tput a b m

/-- Keys of the rest rise strictly above `k`, and no entry holds the unlisted byte. -/
def Memory.wfAbove (k : Nat) : Memory → Bool
  | [] => true
  | (j, b) :: t => decide (k < j) && decide (b ≠ Memory.unlisted) && Memory.wfAbove j t

/-- The canonical form of memory. -/
def Memory.wf : Memory → Bool
  | [] => true
  | (j, b) :: t => decide (b ≠ Memory.unlisted) && Memory.wfAbove j t

/-- Write a list of bytes from address `a` on. -/
def Memory.writeList (m : Memory) (a : Nat) : List Byte → Memory
  | [] => m
  | b :: bs => Memory.writeList (m.write a b) (a + 1) bs

/-- Read `n` bytes from address `a` on. -/
def Memory.readList (m : Memory) (a : Nat) : Nat → List Byte
  | 0 => []
  | n + 1 => m.read a :: Memory.readList m (a + 1) n

/-- The little-endian number of a list of bytes (R5). -/
def leNat : List Byte → Nat
  | [] => 0
  | b :: bs => b.toNat + 256 * leNat bs

/-- The `n` low bytes of a number, least significant first (R5). -/
def natLe : Nat → Nat → List Byte
  | 0, _ => []
  | n + 1, x => BitVec.ofNat 8 x :: natLe n (x / 256)

/-- Bits `[hi:lo]` of a number. -/
def bits (x hi lo : Nat) : Nat := (x >>> lo) % 2 ^ (hi + 1 - lo)

/-- Bit `i` of a number. -/
def nbit (x i : Nat) : Bool := x.testBit i

/-- Replace bits `[hi:lo]` of a number. -/
def setBits (x hi lo v : Nat) : Nat := x - (bits x hi lo) <<< lo + (v % 2 ^ (hi + 1 - lo)) <<< lo

/-- Replace bits `[hi:lo]` of a register by a number. -/
def wset (x : Word) (hi lo v : Nat) : Word := BitVec.ofNat 64 (setBits x.toNat hi lo v)

/-- Bits `[hi:lo]` of a register. -/
def wget (x : Word) (hi lo : Nat) : Nat := bits x.toNat hi lo

/-- Add `n` to the field `[hi:lo]` of a register, saturating. -/
def wadd (x : Word) (hi lo n : Nat) : Word :=
  wset x hi lo (Nat.min (wget x hi lo + n) (2 ^ (hi + 1 - lo) - 1))

/-- The first element that meets `p`, with its position. -/
def findAt {α : Type} (p : α → Bool) : List α → Option (Nat × α)
  | [] => none
  | a :: l => if p a then some (0, a) else (findAt p l).map fun (i, b) => (i + 1, b)

/-- Replace the element at position `i`. -/
def setAt {α : Type} : List α → Nat → α → List α
  | [], _, _ => []
  | _ :: l, 0, a => a :: l
  | b :: l, i + 1, a => b :: setAt l i a

/-- Drop the element at position `i`. -/
def dropAt {α : Type} : List α → Nat → List α
  | [], _ => []
  | _ :: l, 0 => l
  | b :: l, i + 1 => b :: dropAt l i

/-- Insert before the first element with a larger key. -/
def insertBy {α : Type} (key : α → Nat) (a : α) : List α → List α
  | [] => [a]
  | b :: l => if key a < key b then a :: b :: l else b :: insertBy key a l
/-- Sort by a key, least first; elements of one key keep their order. -/
def sortBy {α : Type} (key : α → Nat) (l : List α) : List α := l.foldl (fun acc a => insertBy key a acc) []

end Sys2Proof.Machine
end

