-- ==== Sys2Proof/Machine/Flags.lean ====
section
/-! DEFINITION. The sticky floating-point flags (R88). Every flag computation is a part of the number operations of
Num.lean, each of which answers a result with the flags it raises. -/

namespace Sys2Proof.Machine

/-- FLAGS bits (R88). -/
def fNV : BitVec 5 := 16
def fDZ : BitVec 5 := 8
def fOF : BitVec 5 := 4
def fUF : BitVec 5 := 2
def fNX : BitVec 5 := 1

/-- A flag when a condition holds. -/
def flagIf (b : Bool) (f : BitVec 5) : BitVec 5 := if b then f else 0

end Sys2Proof.Machine
end

