-- ==== Sys2Proof/Machine/Num.lean ====
section
/-! DEFINITION. Number formats and arithmetic (R84-R103): decoding to exact values, rounding with flags, and
every conversion. Values are formed exactly and rounded once; formats and results are natural numbers that
hold the bits of the format. -/

namespace Sys2Proof.Machine

/-- A binary floating-point format: exponent and fraction bits (R85). -/
structure Fmt where
  eb : Nat
  fb : Nat
  deriving DecidableEq, Repr

/-- The formats of R85. -/
def F32 : Fmt := ⟨8, 23⟩
def F16 : Fmt := ⟨5, 10⟩
def BF16 : Fmt := ⟨8, 7⟩

/-- Format of a floating-point element type. -/
def ftFmt : FT → Fmt
  | .f32 => F32
  | .bf16 => BF16
  | .f16 => F16

/-- Width in bits. -/
def Fmt.width (f : Fmt) : Nat := 1 + f.eb + f.fb
/-- Exponent bias. -/
def Fmt.bias (f : Fmt) : Nat := 2 ^ (f.eb - 1) - 1
/-- Exponent of the smallest normal number. -/
def Fmt.emin (f : Fmt) : Int := 1 - (f.bias : Int)
/-- The canonical NaN (R85). -/
def Fmt.nan (f : Fmt) : Nat := (2 ^ f.eb - 1) * 2 ^ f.fb + 2 ^ (f.fb - 1)
/-- The sign bit as a number. -/
def Fmt.sgn (f : Fmt) (neg : Bool) : Nat := if neg then 2 ^ (f.eb + f.fb) else 0
/-- Infinity of a sign. -/
def Fmt.inf (f : Fmt) (neg : Bool) : Nat := f.sgn neg + (2 ^ f.eb - 1) * 2 ^ f.fb
/-- The largest finite value of a sign. -/
def Fmt.maxFinite (f : Fmt) (neg : Bool) : Nat := f.inf neg - 1

/-- An exact value: NaN (and whether signalling), infinity, or a dyadic number `± m * 2^e`. -/
inductive FVal
  | nan (sig : Bool)
  | inf (neg : Bool)
  | fin (neg : Bool) (m : Nat) (e : Int)
  deriving DecidableEq, Repr

/-- The value of a bit pattern (R85). -/
def Fmt.decode (f : Fmt) (x : Nat) : FVal :=
  let neg := x.testBit (f.eb + f.fb)
  let ex := bits x (f.eb + f.fb - 1) f.fb
  let fr := x % 2 ^ f.fb
  if ex = 2 ^ f.eb - 1 then
    if fr = 0 then .inf neg else .nan (!fr.testBit (f.fb - 1))
  else if ex = 0 then .fin neg fr (f.emin - f.fb)
  else .fin neg (2 ^ f.fb + fr) ((ex : Int) - f.bias - f.fb)

/-- A value is a NaN. -/
def FVal.isNan : FVal → Bool
  | .nan _ => true
  | _ => false
/-- A value is a signalling NaN. -/
def FVal.isSig : FVal → Bool
  | .nan s => s
  | _ => false
/-- A value is a zero of either sign. -/
def FVal.isZero : FVal → Bool
  | .fin _ m _ => m == 0
  | _ => false
/-- The sign of a value that is not a NaN. -/
def FVal.neg : FVal → Bool
  | .nan _ => false
  | .inf n => n
  | .fin n _ _ => n
/-- The value with its sign inverted. -/
def FVal.negate : FVal → FVal
  | .nan s => .nan s
  | .inf n => .inf (!n)
  | .fin n m e => .fin (!n) m e

/-- Divide by `2^s`, rounding in a mode of R87; `sticky` says that the true value lies a little above `m`.
Answers the rounded number and whether it is inexact. -/
def roundShift (mode : Nat) (neg : Bool) (m s : Nat) (sticky : Bool) : Nat × Bool :=
  let n := m >>> s
  let r := m % 2 ^ s
  let h := 2 ^ s / 2
  let inexact := r ≠ 0 || sticky
  let up := match mode with
    | 0 => decide (s ≠ 0) && (decide (r > h) || (decide (r = h) && (sticky || n % 2 == 1)))
    | 1 => false
    | 2 => inexact && !neg
    | _ => inexact && neg
  (if up then n + 1 else n, inexact)

/-- What an overflow gives (R87). -/
def Fmt.overflow (f : Fmt) (mode : Nat) (neg : Bool) : Nat :=
  match mode with
  | 0 => f.inf neg
  | 1 => f.maxFinite neg
  | 2 => if neg then f.maxFinite true else f.inf false
  | _ => if neg then f.inf true else f.maxFinite false

/-- Round `± m * 2^e` (a little more when `sticky`) to a format in a mode (R87), with OF, UF and NX (R88). -/
def Fmt.round (f : Fmt) (mode : Nat) (neg : Bool) (m : Nat) (e : Int) (sticky : Bool) : Nat × BitVec 5 :=
  if m = 0 && !sticky then (f.sgn neg, 0) else
  let lead : Int := (m.log2 : Int) + e
  let qu := lead - f.fb
  let q := max qu (f.emin - f.fb)
  -- scale so that the quantum is an integer shift
  let r : Nat × Bool := if q ≤ e then (m <<< (e - q).toNat, sticky) else roundShift mode neg m (q - e).toNat sticky
  let n := r.1
  let up : Nat × Bool :=
    if qu ≤ e then (m <<< (e - qu).toNat, sticky) else roundShift mode neg m (qu - e).toNat sticky
  let tiny := decide (lead < f.emin) && !(decide (lead = f.emin - 1) && decide (up.1 ≥ 2 ^ (f.fb + 1)))
  let carry := decide (n ≥ 2 ^ (f.fb + 1))
  let n1 := if carry then n / 2 else n
  let q1 := if carry then q + 1 else q
  if n1 < 2 ^ f.fb then
    (f.sgn neg + n1, flagIf (r.2 && tiny) fUF ||| flagIf r.2 fNX)
  else
    let ex := q1 + f.fb + f.bias
    if ex ≥ 2 ^ f.eb - 1 then (f.overflow mode neg, fOF ||| fNX)
    else (f.sgn neg + ex.toNat * 2 ^ f.fb + (n1 - 2 ^ f.fb), flagIf (r.2 && tiny) fUF ||| flagIf r.2 fNX)

/-- A signed dyadic number `m * 2^e`. -/
abbrev Dy := Int × Int

/-- Sum of two dyadic numbers. -/
def Dy.add (a b : Dy) : Dy :=
  let e := min a.2 b.2
  (a.1 * 2 ^ (a.2 - e).toNat + b.1 * 2 ^ (b.2 - e).toNat, e)
/-- `a ≤ b` for dyadic numbers. -/
def Dy.le (a b : Dy) : Bool :=
  let e := min a.2 b.2
  decide (a.1 * 2 ^ (a.2 - e).toNat ≤ b.1 * 2 ^ (b.2 - e).toNat)
/-- The dyadic number of a finite value; 0 for the others. -/
def FVal.dy : FVal → Dy
  | .fin n m e => (if n then -(m : Int) else m, e)
  | _ => (0, 0)
/-- Absolute value. -/
def Dy.abs (a : Dy) : Dy := (a.1.natAbs, a.2)

/-- Round a dyadic number; an exact zero has the sign given. -/
def Fmt.roundDy (f : Fmt) (mode : Nat) (x : Dy) (zneg : Bool) : Nat × BitVec 5 :=
  if x.1 = 0 then (f.sgn zneg, 0) else f.round mode (decide (x.1 < 0)) x.1.natAbs x.2 false

/-- Round any value. -/
def Fmt.ofVal (f : Fmt) (mode : Nat) : FVal → Nat × BitVec 5
  | .nan s => (f.nan, flagIf s fNV)
  | .inf n => (f.inf n, 0)
  | .fin n m e => f.round mode n m e false

/-- Addition, rounded once (R87, R188). -/
def Fmt.add (f : Fmt) (mode : Nat) (a b : FVal) : Nat × BitVec 5 :=
  match a, b with
  | .nan s, .nan t => (f.nan, flagIf (s || t) fNV)
  | .nan s, _ => (f.nan, flagIf s fNV)
  | _, .nan t => (f.nan, flagIf t fNV)
  | .inf m, .inf n => if m = n then (f.inf m, 0) else (f.nan, fNV)
  | .inf m, _ => (f.inf m, 0)
  | _, .inf n => (f.inf n, 0)
  | .fin m x e, .fin n y d =>
    f.roundDy mode (Dy.add (FVal.fin m x e).dy (FVal.fin n y d).dy)
      ((m && n && x == 0 && y == 0) || mode == 3)

/-- The exact product of two values. -/
def FVal.mul (a b : FVal) : FVal :=
  match a, b with
  | .nan s, .nan t => .nan (s || t)
  | .nan s, _ => .nan s
  | _, .nan t => .nan t
  | .inf m, .inf n => .inf (m ^^ n)
  | .inf m, .fin n y _ => if y = 0 then .nan true else .inf (m ^^ n)
  | .fin m x _, .inf n => if x = 0 then .nan true else .inf (m ^^ n)
  | .fin m x e, .fin n y d => .fin (m ^^ n) (x * y) (e + d)

/-- Multiplication, rounded once. -/
def Fmt.mul (f : Fmt) (mode : Nat) (a b : FVal) : Nat × BitVec 5 := f.ofVal mode (a.mul b)

/-- `a * b + d`, rounded once (R188); NV for 0 × ∞ even when `d` is a quiet NaN. -/
def Fmt.fma (f : Fmt) (mode : Nat) (a b d : FVal) : Nat × BitVec 5 := f.add mode (a.mul b) d

/-- VFMIN and VFMAX (R189): the operand's bits, exactly. -/
def Fmt.minmax (f : Fmt) (isMax : Bool) (x y : Nat) : Nat × BitVec 5 :=
  let a := f.decode x
  let b := f.decode y
  let nv := flagIf (a.isSig || b.isSig) fNV
  if a.isNan && b.isNan then (f.nan, nv)
  else if a.isNan then (y, nv)
  else if b.isNan then (x, nv)
  else
    -- order of bit patterns: sign and magnitude, −0 below +0
    let key (z : Nat) : Int :=
      let m := z % 2 ^ (f.eb + f.fb)
      if z.testBit (f.eb + f.fb) then -(m : Int) - 1 else m
    if isMax then (if key x < key y then y else x, nv) else (if key y < key x then y else x, nv)

/-- The order of two values that are not NaNs: `a < b` and `a = b`. -/
def FVal.cmp (a b : FVal) : Bool × Bool :=
  match a, b with
  | .nan _, _ => (false, false)
  | _, .nan _ => (false, false)
  | .inf m, .inf n => (m && !n, m == n)
  | .inf m, _ => (m, false)
  | _, .inf n => (!n, false)
  | .fin m x e, .fin n y d =>
    let p := (FVal.fin m x e).dy
    let q := (FVal.fin n y d).dy
    (!(Dy.le q p), Dy.le q p && Dy.le p q)

/-- Bitwise integer square root: `fuel` bits, most significant first. -/
def isqrtAux : Nat → Nat → Nat → Nat
  | 0, _, r => r
  | k + 1, n, r =>
    let t := r + 2 ^ k
    isqrtAux k n (if t * t ≤ n then t else r)
/-- Integer square root. -/
def isqrt (n : Nat) : Nat := isqrtAux (n.log2 / 2 + 1) n 0

/-- 1/a, correctly rounded (R188, R189). -/
def Fmt.rcp (f : Fmt) (mode : Nat) : FVal → Nat × BitVec 5
  | .nan s => (f.nan, flagIf s fNV)
  | .inf n => (f.sgn n, 0)
  | .fin n m e =>
    if m = 0 then (f.inf n, fDZ) else
    let k := 2 * f.fb + 8 + m.log2
    f.round mode n (2 ^ k / m) (-(k : Int) - e) (2 ^ k % m ≠ 0)

/-- 1/√a, correctly rounded. -/
def Fmt.rsq (f : Fmt) (mode : Nat) : FVal → Nat × BitVec 5
  | .nan s => (f.nan, flagIf s fNV)
  | .inf n => if n then (f.nan, fNV) else (0, 0)
  | .fin n m e =>
    if m = 0 then (f.inf n, fDZ) else if n then (f.nan, fNV) else
    let odd := e % 2 ≠ 0
    let m1 := if odd then 2 * m else m
    let e1 := if odd then e - 1 else e
    let k := f.fb + 8 + m1.log2
    let q := 2 ^ (2 * k) / m1
    let r := isqrt q
    f.round mode false r (-(k : Int) - e1 / 2) (r * r ≠ q || 2 ^ (2 * k) % m1 ≠ 0)

/-! ### 2^a and log₂ a, by bounds on both sides (R87, R189) -/

/-- Fraction bits of the fixed-point numbers that bound the two functions. -/
def fixP : Nat := 320

/-- `Σ z^(2k+1)/(2k+1)` in fixed point, for `z = zn / 2^fixP`; each term is rounded down. -/
def atanhAux : Nat → Nat → Nat → Nat → Nat → Nat
  | 0, _, _, _, acc => acc
  | n + 1, p, z2, k, acc => atanhAux n (p * z2 / 2 ^ fixP) z2 (k + 2) (acc + p / k)
/-- Artanh of `zn / 2^fixP`, low by less than 500 units. -/
def atanhFix (zn : Nat) : Nat := atanhAux 120 zn (zn * zn / 2 ^ fixP) 1 0
/-- ln 2, low by less than 1000 units. -/
def ln2Fix : Nat := 2 * atanhFix (2 ^ fixP / 3)
/-- `Σ x^k/k!`, each term rounded down. -/
def expAux : Nat → Nat → Nat → Nat → Nat → Nat
  | 0, _, _, _, acc => acc
  | n + 1, t, x, k, acc => expAux n (t * x / 2 ^ fixP / k) x (k + 1) (acc + t)
/-- `2^x` for `x = xn / 2^fixP` in [0, 1), low by less than 4000 units. -/
def exp2Fix (xn : Nat) : Nat := expAux 90 (2 ^ fixP) (xn * ln2Fix / 2 ^ fixP) 1 0
/-- log₂ of `y / 2^s` in [1, 2), off by less than 8000 units. -/
def log2Fix (y s : Nat) : Nat :=
  let one := 2 ^ s
  2 * atanhFix ((y - one) * 2 ^ fixP / (y + one)) * 2 ^ fixP / ln2Fix

/-- The result when both bounds round alike, else a value the model does not fix. -/
def Fmt.between (f : Fmt) (x : Nat) (lo hi : Nat × BitVec 5) : Nat × BitVec 5 :=
  if lo = hi then lo else ((Config.freeTranscendental (BitVec.ofNat 32 x)).toNat % 2 ^ f.width, fNX)

/-- 2^a, correctly rounded. -/
def Fmt.exp2 (f : Fmt) (mode : Nat) (x : Nat) : Nat × BitVec 5 :=
  match f.decode x with
  | .nan s => (f.nan, flagIf s fNV)
  | .inf n => if n then (0, 0) else (f.inf false, 0)
  | .fin n m e =>
    if m = 0 then (f.bias * 2 ^ f.fb, 0) else
    let mag : Nat := if e ≥ 0 then m <<< e.toNat else m >>> (-e).toNat
    if mag > 1024 then
      if n then f.round mode false (2 ^ 60) (-3000) true else f.round mode false (2 ^ 60) 3000 false
    else
      let s := (-e).toNat
      let v : Int := if e ≥ 0 then (if n then -(mag : Int) else mag) else (if n then -(m : Int) else m)
      let whole : Int := if e ≥ 0 then v else v / 2 ^ s
      let frac : Nat := if e ≥ 0 then 0 else (v - whole * 2 ^ s).toNat
      if frac = 0 then f.round mode false 1 whole false
      else
        let t := exp2Fix (frac <<< fixP >>> s)
        f.between x (f.round mode false (t - 1) (whole - fixP) true)
          (f.round mode false (t + 8000) (whole - fixP) true)

/-- log₂ a, correctly rounded. -/
def Fmt.log2 (f : Fmt) (mode : Nat) (x : Nat) : Nat × BitVec 5 :=
  match f.decode x with
  | .nan s => (f.nan, flagIf s fNV)
  | .inf n => if n then (f.nan, fNV) else (f.inf false, 0)
  | .fin n m e =>
    if m = 0 then (f.inf true, fDZ) else if n then (f.nan, fNV) else
    let l := m.log2
    let ex : Int := (l : Int) + e
    if m = 2 ^ l then f.round mode (decide (ex < 0)) ex.natAbs 0 false
    else
      let v : Int := ex * 2 ^ fixP + log2Fix m l
      let lo := v - 10000
      let hi := v + 10000
      let r (z : Int) := f.round mode (decide (z < 0)) z.natAbs (-(fixP : Int)) true
      f.between x (r lo) (r hi)

/-! ### Sums of floating-point terms (R103) -/

/-- Exact sum of dyadic terms. -/
def dySum (l : List Dy) : Dy := l.foldl Dy.add (0, 0)

/-- Two dyadic numbers are equal. -/
def Dy.same (a b : Dy) : Bool := Dy.le a b && Dy.le b a

/-- The error bound of R103: `c` lies within (n - 1) * 2^-24 * Σ|x| of the exact sum of the terms. -/
def sumBound (terms : List Dy) (c : Dy) : Bool :=
  let exact := dySum terms
  let a := dySum (terms.map Dy.abs)
  Dy.le (Dy.abs (Dy.add c (-exact.1, exact.2))) (((terms.length - 1 : Nat) : Int) * a.1, a.2 - 24)

/-- Move the element that a choice names to the front. -/
def choose {α : Type} (n : Nat) (l : List α) : List α := l.rotateLeft (n % Nat.max 1 l.length)

/-- Form a sum two terms at a time, in the order the choices `ch` give, rounding each partial sum to a format in a
mode (R87, R103); `n` is the number of terms. With the sum come the flags of every addition and those of the last. -/
def joinTerms (f : Fmt) (mode : Nat) (ch : Nat → Nat) : Nat → List FVal → FVal × BitVec 5 × BitVec 5
  | 0, l => (l.headD (.fin false 0 0), 0, 0)
  | n + 1, l => match choose (ch (2 * n)) l with
    | [] => (.fin false 0 0, 0, 0)
    | [a] => (a, 0, 0)
    | a :: t => match choose (ch (2 * n + 1)) t with
      | [] => (a, 0, 0)
      | b :: t =>
        let z := f.add mode a b
        let r := joinTerms f mode ch n (f.decode z.1 :: t)
        (r.1, z.2 ||| r.2.1, if t = [] then z.2 else r.2.2)

/-- The format that holds VFDOT.BF16's partial sums: 24 or more significant bits and the exponent range of R90. -/
def dotFmt : Fmt := ⟨11, 23 + Config.dotExtra⟩

/-- A floating-point sum of terms in an unspecified order (R103), rounded in a mode: the choices `ch` fix the order.
`wide` says that partial sums have VFDOT.BF16's exponent range (R90). NX, OF and NV are those of the sum as a whole
(R195), UF that of its final rounding (R88, R90). Where the result of the tree leaves the bound of R103, the exact sum rounded
once in the mode stands in its place. DESIGN CHOICE (notes/assumptions/5.md), unsafe: where that leaves the bound too, as
in RTZ for 1 and 1.5 * 2^-24, R87's rounding stands and not R103's bound. -/
def fsum (mode : Nat) (wide : Bool) (ch : Nat → Nat) (terms : List FVal) : Nat × BitVec 5 :=
  if terms = [] then (0, 0) else
  let ds := terms.map FVal.dy
  let exact := dySum ds
  let finite := terms.all fun t => match t with
    | .fin _ _ _ => true
    | _ => false
  let zneg := mode == 3 || terms.all fun t => t.neg && t.isZero
  let last (x : FVal) : Nat × BitVec 5 := if x.isZero then (F32.sgn zneg, 0) else F32.ofVal mode x
  let j := joinTerms (if wide then dotFmt else F32) mode ch terms.length terms
  let ovf := j.2.1.getLsbD 2
  let tree := last j.1
  let out := finite && !ovf && !tree.2.getLsbD 2 && !sumBound ds (F32.decode tree.1).dy
  let r := if out then last (.fin (decide (exact.1 < 0)) exact.1.natAbs exact.2) else tree
  let inexact := finite && !ovf && !(F32.decode r.1).dy.same exact
  let uf := (if out then r.2 else r.2 ||| j.2.2) &&& fUF
  (r.1, ((j.2.1 ||| r.2) &&& (fNV ||| fOF)) ||| flagIf (inexact || ovf) fNX ||| uf)

/-- The terms of a list in the order the choices give. -/
def shuffle {α : Type} (ch : Nat → Nat) : Nat → List α → List α
  | 0, _ => []
  | n + 1, l => match choose (ch n) l with
    | [] => []
    | a :: t => a :: shuffle ch n t
/-- Parts of at most `k` terms; `fuel` bounds their number. -/
def parts {α : Type} (k : Nat) : Nat → List α → List (List α)
  | 0, _ => []
  | _, [] => []
  | n + 1, l => l.take k :: parts k n (l.drop k)
/-- The terms that one sum of R103 takes at most. -/
def sumTerms : Nat := 2 ^ 20
/-- A sum of F32 terms in round to nearest even; more than 2^20 are summed in parts of at most 2^20, and then the sums (R103). -/
def fsumAll (ch : Nat → Nat) (l : List FVal) : Nat :=
  if l.length ≤ sumTerms then (fsum 0 false ch l).1
  else (fsum 0 false ch ((parts sumTerms l.length (shuffle (fun j => ch (2 * j + 1)) l.length l)).zipIdx.map fun (p, k) =>
    F32.decode (fsum 0 false (fun j => ch (2 * (j + 2 * sumTerms * (k + 1)))) p).1)).1

/-- `init` plus every term, one at a time in the order the choices give, each partial sum rounded to nearest (R276). -/
def accTerms (ch : Nat → Nat) : Nat → FVal → List FVal → FVal
  | 0, acc, _ => acc
  | n + 1, acc, l => match choose (ch n) l with
    | [] => acc
    | a :: t => accTerms ch n (F32.decode (F32.add 0 acc a).1) t

/-! ### Integers and conversions -/

/-- The signed value of the low `w` bits. -/
def sint (w x : Nat) : Int := (BitVec.ofNat w x).toInt
/-- The low `w` bits of an integer. -/
def ofInt (w : Nat) (x : Int) : Nat := (BitVec.ofInt w x).toNat
/-- Clamp to the signed range of `w` bits. -/
def satInt (w : Nat) (x : Int) : Int := max (-(2 : Int) ^ (w - 1)) (min ((2 : Int) ^ (w - 1) - 1) x)

/-- Round `± m * 2^e` to an integer in a mode; also whether it is inexact. -/
def roundInt (mode : Nat) (neg : Bool) (m : Nat) (e : Int) : Int × Bool :=
  let r := if e ≥ 0 then (m <<< e.toNat, false) else roundShift mode neg m (-e).toNat false
  (if neg then -(r.1 : Int) else r.1, r.2)

/-- F32 to a signed integer of `w` bits (R89). -/
def f2i (w mode : Nat) : FVal → Nat × BitVec 5
  | .nan _ => (0, fNV)
  | .inf n => (ofInt w (satInt w (if n then -(2 : Int) ^ w else 2 ^ w)), fNV)
  | .fin n m e =>
    let r := roundInt mode n m e
    let s := satInt w r.1
    (ofInt w s, if s = r.1 then flagIf r.2 fNX else fNV)

/-- A signed integer to F32 under RNE (R194). -/
def i2f (x : Int) : Nat × BitVec 5 := F32.round 0 (decide (x < 0)) x.natAbs 0 false

/-- Scaled narrowing (R95): `RoundNE(x * r)` to `w` bits, with the actor core's flags. `r` is F32 bits. -/
def qnt (w : Nat) (x : FVal) (r : Nat) : Nat × BitVec 5 :=
  match x.mul (F32.decode r) with
  | .nan _ => (0, fNV)
  | .inf n => (ofInt w (satInt w (if n then -(2 : Int) ^ w else 2 ^ w)), fNV ||| fOF)
  | .fin n m e =>
    let q := roundInt 0 n m e
    let s := satInt w q.1
    (ofInt w s, if s = q.1 then flagIf q.2 fNX else fNV ||| fOF)

/-- The reciprocal that R95 keeps for a scale: `RoundNE(1/s)` in F32. -/
def scaleRcp (s : Nat) : Nat := (F32.rcp 0 (F32.decode s)).1

/-! ### MXFP4 blocks (R91, R92) -/

/-- Magnitudes of E2M1 codes, doubled. -/
def e2m1Twice : List Nat := [0, 1, 2, 3, 4, 6, 8, 12]

/-- Round a magnitude `m * 2^e` to the E2M1 grid: code, inexact, saturated. -/
def e2m1Round (m : Nat) (e : Int) : Nat × Bool × Bool :=
  let d : Dy := ((m : Int), e)
  -- midpoints, in quarters: 0.25, 0.75, 1.25, 1.75, 2.5, 3.5, 5, 7
  let gt (q : Nat) : Bool := !(Dy.le d ((q : Int), -2))
  let ge (q : Nat) : Bool := Dy.le ((q : Int), -2) d
  let code :=
    if gt 20 then 7 else if ge 14 then 6 else if gt 10 then 5 else if ge 7 then 4
    else if gt 5 then 3 else if ge 3 then 2 else if gt 1 then 1 else 0
  let v : Dy := (((e2m1Twice.getD code 0 : Nat) : Int), -1)
  (code, !(Dy.le d v && Dy.le v d), ge 28)

/-- The largest magnitude of a block: `none` when an element is infinite. -/
def maxAbs : List FVal → Option Dy
  | [] => some (0, 0)
  | .inf _ :: _ => none
  | x :: l => (maxAbs l).map fun b => if Dy.le b x.dy.abs then x.dy.abs else b

/-- floor(log₂ a) of a positive dyadic number. -/
def dyLog2 (a : Dy) : Int := (a.1.natAbs.log2 : Int) + a.2

/-- Encode 32 values as an MXFP4 block: the scale byte and 32 codes, and flags per element and block. -/
def e2m1Encode (xs : List FVal) : List Nat × List Nat × BitVec 5 :=
  if xs.any FVal.isNan then ([0xFF], xs.map fun _ => 0, fNV)
  else
    let x0 : Int := match maxAbs xs with
      | none => 127
      | some a => if a.1 = 0 then -127 else max (-127) (min 127 (dyLog2 a - 2))
    let enc (x : FVal) : Nat × BitVec 5 :=
      match x with
      | .inf n => ((if n then 8 else 0) + 7, fOF)
      | .fin n m e =>
        let r := e2m1Round m (e - x0)
        ((if n then 8 else 0) + r.1,
          flagIf r.2.2 fOF ||| (if m ≠ 0 && r.1 = 0 then fUF ||| fNX else flagIf r.2.1 fNX))
      | .nan _ => (0, 0)
    let es := xs.map enc
    ([(x0 + 127).toNat], es.map Prod.fst, es.foldl (fun f p => f ||| p.2) 0)

/-- Pack nibbles, low nibble first. -/
def nibbles : List Nat → List Nat
  | a :: b :: l => (a % 16 + 16 * (b % 16)) :: nibbles l
  | [a] => [a % 16]
  | [] => []
/-- Unpack nibbles. -/
def unnibble (l : List Nat) : List Nat := l.flatMap fun b => [b % 16, b / 16 % 16]

/-- The 17 bytes of an MXFP4 block. -/
def e2m1Block (xs : List FVal) : List Nat × BitVec 5 :=
  let r := e2m1Encode xs
  (r.1 ++ nibbles r.2.1, r.2.2)

/-- Decode an MXFP4 block of 17 bytes to exact values. -/
def e2m1Decode (b : List Nat) : List FVal :=
  let sc := b.getD 0 0
  (unnibble (b.drop 1)).map fun c =>
    if sc = 255 then .nan false
    else .fin (decide (c ≥ 8)) (e2m1Twice.getD (c % 8) 0) ((sc : Int) - 128)

/-! ### BX blocks (R93, R94) -/

/-- Parameters of a block format: largest m and bias B. -/
def bxMax : BXT → Nat
  | .bx8 => 63
  | .bx4 => 3
def bxBias : BXT → Nat
  | .bx8 => 133
  | .bx4 => 128
/-- Bytes of a block. -/
def bxSize : BXT → Nat
  | .bx8 => 34
  | .bx4 => 18

/-- `RoundNE(a * 2^k)` of a magnitude, as a number. -/
def rne (a : Dy) (k : Int) : Nat :=
  let e := a.2 + k
  if e ≥ 0 then a.1.natAbs <<< e.toNat else (roundShift 0 false a.1.natAbs (-e).toNat false).1

/-- The smallest e in `e..` (fuel steps) with `RoundNE(a * 2^(B-e)) ≤ M`, or 254. -/
def bxE0 (a : Dy) (bias mx : Nat) : Nat → Nat → Nat
  | 0, _ => 254
  | n + 1, e => if rne a ((bias : Int) - e) ≤ mx then e else bxE0 a bias mx n (e + 1)

/-- BxEncode (R94): the bytes of the block and the flags. -/
def bxEncode (t : BXT) (d : Nat) (xs : List FVal) : List Nat × BitVec 5 :=
  let pack (es : List Nat) : List Nat := match t with
    | .bx8 => es
    | .bx4 => nibbles es
  if xs.any FVal.isNan then ([255, 0] ++ pack (xs.map fun _ => 0), fNV)
  else
    let mx := bxMax t
    let body (e0 : Nat) : List Nat × BitVec 5 :=
      let e1 := Nat.max (e0 - d) 1
      let enc (x : FVal) : Nat × BitVec 5 :=
        let a := x.dy.abs
        let isInf := decide (x = .inf x.neg)
        let q := rne a ((bxBias t : Int) - e1)
        let sel := !isInf && decide (q ≤ mx)
        let q0 := rne a ((bxBias t : Int) - e0)
        let clamp := isInf || (!sel && decide (q0 > mx))
        let m := if sel then q else if clamp then mx else q0
        let ex : Int := if sel then e1 else e0
        let v : Dy := ((m : Int), ex - bxBias t)
        let inexact := !isInf && !(Dy.le v a && Dy.le a v)
        let code := match t with
          | .bx8 => (if sel then 128 else 0) + (if x.neg then 64 else 0) + m
          | .bx4 => (if sel then 8 else 0) + (if x.neg then 4 else 0) + m
        (code, if clamp then fOF else if inexact && decide (m = 0) then fUF else flagIf inexact fNX)
      let es := xs.map enc
      ([e0, e1] ++ pack (es.map Prod.fst), es.foldl (fun f p => f ||| p.2) 0)
    match maxAbs xs with
    | none => body 254
    | some a => if a.1 = 0 then ([0, 0] ++ pack (xs.map fun _ => 0), 0) else body (bxE0 a (bxBias t) mx 254 1)

/-- Decode a BX block to exact values (R93). -/
def bxDecode (t : BXT) (b : List Nat) : List FVal :=
  let e0 := b.getD 0 0
  let e1 := b.getD 1 0
  let es := match t with
    | .bx8 => (b.drop 2).take 32
    | .bx4 => (unnibble (b.drop 2)).take 32
  es.map fun c =>
    if e0 = 255 then .nan false
    else if e0 = 0 then .fin false 0 0
    else match t with
      | .bx8 => .fin (c.testBit 6) (c % 64) ((if c.testBit 7 then e1 else e0 : Nat) - (133 : Int))
      | .bx4 => .fin (c.testBit 2) (c % 4) ((if c.testBit 3 then e1 else e0 : Nat) - (128 : Int))

/-! ### T5 (R96) -/

/-- The trit of an INT8 element, by its sign. -/
def tritOf (e : Nat) : Nat := if e % 256 = 0 then 0 else if e % 256 < 128 then 1 else 2
/-- Pack five trits. -/
def t5Pack (ds : List Nat) : Nat := ds.foldr (fun d a => d + 3 * a) 0
/-- The five trits of a byte. -/
def t5Digits (b : Nat) : List Nat := [b % 3, b / 3 % 3, b / 9 % 3, b / 27 % 3, b / 81 % 3]
/-- The weight of a trit. -/
def tritVal (d : Nat) : Int := if d = 1 then 1 else if d = 2 then -1 else 0

/-! ### Activation rows (R99, R100) -/

/-- The smallest t in `t..` with every rounded magnitude at most 127, or 127. -/
def rowT (xs : List Dy) : Nat → Int → Int
  | 0, _ => 127
  | n + 1, t => if xs.all (fun a => decide (rne a (-t) ≤ 127)) then t else rowT xs n (t + 1)

/-- Build a row from 480 values: element bytes and the SCALE and ZERO parts of the tag. -/
def rowBuild (xs : List FVal) : List Nat × Nat :=
  if xs.any FVal.isNan then (xs.map fun _ => 0, 0x7FC0 <<< 48)
  else
    let hasInf := xs.any fun x => decide (x = .inf x.neg)
    let t : Int := if hasInf then 127 else rowT (xs.map fun x => x.dy.abs) 261 (-133)
    let el (x : FVal) : Nat :=
      let q : Nat := if x = .inf x.neg then 127 else Nat.min 127 (rne x.dy.abs (-t))
      ofInt 8 (if x.neg then -(q : Int) else q)
    let es := xs.map el
    let sc := (BF16.round 0 false 1 t false).1
    (es, sc <<< 48 + (if es.all (· == 0) then 1 <<< 40 else 0))

/-! ### Tokens of channel formats (R139) -/

/-- Bytes of a token of a format code. -/
def fmtSize : Nat → Nat
  | 0 => 8
  | 1 => 128
  | 2 => 64
  | 3 => 32
  | 4 => 128
  | 5 => 64
  | 6 => 64
  | 7 => 34
  | 8 => 18
  | 9 => 17
  | 10 => 488
  | 11 => 16
  | 12 => 16
  | _ => 0

/-- The bytes of a token. -/
def tokBytes (n : Nat) (d : TokenData) : List Nat := (List.range n).map fun i => bits d.toNat (8 * i + 7) (8 * i)
/-- A token from its bytes. -/
def tokOf (l : List Nat) : TokenData := BitVec.ofNat 3904 (leNat (l.map (BitVec.ofNat 8)))

/-- The 32 values of a numeric token of a floating-point or block format. -/
def tokVals (fmt : Nat) (d : TokenData) : List FVal :=
  let els (f : Fmt) := (List.range 32).map fun i => f.decode (bits d.toNat (f.width * i + f.width - 1) (f.width * i))
  match fmt with
  | 4 => els F32
  | 5 => els BF16
  | 6 => els F16
  | 7 => bxDecode .bx8 (tokBytes 34 d)
  | 8 => bxDecode .bx4 (tokBytes 18 d)
  | 9 => e2m1Decode (tokBytes 17 d)
  | _ => []

/-- Elements of a format from values, rounded RNE. -/
def packVals (f : Fmt) (l : List FVal) : TokenData :=
  BitVec.ofNat 3904 ((l.map fun v => (f.ofVal 0 v).1).foldr (fun x a => x + 2 ^ f.width * a) 0)

/-- A router conversion of one token, other than to ROW (R101). -/
def convert (fp fc d : Nat) (scale : Nat) (x : TokenData) : TokenData :=
  if fp = fc then x
  else if fp = 1 && fc = 3 then
    let r := scaleRcp scale
    tokOf ((List.range 32).map fun i =>
      let v := sint 32 (bits x.toNat (32 * i + 31) (32 * i))
      (qnt 8 (.fin (decide (v < 0)) v.natAbs 0) r).1)
  else
    let vs := tokVals fp x
    match fc with
    | 4 => packVals F32 vs
    | 5 => packVals BF16 vs
    | 6 => packVals F16 vs
    | 7 => tokOf (bxEncode .bx8 d vs).1
    | 8 => tokOf (bxEncode .bx4 d vs).1
    | 9 => tokOf (e2m1Block vs).1
    | _ => x

/-- A row from up to 15 tokens of an unfinished group; missing elements are 0 (R100, R102). The tag holds
ROWID and CUT as given. -/
def rowOf (fp : Nat) (toks : List TokenData) (rowid : Nat) (cut : Bool) : TokenData :=
  let vs := toks.flatMap (tokVals fp)
  let all := vs ++ List.replicate (480 - vs.length) (.fin false 0 0)
  let r := rowBuild all
  let tag := r.2 + rowid % 2 ^ 40 + (if cut then 1 <<< 42 else 0)
  BitVec.ofNat 3904 ((tokOf r.1).toNat + tag <<< 3840)

end Sys2Proof.Machine
end

