-- ==== Sys2Proof/Machine/Operands.lean ====
section
/-! DEFINITION. Operand forms of the scalar stream: the register files with their hard-wired members and
poison (R121, R155, R182), lanes and elements of vector registers (R181), and the pointer arithmetic of
address operands (R44, R165, R167, R196). -/

namespace Sys2Proof.Machine

/-! ### Scalar, mask, tile and command registers -/

/-- Read g: g0 reads as zero (R37, R121). -/
def Regs.rg (r : Regs) (i : R5) : Word := if i = 0 then 0 else r.g[i.toNat]'(by omega)
/-- Poison bit of g: g0 is never poisoned. -/
def Regs.rgp (r : Regs) (i : R5) : Bool := i ≠ 0 && r.gp.getLsbD i.toNat
/-- Set or clear one bit of a bit vector. -/
def putBit {n : Nat} (x : BitVec n) (i : Nat) (b : Bool) : BitVec n :=
  if b then x ||| (1#n <<< i) else x &&& ~~~(1#n <<< i)
/-- Write g with its poison bit; a write to g0 is discarded. -/
def Regs.wg (r : Regs) (i : R5) (x : Word) (p : Bool) : Regs :=
  if i = 0 then r else { r with g := r.g.set i.toNat x (by omega), gp := putBit r.gp i.toNat p }
/-- Read m: m0 names all lanes. -/
def Regs.rm (r : Regs) (i : R3) : Word := if i = 0 then BitVec.allOnes 64 else r.m[i.toNat]'(by omega)
/-- Write m; a write to m0 is discarded. -/
def Regs.wm (r : Regs) (i : R3) (x : Word) : Regs :=
  if i = 0 then r else { r with m := r.m.set i.toNat x (by omega) }
/-- Read z. -/
def Regs.rz (r : Regs) (i : R4) : Word := r.z[i.toNat]'(by omega)
/-- Write z. -/
def Regs.wz (r : Regs) (i : R4) (x : Word) : Regs := { r with z := r.z.set i.toNat x (by omega) }
/-- Read k. -/
def Regs.rk (r : Regs) (i : R3) : KWord := r.k[i.toNat]'(by omega)
/-- Poison bit of k. -/
def Regs.rkp (r : Regs) (i : R3) : Bool := r.kp.getLsbD i.toNat
/-- Write k with its poison bit. -/
def Regs.wk (r : Regs) (i : R3) (x : KWord) (p : Bool) : Regs :=
  { r with k := r.k.set i.toNat x (by omega), kp := putBit r.kp i.toNat p }
/-- Read v. -/
def Regs.rv (r : Regs) (i : R5) : VReg := r.v[i.toNat]'(by omega)
/-- Poison bits of the lanes of v. -/
def Regs.rvp (r : Regs) (i : R5) : Word := r.vp[i.toNat]'(by omega)
/-- Write v with the poison bits of its lanes. -/
def Regs.wv (r : Regs) (i : R5) (x : VReg) (p : Word) : Regs :=
  { r with v := r.v.set i.toNat x (by omega), vp := r.vp.set i.toNat p (by omega) }
/-- Raise flags (R88). -/
def Regs.raise (r : Regs) (f : BitVec 5) : Regs := { r with flags := r.flags ||| f }

/-! ### Lanes and elements (R181) -/

/-- Element `j` of width `w` of a register, as a number. -/
def elem (w : Nat) (x : VReg) (j : Nat) : Nat := (x.toNat >>> (w * j)) % 2 ^ w
/-- All elements of width `w`. -/
def elems (w : Nat) (x : VReg) : List Nat := (List.range (2048 / w)).map (elem w x)
/-- A register from its elements of width `w`. -/
def ofElems (w : Nat) (l : List Nat) : VReg := BitVec.ofNat 2048 (l.foldr (fun x a => x % 2 ^ w + 2 ^ w * a) 0)
/-- Lane `i` of a register. -/
def lane (x : VReg) (i : Nat) : Nat := elem 32 x i
/-- The mask widened to 32 bits a lane, as a register of ones and zeros. -/
def laneMask (m : Word) : VReg := ofElems 32 ((List.range 64).map fun i => if m.getLsbD i then 0xFFFFFFFF else 0)
/-- Lanes of `new` where the mask is 1, of `old` elsewhere (R106). -/
def mergeLanes (m : Word) (new old : VReg) : VReg :=
  if m = BitVec.allOnes 64 then new else (new &&& laneMask m) ||| (old &&& ~~~(laneMask m))
/-- Bits of `new` where the mask is 1, of `old` elsewhere. -/
def mergeBits (m new old : Word) : Word := (new &&& m) ||| (old &&& ~~~m)
/-- A word whose bit `i` is `f i`. -/
def wordOfBits (f : Nat → Bool) : Word := BitVec.ofNat 64 ((List.range 64).foldr (fun i a => (if f i then 1 else 0) + 2 * a) 0)
/-- Every lane or none. -/
def allLanes (b : Bool) : Word := if b then BitVec.allOnes 64 else 0
/-- Element width of an integer type. -/
def ewBits : EW → Nat
  | .i32 => 32
  | .i16 => 16
  | .i8 => 8

/-! ### Pointers (R44) -/

/-- Handle index of a pointer. -/
def ptrH (p : Word) : Nat := p.toNat >>> 52
/-- Byte offset of a pointer. -/
def ptrOff (p : Word) : Nat := p.toNat % 2 ^ 52
/-- A pointer of a handle and an offset. -/
def mkPtr (h off : Nat) : Word := BitVec.ofNat 64 (h % 4096 * 2 ^ 52 + off % 2 ^ 52)
/-- OffsetAdd (R165): the offset moves without wrap, `none` on a carry into the handle field. -/
def offsetAdd (p : Word) (x : Int) : Option Word :=
  let s : Int := (ptrOff p : Int) + x
  if s < 0 ∨ s ≥ 2 ^ 52 then none else some (mkPtr (ptrH p) s.toNat)
/-- Bytes of an SM access width. -/
def widthBytes : Width → Nat
  | .byte => 1
  | .half => 2
  | .word => 4
  | .dbl => 8
/-- Code of a scope (R72). -/
def scopeNat : Scope → Nat
  | .bay => 0
  | .plot => 1
  | .fld => 2
  | .mod => 3
  | .dom => 4
  | .sys => 5

end Sys2Proof.Machine
end

