-- ==== Sys2Proof/Machine/Space.lean ====
section
/-! DEFINITION. The spaces of addresses (R44-R59, R62): accessors of the state's tables, the context of a party, the fields
of handle entries, the five-level walk with its caches, the local map, and home slices. -/

namespace Sys2Proof.Machine

/-! ### Accessors of the state's tables -/

def State.bay (s : State) (b : Nat) : Bay := tgetD b Bay.idle s.bays
def State.setBay (s : State) (b : Nat) (x : Bay) : State := { s with bays := tput b x s.bays }
def State.modBay (s : State) (b : Nat) (f : Bay → Bay) : State := s.setBay b (f (s.bay b))
def State.tenant (s : State) (t : Nat) : Tenant := tgetD t Tenant.reset s.tenants
def State.setTenant (s : State) (t : Nat) (x : Tenant) : State := { s with tenants := tput t x s.tenants }
def State.modTenant (s : State) (t : Nat) (f : Tenant → Tenant) : State := s.setTenant t (f (s.tenant t))
def State.island (s : State) (i : Nat) : Island := tgetD i Island.reset s.islands
def State.setIsland (s : State) (i : Nat) (x : Island) : State := { s with islands := tput i x s.islands }
/-- Where a rail stands at a device tick, in 1/125 of a code: it slews one code in 125 ticks (R18, R335). -/
def Island.railPos (x : Island) (now : Nat) : Nat :=
  let goal := 125 * x.vcode
  if x.railFrom ≤ goal then Nat.min goal (x.railFrom + (now - x.railAt)) else Nat.max goal (x.railFrom - (now - x.railAt))
/-- The sensed code of a rail: the highest at or below it (R343). -/
def Island.sense (x : Island) (now : Nat) : Nat := x.railPos now / 125
/-- A rail is commanded to a code; it moves from where it stands. -/
def Island.command (x : Island) (now code : Nat) : Island :=
  { x with railFrom := x.railPos now, railAt := now, vcode := code }
def State.slice (s : State) (k : Nat) : Slice := tgetD k Slice.empty s.slices
def State.setSlice (s : State) (k : Nat) (x : Slice) : State := { s with slices := tput k x s.slices }
def State.link (s : State) (n : Nat) : Link := tgetD n Link.reset s.links
def State.setLink (s : State) (n : Nat) (x : Link) : State := { s with links := tput n x s.links }
def State.field? (s : State) (f : Nat) : Option Field := s.fields.find? fun x => x.id == f
def State.setField (s : State) (x : Field) : State :=
  { s with fields := s.fields.map fun y => if y.id = x.id then x else y }
def State.inst? (s : State) (f i : Nat) : Option Inst := s.insts.find? fun x => x.field == f && x.id == i
def State.setInst (s : State) (x : Inst) : State :=
  { s with insts := s.insts.map fun y => if y.field = x.field ∧ y.id = x.id then x else y }
/-- A free number for a choice the spec leaves unspecified (R2); `kind` keeps choices of different kinds apart. -/
def State.pick (s : State) (kind k : Nat) : Nat := Config.freePick s.draw kind k
/-- A free byte. -/
def State.anyByte (s : State) (k : Nat) : Byte := Config.freeByte s.draw k

/-! ### Launch packets, fields and bays -/

/-- Field `[hi:lo]` of a launch packet (R24). -/
def pkt (p : BitVec 512) (hi lo : Nat) : Nat := bits p.toNat hi lo
def pktRoot (p : BitVec 512) : Word := BitVec.ofNat 64 (pkt p 63 0)
def pktStart (p : BitVec 512) : Nat := pkt p 127 64
def pktDone (p : BitVec 512) : Word := BitVec.ofNat 64 (pkt p 191 128)
def pktFw (p : BitVec 512) : Nat := pkt p 303 296
def pktFh (p : BitVec 512) : Nat := pkt p 311 304

/-- Module coordinates of a module bay number (R11). -/
def bayX (n : Nat) : Nat := n % 64
def bayY (n : Nat) : Nat := n / 64
/-- Die of a bay (R7, R11). -/
def bayDie (n : Nat) : Nat := 8 * (bayY n / 8) + bayX n / 8
/-- Module island of a bay (R14). -/
def bayIsland (n : Nat) : Nat := 16 * bayDie n + 4 * (bayY n % 8 / 2) + bayX n % 8 / 2
/-- The bay at index `j` of an island (R384): j = 2 * (by mod 2) + (bx mod 2). -/
def islandBay (i j : Nat) : Nat :=
  let d := i / 16
  let x := 8 * (d % 8) + 2 * (i % 4) + j % 2
  let y := 8 * (d / 8) + 2 * (i % 16 / 4) + j / 2
  64 * y + x

/-- Width and height of a tenant's virtual grid (R22, R373). -/
def State.grid (s : State) (t : Nat) : Nat × Nat :=
  if t = 0 then (64, 32) else (wget (s.tenant t).partcfg 61 55, wget (s.tenant t).partcfg 54 49)
/-- Module bay of a virtual bay of a tenant (R22, R373). -/
def State.moduleBay (s : State) (t vx vy : Nat) : Nat :=
  if t = 0 then 64 * vy + vx
  else
    let w := (s.grid t).1
    islandBay ((s.tenant t).pmap.getD (vy / 2 * (w / 2) + vx / 2) 0) (2 * (vy % 2) + vx % 2)
/-- Module bay of field coordinates (R30). -/
def State.fieldBay (s : State) (f : Field) (fx fy : Nat) : Nat := s.moduleBay f.tenant (f.ox + fx) (f.oy + fy)
/-- Field coordinates of every bay of a field, x fastest, with their module bays. -/
def State.fieldBays (s : State) (f : Field) : List (Nat × Nat × Nat) :=
  (List.range (pktFh f.packet)).flatMap fun y =>
    (List.range (pktFw f.packet)).map fun x => (x, y, s.fieldBay f x y)

/-! ### Plots (R31) -/

def plotLW (d : Nat) : Nat := bits d 23 21
def plotLH (d : Nat) : Nat := bits d 20 18
def plotPX (d : Nat) : Nat := bits d 17 12
def plotPY (d : Nat) : Nat := bits d 11 6
/-- The descriptor of the whole field. -/
def plotWhole (d : Nat) : Bool := plotLW d == 7 && plotLH d == 0 && plotPX d == 0 && plotPY d == 0
/-- PlotValid (R31). -/
def plotValid (fw fh d : Nat) : Bool :=
  bits d 5 0 == 0 && (plotWhole d ||
    (decide (plotLW d ≤ 6) && decide (plotLH d ≤ 5) &&
      decide ((plotPX d + 1) <<< plotLW d ≤ fw) && decide ((plotPY d + 1) <<< plotLH d ≤ fh)))
/-- Origin, width and height of a plot in field coordinates. -/
def plotRect (fw fh d : Nat) : Nat × Nat × Nat × Nat :=
  if plotWhole d then (0, 0, fw, fh)
  else (plotPX d <<< plotLW d, plotPY d <<< plotLH d, 2 ^ plotLW d, 2 ^ plotLH d)
/-- A bay of the field lies in a plot. -/
def inPlot (fw fh d fx fy : Nat) : Bool :=
  let (x0, y0, w, h) := plotRect fw fh d
  decide (x0 ≤ fx) && decide (fx < x0 + w) && decide (y0 ≤ fy) && decide (fy < y0 + h)

/-! ### The context of an access -/

/-- The party that makes an access. -/
structure Ctx where
  who : Who
  tenant : Nat
  /-- Module bay that issues it, or the origin bay's number for a sequencer. -/
  bay : Nat
  /-- A bay issues it: handles 0..3 name its windows. -/
  isBay : Bool
  field : Nat
  /-- Section instance, 0 outside one. -/
  inst : Nat
  fw : Nat
  fh : Nat
  ox : Nat
  oy : Nat
  deriving DecidableEq, Repr

/-- Context of a party of a field; tenant 0 with an empty field when the field is not there. -/
def State.ctxOf (s : State) (who : Who) (bay : Nat) (isBay : Bool) (f i : Nat) : Ctx :=
  match s.field? f with
  | none => ⟨who, 0, bay, isBay, f, i, 0, 0, 0, 0⟩
  | some x => ⟨who, x.tenant, bay, isBay, f, i, pktFw x.packet, pktFh x.packet, x.ox, x.oy⟩
/-- Context of the firing in the issue stage. -/
def State.firCtx (s : State) : Ctx := s.ctxOf (.actor s.fir.bay s.fir.actor) s.fir.bay true s.fir.field s.fir.inst
/-- Context of a command of a bay's port. -/
def State.cmdCtx (s : State) (b p : Nat) : Ctx :=
  let x := (s.bay b).inst.getD (0, 0)
  s.ctxOf (.cmd b p) b true x.1 x.2
/-- Context of a walk task of a field's sequencer. -/
def State.walkCtx (s : State) (f : Field) (t : Nat) : Ctx :=
  s.ctxOf (.walk f.id t) (s.fieldBay f 0 0) false f.id 0

/-! ### Faults of address formation (R62, R151) -/

/-- What a unit's accesses leave in the caches of handle entries and translations (R48, R51); a bay's own handle cache
with its number. -/
structure Kept where
  hcache : Option (Nat × Table (BitVec 256))
  seqCache : Table (BitVec 256)
  tlb : List TlbEntry
  walks : List WalkEntry
  deriving DecidableEq, Repr
/-- The caches as they stand for a party. -/
def State.kept (s : State) (c : Ctx) : Kept :=
  ⟨if c.isBay then some (c.bay, (s.bay c.bay).hcache) else none, s.seqCache, s.tlb, s.walks⟩
/-- The state with these caches. -/
def State.keep (s : State) (k : Kept) : State :=
  let s := match k.hcache with
    | some (b, t) => s.modBay b fun x => { x with hcache := t }
    | none => s
  { s with seqCache := k.seqCache, tlb := k.tlb, walks := k.walks }

/-- A fault found by a unit: cause code, FADDR, the page a page request names (base, size code, leaf), and the caches as
the accesses up to the faulting one have left them. -/
structure Flt where
  code : Nat
  faddr : Word
  page : Option (Nat × Nat × Nat)
  kept : Option Kept
  deriving DecidableEq, Repr

/-- A fault that no access has led to. -/
def Flt.mk0 (code : Nat) (faddr : Word) : Flt := ⟨code, faddr, none, none⟩
/-- A fault of an access that has read entries and tables up to the state `s`. -/
def State.flt (s : State) (c : Ctx) (code : Nat) (faddr : Word) : Flt := ⟨code, faddr, none, some (s.kept c)⟩
/-- A state in which a fault is taken keeps what its accesses have cached (R48, R51). -/
def State.keeping (s : State) (f : Flt) : State := f.kept.elim s s.keep

/-! ### Addresses -/

/-- This module's number as it stands in global addresses (R53). -/
def State.own (s : State) : Nat := s.modnum.toNat
/-- Global physical address of a local one of this module. -/
def State.ga (s : State) (a : Nat) : Nat := s.own * 2 ^ 47 + a
/-- Module number of a global physical address. -/
def gaMod (a : Nat) : Nat := a / 2 ^ 47
/-- Local physical address of a global one. -/
def gaLocal (a : Nat) : Nat := a % 2 ^ 47
/-- Local physical address of offset `w` of a bay's window (R54). -/
def windowAddr (bay w : Nat) : Nat := Config.windowBase + bay * Config.windowSize + w
/-- A local address lies in the bay windows (R53). -/
def isWindow (a : Nat) : Bool := decide (Config.windowBase ≤ a) && decide (a < Config.windowBase + 2 ^ 33)
/-- Bay and offset of a window address. -/
def windowBay (a : Nat) : Nat := (a - Config.windowBase) / Config.windowSize
def windowOff (a : Nat) : Nat := (a - Config.windowBase) % Config.windowSize
/-- An offset lies in the register window. -/
def isRegOff (w : Nat) : Bool := decide (Config.regBase ≤ w) && decide (w < Config.loftBase)
/-- Usable HBM4E bytes of a module: 128 MiB for each enabled pseudo-channel (R20, R53). -/
def State.usable (s : State) (m : Nat) : Nat :=
  if m = s.own then Config.enabledChannels.length * 2 ^ 27 else Nat.min (Config.remoteHbm m) Config.hbmTop
/-- PseudoChannelOf: the enabled pseudo-channel that holds a local HBM4E address, in 1 KiB granules (R59). -/
def pseudoChannelOf (a : Nat) : Nat :=
  Config.enabledChannels.getD (a / 1024 % Config.enabledChannels.length) 0
/-- RowBlockOf (R59). -/
def rowBlockOf (a : Nat) : Nat := a / 1024 / Config.enabledChannels.length
/-- The stack of a pseudo-channel and its number in the stack (R9). -/
def stackOf (c : Nat) : Nat × Nat := (c / 512, c % 512)

/-- The first local address of `[a, a+n)` that no range of R53 and R54 holds, if any. -/
def localBad (usable a n : Nat) : Option Nat :=
  if isWindow a then
    let w := windowOff a
    if w ≥ Config.loftTop then some a
    else if w + n > Config.loftTop then some (a - w + Config.loftTop) else none
  else if a ≥ usable then some a
  else if a + n > usable then some usable else none

/-- A run of consecutive bytes at a global physical address. -/
structure Seg where
  addr : Nat
  len : Nat
  deriving DecidableEq, Repr

/-- Bytes of a list of runs. -/
def segBytes (l : List Seg) : List Nat := l.flatMap fun x => (List.range x.len).map (x.addr + ·)

/-! ### Handle entries (R45-R48) -/

/-- Fields of an entry that address formation and updates use. -/
structure Ent where
  /-- 0 VIRT, 1 FIELD, 2 PHYS, 3 GLOBAL, 4 own window. -/
  space : Nat
  base : Nat
  bound : Nat
  rd : Bool
  wr : Bool
  op : Nat
  sync : Nat
  binq : Nat
  spill : Nat
  deriving DecidableEq, Repr

/-- The entry's fields (R45). -/
def entOf (e : Nat) : Ent where
  space := bits e 138 136
  base := bits e 51 0
  bound := bits e 115 64
  rd := nbit e 131
  wr := nbit e 132
  op := bits e 142 139
  sync := bits e 191 143
  binq := bits e 243 229
  spill := bits e 255 244

/-- VALID (R45). -/
def entValid (e : Nat) : Bool := nbit e 128
/-- A malformed entry in a table of tenant `t` (R45). -/
def entMalformed (t e : Nat) : Bool :=
  let x := entOf e
  decide (bits e 228 192 ≠ 0) || decide (bits e 130 129 ≠ 0) || decide (bits e 127 116 ≠ 0)
    || decide (bits e 63 52 ≠ 0) || decide (x.op = 15) || decide (x.space ≥ 4) || decide (bits e 135 133 ≥ 3)
    || (decide (x.space ≥ 2) && decide (t ≠ 0)) || (decide (x.op ≠ 0) && decide (x.space ≠ 0))
    || (decide (x.space = 0) && decide (x.base + x.bound > 2 ^ 52)) || decide (x.binq > 16384)

/-- The 32 bytes of an entry of a tenant's table, and whether any is poisoned (R45, R389). -/
def State.tableEntry (s : State) (t h : Nat) : Nat × Bool :=
  let a := s.ga ((s.tenant t).htbase.toNat + 32 * h)
  (leNat (s.mem.readList a 32), (s.mpoison.readList a 32).any (· ≠ 0))

/-! ### Translation (R49-R51) -/

/-- Where a walk ends: at an entry that is no good, or at a leaf with its page, its W and, for FLASH = 1, the page's base,
size code and leaf address. -/
inductive Walk
  | bad
  | leaf (pa size : Nat) (w : Bool) (flash : Option (Nat × Nat × Nat))
  deriving DecidableEq, Repr

/-- The levels below the root table: low index bit, index width, and alignment of the next table. -/
def walkLevels : List (Nat × Nat × Nat) := [(42, 10, 12), (33, 9, 7), (29, 4, 11), (21, 8, 8), (16, 5, 0)]

/-- Size code of a page (R319). -/
def pageCode (lo : Nat) : Nat := if lo = 16 then 0 else if lo = 21 then 1 else if lo = 29 then 2 else 3

/-- The 8-byte table entry of one level: its value and whether it is poisoned. A table outside usable HBM4E (a root or
an entry that names such an address) is read as memory holds it; R49 puts every table in HBM4E and says nothing of
another place (DESIGN CHOICE, log entry 75). -/
def State.levelEntry (s : State) (a : Nat) : Nat × Bool :=
  (leNat (s.mem.readList (s.ga a) 8), (s.mpoison.readList (s.ga a) 8).any (· ≠ 0))

/-- What a home slice does before it serves an access to an address (R305). -/
abbrev AtHome := State → Nat → State

/-- The walk from a table on (R49, R50). Each level reads its entry, or uses the one a walk has read before and
cached: until TLBI either may serve (R51). Entries that point to tables are cached as they are read. -/
def State.walk (pre : AtHome) (s : State) (u t va tbl : Nat) : List (Nat × Nat × Nat) → State × Walk
  | [] => (s, .bad)
  | (lo, w, al) :: ls =>
    let a := tbl + 8 * bits va (lo + w - 1) lo
    let read := pre s (s.ga a)
    let fresh := read.levelEntry a
    let mine (x : WalkEntry) : Bool := x.unit == u && x.tenant == t && x.lo == lo && x.page == va / 2 ^ lo
    let old := match s.walks.find? mine with
      | some x =>
        if (fresh.2 || x.entry.toNat != fresh.1) && s.pick 1 ((va / 2 ^ lo * 64 + lo) * 4096 + u) % 2 = 0 then some x.entry.toNat
        else none
      | none => none
    let s := if old.isSome then s else read
    let e := old.getD fresh.1
    let addr := bits e 55 6 * 64
    if old.isNone && fresh.2 then (s, .bad)
    else if !nbit e 0 || decide (bits e 63 56 ≠ 0) || decide (bits e 5 4 ≠ 0) then (s, .bad)
    else if nbit e 1 then
      if lo = 42 || decide (addr % 2 ^ lo ≠ 0) then (s, .bad)
      else (s, .leaf addr (2 ^ lo) (nbit e 2) (if nbit e 3 then some (va / 2 ^ lo * 2 ^ lo, pageCode lo, a) else none))
    else if lo = 16 || decide (addr % 2 ^ al ≠ 0) || decide (addr ≥ 2 ^ 47) then (s, .bad)
    else
      let s := if old.isSome then s else
        { s with walks := ⟨u, t, lo, va / 2 ^ lo, BitVec.ofNat 64 e⟩ :: s.walks.filter fun x => !mine x }
      State.walk pre s u t va addr ls

/-- Translate one virtual address through a unit's cache: between a change of a table and TLBI the old or the new entry is
used (R51). -/
def State.translate (pre : AtHome) (s : State) (u t va : Nat) : State × Walk :=
  let fresh := s.walk pre u t va (s.tenant t).xroot.toNat walkLevels
  let hit (x : TlbEntry) : Bool := x.unit == u && x.tenant == t && decide (x.va ≤ va) && decide (va < x.va + x.size)
  let put : State := match fresh.2 with
    | .leaf pa size w none =>
      { fresh.1 with tlb := ⟨u, t, va / size * size, size, pa, w⟩ :: fresh.1.tlb.filter fun x => !hit x }
    | _ => fresh.1
  match s.tlb.find? hit with
  | none => (put, fresh.2)
  | some x =>
    let old : Walk := .leaf x.pa x.size x.w none
    if old = fresh.2 then (s, old)
    else if s.pick 2 (va * 4096 + u) % 2 = 0 then (s, old) else (put, fresh.2)

/-- Check the physical addresses of an access against the local maps (R53, R54, R359): the first local
address that no range holds. -/
def State.checkSegs (s : State) (virtUser : Bool) : List Seg → Option Word
  | [] => none
  | x :: l =>
    let m := gaMod x.addr
    let a := gaLocal x.addr
    if m ≠ s.own && !s.members.contains m then some (BitVec.ofNat 64 a)
    else if virtUser && isWindow a then some (BitVec.ofNat 64 a)
    else match localBad (s.usable m) a x.len with
      | some z => some (BitVec.ofNat 64 z)
      | none => State.checkSegs s virtUser l

/-- The unit whose cache serves an access of a party: a bay its own, a sequencer the DFI of its die, a host function the
I/O die of its port. -/
def Ctx.walker (c : Ctx) : Nat := match c.who with
  | .host p _ => 2080 + p
  | _ => if c.isBay then c.bay else 2048 + bayDie c.bay
/-- A range of virtual addresses, page by page: the translation of a page, the permission of its leaf, and the check of
its addresses (R53, R54, R62) come before those of the next page, so the lowest faulting byte decides. `p` is the pointer
that a permission fault names. -/
def State.transRange (pre : AtHome) (s : State) (c : Ctx) (p : Word) (wr : Bool) : Nat → Nat → Nat → Except Flt (State × List Seg)
  | 0, _, _ => .ok (s, [])
  | fuel + 1, va, len =>
    if len = 0 then .ok (s, []) else
    match s.translate pre c.walker c.tenant va with
    | (s, .bad) => .error (s.flt c 0x09 (BitVec.ofNat 64 va))
    | (s, .leaf pa size w flash) =>
      let off := va % size
      let n := Nat.min len (size - off)
      if wr && !w then .error (s.flt c 0x07 p)
      else match flash with
        | some page => .error { s.flt c 0x0A (BitVec.ofNat 64 va) with page := some page }
        | none => match s.checkSegs (c.tenant ≠ 0) [⟨pa + off, n⟩] with
          | some z => .error (s.flt c 0x0C z)
          | none => match State.transRange pre s c p wr fuel (va + n) (len - n) with
            | .error f => .error f
            | .ok (s, segs) => .ok (s, ⟨pa + off, n⟩ :: segs)

/-! ### Register windows (R55, R56) -/

/-- An offset within a 16 KiB slot that holds a register. -/
def slotOffOk (o : Nat) : Bool := decide (o < 0x240) || decide (o ≥ 0x2000)
/-- The actor record with an index on a bay of an instance. -/
def State.actorAt (s : State) (b idx : Nat) : Option (Inst × ActorRec) :=
  match (s.bay b).inst with
  | none => none
  | some (f, i) => match s.inst? f i, s.field? f with
    | some x, some fd =>
      let (x0, y0, _, _) := plotRect (pktFw fd.packet) (pktFh fd.packet) x.plot.toNat
      match x.image.actors.find? fun a => a.idx == idx && s.fieldBay fd (x0 + a.bx) (y0 + a.by_) == b with
      | some a => some (x, a)
      | none => none
    | _, _ => none
/-- A byte of a bay's register window lies in an assigned slot. -/
def State.regAssigned (s : State) (b o : Nat) : Bool :=
  slotOffOk (o % 0x4000) && (s.actorAt b (o / 0x4000)).isSome
/-- Every byte of an access that lies in a register window of this module is assigned. -/
def State.regSegsOk (s : State) (l : List Seg) : Bool :=
  l.all fun x =>
    let a := gaLocal x.addr
    if gaMod x.addr = s.own && isWindow a && decide (windowOff a + x.len > Config.regBase)
        && decide (windowOff a < Config.loftBase) then
      (List.range x.len).all fun k =>
        let w := windowOff a + k
        !(isRegOff w) || s.regAssigned (windowBay a) (w - Config.regBase)
    else true
/-- Some byte of an access lies in a register window. -/
def segsTouchReg (l : List Seg) : Bool :=
  l.any fun x =>
    let a := gaLocal x.addr
    isWindow a && decide (windowOff a + x.len > Config.regBase) && decide (windowOff a < Config.loftBase)

/-! ### Home slices (R57, R58) -/

/-- An ART entry that can match: base, limit, slog, count, first. -/
def artOf (e : Word × Word × Word) : Option (Nat × Nat × Nat × Nat × Nat) :=
  let base := wget e.1 46 6 * 64
  let limit := wget e.2.1 46 6 * 64
  let slog := wget e.2.2 24 20
  let nm1 := wget e.2.2 19 10
  let first := wget e.2.2 9 0
  if !e.1.getLsbD 63 || slog < 6 || slog > 16 || first + nm1 > 1023 || limit ≤ base then none
  else some (base, limit, slog, nm1 + 1, first)

/-- HomeSlice of a local HBM4E address (R58). -/
def homeSlice (art : Table (Word × Word × Word)) (a : Nat) : Nat :=
  match art.findSome? fun (_, e) => match artOf e with
      | some (base, limit, slog, n, first) =>
        if base ≤ a ∧ a < limit then some (first + (a - base) / 2 ^ slog % n) else none
      | none => none with
  | some k => k
  | none => bits a 15 6 ^^^ bits a 25 16 ^^^ bits a 35 26 ^^^ bits a 45 36 ^^^ bits a 46 46

/-- Key of the slice that serves a global address: slices of other modules have keys past this module's. Another module's
address-range table is not to be seen here, so its slices are told apart by the hash of R58 alone (DESIGN CHOICE, log
entry 94): the route and the order of packets to such an address rest on it, no value does. -/
def State.sliceKey (s : State) (a : Nat) : Nat :=
  if gaMod a = s.own then homeSlice s.art (gaLocal a) else (gaMod a + 1) * 1024 + homeSlice [] (gaLocal a)

/-! ### Routes between modules (R359) -/

/-- Entry of the route table for one pair of source die and home slice of a module. -/
def routeKey (m die slice : Nat) : Nat := 512 + (m * 32 + die) * 1024 + slice
/-- The outgoing port from a die to a home slice of a module. -/
def State.routePort (s : State) (m die slice : Nat) : Option Nat :=
  match tget (routeKey m die slice) s.routes with
  | some p => if p < 18 then some p else none
  | none => tget m s.routes
/-- The die that a party's packets leave from: a bay's own, a sequencer's that of its field's origin; a host port's is an
edge die of its I/O die (R7; which one is DESIGN CHOICE, log entry 94). -/
def State.whoDie (s : State) (w : Who) : Nat := match w with
  | .actor b _ | .cmd b _ => bayDie b
  | .walk f _ => (s.field? f).elim 0 fun x => bayDie (s.fieldBay x 0 0)
  | .host p _ => if p = 0 then 0 else 7
  | .unit => 0
/-- Home slices of a module that no route reaches from a die (R359). -/
def State.lostSlices (s : State) (m die : Nat) : List Nat :=
  if m = s.own then [] else (List.range 1024).filter fun k => (s.routePort m die k).isNone
/-- No route at all reaches a module from a die. -/
def State.unreachable (s : State) (m die : Nat) : Bool :=
  m != s.own && (List.range 1024).all fun k => (s.routePort m die k).isNone
/-- No route reaches the home slice of an address from the die of a party. -/
def State.noRoute (s : State) (w : Who) (a : Nat) : Bool :=
  gaMod a != s.own && (s.routePort (gaMod a) (s.whoDie w) (s.sliceKey a % 1024)).isNone

end Sys2Proof.Machine
end

