-- ==== Sys2Proof/Machine/Memsys.lean ====
section
/-! DEFINITION. The memory side: version overlays (R253-R256), update pairs and their application (R287-R298),
bytes as a party reads and writes them, register windows, words with waiters (R70, R173, R250), releases and
acquires (R71, R296). -/

namespace Sys2Proof.Machine

/-! ### Firings of a bay -/

/-- Change the firing of an actor on a bay. -/
def State.modFiring (s : State) (b a : Nat) (f : Firing → Firing) : State :=
  s.modBay b fun x => { x with firings := x.firings.map fun y => if y.actor = a then f y else y }
/-- The firing of an actor on a bay: the one in the issue stage, or the one the bay holds. -/
def State.firing? (s : State) (b a : Nat) : Option Firing :=
  if s.fir.bay = b ∧ s.fir.actor = a ∧ s.fir.status ≠ .ended then some s.fir
  else (s.bay b).firings.find? fun x => x.actor == a
/-- Mark a parked firing's instruction as completed at its home (R153). -/
def Firing.complete (f : Firing) : Firing :=
  match f.status with
  | .parked p _ => { f with status := .parked p true }
  | _ => f

/-! ### Versions -/

/-- Line number of a byte. -/
def lineOf (a : Nat) : Nat := a / 64
/-- Lines of a version overlay. -/
def overlayLines (o : Table (Byte × Bool)) : List Nat := (o.map fun x => lineOf x.1).dedup
/-- Add to or take from VERQ.USED. -/
def verUsed (v : Word) (n : Int) : Word := wset v 39 20 ((wget v 39 20 : Int) + n).toNat

/-- Tenant of a field. -/
def State.tenantOf (s : State) (f : Nat) : Nat := ((s.field? f).map Field.tenant).getD 0
/-- Tenant of the field on a bay. -/
def State.bayTenant (s : State) (b : Nat) : Nat := s.tenantOf ((s.bay b).inst.getD (0, 0)).1

/-- Retag the bins, batches and runs of an instance at every slice (R298). The bytes of a run already written to a spill
area, its VTAG among them, stay as they are: R298 retags the Granary's bins and runs and says nothing of those bytes
(DESIGN CHOICE, log entry 95). -/
def State.retag (s : State) (f i : Nat) : State :=
  let hit (tag fld : Nat) : Bool := tag == i && fld == f
  { s with
    slices := s.slices.map fun (k, x) => (k, { x with
      batch := x.batch.map fun p => if hit p.tag p.field then { p with tag := 0 } else p
      bins := x.bins.map fun b => if hit b.tag b.field then { b with tag := 0, field := 0 } else b
      runs := x.runs.map fun r => if hit r.tag r.field then { r with tag := 0, field := 0 } else r })
    pairs := s.pairs.map fun p => if hit p.tag p.field then { p with tag := 0 } else p }

/-- The mark of a byte after a write with mark `q`: a line in error keeps its mark 2 until a write covers it whole
(R389). -/
def markAfter (p : Memory) (a : Nat) (q : Bool) : Byte := if p.read a = 2 then 2 else if q then 1 else 0

/-- Write bytes to the committed memory. -/
def State.rawWrite (s : State) : List (Nat × Byte × Bool) → State
  | [] => s
  | (a, b, q) :: l =>
    State.rawWrite { s with mem := s.mem.write a b, mpoison := s.mpoison.write a (markAfter s.mpoison a q) } l

/-- The lines that a list of runs covers whole. -/
def wholeLines (l : List Seg) : List Nat :=
  l.flatMap fun x =>
    let first := (x.addr + 63) / 64
    (List.range ((x.addr + x.len) / 64 - first)).map (first + ·)
/-- A write of committed bytes that covers a line whole ends the line's error: its bytes have the marks of the write
(R389). -/
def State.endErrors (s : State) (lines : List Nat) (l : List (Nat × Byte × Bool)) : State :=
  if s.mpoison.isEmpty || lines.isEmpty then s
  else { s with mpoison := (l.filter fun x => lines.contains (lineOf x.1)).foldl (fun m x =>
    Memory.write m x.1 (if x.2.2 then 1 else 0)) s.mpoison }

/-- A byte as a party of field `f` reads it: with the overlays of the field's instances (R254). Field 0 stands for no
field: a host function or a Granary acting for none. -/
def State.viewByte (s : State) (f : Nat) (a : Nat) : Byte × Bool :=
  match s.insts.findSome? fun x => if x.field = f ∧ x.versioned then tget a x.overlay else none with
  | some r => r
  | none => (s.mem.read a, s.mpoison.read a ≠ 0)

/-- Take bytes out of an overlay. -/
def Inst.uncover (x : Inst) (l : List Nat) : Inst := { x with overlay := x.overlay.filter fun y => !l.contains y.1 }

/-- Write committed bytes for a party of field `f`. Bytes of the field's own versions at those addresses go: the write
is later in the addresses' serialisation order (R64), so the field's parties read it (R66) and no commit takes it back
(log entry 76). -/
def State.plainWrite (s : State) (f : Nat) (l : List (Nat × Byte × Bool)) : State :=
  let s := s.rawWrite l
  let as := l.map Prod.fst
  let hit (x : Inst) : Bool := x.field == f && x.overlay.any fun y => as.contains y.1
  if f = 0 || !s.insts.any hit then s
  else
    let freed := (s.insts.filter hit).map fun x => (overlayLines x.overlay).length - (overlayLines (x.uncover as).overlay).length
    ({ s with insts := s.insts.map fun x => if hit x then x.uncover as else x } : State).modTenant (s.tenantOf f) fun y =>
      { y with verq := verUsed y.verq (-(freed.foldl (· + ·) 0 : Nat)) }

/-! ### Words and their waiters (R70, R173, R250) -/

/-- A multicast stream whose source a write reaches accepts no more joiners (R80, R353). -/
def State.noteStreams (s : State) (l : List Seg) : State :=
  if s.streams.isEmpty then s
  else { s with streams := s.streams.map fun m =>
    { m with written := m.written || l.any fun x => m.src.any fun (a, n) => decide (x.addr < a + n) && decide (a < x.addr + x.len) } }

/-- The 8-byte value of a word as a field's parties read it. -/
def State.wordAt (s : State) (f a : Nat) : Word :=
  BitVec.ofNat 64 (leNat ((List.range 8).map fun k => (s.viewByte f (a + k)).1))
/-- Some byte of a word is marked poisoned. -/
def State.wordPoison (s : State) (f a : Nat) : Bool := (List.range 8).any fun k => (s.viewByte f (a + k)).2

/-- A sync-word write by a party of field `f`: never versioned (R253). -/
def State.putWord (s : State) (f a : Nat) (x : Word) (q : Bool) : State :=
  s.plainWrite f ((List.range 8).zip (natLe 8 x.toNat) |>.map fun (k, b) => (a + k, b, q))

/-- Field of a waiter. -/
def State.waiterField (s : State) : Who → Nat
  | .actor b _ => ((s.bay b).inst.getD (0, 0)).1
  | .walk f _ => f
  | _ => 0

/-- Complete a waiter at the word's home with the value `x` (R70, R153, R173, R250). -/
def State.wake (s : State) (w : WordWaiter) (x : Word) (poison : Bool) : State :=
  match w.who with
  | .actor b a => s.modFiring b a fun f =>
      match f.status with
      | .parked (.waitv va d q z) _ =>
        { f with regs := f.regs.wg d x (poison || z), status := .parked (.waitv va d q z) true }
      | .parked (.acq _) _ => f.complete
      | _ => f
  | .walk f t => match s.field? f with
    | some fd => s.setField { fd with tasks := fd.tasks.map fun y =>
        if y.id = t then match y.st with
          | .waitf word val ge _ r => { y with st := .waitf word val ge true r }
          | _ => y
        else y }
    | none => s
  | _ => s

/-- A waiting WAITV or WAITF at a word whose value meets it. -/
def State.metBy (s : State) (word : Nat) (w : WordWaiter) : Bool :=
  let x := s.wordAt (s.waiterField w.who) word
  w.word == word && !w.isAcq && if w.ge then decide (w.v.toNat ≤ x.toNat) else x == w.v

/-- Complete the WAITVs and WAITFs that a word's value meets, in arrival order. -/
def State.serveWaits (s : State) (word : Nat) : State :=
  let met := s.waiters.filter (s.metBy word)
  let s : State := { s with waiters := s.waiters.filter fun w => !s.metBy word w }
  met.foldl (fun s w => let f := s.waiterField w.who; s.wake w (s.wordAt f word) (s.wordPoison f word)) s

/-! ### Commit and discard (R255, R256) -/

/-- Move an overlay into the committed lines. -/
def commitBytes (m p : Memory) : Table (Byte × Bool) → Memory × Memory
  | [] => (m, p)
  | (a, b, q) :: l => commitBytes (m.write a b) (p.write a (markAfter p a q)) l

/-- The bytes of an overlay, in runs of one byte. -/
def overlaySegs (o : Table (Byte × Bool)) : List Seg := o.map fun x => ⟨x.1, 1⟩
/-- The lines that an overlay covers whole. -/
def overlayWhole (o : Table (Byte × Bool)) : List Nat :=
  (overlayLines o).filter fun n => (o.filter fun x => lineOf x.1 == n).length == 64
/-- An instance's version becomes committed (R255); it goes on unversioned. Streams note the bytes it changes. -/
def State.commitLines (s : State) (x : Inst) : State :=
  let r := commitBytes s.mem s.mpoison x.overlay
  let s := s.setInst { x with overlay := [], versioned := false }
  let s := ({ s with mem := r.1, mpoison := r.2 } : State).endErrors (overlayWhole x.overlay) x.overlay
  ((s.modTenant (s.tenantOf x.field) fun y =>
    { y with verq := verUsed y.verq (-(overlayLines x.overlay).length) }).retag x.field x.id).noteStreams
    (overlaySegs x.overlay)
/-- A tenant's ECNT rises (R256). -/
def State.countEarly (s : State) (x : Inst) : State :=
  s.modTenant (s.tenantOf x.field) fun y => { y with verq := wadd y.verq 63 48 1 }

/-- Whether an address is HBM4E of this module. -/
def State.ownHbm (s : State) (a : Nat) : Bool := decide (gaMod a = s.own) && !isWindow (gaLocal a)
/-- Instance of a waiter's party. -/
def State.waiterInst (s : State) : Who → Option Inst
  | .actor b _ => (s.bay b).inst.bind fun x => s.inst? x.1 x.2
  | _ => none

/-- Serve the waiters of every word that a write touched: those that a word's value meets complete; when it is 0 the first
waiting ACQ gets the word, and the tag it writes is a new value again (R70, R173, R250). A versioned instance whose ACQ
writes a word homed on another module commits first (R256), which may write further words; the fuel counts the ACQs that
wait. -/
def State.noteFrom : Nat → State → List Seg → State
  | 0, s, _ => s
  | n + 1, s, l =>
    if s.waiters.isEmpty then s
    else
      let words := ((s.waiters.map WordWaiter.word).filter fun w =>
        l.any fun x => decide (x.addr < w + 8) && decide (w < x.addr + x.len)).dedup
      words.foldl (fun s word =>
        let s := s.serveWaits word
        match s.waiters.find? fun w => w.word == word && w.isAcq with
        | none => s
        | some w =>
          let f := s.waiterField w.who
          if s.wordAt f word ≠ 0 then s
          else
            let s : State := { s with waiters := s.waiters.erase w }
            let s := match if s.ownHbm word then none else s.waiterInst w.who with
              | some x => if x.versioned then
                  State.noteFrom n ((s.commitLines x).countEarly x) (overlaySegs x.overlay) else s
              | none => s
            (((s.putWord f word w.tag false).noteStreams [⟨word, 8⟩]).wake w 0 false).serveWaits word) s
/-- Serve the waiters of every word that a write touched. -/
def State.noteWords (s : State) (l : List Seg) : State := s.noteFrom (s.waiters.length + 1) l
/-- Serve the waiters of a word. -/
def State.serve (s : State) (word : Nat) : State := s.noteWords [⟨word, 8⟩]

/-- Commit an instance's version (R255): readers outside the field now see the bytes. -/
def State.commit (s : State) (x : Inst) : State := (s.commitLines x).noteWords (overlaySegs x.overlay)
/-- Commit early (R256): ECNT rises. -/
def State.earlyCommit (s : State) (x : Inst) : State :=
  if x.versioned then (s.commit x).countEarly x else s

/-! ### Writes of memory-side units -/

/-- Bytes that a memory-side unit writes: streams and waiters note them (R80, R173). -/
def State.deposit (s : State) (l : List (Nat × Byte × Bool)) : State :=
  let segs := l.map fun x => (⟨x.1, 1⟩ : Seg)
  ((s.rawWrite l).noteStreams segs).noteWords segs
/-- An access of some runs reaches its home slices. -/
def AtHome.all (pre : AtHome) (s : State) (l : List Seg) : State :=
  l.foldl (fun s x => (List.range ((x.addr % 64 + x.len + 63) / 64)).foldl (fun s k => pre s (64 * (x.addr / 64 + k))) s) s
/-- A list of address and length pairs as runs. -/
def asSegs (l : List (Nat × Nat)) : List Seg := l.map fun x => ⟨x.1, x.2⟩
/-- The addresses of an 8-byte field of a spill header. -/
def headerAddrs (l : List Seg) (k : Nat) : List Nat := ((segBytes l).drop k).take 8
/-- An 8-byte field of a spill header. -/
def State.headerGet (s : State) (l : List Seg) (k : Nat) : Nat := leNat ((headerAddrs l k).map s.mem.read)
/-- Write an 8-byte field of a spill header. -/
def State.headerPut (s : State) (l : List Seg) (k v : Nat) : State :=
  s.deposit (((headerAddrs l k).zip (natLe 8 v)).map fun (a, b) => (a, b, false))
/-- Add to an 8-byte counter of a spill header, saturating. -/
def State.headerAdd (s : State) (l : List Seg) (k n : Nat) : State :=
  s.headerPut l k (Nat.min (s.headerGet l k + n) (2 ^ 64 - 1))

/-- Subtract an applied or dropped run from LIVE of its spill area; NEXT returns to 64 at 0 (R293). -/
def State.spillSub (pre : AtHome) (s : State) (r : Run) : State :=
  let hdr := asSegs r.header
  let s := pre.all s hdr
  let live := s.headerGet hdr 8 - r.size
  let s := s.headerPut hdr 8 live
  if live = 0 then s.headerPut hdr 0 64 else s

/-- A Granary keeps the copy of a region's entry while it holds a bin or run of the region (R288). -/
def Slice.prune (x : Slice) : Slice :=
  { x with copies := x.copies.filter fun c =>
      x.bins.any (fun b => b.tenant == c.tenant && b.handle == c.handle) ||
        x.runs.any fun r => r.tenant == c.tenant && r.handle == c.handle }

/-- Another live instance that holds a line in its version (R253). -/
def State.holder (s : State) (f i line : Nat) : Option Inst :=
  s.insts.find? fun x => !(x.field == f && x.id == i) && x.versioned && x.overlay.any fun y => lineOf y.1 == line

/-- An instance is about to write a line: another holder of the line commits early (R253), and so does the instance itself
when no room is left for the line in its version (R256). -/
def State.claim (s : State) (f i line : Nat) : State :=
  match s.inst? f i with
  | none => s
  | some x =>
    if !x.versioned then s
    else
      let s := match s.holder f i line with
        | some h => s.earlyCommit h
        | none => s
      if x.overlay.any fun y => lineOf y.1 == line then s
      else
        let v := (s.tenant (s.tenantOf f)).verq
        let k := s.sliceKey (64 * line)
        let held := ((s.insts.flatMap fun z => overlayLines z.overlay).filter fun l => s.sliceKey (64 * l) == k).length
        if wget v 39 20 + 1 > wget v 19 0 || held ≥ 16384 then s.earlyCommit x else s

/-- Write one byte of an instance: into its version while it is versioned, after the early commits of R253 and
R256, else into the committed line. -/
def State.instWrite (s : State) (f i a : Nat) (b : Byte) (q : Bool) : State :=
  if isWindow (gaLocal a) then s.plainWrite f [(a, b, q)]
  else
    let s := if s.ownHbm a then s.claim f i (lineOf a) else match s.inst? f i with
      | some x => s.earlyCommit x
      | none => s
    match s.inst? f i with
    | none => s.plainWrite f [(a, b, q)]
    | some x =>
      if !x.versioned then s.plainWrite f [(a, b, q)]
      else
        let s := if x.overlay.any fun y => lineOf y.1 == lineOf a then s
          else s.modTenant (s.tenantOf f) fun y => { y with verq := verUsed y.verq 1 }
        s.setInst { x with overlay := tput a (b, q) x.overlay }

/-- Poisoned lines that an instance's parties have written, at these addresses (R389). -/
def State.noteBad (s : State) (f i : Nat) (as : List Nat) : State :=
  match as, s.inst? f i with
  | a :: _, some x => s.setInst { x with poisonLines := (x.poisonLines ++ as.map lineOf).dedup
                                         poisonAddr := if x.poisonLines = [] then a else x.poisonAddr }
  | _, _ => s

/-! ### Update pairs -/

/-- Element size of an operator (R184). -/
def opSize (op : Nat) : Nat :=
  if op = 4 then 2 else if op = 2 || op = 11 || op = 12 || op = 14 then 8 else 4

/-- Combine two values of an element (R287), for the operators whose result does not depend on the order. -/
def opCombine (op : Nat) (x y : Nat) : Nat :=
  match op with
  | 1 => (x + y) % 2 ^ 32
  | 2 => (x + y) % 2 ^ 64
  | 5 => if sint 32 y < sint 32 x then y else x
  | 6 => if sint 32 x < sint 32 y then y else x
  | 7 => Nat.min x y
  | 8 => Nat.max x y
  | 9 => (F32.minmax false x y).1
  | 10 => (F32.minmax true x y).1
  | 11 => x ||| y
  | 12 => x &&& y
  | 13 => (x + y) % 2 ^ 32
  | _ => y
/-- The operators that add floating-point values, in an unspecified order (R103, R287). -/
def opFloat (op : Nat) : Bool := op == 3 || op == 4
/-- Fold the values of one element, oldest first; a float sum takes the order the choices give. ADD.BF16 works on F32
partials. -/
def opFold (op : Nat) (ch : Nat → Nat) : List Nat → Nat
  | [] => 0
  | x :: l => if opFloat op then fsumAll ch ((x :: l).map F32.decode) else l.foldl (opCombine op) x

/-- The value a pair brings into a bin: COUNT carries 1, ADD.BF16 is widened. -/
def opInit (op v : Nat) : Nat :=
  match op with
  | 4 => (F32.ofVal 0 (BF16.decode v)).1
  | 13 => 1
  | _ => v
/-- The old element as the operator combines it. -/
def opWiden (op v : Nat) : Nat := if op = 4 then (F32.ofVal 0 (BF16.decode v)).1 else v
/-- The element to store, narrowed once (R287). -/
def opNarrow (op v : Nat) : Nat := if op = 4 then (BF16.ofVal 0 (F32.decode v)).1 else v

/-- One pending contribution to an element, with the instance whose party sent it. -/
structure Pend where
  pa : Nat
  op : Nat
  tag : Nat
  field : Nat
  inst : Nat
  value : Nat
  poison : Bool
  deriving DecidableEq, Repr

/-- The choices that order a float sum at an element. -/
def State.sumPicks (s : State) (pa : Nat) (k : Nat) : Nat := s.pick 3 (pa * 2 ^ 32 + k)
/-- The new value of an element from its old bytes and the pending values, with its mark. -/
def State.newElem (s : State) (op pa : Nat) (old : List (Byte × Bool)) (l : List Pend) : List (Nat × Byte × Bool) :=
  let v := opNarrow op (opFold op (s.sumPicks pa) (opWiden op (leNat (old.map Prod.fst)) :: l.map Pend.value))
  let q := old.any Prod.snd || l.any Pend.poison
  (List.range (opSize op)).zip (natLe (opSize op) v) |>.map fun (k, b) => (pa + k, b, q)

/-- A contribution goes into the version of its instance. -/
def State.versions (s : State) (p : Pend) : Bool := p.tag ≠ 0 && (s.inst? p.field p.tag).any Inst.versioned
/-- The contributions that the version of an instance takes, in serialisation order. Where the version holds the element
already, these are its own and the untagged ones of its field, so that the field's parties see them (log entry 76). Else
it takes up the line as it stands at its own first contribution. -/
def State.versionTakes (s : State) (x : Inst) (covered : Bool) (l : List Pend) : List Pend :=
  let mine (p : Pend) : Bool := s.versions p && p.field == x.field && p.tag == x.id
  let own (p : Pend) : Bool := mine p || (!s.versions p && p.field != 0 && p.field == x.field)
  if covered then l.filter own
  else if l.any mine then
    ((l.takeWhile fun p => !mine p).filter fun p => !s.versions p) ++ (l.dropWhile fun p => !mine p).filter own
  else []

/-- Apply all pending values of one element in one step (R295). Tagged values go into their instance's version, after
another holder of the line has committed (R298); untagged ones go to the committed line. An instance whose poisoned values
are applied gets its report (R389). -/
def State.applyElem (s : State) (pa op : Nat) (l : List Pend) : State :=
  let at_ := (List.range (opSize op)).map (pa + ·)
  let s := ((l.filter fun p => p.tag ≠ 0).map fun p => (p.field, p.tag)).dedup.foldl (fun s q =>
    s.claim q.1 q.2 (lineOf pa)) s
  let base := l.filter fun p => !s.versions p
  let new := s.newElem op pa (at_.map fun a => (s.mem.read a, decide (s.mpoison.read a ≠ 0))) base
  let vers := (s.insts.filter Inst.versioned).filterMap fun x =>
    match s.versionTakes x (x.overlay.any fun y => at_.contains y.1) l with
    | [] => none
    | y :: t => some (x, s.newElem op pa (at_.map (s.viewByte x.field)) (y :: t))
  let s := if base.isEmpty then s else s.rawWrite new
  let s := vers.foldl (fun s q => q.2.foldl (fun s (a, b, m) => s.instWrite q.1.field q.1.id a b m) s) s
  let s := (l.filter Pend.poison).foldl (fun s p => s.noteBad p.field p.inst [pa]) s
  s.noteWords [⟨pa, opSize op⟩]

/-- Apply contributions element by element, those of one element and operator together, up to the first that meets the element
otherwise (R295); `fuel` bounds the number of groups. -/
def State.applyPend : Nat → State → List Pend → State
  | 0, s, _ => s
  | _, s, [] => s
  | n + 1, s, x :: l =>
    let same (y : Pend) : Bool := y.pa == x.pa && y.op == x.op
    let meets (y : Pend) : Bool := decide (y.pa < x.pa + opSize x.op) && decide (x.pa < y.pa + opSize y.op)
    let near := l.takeWhile fun y => same y || !meets y
    State.applyPend n (s.applyElem x.pa x.op (x :: near.filter same))
      ((near.filter fun y => !same y) ++ l.dropWhile fun y => same y || !meets y)

/-- Contributions of a bin or run. -/
def entryPends (op tag : Nat) (l : List Entry) : List Pend :=
  l.flatMap fun e => e.parts.map fun v => ⟨e.pa, op, tag, v.field, v.inst, v.value.toNat, e.poison⟩
/-- The contribution of a pair. -/
def Pair.pend (p : Pair) : Pend := ⟨p.pa, p.op, p.tag, p.field, p.inst, opInit p.op p.value.toNat, p.poison⟩

/-- Choose, newest first, the runs that `pick` names and every older run that shares a line with a chosen one, so that
each line's contributions keep serialisation order. Answers chosen and kept, oldest first, and the lines chosen. -/
def chooseRuns (pick : Run → Bool) : List Run → List Run × List Run × List Nat
  | [] => ([], [], [])
  | r :: l =>
    -- `l` holds the newer runs
    let (c, k, w) := chooseRuns pick l
    let ls := r.entries.map fun e => lineOf e.pa
    if pick r || ls.any w.contains then (r :: c, k, w ++ ls) else (c, r :: k, w)

/-- A run cannot be read back: its bytes in the spill area hold an error (R303). -/
def State.runLost (s : State) (r : Run) : Bool :=
  !s.mpoison.isEmpty && (segBytes (asSegs r.addr)).any fun a => s.mpoison.read a ≠ 0
/-- Mark the lines of a lost run poisoned and report them to the instances whose pairs it held (R302, R303): a tagged run's
lines in the version of its instance (R298), else the committed lines, with what a version of a sender's field holds of
them. -/
def State.poisonRun (s : State) (r : Run) : State :=
  let lines := (r.entries.map fun e => lineOf e.pa).dedup
  let as := lines.flatMap fun n => (List.range 64).map (64 * n + ·)
  let senders := (r.entries.flatMap fun e => e.parts.map fun v => (v.field, v.inst)).dedup
  let s := if r.tag ≠ 0 && (s.inst? r.field r.tag).any Inst.versioned then
      as.foldl (fun s a => s.instWrite r.field r.tag a (s.viewByte r.field a).1 true) s
    else
      let s := s.deposit (as.map fun a => (a, s.mem.read a, true))
      { s with insts := s.insts.map fun x =>
          if x.field != 0 && senders.any (fun q => q.1 == x.field) then
            { x with overlay := x.overlay.map fun y => if as.contains y.1 then (y.1, y.2.1, true) else y }
          else x }
  senders.foldl (fun s q => s.noteBad q.1 q.2 (lines.map (64 * ·))) s

/-- Apply, in one step, the runs of a slice that `run` names, whole and oldest first, with the older runs they need,
then the bins that `bin` names, and then `more` (R295). A lost run's entries are lost and its lines poisoned (R303). -/
def State.applyWork (pre : AtHome) (s : State) (k : Nat) (run : Run → Bool) (bin : Bin → Bool) (more : List Pend) : State :=
  let x := s.slice k
  let r := chooseRuns run x.runs
  let bins := x.bins.filter bin
  if r.1 = [] ∧ bins = [] ∧ more = [] then s
  else
    let s := s.setSlice k ({ x with runs := r.2.1, bins := x.bins.filter fun b => !bin b } : Slice).prune
    let s := r.1.foldl (fun s q => pre.all s (asSegs q.addr)) s
    let lost := r.1.filter s.runLost
    let pends := (r.1.flatMap fun r => if lost.contains r then [] else entryPends r.op r.tag r.entries)
      ++ (bins.flatMap fun b => entryPends b.op b.tag b.entries) ++ more
    let s := lost.foldl State.poisonRun (State.applyPend pends.length s pends)
    r.1.foldl (State.spillSub pre) s
/-- Apply runs of a slice. -/
def State.applyRuns (pre : AtHome) (s : State) (k : Nat) (run : Run → Bool) : State :=
  s.applyWork pre k run (fun _ => false) []
/-- Apply, in one step, the pending pairs of the wanted lines in a slice's runs and bins, and then `more` (R295). A run
applied for one line brings its entries for its other lines, whose bins stay. -/
def State.applyLines (pre : AtHome) (s : State) (k : Nat) (want : Nat → Bool) (more : List Pend) : State :=
  s.applyWork pre k (fun r => r.entries.any fun e => want (lineOf e.pa)) (fun b => want b.line) more

/-! ### The bin store (R291-R294) -/

/-- Entries of a list of bins. -/
def binEntries (l : List Bin) : Nat := (l.map fun b => b.entries.length).foldl (· + ·) 0
/-- A bin belongs to a region. -/
def Bin.inRegion (b : Bin) (t h : Nat) : Bool := b.tenant == t && b.handle == h
/-- The keys of two bins agree but for the line. -/
def Bin.alike (a b : Bin) : Bool :=
  a.tenant == b.tenant && a.handle == b.handle && a.op == b.op && a.sync == b.sync && a.field == b.field && a.tag == b.tag
/-- The bin a pair opens. -/
def Pair.bin (p : Pair) : Bin :=
  ⟨p.tenant, p.handle, p.op, p.sync, if p.tag = 0 then 0 else p.field, p.tag, lineOf p.pa,
    [⟨p.pa, p.va, [⟨p.field, p.inst, BitVec.ofNat 64 (opInit p.op p.value.toNat)⟩], p.poison⟩]⟩
/-- Combine a part into those of an entry (R287): float values are kept apart until they are summed; else the parts of one
instance are one, and it moves to the end. -/
def addPart (op : Nat) (l : List Part) (v : Part) : List Part :=
  if opFloat op then l ++ [v]
  else match l.find? fun x => x.field == v.field && x.inst == v.inst with
    | none => l ++ [v]
    | some x => l.erase x ++ [{ v with value := BitVec.ofNat 64 (opCombine op x.value.toNat v.value.toNat) }]
/-- Combine an entry into a list of entries (R287). -/
def addEntry (op : Nat) (e : Entry) : List Entry → List Entry
  | [] => [e]
  | x :: l =>
    if x.pa = e.pa then { x with parts := e.parts.foldl (addPart op) x.parts, poison := x.poison || e.poison } :: l
    else x :: addEntry op e l
/-- An entry whose float partials are summed, instance by instance: so its run is written (R293). -/
def State.oneValue (s : State) (op : Nat) (e : Entry) : Entry :=
  if !opFloat op then e
  else { e with parts := (e.parts.map fun v => (v.field, v.inst)).dedup.map fun q =>
    ⟨q.1, q.2, BitVec.ofNat 64 (opFold op (s.sumPicks e.pa)
      ((e.parts.filter fun v => v.field == q.1 && v.inst == q.2).map fun v => v.value.toNat))⟩ }
/-- The combined value of an entry. -/
def State.entryValue (s : State) (op : Nat) (e : Entry) : Nat :=
  opFold op (s.sumPicks e.pa) (e.parts.map fun v => v.value.toNat)

/-- Handle of a region whose entry stands in the table of another module: past this module's 4,096 (R297). -/
def farHandle (m h : Nat) : Nat := (m + 1) * 4096 + h % 4096
/-- The Granary's copy of a region's entry, as the table stands; an entry that no longer fits the pair gives BINQ 0, no
spill area and the pair's SYNC (R288). The entry of a region of another module is not to be seen here: its quota is a free
value, and its bins are applied in place (DESIGN CHOICE, log entry 17). -/
def State.regionCopy (s : State) (p : Pair) : RegionCopy :=
  if p.handle ≥ 4096 then ⟨p.tenant, p.handle, Config.farQuota p.tenant p.handle % 16385, 0, p.sync⟩ else
  let r := s.tableEntry p.tenant p.handle
  let e := entOf r.1
  if r.2 || !entValid r.1 || entMalformed p.tenant r.1 || e.op != p.op then ⟨p.tenant, p.handle, 0, 0, p.sync⟩
  else ⟨p.tenant, p.handle, e.binq, e.spill, e.sync⟩
/-- Address of an entry of a tenant's handle table. -/
def State.entryAddr (s : State) (t h : Nat) : Nat := s.ga ((s.tenant t).htbase.toNat + 32 * h)

/-- Insert one pair into the bin store: a bin of another key on its line is applied first (R291). -/
def State.insertPair (pre : AtHome) (s : State) (k : Nat) (p : Pair) : State :=
  let new := p.bin
  let same (b : Bin) : Bool := b.line == new.line && b.alike new
  let other := (s.slice k).bins.any fun b => b.line == new.line && !same b
  let s := if other then s.applyLines pre k (· == new.line) [] else s
  let join (b : Bin) : Bin :=
    if same b then { b with entries := new.entries.foldl (fun l e => addEntry b.op e l) b.entries } else b
  if (s.slice k).bins.any same then
    let x := s.slice k
    s.setSlice k { x with bins := x.bins.map join }
  else
    let known := (s.slice k).copies.any fun c => c.tenant == p.tenant && c.handle == p.handle
    let s := if known || p.handle ≥ 4096 then s else pre s (s.entryAddr p.tenant p.handle)
    let x := s.slice k
    s.setSlice k { x with bins := x.bins ++ [new]
                          copies := if known then x.copies else x.copies ++ [s.regionCopy p] }

/-- A usable spill area: base and bound (R293). -/
def State.spillArea (s : State) (t h : Nat) : Option (Nat × Nat) :=
  if h = 0 then none else
  let r := s.tableEntry t h
  let e := entOf r.1
  if r.2 || !entValid r.1 || entMalformed t r.1 || e.space != 0 || e.op != 0 || !e.rd || !e.wr || decide (e.bound < 64)
  then none else some (e.base, e.bound)

/-- The first bay of a die. -/
def dieBay (d : Nat) : Nat := 512 * (d / 8) + 8 * (d % 8)
/-- Context of the Granary of a slice acting for a tenant: its translations are cached on the slice's die (R51). -/
def granaryCtx (k t : Nat) : Ctx := ⟨.unit, t, dieBay (k % 1024 / 32), false, 0, 0, 0, 0, 0, 0⟩
/-- Translate bytes of a spill area for writing. -/
def State.spillSegs (pre : AtHome) (s : State) (k t base off n : Nat) : Option (State × List Seg) :=
  (s.transRange pre (granaryCtx k t) 0 true (n / 65536 + 2) (base + off) n).toOption

/-- Sort entries by virtual address. -/
def sortEntries (l : List Entry) : List Entry := sortBy Entry.va l

/-- The bytes of a run (R293). -/
def runBytes (slice op tag : Nat) (merged : Bool) (val : Entry → Nat) (l : List Entry) : List Byte :=
  natLe 8 ((l.map Entry.va).headD 0) ++ natLe 8 ((l.map Entry.va).getLastD 0) ++ natLe 4 l.length ++ natLe 2 slice
    ++ natLe 1 op ++ natLe 1 ((if merged then 1 else 0) + if l.any Entry.poison then 2 else 0) ++ natLe 4 tag ++ natLe 4 0
    ++ l.flatMap fun e => natLe 8 e.va ++ natLe 8 (val e)

/-- Write a run of entries for bins like `b`; `false` when it finds no room, and FULL rises then. -/
def State.writeRun (pre : AtHome) (s : State) (k : Nat) (b : Bin) (spill : Nat) (merged : Bool) (es : List Entry) :
    State × Bool :=
  match s.spillArea b.tenant spill with
  | none => (s, false)
  | some (base, bound) => match s.spillSegs pre k b.tenant base 0 64 with
    | none => (s, false)
    | some (s, hdr) =>
      let s := pre.all s hdr
      let es := es.map (s.oneValue b.op)
      let size := 32 + 16 * es.length
      let next := s.headerGet hdr 0
      match if next + size > bound then none else s.spillSegs pre k b.tenant base next size with
      | none => (s.headerAdd hdr 32 1, false)
      | some (s, segs) =>
        let s := ((s.headerAdd hdr 0 size).headerAdd hdr 8 size).headerAdd hdr 16 1
        let s := (pre.all s segs).deposit
          (((segBytes segs).zip (runBytes (k % 1024) b.op b.tag merged (s.entryValue b.op) es)).map fun (a, v) => (a, v, false))
        let run : Run := ⟨b.tenant, b.handle, b.op, b.sync, b.field, b.tag, segs.map fun x => (x.addr, x.len),
          hdr.map fun x => (x.addr, x.len), size, es⟩
        let x := s.slice k
        (s.setSlice k { x with runs := x.runs ++ [run] }, true)

/-- Add to a field of a tenant's GRNCNT, which counts at this module's slices (R301). -/
def State.grn (s : State) (k t hi lo n : Nat) : State :=
  if k ≥ 1024 then s else s.modTenant t fun x => { x with grncnt := wadd x.grncnt hi lo n }

/-- Apply bins in place: their lines' older runs go first (R292, R295). -/
def State.inPlace (pre : AtHome) (s : State) (k : Nat) (l : List Bin) : State :=
  let t := (l.map Bin.tenant).headD 0
  (s.applyLines pre k (l.map Bin.line).contains []).grn k t 31 16 l.length

/-- Drop bins from a slice's store. -/
def State.dropBins (s : State) (k : Nat) (l : List Bin) : State :=
  let x := s.slice k
  s.setSlice k { x with bins := x.bins.filter fun b => !l.contains b }

/-- The runs that `mine` names on a line of which a younger run is not `mine`. -/
def crossedRuns (mine : Run → Bool) : List Run → List Run
  | [] => []
  | r :: l =>
    let others := (l.filter fun q => !mine q).flatMap fun q => q.entries.map fun e => lineOf e.pa
    if mine r && r.entries.any fun e => others.contains (lineOf e.pa) then r :: crossedRuns mine l else crossedRuns mine l
/-- Merge a region's runs and the outgoing bins into one run (R294). Runs that cannot join it are applied first: of another
tag, lost ones, and, so that a line keeps its serialisation order (R295), those older than another region's run on one of
their lines. -/
def State.mergeRuns (pre : AtHome) (s : State) (k : Nat) (b : Bin) (spill : Nat) (l : List Bin) : State :=
  let mine (r : Run) : Bool := r.tenant == b.tenant && r.handle == b.handle
  let like (r : Run) : Bool := r.op == b.op && r.tag == b.tag && r.field == b.field && r.sync == b.sync && !s.runLost r
  let crossed := crossedRuns mine (s.slice k).runs
  let s := s.applyRuns pre k fun r => mine r && (!like r || crossed.contains r)
  let olds := (s.slice k).runs.filter mine
  let es := sortEntries ((olds.flatMap Run.entries ++ l.flatMap Bin.entries).foldl (fun acc e => addEntry b.op e acc) [])
  let r := s.writeRun pre k b spill true es
  if r.2 then
    let s := r.1.dropBins k l
    let x := s.slice k
    let s := s.setSlice k { x with runs := x.runs.filter fun q => !olds.contains q }
    match x.runs.getLast? with
    | none => s
    | some new =>
      let hdr := asSegs new.header
      let s := s.headerAdd hdr 24 1
      s.headerPut hdr 8 (s.headerGet hdr 8 - (olds.map Run.size).foldl (· + ·) 0)
  else (r.1.applyRuns pre k olds.contains).inPlace pre k l

/-- Remove bins of one key from the store: as a run when the region has a usable spill area, else in place (R292). -/
def State.spillBins (pre : AtHome) (s : State) (k : Nat) (l : List Bin) : State :=
  match l.filter (s.slice k).bins.contains with
  | [] => s
  | b :: t =>
    let l := b :: t
    let spill := (((s.slice k).copies.find? fun c => c.tenant == b.tenant && c.handle == b.handle).map RegionCopy.spill).getD 0
    let s := if spill = 0 then s else pre s (s.entryAddr b.tenant spill)
    if (s.spillArea b.tenant spill).isNone then s.inPlace pre k l
    else if ((s.slice k).runs.filter fun r => r.tenant == b.tenant && r.handle == b.handle).length ≥ 64 then
      s.mergeRuns pre k b spill l
    else
      let r := s.writeRun pre k b spill false (sortEntries (l.flatMap Bin.entries))
      if r.2 then r.1.dropBins k l else r.1.inPlace pre k l

/-- Remove a list of bins, one run for each key. -/
def State.spillAll (pre : AtHome) (k : Nat) : Nat → State → List Bin → State
  | 0, s, _ => s
  | _, s, [] => s
  | n + 1, s, b :: l => State.spillAll pre k n (s.spillBins pre k (b :: l.filter b.alike)) (l.filter fun q => !b.alike q)

/-- The oldest bins to remove until at most `limit` of `have_` entries remain. -/
def oldest (limit : Nat) : Nat → List Bin → List Bin
  | _, [] => []
  | have_, b :: l => if have_ ≤ limit then [] else b :: oldest limit (have_ - b.entries.length) l

/-- The tenant with the most entries, the lowest on a tie. -/
def fullest (l : List Bin) : Nat :=
  (List.range 16).foldl (fun t u =>
    if binEntries (l.filter fun b => b.tenant == u) > binEntries (l.filter fun b => b.tenant == t) then u else t) 0
/-- Bins to remove at the store threshold: the oldest of the tenant with the most entries, chosen afresh each time. -/
def overflow (limit : Nat) : Nat → List Bin → List Bin
  | 0, _ => []
  | n + 1, l =>
    if binEntries l ≤ limit then []
    else match l.find? fun b => b.tenant == fullest l with
      | some b => b :: overflow limit n (l.filter fun q => q ≠ b)
      | none => []

/-- The region quota of R292. -/
def State.quotaTest (pre : AtHome) (s : State) (k : Nat) (c : RegionCopy) : State :=
  let bins := (s.slice k).bins.filter fun b => b.inRegion c.tenant c.handle
  let n := binEntries bins
  if c.binq = 0 ∨ n ≤ c.binq then s
  else
    let out := oldest (3 * c.binq / 4) n bins
    State.spillAll pre k out.length (s.grn k c.tenant 63 48 1) out

/-- The store threshold of R292. -/
def State.storeTest (pre : AtHome) (s : State) (k : Nat) : State :=
  let bins := (s.slice k).bins
  if binEntries bins ≤ 14336 then s
  else
    let out := overflow 12288 bins.length bins
    let s := ((out.map Bin.tenant).dedup).foldl (fun s t => s.grn k t 47 32 1) s
    State.spillAll pre k out.length s out

/-- The bin key of a pair as one number (R291). -/
def Pair.key (p : Pair) : Nat :=
  (((((p.tenant * 2 ^ 12 + p.handle) * 2 ^ 4 + p.op) * 2 ^ 49 + p.sync) * 2 ^ 32 + p.tag) * 2 ^ 32
    + if p.tag = 0 then 0 else p.field) * 2 ^ 58 + lineOf p.pa
/-- A closed batch sorted by bin key and then by address (R291). Pairs of one line that have different keys stay in
serialisation order, as R295 asks: they stand where the lowest of their keys puts them. -/
def sortBatch (l : List Pair) : List Pair :=
  sortBy (fun p =>
    let keys := (l.filter fun q => lineOf q.pa == lineOf p.pa).map Pair.key
    keys.foldl Nat.min p.key * 64 + if keys.all (· == p.key) then p.pa % 64 else 0) l

/-- Insert a slice's batch into its bin store and test the limits (R291, R292). -/
def State.insertBatch (pre : AtHome) (s : State) (k : Nat) : State :=
  let x := s.slice k
  let s := s.setSlice k { x with batch := [], closed := false }
  let s := (sortBatch x.batch).foldl (fun s p => s.insertPair pre k p) s
  let s := (s.slice k).copies.foldl (fun s c => s.quotaTest pre k c) s
  s.storeTest pre k

/-- Before an access or a pair reaches a slice, a batch that has closed is inserted (R305). The Granary's own accesses
meanwhile reach other slices; the fuel counts the batches that are closed. -/
def State.settleN : Nat → State → Nat → State
  | 0, s, _ => s
  | n + 1, s, k =>
    if (s.slice k).closed then
      s.insertBatch (fun s a => if isWindow (gaLocal a) then s else State.settleN n s (s.sliceKey a)) k
    else s
def State.settle (s : State) (k : Nat) : State :=
  s.settleN ((s.slices.filter fun x => x.2.closed).length + 1) k
/-- An access reaches the home slice of an address. -/
def State.atHome (s : State) (a : Nat) : State := if isWindow (gaLocal a) then s else s.settle (s.sliceKey a)
/-- Insert a slice's batch, and test the limits, once it has closed. -/
def State.batchInsert (s : State) (k : Nat) : State := s.insertBatch State.atHome k

/-- Apply, in one step, every pending pair of the wanted lines at a slice: runs, bins and then the pairs of the open batch
(R295). A batch that holds one of them closes for it; the rest of it goes into the bin store, and no limit is tested
(R291, R305). -/
def State.applyAt (s : State) (k : Nat) (want : Nat → Bool) : State :=
  match tget k s.slices with
  | none => s
  | some _ =>
    let s := s.settle k
    let x := s.slice k
    let mine := x.batch.filter fun p => want (lineOf p.pa)
    let s := if mine.isEmpty then s
      else (sortBatch (x.batch.filter fun p => !want (lineOf p.pa))).foldl (fun s p => s.insertPair State.atHome k p)
        (s.setSlice k { x with batch := [], closed := false })
    s.applyLines State.atHome k want (mine.map Pair.pend)

/-- Apply the pending pairs of every line an access touches (R295). -/
def State.applySegs (s : State) (l : List Seg) : State :=
  if s.slices.isEmpty then s
  else l.foldl (fun s x =>
    (List.range ((x.addr % 64 + x.len + 63) / 64)).foldl (fun s k =>
      let line := lineOf x.addr + k
      if isWindow (gaLocal (64 * line)) then s else s.applyAt (s.sliceKey (64 * line)) (· == line)) s) s

/-- Serialise one pair at its home slice: it joins the open batch (R289, R291). It is a write: a stream whose source
it reaches takes no more joiners (R78, R80). A versioned instance whose pair is homed on another module commits first,
and the pair goes unversioned (R256). -/
def State.serialise (s : State) (p : Pair) : State :=
  let away := p.tag ≠ 0 ∧ gaMod p.pa ≠ s.own
  let s := if away then match s.inst? p.field p.tag with
    | some x => s.earlyCommit x
    | none => s
    else s
  let p := if away then { p with tag := 0 } else p
  let s := s.noteStreams [⟨p.pa, opSize p.op⟩]
  let k := s.sliceKey p.pa
  let s := s.settle k
  let x := s.slice k
  let s := s.setSlice k { x with batch := x.batch ++ [p], closed := decide (x.batch.length + 1 ≥ 32) }
  -- a word that is waited on is tested with each value in its serialisation order (R173, R250)
  if s.waiters.any fun w => decide (p.pa < w.word + 8) && decide (w.word < p.pa + opSize p.op) then
    s.applySegs [⟨p.pa, opSize p.op⟩] else s

/-- Two parties send from one stop: they stand on one bay, or are one party. -/
def Who.sameStop (w z : Who) : Bool := w == z || w.bay.isSome && w.bay == z.bay
/-- Two pairs on their way take one path: they come from one stop and go to one home slice on one network, so they arrive
in the order they were sent (R289, R349). -/
def State.samePath (s : State) (p q : Pair) : Bool :=
  p.who.sameStop q.who && p.tenant == q.tenant && s.sliceKey p.pa == s.sliceKey q.pa

/-- A store of the pair's bay to the pair's slice that was issued before it and is still held (R61, R349). -/
def State.behindStore (s : State) (p : Pair) : Bool := match p.who.bay with
  | none => false
  | some b => (s.bay b).fwd.any fun e => !e.behind.contains p &&
      e.segs.any fun x => !isWindow (gaLocal x.1) && s.sliceKey x.1 == s.sliceKey p.pa
/-- A pair cannot reach its home slice yet. -/
def State.stays (s : State) (p : Pair) : Bool := s.noRoute p.who p.pa || s.behindStore p

/-- Serialise the pairs on their way that `p` names, oldest first (R67, R78), each after those sent before it on its path.
Pairs that no route reaches stay, and those behind a held store. -/
def State.drainIf (s : State) (p : Pair → Bool) : State :=
  let go : List (Pair × Bool) := s.pairs.zipIdx.map fun (x, i) =>
    (x, (s.pairs.drop i).any fun y => p y && s.samePath x y && !s.stays y)
  ((go.filter Prod.snd).map Prod.fst).foldl State.serialise
    { s with pairs := (go.filter fun x => !x.2).map Prod.fst }
/-- Serialise every pair on its way that a party has sent. -/
def State.drain (s : State) (w : Who) : State := s.drainIf fun p => p.who == w
/-- Serialise every pair of the parties that have one that `p` names. -/
def State.drainWho (s : State) (p : Pair → Bool) : State :=
  let ws := (s.pairs.filter p).map Pair.who
  s.drainIf fun q => ws.contains q.who
/-- A party has a pair on its way that cannot reach its home slice, or a store that is held: a release, a FENCE or a
completion of the party waits until it is serialised, or dropped under R361. -/
def State.pairsHeld (s : State) (w : Who) : Bool :=
  s.pairs.any (fun p => p.who == w && s.stays p) || match w with
    | .actor b a => (s.bay b).fwd.any fun e => e.actor == a
    | _ => false

/-- The home slices of an access. -/
def State.slicesOf (s : State) (l : List Seg) : List Nat :=
  (l.flatMap fun x => (List.range ((x.addr % 64 + x.len + 63) / 64)).filterMap fun k =>
    let a := 64 * (lineOf x.addr + k)
    if isWindow (gaLocal a) then none else some (s.sliceKey a)).dedup
/-- An access travels behind the pairs that its bay has sent to its slices (R349), its party's own pairs to its lines among
them (R289): these are serialised first. -/
def State.drainLines (s : State) (c : Ctx) (l : List Seg) : State :=
  if s.pairs.isEmpty then s
  else
    let ks := s.slicesOf l
    s.drainIf fun p => p.who.sameStop c.who && p.tenant == c.tenant && ks.contains (s.sliceKey p.pa)

/-- Drop an instance's version and its pending pairs (R255, R298). -/
def State.discardVersion (s : State) (x : Inst) : State :=
  let n := (overlayLines x.overlay).length
  let keep (tag fld : Nat) : Bool := !(tag == x.id && fld == x.field) || !x.versioned
  let gone := s.slices.flatMap fun (_, z) => z.runs.filter fun r => !keep r.tag r.field
  let s := gone.foldl (State.spillSub State.atHome) (s.setInst { x with overlay := [] })
  { s.modTenant (s.tenantOf x.field) fun y => { y with verq := verUsed y.verq (-n) } with
    slices := s.slices.map fun (k, z) => (k, ({ z with
      batch := z.batch.filter fun p => keep p.tag p.field
      bins := z.bins.filter fun b => keep b.tag b.field
      runs := z.runs.filter fun r => keep r.tag r.field } : Slice).prune)
    pairs := s.pairs.filter fun p => keep p.tag p.field }

/-! ### Register windows (R55, R56, R229) -/

/-- Byte `k` of a bit vector. -/
def byteOf {n : Nat} (x : BitVec n) (k : Nat) : Byte := BitVec.ofNat 8 (x.toNat >>> (8 * k))

/-- A byte of the registers of a firing, by slot offset. -/
def regsByte (r : Regs) (o : Nat) : Byte × Bool :=
  if o < 0x100 then (byteOf (r.rg (BitVec.ofNat 5 (o / 8))) (o % 8), r.rgp (BitVec.ofNat 5 (o / 8)))
  else if o < 0x140 then (byteOf (r.rm (BitVec.ofNat 3 ((o - 0x100) / 8))) (o % 8), false)
  else if o < 0x1C0 then (byteOf (r.rz (BitVec.ofNat 4 ((o - 0x140) / 8))) (o % 8), false)
  else if o < 0x240 then
    (byteOf (r.rk (BitVec.ofNat 3 ((o - 0x1C0) / 16))) (o % 16), r.rkp (BitVec.ofNat 3 ((o - 0x1C0) / 16)))
  else
    let v := BitVec.ofNat 5 ((o - 0x2000) / 256)
    (byteOf (r.rv v) (o % 256), (r.rvp v).getLsbD (o % 256 / 4))

/-- A byte of an actor's persistent set: g16..g23 and v24..v31 (R37). -/
def persistByte (p : Persist) (o : Nat) : Option (Byte × Bool) :=
  if 0x80 ≤ o ∧ o < 0xC0 then
    let i := (o - 0x80) / 8 % 8
    some (byteOf (p.g.toList.getD i 0) (o % 8), p.gp.getLsbD i)
  else if 0x3800 ≤ o ∧ o < 0x4000 then
    let i := (o - 0x3800) / 256 % 8
    some (byteOf (p.v.toList.getD i 0) (o % 256), (p.vp.toList.getD i 0).getLsbD (o % 256 / 4))
  else none

/-- A byte of a bay's register window; a non-persistent register of an idle actor reads as undefined. -/
def State.regByte (s : State) (b o : Nat) : Byte × Bool :=
  match s.firing? b (o / 0x4000) with
  | some f => regsByte f.regs (o % 0x4000)
  | none => match persistByte (tgetD (o / 0x4000) Persist.zero (s.bay b).persist) (o % 0x4000) with
    | some r => r
    | none => (s.anyByte (b * 2 ^ 20 + o), false)

/-- Replace the bytes of a number that a mask selects. -/
def maskBytes (old new : Nat) (mask : BitVec 8) (at_ : Nat) : Nat :=
  (List.range 8).foldl (fun x k =>
    if mask.getLsbD k then setBits x (8 * (at_ + k) + 7) (8 * (at_ + k)) (bits new (8 * k + 7) (8 * k)) else x) old

/-- Write an 8-byte unit into the registers of a firing (R56): g0 and m0 ignore it. -/
def regsUnit (r : Regs) (o : Nat) (u : RwUnit) : Regs :=
  let v := u.value.toNat
  if o < 0x100 then
    let i := BitVec.ofNat 5 (o / 8)
    r.wg i (BitVec.ofNat 64 (maskBytes (r.rg i).toNat v u.mask 0)) (u.poison || (r.rgp i && decide (u.mask ≠ 0xFF)))
  else if o < 0x140 then
    let i := BitVec.ofNat 3 ((o - 0x100) / 8)
    r.wm i (BitVec.ofNat 64 (maskBytes (r.rm i).toNat v u.mask 0))
  else if o < 0x1C0 then
    let i := BitVec.ofNat 4 ((o - 0x140) / 8)
    r.wz i (BitVec.ofNat 64 (maskBytes (r.rz i).toNat v u.mask 0))
  else if o < 0x240 then
    let i := BitVec.ofNat 3 ((o - 0x1C0) / 16)
    r.wk i (BitVec.ofNat 128 (maskBytes (r.rk i).toNat v u.mask (o % 16))) (r.rkp i || u.poison)
  else
    let i := BitVec.ofNat 5 ((o - 0x2000) / 256)
    let l := o % 256 / 4
    r.wv i (BitVec.ofNat 2048 (maskBytes (r.rv i).toNat v u.mask (o % 256)))
      (if u.poison then r.rvp i ||| BitVec.ofNat 64 (3 * 2 ^ l) else
        if u.mask = 0xFF then r.rvp i &&& ~~~(BitVec.ofNat 64 (3 * 2 ^ l)) else r.rvp i)

/-- Write an 8-byte unit into a persistent set. -/
def persistUnit (p : Persist) (o : Nat) (u : RwUnit) : Persist :=
  let v := u.value.toNat
  if 0x80 ≤ o ∧ o < 0xC0 then
    let i := (o - 0x80) / 8 % 8
    { p with g := p.g.setIfInBounds i (BitVec.ofNat 64 (maskBytes (p.g.toList.getD i 0).toNat v u.mask 0))
             gp := putBit p.gp i (u.poison || (p.gp.getLsbD i && decide (u.mask ≠ 0xFF))) }
  else if 0x3800 ≤ o ∧ o < 0x4000 then
    let i := (o - 0x3800) / 256 % 8
    let l := o % 256 / 4
    let q := p.vp.toList.getD i 0
    { p with v := p.v.setIfInBounds i (BitVec.ofNat 2048 (maskBytes (p.v.toList.getD i 0).toNat v u.mask (o % 256)))
             vp := p.vp.setIfInBounds i (if u.poison then q ||| BitVec.ofNat 64 (3 * 2 ^ l) else
               if u.mask = 0xFF then q &&& ~~~(BitVec.ofNat 64 (3 * 2 ^ l)) else q) }
  else p

/-- Land a unit in a bay (R38, R229): in the named actor's firing, or in its persistent set; a non-persistent
register of an idle actor discards it. -/
def State.landUnit (s : State) (u : RwUnit) : State :=
  let a := u.off / 0x4000
  let o := u.off % 0x4000
  if s.fir.bay = u.bay ∧ s.fir.actor = a ∧ s.fir.status ≠ .ended then
    { s with fir := { s.fir with regs := regsUnit s.fir.regs o u } }
  else match (s.bay u.bay).firings.find? fun f => f.actor == a with
  | some _ => s.modFiring u.bay a fun f => { f with regs := regsUnit f.regs o u }
  | none => s.modBay u.bay fun b => { b with persist := tmod a Persist.zero (fun p => persistUnit p o u) b.persist }

/-! ### Reading and writing bytes -/

/-- A byte as a party reads it, with its poison mark: a register, an undefined byte of a spill ring or of a
running collective (R79, R356), or memory with the field's overlays. -/
def State.readByte (s : State) (c : Ctx) (a : Nat) : Byte × Bool :=
  let l := gaLocal a
  if isWindow l && isRegOff (windowOff l) then
    if gaMod a = s.own then s.regByte (windowBay l) (windowOff l - Config.regBase) else (s.anyByte a, false)
  else if s.veils.any fun v => decide (v.lo ≤ a) && decide (a < v.hi) then (s.anyByte a, false)
  else s.viewByte c.field a

/-- Read the bytes of an access, after the pairs of its lines are applied (R295). -/
def State.readSegs (s : State) (c : Ctx) (l : List Seg) : State × List (Byte × Bool) :=
  let s := (s.drainLines c l).applySegs l
  (s, (segBytes l).map (s.readByte c))

/-- Record poisoned lines that an instance writes (R389). -/
def State.notePoison (s : State) (c : Ctx) (l : List (Nat × Byte × Bool)) : State :=
  s.noteBad c.field c.inst ((l.filter fun y => y.2.2).map Prod.fst)

/-- A byte of a register window. -/
def isRegByte (a : Nat) : Bool := isWindow (gaLocal a) && isRegOff (windowOff (gaLocal a))
/-- The memory bytes of one run of a write: into the version of a versioned instance (R253), else into the committed line.
Streams and waiters see them before those of the next run: a lane of a vector store is a value of its own (R173, R197). -/
def State.writeRunBytes (s : State) (c : Ctx) (l : List (Nat × Byte × Bool)) : State :=
  let s := l.foldl (fun s x =>
    if c.inst = 0 then s.plainWrite c.field [(x.1, x.2.1, x.2.2)] else s.instWrite c.field c.inst x.1 x.2.1 x.2.2) s
  let segs := l.map fun x => (⟨x.1, 1⟩ : Seg)
  (s.noteStreams segs).noteWords segs
/-- The bytes of each run of a write. -/
def cutBytes : List Seg → List (Byte × Bool) → List (List (Nat × Byte × Bool))
  | [], _ => []
  | x :: l, bs => (((List.range x.len).map (x.addr + ·)).zip bs) :: cutBytes l (bs.drop x.len)

/-- Write bytes of an access: pairs of its lines are applied first (R295), the memory bytes land run by run, and
register-window bytes become units on their way (R229). -/
def State.writeSegs (s : State) (c : Ctx) (l : List Seg) (bs : List (Byte × Bool)) : State :=
  let s := (s.drainLines c l).applySegs l
  let all := (segBytes l).zip bs
  let mem := all.filter fun x => !isRegByte x.1
  let s := (cutBytes l bs).foldl (fun s r => s.writeRunBytes c (r.filter fun x => !isRegByte x.1)) s
  -- a line that the write covers whole, outside a version, is no longer in error (R389)
  let ver := (s.inst? c.field c.inst).any Inst.versioned
  let s := s.endErrors ((wholeLines l).filter fun n => !ver || !s.ownHbm (64 * n)) mem
  let units := (all.filter fun x => isRegByte x.1 && decide (gaMod x.1 = s.own)).map fun x =>
    let o := windowOff (gaLocal x.1) - Config.regBase
    (⟨windowBay (gaLocal x.1), o / 8 * 8, BitVec.ofNat 64 (x.2.1.toNat * 2 ^ (8 * (o % 8))),
      BitVec.ofNat 8 (2 ^ (o % 8)), x.2.2, c.who, c.tenant, 0⟩ : RwUnit)
  -- bytes of one unit land together
  let merged := units.foldl (fun acc u => match acc with
    | [] => [u]
    | v :: t => if v.bay = u.bay ∧ v.off = u.off then
        { v with value := v.value ||| u.value, mask := v.mask ||| u.mask, poison := v.poison || u.poison } :: t
      else u :: v :: t) ([] : List RwUnit)
  let s := { s with rwq := s.rwq ++ merged.reverse }
  s.notePoison c mem

/-! ### Releases and acquires -/

/-- Key of a sync object: tenant and bits [51:3] of its virtual address (R291). -/
def syncKey (t va : Nat) : Nat := t * 2 ^ 49 + va / 8

/-- Apply at a slice the pairs tagged with a sync object (R296). -/
def State.sweepSlice (s : State) (k key : Nat) : State :=
  let x := s.slice k
  let lines := (x.bins.filter fun b => syncKey b.tenant (8 * b.sync) == key).map Bin.line
    ++ (x.runs.filter fun r => syncKey r.tenant (8 * r.sync) == key).flatMap (fun r => r.entries.map fun e => lineOf e.pa)
    ++ (x.batch.filter fun p => syncKey p.tenant (8 * p.sync) == key).map fun p => lineOf p.pa
  s.applyAt k fun l => lines.contains l
/-- Module of a slice's key. -/
def State.sliceMod (s : State) (k : Nat) : Nat := if k < 1024 then s.own else k / 1024 - 1
/-- Apply at every slice of the modules of a set, but for the slices that no sweep reaches, the pairs tagged with a sync
object. -/
def State.sweepSet (s : State) (key : Nat) (set : BitVec 320) (lost : List (Nat × Nat)) : State :=
  ((s.slices.map Prod.fst).filter fun k => set.getLsbD (s.sliceMod k) && !lost.contains (s.sliceMod k, k % 1024)).foldl
    (fun s k => s.sweepSlice k key) s

/-- Modules of a sync object's set (R296). -/
def State.syncSet (s : State) (t va : Nat) : BitVec 320 := tgetD (syncKey t va) 0 s.syncSets

/-- Note packets completed for an unreachable module: DROPS of DOMCFG, and the instance's report (R361, R387). -/
def State.noteDrops (s : State) (f i n addr : Nat) : State :=
  let s := { s with domcfg := wadd s.domcfg 63 48 n }
  match s.inst? f i with
  | none => s
  | some x => s.setInst { x with drops := x.drops + n, dropAddr := if x.drops = 0 then addr else x.dropAddr }
/-- Field and instance of a party. -/
def State.whoInst (s : State) (w : Who) : Nat × Nat := match w with
  | .actor b _ | .cmd b _ => (s.bay b).inst.getD (0, 0)
  | .walk f _ => (f, 0)
  | .host _ _ | .unit => (0, 0)

/-- Modules of the set with a slice that no route reaches, where the wait has not run out: an acquire waits for their
sweeps (R297, R361). -/
def State.sweepWaits (s : State) (w : Who) (t va : Nat) : List Nat :=
  (List.range 320).filter fun m => (s.syncSet t va).getLsbD m && !(s.lostSlices m (s.whoDie w)).isEmpty
    && !s.routeWaits.any fun r => r.who == w && r.module == m && r.expired
/-- An acquire of a sync object can complete. -/
def State.acquireReady (s : State) (w : Who) (t va : Nat) : Bool :=
  decide (s.syncSet t va = 0) || (s.sweepWaits w t va).isEmpty
/-- An acquire that cannot complete yet waits for routes. -/
def State.acquireWait (s : State) (w : Who) (t va : Nat) : State :=
  { s with routeWaits := s.routeWaits ++ ((s.sweepWaits w t va).filter fun m =>
      !s.routeWaits.any fun r => r.who == w && r.module == m).map fun m => ⟨w, m, false⟩ }

/-- An acquire of a sync object: sweep the modules of its set (R296, R301). Where the wait for a route has run out, the
slices that none reaches count as having answered, and the packets to them in DROPS (R361). -/
def State.acquire (s : State) (w : Who) (t va : Nat) : State :=
  let key := syncKey t va
  let set := s.syncSet t va
  if set = 0 then s
  else
    let lost := ((List.range 320).filter set.getLsbD).flatMap fun m => (s.lostSlices m (s.whoDie w)).map fun k => (m, k)
    let s : State := { s with
      syncSets := tdel key s.syncSets
      routeWaits := s.routeWaits.filter fun r => !(r.who == w && lost.any fun q => q.1 == r.module) }
    let s := match lost with
      | [] => s
      | q :: _ => s.noteDrops (s.whoInst w).1 (s.whoInst w).2 lost.length (q.1 * 2 ^ 47)
    (s.sweepSet key set lost).modTenant t fun x =>
      { x with grncnt := wadd x.grncnt 15 0 1 }

/-- A release by a party at a scope (R67, R256, R296): its pairs are serialised first, a versioned instance
commits early at MOD, DOM or SYS, and a release on a sync word reports the party's module set. -/
def State.release (s : State) (c : Ctx) (scope : Nat) (word : Option Nat) : State :=
  let s := s.drain c.who
  let s := if scope ≥ 3 then match s.inst? c.field c.inst with
    | some x => s.earlyCommit x
    | none => s
    else s
  match word with
  | none => s
  | some va =>
    let mine (x : SentSet) : Bool := x.who == .party c.who && x.tenant == c.tenant && x.sync == va / 8
    let set := (s.sentSets.filter mine).foldl (fun a x => a ||| x.modules) 0
    if set = 0 then s
    else { s with sentSets := s.sentSets.filter fun x => !mine x
                  syncSets := tmod (syncKey c.tenant va) 0 (· ||| set) s.syncSets }

/-- Add a module set to what a carrier holds. -/
def State.addSent (s : State) (x : SentSet) : State :=
  let mine (y : SentSet) : Bool := y.who == x.who && y.tenant == x.tenant && y.sync == x.sync
  let old := (s.sentSets.filter mine).foldl (fun a y => a ||| y.modules) 0
  { s with sentSets := { x with modules := old ||| x.modules } :: s.sentSets.filter fun y => !mine y }
/-- The module sets that a carrier holds for a tenant pass to others: a release of the party that has acquired the completion of an UPDS reports
its pairs (R74, R76, R296). The carrier keeps them while `keep` holds. -/
def State.passSent (s : State) (t : Nat) (src : Carrier) (dst : List Carrier) (keep : Bool) : State :=
  let mine (x : SentSet) : Bool := x.who == src && x.tenant == t
  match s.sentSets.filter mine with
  | [] => s
  | l =>
    let s : State := if keep then s else { s with sentSets := s.sentSets.filter fun x => !mine x }
    l.foldl (fun s x => dst.foldl (fun s d => s.addSent { x with who := d }) s) s

/-- Send a pair toward its home slice (R289); the party's module set of its sync object grows (R296). -/
def State.sendPair (s : State) (p : Pair) : State :=
  -- a staged pair whose instance has committed since goes unversioned (R256, R298)
  let p := if (s.inst? p.field p.tag).any Inst.versioned then p else { p with tag := 0 }
  let s := { s with pairs := s.pairs ++ [p] }
  if p.sync = 0 then s else s.addSent ⟨.party p.who, p.sync, p.tenant, BitVec.ofNat 320 (2 ^ gaMod p.pa)⟩

end Sys2Proof.Machine
end

