-- ==== Sys2Proof/Machine/Address.lean ====
section
/-! DEFINITION. Address formation of a party (R45-R48, R55, R56, R62): handle entries with their caches, AddressOf and its
forms for loads, stores and copies. -/

namespace Sys2Proof.Machine

/-! ### Handle entries (R45-R48) -/

/-- Read handle entry `h` of the context's tenant through the cache of its bay or sequencer: between a change in
memory and HINV the old or the new entry is used (R48). `none` for a poisoned entry. -/
def State.cachedEntry (s : State) (c : Ctx) (h : Nat) : Option (State × Nat) :=
  let key := if c.isBay then c.tenant * 4096 + h else bayDie c.bay * 65536 + c.tenant * 4096 + h
  let cached := if c.isBay then tget key (s.bay c.bay).hcache else tget key s.seqCache
  let put (s : State) (e : Nat) : State :=
    if c.isBay then s.modBay c.bay fun b => { b with hcache := tput key (BitVec.ofNat 256 e) b.hcache }
    else { s with seqCache := tput key (BitVec.ofNat 256 e) s.seqCache }
  let read : Option (State × Nat) :=
    let s := s.atHome (s.entryAddr c.tenant h)
    let fresh := s.tableEntry c.tenant h
    if fresh.2 then none else some (put s fresh.1, fresh.1)
  match cached with
  | some e => if (e.toNat, false) = s.tableEntry c.tenant h ∨ s.pick 0 h % 2 = 0 then some (s, e.toNat) else read
  | none => read

/-- A use of a handle that faults still reads its entry and caches it (R48). -/
def State.touch (s : State) (c : Ctx) (h : Nat) : State :=
  if h ≤ 3 || (h ≤ 15 && c.tenant ≠ 0) then s else match s.cachedEntry c h with
  | some (u, _) => u
  | none => s

/-- HandleEntry (R46, R47): the entry of handle `h`, or `none` for the handle fault. -/
def State.entry (s : State) (c : Ctx) (h : Nat) : Option (State × Ent) :=
  let win (off bound : Nat) : Ent := ⟨4, windowAddr c.bay off, bound, true, true, 0, 0, 0, 0⟩
  if h ≤ 3 then
    if !c.isBay then none
    else match h with
      | 0 => some (s, win 0 0x100000)
      | 1 => some (s, win Config.accBase 0x40000)
      | 2 => some (s, win Config.regBase 0x40000)
      | _ => if c.tenant = 0 then some (s, win Config.loftBase 0x160000) else none
  else if h ≤ 15 && c.tenant ≠ 0 then none
  else match s.cachedEntry c h with
    | none => none
    | some (s, e) => if entValid e && !entMalformed c.tenant e then some (s, entOf e) else none

/-! ### AddressOf (R47, R55, R56, R62) -/

/-- AddressOf (R47): the bytes of an access of `len` bytes through a pointer. -/
def State.addressOf (s : State) (c : Ctx) (p : Word) (len : Nat) (wr : Bool) : Except Flt (State × List Seg) :=
  match s.entry c (ptrH p) with
  | none => .error ((s.touch c (ptrH p)).flt c 0x06 p)
  | some (s, e) =>
    if if wr then !e.wr else !e.rd then .error (s.flt c 0x07 p)
    else if ptrOff p + len > e.bound then .error (s.flt c 0x08 p)
    else
      let a := e.base + ptrOff p
      let done (segs : List Seg) : Except Flt (State × List Seg) :=
        match s.checkSegs false segs with
        | some z => .error (s.flt c 0x0C z)
        | none => .ok (s, segs)
      match e.space with
      | 0 => s.transRange State.atHome c p wr (len / 65536 + 2) a len
      | 1 =>
        let b := a / Config.windowSize
        let w := a % Config.windowSize
        if b ≥ c.fw * c.fh || w + len > Config.loftBase then .error (s.flt c 0x0B p)
        else
          let bay := s.moduleBay c.tenant (c.ox + b % c.fw) (c.oy + b / c.fw)
          done [⟨s.ga (windowAddr bay w), len⟩]
      | 3 => done [⟨bits a 51 47 * 2 ^ 47 + a % 2 ^ 47, len⟩]
      | 4 => done [⟨s.ga a, len⟩]
      -- PHYS: a local physical address; past [46:0] no range of the map holds it (R53)
      | _ => if a ≥ 2 ^ 47 then .error (s.flt c 0x0C (BitVec.ofNat 64 a)) else done [⟨s.ga a, len⟩]

/-- AddressOf for a load: a byte of an unassigned slot takes the window fault (R55, R56). -/
def State.loadAddr (s : State) (c : Ctx) (p : Word) (len : Nat) : Except Flt (State × List Seg) :=
  match s.addressOf c p len false with
  | .error f => .error f
  | .ok (s, l) => if s.regSegsOk l then .ok (s, l) else .error (s.flt c 0x0B p)
/-- AddressOf for a store: a store into a register window takes the window fault (R56). -/
def State.storeAddr (s : State) (c : Ctx) (p : Word) (len : Nat) : Except Flt (State × List Seg) :=
  match s.addressOf c p len true with
  | .error f => .error f
  | .ok (s, l) => if segsTouchReg l then .error (s.flt c 0x0B p) else .ok (s, l)
/-- AddressOf for a copy's write: it may write assigned slots of a register window. -/
def State.copyAddr (s : State) (c : Ctx) (p : Word) (len : Nat) : Except Flt (State × List Seg) :=
  match s.addressOf c p len true with
  | .error f => .error f
  | .ok (s, l) => if s.regSegsOk l then .ok (s, l) else .error (s.flt c 0x0B p)

end Sys2Proof.Machine
end

