-- ==== Sys2Proof/Machine/Ops.lean ====
section
/-! DEFINITION. The operations every meaning is written with: retirement and loop ends (R163), taking a fault
(R107, R152), and parking (R36, R153). -/

namespace Sys2Proof.Machine

/-- Outcome of a step. -/
abbrev Out := Host.Outcome State Fault Refusal

/-- Change the registers of the firing in the issue stage. -/
def State.mapRegs (s : State) (f : Regs → Regs) : State := { s with fir := { s.fir with regs := f s.fir.regs } }
/-- Its registers. -/
def State.regs (s : State) : Regs := s.fir.regs

/-! ### Retirement -/

/-- The end checks of active loop bodies after the instruction at `p` has retired (R163). -/
def Regs.endChecks (r : Regs) (p : Word) : Regs :=
  let outer (r : Regs) : Regs :=
    if p ≠ r.le0 then { r with pc := p + 4 }
    else if r.lc0.toNat > 1 then { r with lc0 := r.lc0 - 1, pc := r.ls0 }
    else { r with lc0 := 0, depth := 0, pc := p + 4 }
  match r.depth with
  | 0 => { r with pc := p + 4 }
  | 1 => outer r
  | _ =>
    if p ≠ r.le1 then { r with pc := p + 4 }
    else if r.lc1.toNat > 1 then { r with lc1 := r.lc1 - 1, pc := r.ls1 }
    else outer { r with lc1 := 0, depth := 1 }

/-- Retire the instruction of the issue stage without a transfer. -/
def retire (s : State) : Out := .next (s.mapRegs fun r => r.endChecks r.pc)
/-- Change registers and retire. -/
def finish (s : State) (f : Regs → Regs) : Out := retire (s.mapRegs f)

/-- A taken transfer to `t` (R163): loops whose body does not hold `t` end, with every loop inside them. -/
def Regs.transfer (r : Regs) (t : Word) : Regs :=
  let within (lo hi : Word) : Bool := decide (lo.toNat ≤ t.toNat) && decide (t.toNat ≤ hi.toNat)
  let depth := if r.depth ≥ 1 && !within r.ls0 r.le0 then 0
    else if r.depth ≥ 2 && !within r.ls1 r.le1 then 1 else r.depth
  { r with pc := t, depth := depth }

/-- First byte and length of the code of an actor, as pointers count it (R144, R149). -/
def codeRange (x : Inst) (a : ActorRec) : Nat × Nat := (x.imgPtr.toNat + x.image.codeOff + a.cbase, a.clen)
/-- A target lies in the code range of the firing's actor (R108). -/
def State.inCode (s : State) (t : Word) : Bool :=
  match s.actorAt s.fir.bay s.fir.actor with
  | some (x, a) =>
    let (lo, n) := codeRange x a
    decide (lo ≤ t.toNat) && decide (t.toNat < lo + n)
  | none => false

/-! ### Taking a fault (R107, R152) -/

/-- Report a fault to a field's sequencer: the first is kept, later ones are counted (R258). -/
def State.report (s : State) (f : Nat) (r : FaultRec) : State :=
  match s.field? f with
  | none => s
  | some x => match x.fault with
    | none => s.setField { x with fault := some r }
    | some _ => s.setField { x with faults := x.faults + 1 }

/-- Record a fault of a bay (R151, R152): CAUSE, EPC and FADDR are written, the instance fires no more there,
and the sequencer hears of it. -/
def State.bayFault (s : State) (b f i code : Nat) (epc faddr : Word) : State :=
  let node := match s.inst? f i with
    | some x => x.node
    | none => 0
  (s.modBay b fun x => { x with cause := BitVec.ofNat 8 code, epc := epc, faddr := faddr, faulted := true }).report f
    ⟨BitVec.ofNat 8 code, faddr, epc, node, i, b, false⟩

/-- The state after the firing in the issue stage has taken a fault: nothing of the instruction happens, the
firing ends and the fault is recorded. -/
def State.faultAt (s : State) (code : Nat) (faddr : Word) : State :=
  let s := s.bayFault s.fir.bay s.fir.field s.fir.inst code s.fir.regs.pc faddr
  { s with fir := { s.fir with status := .ended, slot := false, region := none } }

/-- Taking an exception: the one operation behind every fault of the scalar stream. -/
def takeFault (code : Nat) (faddr : Word) (s : State) : Out := .next (s.faultAt code faddr)

/-- A fault whose FADDR is the instruction word (R151). -/
def wordFault (code : Nat) (i : Instr) (s : State) : Out :=
  takeFault code (BitVec.ofNat 64 ((encode i).getD 0).toNat) s
/-- The idempotent fault of an instruction that R177 forbids in an open region; elsewhere the instruction. -/
def outsideRegion (i : Instr) (s : State) (k : State → Out) : Out :=
  if s.fir.region.isSome then wordFault 0x11 i s else k s

/-! ### Parking (R36, R153) -/

/-- Park a firing: it keeps its registers and gives up its slot. -/
def Firing.park (f : Firing) (p : Park) (done : Bool) (since : Nat) : Firing :=
  { f with status := .parked p done, slot := false, since := since }
/-- Park the firing in the issue stage. -/
def State.park (s : State) (p : Park) (done : Bool) : State :=
  { s with fir := s.fir.park p done s.parkings, parkings := s.parkings + 1 }
/-- Park and wait. -/
def parkAt (p : Park) (s : State) : Out := .next (s.park p false)

end Sys2Proof.Machine
end

