-- ==== Sys2Proof/Machine/Branch.lean ====
section
/-! DEFINITION. Majors 0x10-0x18: branches, jumps and LOOP (R160, R162, R163). -/

namespace Sys2Proof.Machine

/-- A taken transfer: the fetch fault when the target lies outside the actor's code, else the jump. -/
def jumpTo (t : Word) (s : State) (link : Regs → Regs) : Out :=
  if s.inCode t then .next (s.mapRegs fun r => (link r).transfer t) else takeFault 0x01 t s
/-- A target `off` words from the instruction. -/
def target (s : State) (off : Int) : Word := s.regs.pc + BitVec.ofInt 64 (4 * off)
/-- A branch taken on a condition; one that is not taken never faults on its target. -/
def branch (c : Word → Word → Bool) (a b : R5) (off : BitVec 16) (s : State) : Out :=
  if c (s.regs.rg a) (s.regs.rg b) then jumpTo (target s off.toInt) s id else retire s

def execBeq (a b : R5) (off : BitVec 16) (s : State) : Out := branch (· == ·) a b off s
def execBne (a b : R5) (off : BitVec 16) (s : State) : Out := branch (· != ·) a b off s
def execBlt (a b : R5) (off : BitVec 16) (s : State) : Out := branch (fun a b => a.slt b) a b off s
def execBge (a b : R5) (off : BitVec 16) (s : State) : Out := branch (fun a b => !a.slt b) a b off s
def execBltu (a b : R5) (off : BitVec 16) (s : State) : Out := branch (fun a b => a.ult b) a b off s
def execBgeu (a b : R5) (off : BitVec 16) (s : State) : Out := branch (fun a b => !a.ult b) a b off s
def execJ (off : BitVec 26) (s : State) : Out := jumpTo (target s off.toInt) s id
/-- JAL: G(31) = PC + 4. -/
def execJal (off : BitVec 26) (s : State) : Out :=
  jumpTo (target s off.toInt) s fun r => r.wg 31 (r.pc + 4) false

/-- The check of a register target (R160): same handle, a multiple of 4, in the code range. -/
def regJump (t : Word) (s : State) (link : Regs → Regs) : Out :=
  if ptrH t ≠ ptrH s.regs.pc ∨ t.toNat % 4 ≠ 0 then takeFault 0x01 t s else jumpTo t s link
def execJr (a : R5) (s : State) : Out := regJump (s.regs.rg a) s id
/-- JALR: t is read before G(d) is written. -/
def execJalr (d a : R5) (s : State) : Out :=
  regJump (s.regs.rg a) s fun r => r.wg d (r.pc + 4) (r.rgp a)

/-- LOOP (R163). A LOOP of count 0 goes on at its end address + 4, whose end checks are those of the skipped end; that such a
skip past the end of an active outer loop leaves that loop active is the model's reading of 'that target' (log entry 83). -/
def execLoop (a : R5) (off : BitVec 16) (s : State) : Out :=
  let e := target s off.toInt
  let r := s.regs
  let n := r.rg a
  if off.toInt < 1 then takeFault 0x10 e s
  else if !s.inCode e then takeFault 0x01 e s
  else if n = 0 then .next (s.mapRegs fun r => r.endChecks e)
  else if r.depth ≥ 2 then takeFault 0x10 e s
  else if r.depth = 1 ∧ e.toNat > r.le0.toNat then takeFault 0x10 e s
  else finish s fun r =>
    if r.depth = 0 then { r with ls0 := r.pc + 4, le0 := e, lc0 := n, depth := 1 }
    else { r with ls1 := r.pc + 4, le1 := e, lc1 := n, depth := 2 }

end Sys2Proof.Machine
end

