-- ==== Sys2Proof/Machine/Channel.lean ====
section
/-! DEFINITION. Channels (R79, R100-R102, R138, R201, R226, R230, R326): the ports of an actor, room and visible
tokens, pushing with router conversion, spill rings, and taking tokens. -/

namespace Sys2Proof.Machine

/-! ### Ports -/

/-- Module bay of an actor record of an instance. -/
def State.actBay (s : State) (x : Inst) (n : Nat) : Nat :=
  match x.image.actors[n]?, s.field? x.field with
  | some a, some fd =>
    let r := plotRect (pktFw fd.packet) (pktFh fd.packet) x.plot.toNat
    s.fieldBay fd (r.1 + a.bx) (r.2.1 + a.by_)
  | _, _ => 0
/-- Bay of the producer end of a channel; an ext end stands on the bay of the other end (R138). -/
def State.prodBay (s : State) (x : Inst) (c : ChanRec) : Nat :=
  if c.pact = 0xFFFF then s.actBay x c.cact else s.actBay x c.pact
/-- Bay of the consumer end. -/
def State.consBay (s : State) (x : Inst) (c : ChanRec) : Nat :=
  if c.cact = 0xFFFF then s.actBay x c.pact else s.actBay x c.cact
/-- The ends stand on different islands (R326). -/
def State.crossing (s : State) (x : Inst) (c : ChanRec) : Bool := bayIsland (s.prodBay x c) != bayIsland (s.consBay x c)

/-- The live instance of the bay and the number and record of the actor with an index. -/
def State.actorNo (s : State) (b idx : Nat) : Option (Inst × Nat × ActorRec) :=
  match (s.bay b).inst with
  | none => none
  | some (f, i) => match s.inst? f i with
    | none => none
    | some x => match findAt (fun n => (x.image.actors[n]?).any (fun a => a.idx == idx) && s.actBay x n == b)
        (List.range x.image.actors.length) with
      | some (_, n) => (x.image.actors[n]?).map fun a => (x, n, a)
      | none => none

/-- The channel of an input port of an actor record (R123). -/
def inChan (x : Inst) (n p : Nat) : Option (Nat × ChanRec) :=
  findAt (fun c => c.cact == n && c.cport == p) x.image.chans
/-- The channel of an output port 0x10..0x1F of an actor record. -/
def outChan (x : Inst) (n p : Nat) : Option (Nat × ChanRec) :=
  findAt (fun c => c.pact == n && 16 + c.pport == p) x.image.chans
/-- The channel of an input port of a bay that its engines feed (R138, R217). -/
def State.extIn (s : State) (b p : Nat) : Option (Inst × Nat × ChanRec) :=
  match (s.bay b).inst with
  | none => none
  | some (f, i) => match s.inst? f i with
    | none => none
    | some x => (findAt (fun c => c.pact == 0xFFFF && c.cport == p && s.actBay x c.cact == b) x.image.chans).map
        fun (k, c) => (x, k, c)
/-- The channel of an output port of a bay that its engines drain. -/
def State.extOut (s : State) (b p : Nat) : Option (Inst × Nat × ChanRec) :=
  match (s.bay b).inst with
  | none => none
  | some (f, i) => match s.inst? f i with
    | none => none
    | some x => (findAt (fun c => c.cact == 0xFFFF && 16 + c.pport == p && s.actBay x c.pact == b) x.image.chans).map
        fun (k, c) => (x, k, c)

/-! ### State of a channel -/

/-- Tokens the spill ring of a channel holds (R226). -/
def ringCap (x : Inst) (c : ChanRec) : Nat :=
  match x.image.spills[c.spix]? with
  | some r => r.size / fmtSize c.fmtc
  | none => 0
/-- A channel of an instance. -/
def Inst.chan (x : Inst) (c : Nat) : Chan := tgetD c Chan.empty x.chans
/-- K of R140: 15 producer tokens for each row of a conversion to ROW, else 1. -/
def ChanRec.k (c : ChanRec) : Nat := if c.fmtc = 10 ∧ c.fmtp ≠ 10 then 15 else 1

/-- Change an instance. -/
def State.modInst (s : State) (f i : Nat) (g : Inst → Inst) : State :=
  match s.inst? f i with
  | none => s
  | some x => s.setInst (g x)
/-- Change a channel of an instance. -/
def State.modChan (s : State) (f i c : Nat) (g : Chan → Chan) : State :=
  s.modInst f i fun x => { x with chans := tmod c Chan.empty g x.chans }
/-- Tokens of the FIFO that R230 leaves visible. -/
def Chan.seenToks (c : Chan) : List Tok := c.fifo.takeWhile fun t => t.pend.isNone
/-- Tokens that have not yet been taken, wherever they rest. -/
def Chan.left (c : Chan) : Nat := c.fifo.length + c.flight.length + c.ringCount
/-- Room in producer-end tokens: the whole capacity less what was sent and not yet seen consumed (R326). -/
def roomOf (x : Inst) (r : ChanRec) (c : Chan) : Nat := (r.depth + ringCap x r) * r.k - (c.sent - c.seen)

/-! ### Spill rings (R226) -/

/-- Addresses of slot `k` of a channel's ring, or the fault of its address formation. -/
def State.ringSlot (s : State) (x : Inst) (r : ChanRec) (k : Nat) : Except Flt (State × List Nat) :=
  match x.image.spills[r.spix]? with
  | none => .error (.mk0 0x06 0)
  | some p =>
    let n := fmtSize r.fmtc
    match offsetAdd p.ptr ((k : Int) * n) with
    | none => .error (.mk0 0x08 p.ptr)
    | some q => match s.addressOf (s.ctxOf .unit (s.consBay x r) true x.field x.id) q n true with
      | .error f => .error f
      | .ok (s, l) => .ok (s, segBytes l)

/-- Write a token to the tail of the ring. A slot that cannot be addressed is a fault of the producer's bay. -/
def State.ringPush (s : State) (x : Inst) (c : Nat) (r : ChanRec) (t : Tok) : State :=
  let ch := x.chan c
  match s.ringSlot x r ((ch.ringHead + ch.ringCount) % Nat.max 1 (ringCap x r)) with
  | .error f => (s.keeping f).bayFault (s.prodBay x r) x.field x.id f.code 0 f.faddr
  | .ok (s, l) =>
    let s := s.deposit ((l.zip (natLe l.length t.data.toNat)).map fun (a, b) => (a, b, false))
    s.modChan x.field x.id c fun ch =>
      { ch with ringCount := ch.ringCount + 1, ringPoison := ch.ringPoison ++ [t.poison] }

/-- Take the token at the head of the ring. -/
def State.ringPop (s : State) (x : Inst) (c : Nat) (r : ChanRec) : Option (State × Tok) :=
  let ch := x.chan c
  if ch.ringCount = 0 then none else
  match s.ringSlot x r (ch.ringHead % Nat.max 1 (ringCap x r)) with
  | .error _ => none
  | .ok (s, l) =>
    let lost := if l.any fun a => s.mpoison.read a ≠ 0 then BitVec.allOnes 128 else 0
    let t : Tok := ⟨BitVec.ofNat 3904 (leNat (l.map s.mem.read)), ch.ringPoison.headD 0 ||| lost, none⟩
    some (s.modChan x.field x.id c fun ch =>
      { ch with ringHead := (ch.ringHead + 1) % Nat.max 1 (ringCap x r), ringCount := ch.ringCount - 1,
                ringPoison := ch.ringPoison.drop 1 }, t)

/-! ### Pushing tokens -/

/-- The token at the head of a ring moves into the FIFO when that has room (R226). -/
def State.refill (s : State) (x : Inst) (c : Nat) (r : ChanRec) : State :=
  if (x.chan c).fifo.length ≥ r.depth then s
  else match s.ringPop x c r with
    | none => s
    | some (s, t) => s.modChan x.field x.id c fun ch => { ch with fifo := ch.fifo ++ [t] }

/-- A token in consumer-end format reaches the consumer: into the FIFO, or the ring's tail when the FIFO is full or
the ring holds a token. A full ring whose FIFO has room moves its head there first, so a token never overwrites
another (R79, R226). -/
def State.landTok (s : State) (f i c : Nat) (t : Tok) : State :=
  match s.inst? f i with
  | none => s
  | some x => match x.image.chans[c]? with
    | none => s
    | some r =>
      let ch := x.chan c
      if ringCap x r ≠ 0 ∧ (ch.fifo.length ≥ r.depth ∨ ch.ringCount > 0) then
        let s := if ch.ringCount ≥ ringCap x r then s.refill x c r else s
        match s.inst? f i with
        | some x => s.ringPush x c r t
        | none => s
      else s.modChan f i c fun ch => { ch with fifo := ch.fifo ++ [t] }

/-- A token in consumer-end format leaves the producer: ends on one bay have no network between them. -/
def State.emitTok (s : State) (f i c : Nat) (t : Tok) : State :=
  match s.inst? f i with
  | none => s
  | some x => match x.image.chans[c]? with
    | none => s
    | some r =>
      if s.prodBay x r = s.consBay x r then s.landTok f i c t
      else (s.modChan f i c fun ch => { ch with flight := ch.flight ++ [t] }).modInst f i fun y =>
        { y with sends := y.sends ++ [c] }

/-- Poison of a converted token: all of it when any of its source is poisoned. -/
def convPoison (q : List (BitVec 128)) : BitVec 128 := if q.all (· == 0) then 0 else BitVec.allOnes 128

/-- Source gating holds the tenant's source actors, from rung 2 until the stop is complete (R380, R381). -/
def State.gated (s : State) (f : Nat) : Bool :=
  match s.field? f with
  | some fd => (s.tenant fd.tenant).stop == .rung2 || (s.tenant fd.tenant).stop == .rung3
  | none => false
/-- A row with CUT as given in its tag. -/
def Tok.cut (v : Bool) (t : Tok) : Tok :=
  { t with data := if v then t.data ||| BitVec.ofNat 3904 (1 <<< (3840 + 42)) else t.data &&& ~~~(BitVec.ofNat 3904 (1 <<< (3840 + 42))) }
/-- A list of rows with CUT as given in the last one. -/
def cutLast (v : Bool) (l : List Tok) : List Tok := match l.reverse with
  | [] => []
  | t :: u => (t.cut v :: u).reverse
/-- CUT as given in byte 5 of a tag, with the byte's mark. -/
def State.cutByte (s : State) (v : Bool) (a : Nat) : State :=
  s.deposit [(a, if v then s.mem.read a ||| 4 else s.mem.read a &&& 0xFB, decide (s.mpoison.read a ≠ 0))]
/-- CUT as given in the latest row that a router has built on a channel, wherever it rests: on its way, in the ring, in the
FIFO, or in its tag record, while that still holds the row's tag (R281). -/
def State.setCut (s : State) (x : Inst) (k : Nat) (r : ChanRec) (v : Bool) : State :=
  let c := x.chan k
  let put (g : Chan → Chan) : State := s.modChan x.field x.id k g
  if c.flight ≠ [] then put fun c => { c with flight := cutLast v c.flight }
  else if c.ringCount ≠ 0 then match s.ringSlot x r ((c.ringHead + c.ringCount - 1) % Nat.max 1 (ringCap x r)) with
    | .ok (s, l) => ((l.drop 485).take 1).foldl (State.cutByte · v) s
    | .error _ => s
  else if c.fifo ≠ [] then put fun c => { c with fifo := cutLast v c.fifo }
  else match c.stored with
    | some (a, tag) => if leNat ((List.range 8).map fun i => s.mem.read (a + i)) ≠ tag then s
      else (s.cutByte v (a + 5)).modChan x.field x.id k fun c => { c with stored := some (a, setBits tag 42 42 (if v then 1 else 0)) }
    | none => s

/-- The row of an unfinished or finished group (R100, R102, R270). While source gating holds the section, CUT moves to each
further row that its actors' tokens build (R281). -/
def State.emitRow (s : State) (f i c : Nat) (r : ChanRec) (l : List Tok) (cut : Bool) : State :=
  match s.inst? f i with
  | none => s
  | some x =>
    let ch := x.chan c
    let moves := s.gated f && r.pact ≠ 0xFFFF
    let s := if moves then s.setCut x c r false else s
    let d := rowOf r.fmtp (l.map Tok.data) ch.rows (cut || ch.cut || moves)
    let s := s.modChan f i c fun ch => { ch with part := [], rows := (ch.rows + 1) % 2 ^ 40, cut := false }
    s.emitTok f i c ⟨d, convPoison (l.map Tok.poison), (l.findSome? Tok.pend)⟩

/-- A producer sends one token in its own format; the router converts it (R101). -/
def State.pushTok (s : State) (f i c : Nat) (t : Tok) : State :=
  match s.inst? f i with
  | none => s
  | some x => match x.image.chans[c]? with
    | none => s
    | some r =>
      let s := s.modChan f i c fun ch => { ch with sent := ch.sent + 1 }
      if r.k = 15 then
        let l := (x.chan c).part ++ [t]
        if l.length ≥ 15 then s.emitRow f i c r l false
        else s.modChan f i c fun ch => { ch with part := l }
      else if r.fmtp = r.fmtc then s.emitTok f i c t
      else s.emitTok f i c ⟨convert r.fmtp r.fmtc r.bxd r.scale.toNat t.data, convPoison [t.poison], t.pend⟩

/-- Close a channel by end of stream after its last token; an unfinished group becomes one last row (R102). -/
def State.closeChan (s : State) (f i c : Nat) : State :=
  match s.inst? f i with
  | none => s
  | some x => match x.image.chans[c]? with
    | none => s
    | some r =>
      let l := (x.chan c).part
      let s := if l = [] then s else s.emitRow f i c r l false
      s.modChan f i c fun ch => { ch with eosSent := true, closed := ch.flight.isEmpty }

/-! ### Taking tokens -/

/-- Take `n` tokens from the head of a FIFO; the producer learns of it at once unless the channel crosses islands. -/
def State.takeToks (s : State) (x : Inst) (c : Nat) (r : ChanRec) (n : Nat) : State :=
  let cross := s.crossing x r
  s.modChan x.field x.id c fun ch =>
    let used := ch.consumed + n * r.k
    { ch with fifo := ch.fifo.drop n, consumed := used, seen := if cross then ch.seen else used }

/-- Count tokens moved on a port of the firing in the issue stage (R39), and in the bay's INTOK or OUTTOK (R338). -/
def State.countMoved (s : State) (p n : Nat) : State :=
  let s : State := { s with fir := { s.fir with moved := tmod p 0 (· + n) s.fir.moved } }
  s.modBay s.fir.bay fun b => { b with counters := tmod (512 + 4 * p) 0 (· + BitVec.ofNat 32 n) b.counters }

end Sys2Proof.Machine
end

