-- ==== Sys2Proof/Machine/Queue.lean ====
section
/-! DEFINITION. The fields of a command (R124), the command queues of a bay (R207, R212) and the entries of its range
scoreboard (R60, R228). -/

namespace Sys2Proof.Machine

/-! ### Fields of a command (R124) -/

/-- Bits `[hi:lo]` of a command word. -/
def cb (c : KWord) (hi lo : Nat) : Nat := bits c.toNat hi lo
def cOpc (c : KWord) : Nat := cb c 127 122
def cScope (c : KWord) : Nat := cb c 121 119
def cEos (c : KWord) : Bool := c.getLsbD 118
def cWsem (c : KWord) : Nat := cb c 117 110
def cWthr (c : KWord) : Nat := cb c 109 98
def cSsem (c : KWord) : Nat := cb c 97 90
def cSinc (c : KWord) : Nat := cb c 89 86
def cX (c : KWord) : Bool := c.getLsbD 85
/-- A 64-bit pointer at `[83:20]`. -/
def cPtr (c : KWord) : Word := BitVec.ofNat 64 (cb c 83 20)
/-- A pointer at `[127:64]` of the extension word. -/
def ePtr (e : KWord) : Word := BitVec.ofNat 64 (cb e 127 64)

/-! ### Queueing (R207, R212) -/

/-- The queue of a port. -/
def State.queue (s : State) (b p : Nat) : List Cmd := tgetD p [] (s.bay b).queues

/-- A command enters its queue; one with EOS shuts its channel to later commands (R218). -/
def State.enqueue (s : State) (b p : Nat) (c : Cmd) : State :=
  let s := s.modBay b fun x => { x with queues := tmod p [] (· ++ [c]) x.queues }
  let port? : Option Nat := match cOpc c.word with
    | 0x01 | 0x03 | 0x10 => some (cb c.word 19 13)
    | 0x0C => some (cb c.word 72 66)
    | 0x0D => some (cb c.word 54 48)
    | _ => none
  match cEos c.word, port? with
  | true, some q => match s.extIn b q with
    | some (x, k, _) => s.modChan x.field x.id k fun ch => { ch with eosSent := true }
    | none => s
  | _, _ => s

/-- Whether a copy numbered `id` may take a scoreboard entry of a bay: copies take entries in arrival order, so the free
entries must cover those that wait ahead of it (R60). -/
def State.sbTurn (s : State) (b id : Nat) : Bool :=
  decide ((s.bay b).scoreboard.length + ((s.bay b).inbound.takeWhile (· != id)).length < Config.scoreboardSize)
/-- Whether the bay's scoreboard has an entry for a copy that arrives now. -/
def State.sbFree (s : State) (b : Nat) : Bool :=
  decide ((s.bay b).scoreboard.length + (s.bay b).inbound.length < Config.scoreboardSize)
/-- Take a scoreboard entry of bay `b` for a command of a port of bay `src`. -/
def State.sbTake (s : State) (b p src id : Nat) (r : Nat × Nat) : State :=
  s.modBay b fun x => { x with scoreboard := x.scoreboard ++ [⟨r.1, r.2, src, p, id⟩]
                               inbound := x.inbound.filter (· ≠ id) }
/-- A copy waits for a scoreboard entry of a bay, behind those that wait already. -/
def State.sbWait (s : State) (b id : Nat) : State :=
  s.modBay b fun x => { x with inbound := if x.inbound.contains id then x.inbound else x.inbound ++ [id] }
/-- A command's first byte reaches a bay: it takes its entry there, unless it has one, or waits for one; whether it has
its entry (R60, R228). -/
def State.sbArrive (s : State) (b p src id : Nat) (r : Nat × Nat) : State × Bool :=
  if (s.bay b).scoreboard.any (fun e => e.id == id) then (s, true)
  else if s.sbTurn b id then (s.sbTake b p src id r, true) else (s.sbWait b id, false)

/-- Firings parked at KISSUE, earliest parked first. -/
def State.queueWaiters (s : State) (b : Nat) : List Firing :=
  sortBy Firing.since ((s.bay b).firings.filter fun f => match f.status with
    | .parked (.queue _ _ _) false => true
    | _ => false)

/-- Serve one firing parked at KISSUE: its scoreboard entry first, then its queue entry (R153, R212). -/
def State.serveKissue (s : State) (b : Nat) (f : Firing) : State :=
  match f.status with
  | .parked (.queue p c (some r)) false =>
    if s.sbTurn b c.id then
      let s := s.sbTake b p.toNat b c.id r
      if (s.queue b p.toNat).length < Config.queueDepth then
        (s.enqueue b p.toNat c).modFiring b f.actor fun x => { x with status := .parked (.queue p c .none) true }
      else s.modFiring b f.actor fun x => { x with status := .parked (.queue p c .none) false }
    else s
  | .parked (.queue p c .none) false =>
    if (s.queue b p.toNat).length < Config.queueDepth then
      (s.enqueue b p.toNat c).modFiring b f.actor fun x => { x with status := .parked (.queue p c .none) true }
    else s
  | _ => s
/-- Serve every firing of a bay that is parked at KISSUE, earliest parked first. -/
def State.serveQueues (s : State) (b : Nat) : State := (s.queueWaiters b).foldl (fun s f => s.serveKissue b f) s

end Sys2Proof.Machine
end

