-- ==== Sys2Proof/Machine/Access.lean ====
section
/-! DEFINITION. Page requests (R316-R320), idempotent regions (R178, R230), the fault of a memory access, and loads and
stores of a party. -/

namespace Sys2Proof.Machine

/-! ### Page requests (R316-R320) -/

/-- Entries a tenant holds. -/
def State.prqHeld (s : State) (t : Nat) : Nat := (s.prq.filter fun x => x.2.tenant == t).length
/-- The lowest free index of a range of the queue. -/
def State.prqFree (s : State) (lo n : Nat) : Option Nat :=
  ((List.range n).map (lo + ·)).find? fun i => (tget i s.prq).isNone
/-- The index at which a tenant's next entry would stand (R317). -/
def State.prqSlot (s : State) (t : Nat) : Option Nat :=
  let held := s.prqHeld t
  if held < 8 then s.prqFree (8 * t) 8
  else if held < wget (s.tenant t).prqcfg 10 0 then s.prqFree 128 896 else none

/-- Take an entry for a request: SEQ, POSTED and HELD move on (R318, R319). -/
def State.prqTakeEntry (s : State) (i : Nat) (q : PageReq) : State :=
  let s := { s with prq := tput i { q with seq := s.prqSeq, postt := s.dtime.toNat, taken := false } s.prq
                    prqSeq := if s.prqSeq = BitVec.allOnes 32 then 1 else s.prqSeq + 1 }
  s.modTenant q.tenant fun x => { x with prqcfg := wset (wadd x.prqcfg 47 32 1) 31 21 (s.prqHeld q.tenant) }

/-- Post a resolvable page request for a waiter (R317). -/
def State.postPage (s : State) (t : Nat) (page : Nat × Nat × Nat) (w : Who) : State :=
  let (va, psize, leaf) := page
  let same (q : PageReq) : Bool := q.tenant == t && q.va == va
  let join (q : PageReq) : PageReq := { q with waiters := q.waiters ++ [w], count := Nat.min (q.count + 1) 0xFFFF }
  if s.prq.any fun x => same x.2 then
    { s with prq := s.prq.map fun x => if same x.2 then (x.1, join x.2) else x }
  else if s.prqWaiting.any same then
    { s with prqWaiting := s.prqWaiting.map fun q => if same q then join q else q }
  else
    let q : PageReq := ⟨va, t, psize, [w], 1, 0, leaf, 0, false⟩
    -- a request of the tenant that has waited longer goes first (R317)
    match if s.prqWaiting.any (fun x => x.tenant == t) then none else s.prqSlot t with
    | some i => s.prqTakeEntry i q
    | Option.none =>
      ({ s with prqWaiting := s.prqWaiting ++ [q] } : State).modTenant t fun x =>
        { x with prqcfg := wadd x.prqcfg 63 48 1 }

/-! ### Idempotent regions (R178, R230) -/

/-- The channel without the pending tokens of an actor's open region, which it had sent; `k` is the size of an entry. -/
def Chan.unsend (c : Chan) (b a k : Nat) : Chan :=
  let keep (t : Tok) : Bool := decide (t.pend ≠ some (b, a))
  let gone := (c.fifo.length - (c.fifo.filter keep).length) * k + (c.part.length - (c.part.filter keep).length)
  { c with fifo := c.fifo.filter keep, part := c.part.filter keep, sent := c.sent - gone }
/-- A command's latest token, counted as the channel counts its tokens after `Chan.unsend` (R215). -/
def Cmd.unsend (c : Cmd) (ch : Chan) (b a k : Nat) : Cmd :=
  let mine (t : Tok) : Bool := decide (t.pend = some (b, a))
  { c with last := c.last - (ch.fifo.filter mine).length * k
      - ((ch.part.take (c.last - (ch.sent - ch.part.length))).filter mine).length }

/-- Drop what an actor's open region has issued: its commands, the KISSUE it is parked at, their scoreboard entries,
their semaphore waits, the word it waits for and their pending tokens; the entries it frees serve other KISSUEs (R178,
R212, R230). -/
def State.cancelRegion (s : State) (b a : Nat) : State :=
  let x := s.bay b
  let mine (c : Cmd) : Bool := c.region && c.actor == a
  let queued := x.queues.flatMap fun (_, l) => (l.filter mine).map Cmd.id
  let parked := x.firings.filterMap fun f => match f.status with
    | .parked (.queue _ c _) false => if f.actor = a then some c.id else none
    | _ => none
  let heads := x.queues.filterMap fun (p, l) => match l with
    | c :: _ => if mine c then some (Who.cmd b p) else none
    | [] => none
  let s := s.setBay b { x with
    queues := x.queues.map fun (p, l) => (p, l.filter fun c => !mine c)
    semWaiters := x.semWaiters.filter fun w => !heads.contains w.who
    scoreboard := x.scoreboard.filter fun e => !(e.bay == b && (queued ++ parked).contains e.id)
    inbound := x.inbound.filter fun k => !parked.contains k }
  let size (i : Inst) (k : Nat) : Nat := (i.image.chans[k]?).elim 1 ChanRec.k
  let s : State := { s with
    waiters := s.waiters.filter fun w => w.who != .actor b a
    bays := s.bays.map fun (d, y) => match y.inst.bind fun i => s.inst? i.1 i.2 with
      | some i => (d, { y with queues := y.queues.map fun (p, l) => (p, l.map fun c =>
          if c.fed = 0 then c else c.unsend (i.chan (c.fed - 1)) b a (size i (c.fed - 1))) })
      | none => (d, y)
    insts := s.insts.map fun i => { i with chans := i.chans.map fun (k, ch) => (k, ch.unsend b a (size i k)) } }
  s.serveQueues b

/-- A page request in an open region of the firing in the issue stage: the region's work is discarded, CAUSE, EPC
and FADDR are written, the firing parks and the request is posted (R152, R178). -/
def State.regionPage (s : State) (f : Flt) : State :=
  let c := s.firCtx
  let s := (s.keeping f).cancelRegion s.fir.bay s.fir.actor
  let s := s.modBay s.fir.bay fun x =>
    { x with cause := BitVec.ofNat 8 f.code, epc := s.fir.regs.pc, faddr := f.faddr }
  let s : State := { s with fir := { s.fir with region := s.fir.region.map fun r => { r with staged := [] } } }
  let s := s.park (.page s.fir.regs.pc f.faddr) false
  match f.page with
  | some p => s.postPage c.tenant p c.who
  | none => s

/-- The return from a page request: the firing restores its checkpoint and goes on after IDMB, its region open
with nothing staged (R178). -/
def Firing.resumeRegion (f : Firing) : Firing :=
  match f.region with
  | some r => { f with regs := r.ckpt, region := some { r with staged := [] }, status := .ready }
  | .none => { f with status := .ready }

/-- A fault of a memory access of the firing in the issue stage: a page request of a load in an open region is
resolved (R178), every other fault ends the firing. -/
def memFault (isLoad : Bool) (f : Flt) (s : State) : Out :=
  if isLoad && f.code == 0x0A && s.fir.region.isSome then .next (s.regionPage f) else takeFault f.code f.faddr (s.keeping f)

/-! ### Loads and stores of a party -/

/-- An access of another unit reaches a window of a bay that a stop has frozen: it waits at that bay's port (R229, R378,
R383). -/
def State.frozenAt (s : State) (c : Ctx) (l : List Seg) : Bool :=
  l.any fun x =>
    let a := gaLocal x.addr
    decide (gaMod x.addr = s.own) && isWindow a && !(c.isBay && decide (windowBay a = c.bay)) && (s.bay (windowBay a)).halted

/-- Two lists of runs have a byte in common. -/
def laps (l m : List Seg) : Bool :=
  l.any fun x => m.any fun y => decide (x.addr < y.addr + y.len) && decide (y.addr < x.addr + x.len)
/-- Some byte lies in a bay's own window. -/
def State.inWindow (s : State) (b : Nat) (l : List Seg) : Bool :=
  l.any fun x => decide (gaMod x.addr = s.own) && isWindow (gaLocal x.addr) && windowBay (gaLocal x.addr) == b
/-- An access of an actor comes after a store of the actor that is held: they have a byte in common, or both go to the
bay's own window (R61, R67). -/
def State.afterHeld (s : State) (b : Nat) (e : HeldStore) (l : List Seg) : Bool :=
  laps (asSegs e.segs) l || s.inWindow b (asSegs e.segs) && s.inWindow b l
/-- An access is an actor's and comes after a store of the actor that is held. -/
def State.heldBlocks (s : State) (c : Ctx) (l : List Seg) : Bool := match c.who with
  | .actor b a => (s.bay b).fwd.any fun e => e.actor == a && s.afterHeld b e l
  | _ => false

/-- An access waits at a port: it is a unit's of a bay and overlaps a range that the bay's scoreboard records (R60), or it
is at a frozen bay's port. -/
def State.portBlocks (s : State) (c : Ctx) (l : List Seg) : Bool :=
  s.frozenAt c l || c.isBay && l.any fun x =>
    let a := gaLocal x.addr
    decide (gaMod x.addr = s.own) && isWindow a && decide (windowBay a = c.bay) &&
      (s.bay c.bay).scoreboard.any fun e => decide (windowOff a < e.hi) && decide (e.lo < windowOff a + x.len)
/-- An access waits before it is made: at a port, or behind a held store of its actor. -/
def State.sbBlocks (s : State) (c : Ctx) (l : List Seg) : Bool := s.portBlocks c l || s.heldBlocks c l

/-- Whether the modules of an access can be reached (R361): `some true` when the wait for a route has run out. -/
def State.routeFor (s : State) (c : Ctx) (l : List Seg) : State × Option Bool :=
  match l.find? fun x => s.noRoute c.who x.addr with
  | none => (s, none)
  | some y =>
    let m := gaMod y.addr
    let mine (r : RouteWait) : Bool := r.who == c.who && r.module == m
    match s.routeWaits.find? mine with
    | none => ({ s with routeWaits := s.routeWaits ++ [⟨c.who, m, false⟩] }, some false)
    | some r =>
      if r.expired then
        let lines := ((l.filter fun x => gaMod x.addr = m).map fun x => (x.addr % 64 + x.len + 63) / 64).foldl (· + ·) 0
        (({ s with routeWaits := s.routeWaits.filter fun r => !mine r } : State).noteDrops c.field c.inst lines y.addr,
          some true)
      else (s, some false)

/-- The runs of memory that the bytes `off .. off + n - 1` of a pointer reach, without those whose address cannot be
formed; `fuel` halvings find these. -/
def State.formed (s : State) (c : Ctx) (wr : Bool) (p : Word) : Nat → Nat → Nat → State × List Seg
  | 0, _, _ => (s, [])
  | fuel + 1, off, n =>
    match (offsetAdd p (off : Int)).map fun q => s.addressOf c q n wr with
    | some (.ok r) => r
    | _ =>
      if n ≤ 1 then (s, [])
      else
        let l := s.formed c wr p fuel off (n / 2)
        let r := State.formed l.1 c wr p fuel (off + n / 2) (n - n / 2)
        (r.1, l.2 ++ r.2)

/-- A pointer moved by a signed offset, or the bound fault with FADDR = the pointer (R167). -/
def movePtr (p : Word) (off : Int) : Except Flt Word :=
  match offsetAdd p off with
  | some q => .ok q
  | none => .error (.mk0 0x08 p)

/-- The first byte of `off .. off + n - 1` of a pointer whose address cannot be formed, with its fault. -/
def State.unformed (s : State) (c : Ctx) (wr : Bool) (p : Word) : Nat → Nat → Nat → Option (Nat × Flt)
  | 0, _, _ => none
  | fuel + 1, off, n =>
    if n = 0 then none
    else match movePtr p (off : Int) with
    | .error f => some (off, f)
    | .ok q => match s.addressOf c q n wr with
      | .ok _ => none
      | .error f =>
        if n ≤ 1 then some (off, f)
        else (s.unformed c wr p fuel off (n / 2)).orElse fun _ => State.unformed s c wr p fuel (off + n / 2) (n - n / 2)

/-- The bay in whose scratchpad or accumulator memory a copy's destination lies, with the range of its window offsets
widened to granules (R228). -/
def bayRange (own : Nat) (l : List Seg) : Option (Nat × (Nat × Nat)) :=
  match l.filter fun x => decide (x.len ≠ 0) with
  | [] => none
  | x :: r =>
    let a := gaLocal x.addr
    if gaMod x.addr ≠ own ∨ !isWindow a ∨ windowOff a ≥ Config.regBase then none
    else
      let ends (y : Seg) : Nat × Nat := (windowOff (gaLocal y.addr) / 32 * 32, (windowOff (gaLocal y.addr) + y.len + 31) / 32 * 32)
      some (windowBay a, r.foldl (fun z y => (Nat.min z.1 (ends y).1, Nat.max z.2 (ends y).2)) (ends x))

/-- What a read of a party gives. -/
inductive Got
  | ok (s : State) (l : List (Byte × Bool))
  | wait (s : State)
  | flt (f : Flt)

/-- What a write of a party gives. -/
inductive Put
  | ok (s : State)
  | wait (s : State)
  | flt (f : Flt)

/-- Read the bytes of a formed access: it waits at a frozen bay's port and on routes; data of an unreachable module comes
marked poisoned (R229, R361). -/
def State.readOpen (s : State) (c : Ctx) (l : List Seg) : Got :=
  if s.frozenAt c l then .wait s else match s.routeFor c l with
  | (s, some false) => .wait s
  | (s, some true) => .ok s ((segBytes l).map fun a => (s.anyByte a, true))
  | (s, none) => let r := s.readSegs c l; .ok r.1 r.2
/-- Write the bytes of a formed access: it waits in the same way; a write to an unreachable module is dropped (R361). -/
def State.writeOpen (s : State) (c : Ctx) (l : List Seg) (bs : List (Byte × Bool)) : Put :=
  if s.frozenAt c l then .wait s else match s.routeFor c l with
  | (s, some false) => .wait s
  | (s, some true) => .ok s
  | (s, none) => .ok (s.writeSegs c l bs)
/-- The youngest byte at an address in a list of held stores, oldest first (R61). -/
def heldByte (l : List HeldStore) (a : Nat) : Option (Byte × Bool) :=
  l.reverse.findSome? fun e => ((segBytes (asSegs e.segs)).zip e.bytes).findSome? fun x => if x.1 = a then some x.2 else none
/-- The held stores of the firing in the issue stage, for an access of its actor. -/
def State.ownHeld (s : State) (c : Ctx) : List HeldStore := match c.who with
  | .actor b a => (s.bay b).fwd.filter fun e => e.actor == a && e.fidx == s.fir.fidx
  | _ => []
/-- Read the bytes of a formed access of a unit that waits on the range scoreboard (R60). A load takes each byte that its
firing has stored from the youngest store that the forwarding table holds, the others from memory (R61). -/
def State.readVia (s : State) (c : Ctx) (l : List Seg) : Got :=
  let f := s.ownHeld c
  let at_ := segBytes l
  if !laps (f.flatMap fun e => asSegs e.segs) l then if s.sbBlocks c l then .wait s else s.readOpen c l
  else if at_.all fun a => (heldByte f a).isSome then .ok s (at_.map fun a => (heldByte f a).getD (0, false))
  else
    let ahead (e : HeldStore) : Bool := !f.contains e || s.inWindow c.bay (asSegs e.segs)
    let older : State := s.modBay c.bay fun x => { x with fwd := x.fwd.filter ahead }
    if older.sbBlocks c l then .wait s
    else match s.readOpen c l with
      | .ok s bs => .ok s ((at_.zip bs).map fun x => (heldByte f x.1).getD x.2)
      | g => g
/-- Write the bytes of a formed access of a unit that waits on the range scoreboard. -/
def State.writeVia (s : State) (c : Ctx) (l : List Seg) (bs : List (Byte × Bool)) : Put :=
  if s.sbBlocks c l then .wait s else s.writeOpen c l bs

/-- A load of `n` bytes through a pointer. -/
def State.load (s : State) (c : Ctx) (p : Word) (n : Nat) : Got :=
  match s.loadAddr c p n with
  | .error f => .flt f
  | .ok (s, l) => s.readVia c l
/-- Hold a store of an actor in its bay's forwarding table (R61). -/
def State.hold (s : State) (b a h : Nat) (l : List Seg) (bs : List (Byte × Bool)) : State :=
  s.modBay b fun x => { x with fwd := x.fwd ++ [⟨a, s.fir.fidx, l.map fun y => (y.addr, y.len), bs,
    s.pairs.filter fun p => p.who.bay == some b, [], h⟩] }
/-- A store of the firing in the issue stage to a formed address takes an entry of the forwarding table: with all entries in
use it waits; one that can be performed is performed at once; else the table holds it and the firing goes on (R61). -/
def State.issueStore (s : State) (c : Ctx) (h : Nat) (l : List Seg) (bs : List (Byte × Bool)) : Put :=
  if (s.bay c.bay).fwd.length ≥ Config.forwardSize then .wait s
  else if s.sbBlocks c l then .ok (s.hold c.bay s.fir.actor h l bs)
  else match s.writeOpen c l bs with
    | .wait s => .ok (s.hold c.bay s.fir.actor h l bs)
    | r => r
/-- Context of the actor whose store a bay holds. -/
def State.heldCtx (s : State) (b : Nat) (e : HeldStore) : Ctx :=
  let i := (s.bay b).inst.getD (0, 0)
  s.ctxOf (.actor b e.actor) b true i.1 i.2
/-- The held store at a position waits for nothing at its bay: it comes after the actor's older stores that it has to
follow, and before the copies issued after it (R61, R67, R76). -/
def State.performable (s : State) (b n : Nat) (e : HeldStore) : Bool :=
  let first : State := s.modBay b fun x => { x with
    fwd := x.fwd.take n, scoreboard := x.scoreboard.filter fun y => !e.cmds.contains y.id }
  !first.sbBlocks (s.heldCtx b e) (asSegs e.segs)
/-- Perform the store at a position of a bay's forwarding table, when it can be. -/
def State.perform (s : State) (b n : Nat) : State :=
  match (s.bay b).fwd[n]? with
  | none => s
  | some e =>
    if !s.performable b n e then s
    else match s.writeOpen (s.heldCtx b e) (asSegs e.segs) e.bytes with
      | .ok s => s.modBay b fun x => { x with fwd := dropAt x.fwd n }
      | .wait s => s
      | .flt _ => s
/-- Perform what can be performed of the stores that `p` names, oldest first from position `k`. -/
def State.performFrom (b : Nat) (p : HeldStore → Bool) : Nat → Nat → State → State
  | 0, _, s => s
  | n + 1, k, s => match (s.bay b).fwd[k]? with
    | none => s
    | some e =>
      let t := if p e then s.perform b k else s
      State.performFrom b p n (if (t.bay b).fwd.length < (s.bay b).fwd.length then k else k + 1) t
/-- Perform what can be performed of a bay's held stores. -/
def State.performBay (s : State) (b : Nat) (p : HeldStore → Bool) : State :=
  if (s.bay b).fwd.isEmpty then s else State.performFrom b p (s.bay b).fwd.length 0 s
/-- A store that a bay holds waits for a route alone. -/
def State.storesWait (s : State) (b : Nat) : Bool := (s.bay b).fwd.zipIdx.any fun (e, n) => s.performable b n e
/-- A party's held stores are performed, as far as they can be, and its pairs serialised (R67). -/
def State.flush (s : State) (w : Who) : State := match w with
  | .actor b a => if (s.bay b).fwd.isEmpty then s else (s.drain w).performBay b fun e => e.actor == a
  | _ => s

/-- A command of a bay comes after the held stores of its firing to the bay's own window (R76). -/
def State.followStores (s : State) (b a : Nat) (fidx : BitVec 32) (id : Nat) : State :=
  if (s.bay b).fwd.isEmpty then s
  else s.modBay b fun x => { x with fwd := x.fwd.map fun e =>
    if e.actor == a && e.fidx == fidx && s.inWindow b (asSegs e.segs) then { e with cmds := e.cmds ++ [id] } else e }

/-- A store through a pointer. -/
def State.store (s : State) (c : Ctx) (p : Word) (bs : List (Byte × Bool)) : Put :=
  match s.storeAddr c p bs.length with
  | .error f => .flt f
  | .ok (s, l) => s.issueStore c (ptrH p) l bs

/-- An instance whose party sends poisoned data on a channel or in an update gets a report at its end (R389). -/
def State.notePoisonSent (s : State) (f i : Nat) (q : Bool) : State :=
  if !q then s else match s.inst? f i with
    | none => s
    | some x => s.setInst { x with poisonSent := true }

/-- The number that loaded bytes hold. -/
def gotNat (l : List (Byte × Bool)) : Nat := leNat (l.map Prod.fst)
/-- Some loaded byte is marked poisoned. -/
def gotPoison (l : List (Byte × Bool)) : Bool := l.any Prod.snd
/-- The bytes of a register to store, all with one mark. -/
def putBytes (n x : Nat) (q : Bool) : List (Byte × Bool) := (natLe n x).map fun b => (b, q)

end Sys2Proof.Machine
end

