-- ==== Sys2Proof/Machine/Control.lean ====
section
/-! DEFINITION. Major 0x00: NOP, FEND, TRAP, BRK, MFC, MTC, FENCE, idempotent regions, class masks (R150, R156-R161,
R175-R178). JR and JALR stand in Branch.lean. -/

namespace Sys2Proof.Machine

def execNop (s : State) : Out := retire s

/-! ### FEND (R39, R40, R157, R203) -/

/-- The ports of an actor record that are bound, with declared count and fixed flag, in ascending number. -/
def actorPorts (x : Inst) (n : Nat) : List (Nat × Nat × Bool) :=
  (List.range 32).filterMap fun p =>
    if p < 16 then (inChan x n p).map fun (_, c) => (p, c.cn, !c.cvar)
    else (outChan x n p).map fun (_, c) => (p, c.pn, !c.pvar)

/-- The persistent set that FEND stores: g16..g23 and v24..v31 with their poison bits. -/
def Regs.persist (r : Regs) : Persist where
  g := Vector.ofFn fun (i : Fin 8) => r.g[16 + i.val]
  gp := BitVec.ofNat 8 (r.gp.toNat >>> 16)
  v := Vector.ofFn fun (i : Fin 8) => r.v[24 + i.val]
  vp := Vector.ofFn fun (i : Fin 8) => r.vp[24 + i.val]

/-- The rate check of FEND: the lowest short fixed-rate port, else the lowest ROW port with P ≠ 0. DESIGN CHOICE
(notes/assumptions/20.md), unsafe: R203 gives the two causes no rank; the model names the short fixed-rate port also where the
ROW port is the lower. -/
def State.fendShort (s : State) : Option Nat :=
  match s.actorNo s.fir.bay s.fir.actor with
  | none => none
  | some (x, n, _) =>
    match (actorPorts x n).find? fun (p, d, fixed) => fixed && tgetD p 0 s.fir.moved != d with
    | some (p, _, _) => some p
    | none => ((List.range 32).find? fun p => s.fir.rows.any fun r => r.port == p && r.p != 0)

/-- End the firing: OVERRUN counts a firing over its bound (R40), the persistent set is stored. -/
def State.endFiring (s : State) : State :=
  let late := match s.actorAt s.fir.bay s.fir.actor with
    | some (_, a) => decide (s.fir.cycles > a.bound)
    | none => false
  let o := 32 * s.fir.actor + 16
  let bump (c : BitVec 32) : BitVec 32 := if c.toNat % 65536 = 65535 then c else c + 1
  let s := s.modBay s.fir.bay fun b => { b with
    persist := tput s.fir.actor s.fir.regs.persist b.persist
    counters := if late then tmod o 0 bump b.counters else b.counters }
  { s with fir := { s.fir with status := .ended, slot := false, region := none
                               regs := { s.fir.regs with depth := 0, pc := s.fir.regs.pc + 4 } } }

def execFend (s : State) : Out :=
  outsideRegion .fend s fun s =>
    match s.fendShort with
    | some p => takeFault 0x05 (BitVec.ofNat 64 p) s
    | none => .next s.endFiring

/-! ### TRAP, BRK (R158) -/

def execTrap (a : R5) (s : State) : Out := takeFault 0x17 (s.regs.rg a) s
def execBrk (s : State) : Out := takeFault 0x18 0 s

/-! ### Control registers (R122, R150, R159) -/

/-- The value of a control register for the firing in the issue stage. -/
def State.ctl (s : State) (c : Ctl) : Word :=
  let x := s.firCtx
  let b := s.bay s.fir.bay
  let r := s.regs
  match c with
  | .fire => BitVec.ofNat 64 (s.fir.actor * 2 ^ 32 + s.fir.fidx.toNat)
  | .bayxy => BitVec.ofNat 64 (s.fir.fy * 256 + s.fir.fx)
  | .fldorg => BitVec.ofNat 64 (x.oy * 65536 + x.ox)
  | .fldsz => BitVec.ofNat 64 (x.fh * 256 + x.fw)
  | .section_ => BitVec.ofNat 64 (s.fir.inst % 2 ^ 32)
  | .tenant => BitVec.ofNat 64 x.tenant
  | .cause => b.cause.setWidth 64
  | .epc => b.epc
  | .faddr => b.faddr
  | .rmode => r.rmode.setWidth 64
  | .flags => r.flags.setWidth 64
  | .cyc => b.cyc
  | .dtime => s.dtime
  | .lc0 => r.lc0
  | .lc1 => r.lc1
  | .samplep => s.samplep.setWidth 64
  | .slicemin => Config.slicemin.setWidth 64

/-- A write of a control register; reserved bits are ignored, and so is a PERIOD of 0 or above 10,000. -/
def State.setCtl (s : State) (c : Ctl) (x : Word) : State :=
  match c with
  | .rmode => s.mapRegs fun r => { r with rmode := x.setWidth 2 }
  | .flags => s.mapRegs fun r => { r with flags := x.setWidth 5 }
  | .lc0 => s.mapRegs fun r => { r with lc0 := x }
  | .lc1 => s.mapRegs fun r => { r with lc1 := x }
  | .samplep =>
    let p : BitVec 14 := x.setWidth 14
    if p = 0 ∨ p.toNat > 10000 then s else { s with samplep := p }
  | _ => s

def execMfc (d : R5) (c : Ctl) (s : State) : Out := finish s fun r => r.wg d (s.ctl c) false
def execMtc (c : Ctl) (d : R5) (s : State) : Out :=
  if !c.writable then wordFault 0x02 (.mtc c d) s
  else if c = .samplep ∧ s.firCtx.tenant ≠ 0 then wordFault 0x03 (.mtc c d) s
  else retire (s.setCtl c (s.regs.rg d))

/-! ### FENCE, regions, class masks -/

/-- FENCE: every earlier access has been performed; only pairs and held stores can still be on their way, and one that
cannot reach its home holds the FENCE back (R61, R161, R361). -/
def execFence (_sc : Scope) (s : State) : Out :=
  let s := s.flush s.firCtx.who
  if s.pairsHeld s.firCtx.who then .next s else retire (s.drain s.firCtx.who)

/-- IDMB: the checkpoint holds PC + 4 (R176). -/
def execIdmb (s : State) : Out :=
  outsideRegion .idmb s fun s =>
    retire { s with fir := { s.fir with region := some ⟨{ s.regs with pc := s.regs.pc + 4 }, []⟩ } }

/-- Commands issued in the region that have not completed, faulted or been discarded. -/
def State.regionBusy (s : State) : Bool :=
  (s.bay s.fir.bay).queues.any fun (_, l) => l.any fun c => c.region && c.actor == s.fir.actor

/-- Clear the pending marks of the tokens of a firing's region (R230). -/
def State.clearPend (s : State) (b a : Nat) : State :=
  let t (x : Tok) : Tok := if x.pend = some (b, a) then { x with pend := none } else x
  { s with insts := s.insts.map fun i => { i with
      chans := i.chans.map fun (k, ch) => (k, { ch with fifo := ch.fifo.map t, part := ch.part.map t }) } }

/-- IDME: the staged pairs go to their home slices, the marks of the region's tokens are cleared. -/
def execIdme (s : State) : Out :=
  match s.fir.region with
  | none => wordFault 0x11 .idme s
  | some r =>
    if s.regionBusy then parkAt .region s
    else
      let s := (r.staged.foldl State.sendPair s).clearPend s.fir.bay s.fir.actor
      retire { s with fir := { s.fir with region := none } }

def execClmask (a : R5) (s : State) : Out :=
  retire (s.modBay s.fir.bay fun b => { b with cmask := b.cmask ||| (s.regs.rg a).setWidth 8 })
def execClunmask (a : R5) (s : State) : Out :=
  retire (s.modBay s.fir.bay fun b => { b with cmask := b.cmask &&& ~~~((s.regs.rg a).setWidth 8) })

end Sys2Proof.Machine
end

