-- ==== Sys2Proof/Machine/LoadStore.lean ====
section
/-! DEFINITION. Majors 0x0C-0x0E: scalar loads and stores (R167). -/

namespace Sys2Proof.Machine

/-- Complete a scalar load: wait, fault, or write the register from the bytes. -/
def loadThen (s : State) (p : Word) (off : Int) (n : Nat) (k : State → List (Byte × Bool) → Out) : Out :=
  match movePtr p off with
  | .error f => memFault true f s
  | .ok q => match s.load s.firCtx q n with
    | .flt f => memFault true f s
    | .wait s => .next s
    | .ok s l => k s l

/-- Complete a scalar store. -/
def storeThen (s : State) (p : Word) (off : Int) (bs : List (Byte × Bool)) : Out :=
  match movePtr p off with
  | .error f => memFault false f s
  | .ok q => match s.store s.firCtx q bs with
    | .flt f => memFault false f s
    | .wait s => .next s
    | .ok s => retire s

/-- A store through a handle other than 0 and 1 in an open region takes the idempotent fault (R177). -/
def storeAllowed (p : Word) (i : Instr) (s : State) (k : State → Out) : Out :=
  if s.fir.region.isSome && decide (ptrH p > 1) then wordFault 0x11 i s else k s

def execLd (w : Width) (t a : R5) (off : BitVec 14) (s : State) : Out :=
  loadThen s (s.regs.rg a) off.toInt (widthBytes w) fun s l =>
    finish s fun r => r.wg t (BitVec.ofNat 64 (gotNat l)) (gotPoison l || r.rgp a)
def execLdx (w : Width) (t a : R5) (off : BitVec 14) (s : State) : Out :=
  loadThen s (s.regs.rg a) off.toInt (widthBytes w) fun s l =>
    finish s fun r => r.wg t (sext64' (8 * widthBytes w) (gotNat l)) (gotPoison l || r.rgp a)
where
  /-- Sign-extend a number of `w` bits. -/
  sext64' (w x : Nat) : Word := (BitVec.ofNat w x).signExtend 64
def execSt (w : Width) (t a : R5) (off : BitVec 14) (s : State) : Out :=
  storeAllowed (s.regs.rg a) (.st w t a off) s fun s =>
    storeThen s (s.regs.rg a) off.toInt (putBytes (widthBytes w) (s.regs.rg t).toNat (s.regs.rgp t))

end Sys2Proof.Machine
end

