-- ==== Sys2Proof/Machine/Command.lean ====
section
/-! DEFINITION. Major 0x30: command registers, KISSUE with every check of a stream command, KWAIT (R124-R127,
R207-R213, R217-R228, R268-R279, R290, R307, R308, R355). -/

namespace Sys2Proof.Machine

/-! ### Header checks -/

/-- Ports that accept an OPC (R126). -/
def opcAt (opc p : Nat) : Bool :=
  let le := decide (0x20 ≤ p) && decide (p ≤ 0x23)
  let se := decide (0x24 ≤ p) && decide (p ≤ 0x27)
  match opc with
  | 0x01 | 0x03 | 0x10 => le
  | 0x02 => se
  | 0x04 | 0x05 | 0x06 => p == 0x28
  | 0x07 => se || p == 0x2B
  | 0x08 => p == 0x2B
  | 0x09 => se || p == 0x2A
  | 0x0A | 0x0B | 0x0C | 0x0D | 0x0E => p == 0x29
  | 0x0F => p == 0x2C
  | 0x12 => decide (0x20 ≤ p) && decide (p ≤ 0x2C)
  | _ => false
/-- The extension rule (R125, R126). -/
def extRule (opc : Nat) (x : Bool) : Bool :=
  match opc with
  | 0x01 | 0x02 | 0x04 => true
  | 0x05 | 0x08 | 0x0F => x
  | _ => !x

/-- The header checks of R127. -/
def headerBad (p : Nat) (c : KWord) : Bool :=
  !opcAt (cOpc c) p || c.getLsbD 84 || decide (cScope c ≥ 6) || (decide (cWthr c = 0) && decide (cWsem c ≠ 0))
    || (decide (cSinc c = 0) && decide (cSsem c ≠ 0)) || !extRule (cOpc c) (cX c)

/-! ### Payload checks -/

/-- An input port of the bay that the engines feed: its token format, and whether it accepts no more tokens. -/
def State.feed (s : State) (b p : Nat) : Option (Nat × Bool) :=
  if p ≥ 16 then none else (s.extIn b p).map fun (x, c, r) => (r.fmtp, (x.chan c).eosSent)
/-- An output port of the bay that the engines drain: its token format. -/
def State.drainFmt (s : State) (b p : Nat) : Option Nat :=
  if p < 16 ∨ p ≥ 32 then none else (s.extOut b p).map fun (_, _, r) => r.fmtc
/-- An input port that is not bound, is closed, or has a format that fails `ok`. -/
def State.feedBad (s : State) (b p : Nat) (ok : Nat → Bool) : Bool :=
  match s.feed b p with
  | none => true
  | some (f, closed) => closed || !ok f
/-- An output port that is not bound or has a format that fails `ok`. -/
def State.drainBad (s : State) (b p : Nat) (ok : Nat → Bool) : Bool := !((s.drainFmt b p).any ok)

/-- Bytes of a scratchpad. -/
def scratchSize : Nat := 1048576
/-- Bytes of an accumulator memory. -/
def accSize : Nat := 262144

/-- The ZEN rules of ARUN and ADRN (R271). -/
def zenBad (zen : Bool) (zr t0 n : Nat) : Bool :=
  if zen then decide (n > 0) && decide (t0 + (n - 1) / 16 > 63) else decide (zr ≠ 0) || decide (t0 ≠ 0)

/-- Bays of a plot of a field. -/
def plotCount (fw fh d : Nat) : Nat := let r := plotRect fw fh d; r.2.2.1 * r.2.2.2

/-- Participants of a COLL (R354). -/
def collP (f : Field) (grp plot : Nat) : Nat :=
  let fw := pktFw f.packet
  let fh := pktFh f.packet
  match grp with
  | 0 => plotCount fw fh plot
  | 1 => fw * fh
  | _ => plotCount fw fh plot * pkt f.packet 360 352

/-- The payload checks of COLL (R355). -/
def State.collBad (s : State) (b : Nat) (c e : KWord) : Bool :=
  let op := cb c 19 16
  let red := cb c 15 12
  let grp := cb c 11 10
  let plot := cb e 63 40
  let root := cb e 39 24
  match (s.bay b).inst.bind fun x => s.field? x.1 with
  | none => true
  | some f =>
    let fw := pktFw f.packet
    let fh := pktFh f.packet
    let here := (s.fieldBays f).any fun (x, y, n) => n == b && inPlot fw fh plot x y
    decide (cb c 9 0 ≠ 0) || decide (op > 3) || decide (red > 6) || decide (grp = 3)
      || (decide (red ≠ 0) && (op == 1 || op == 3)) || decide (cScope c ≠ 4)
      || (grp == 1 && decide (plot ≠ 0)) || (grp != 1 && (!plotValid fw fh plot || !here))
      || (grp == 2 && (!nbit f.packet.toNat 336 || decide (plotCount fw fh plot > 64)
          || (decide (pkt f.packet 360 352 > 1) && Config.partnerFailed f.id)))
      || (if op = 3 then decide (root ≥ collP f grp plot) else decide (root ≠ 0))

/-- The payload checks of a command at a port of a bay; `fw` and `fh` are the field's size. -/
def State.payloadBad (s : State) (b p fw fh : Nat) (c e : KWord) : Bool :=
  let eosBad := cEos c
  match cOpc c with
  | 0x01 => s.feedBad b (cb c 19 13) (fun _ => true)
      || (cX c && (decide (cb e 63 48 ≠ 0) || decide (cb e 31 0 ≠ 0) || decide (cb e 47 32 = 0)))
  | 0x02 => eosBad || s.drainBad b (cb c 19 13) (fun _ => true)
      || (cX c && (decide (cb e 63 48 ≠ 0) || decide (cb e 31 0 ≠ 0) || decide (cb e 47 32 = 0)))
  | 0x03 => s.feedBad b (cb c 19 13) (fun f => decide (8 * cb c 12 7 + 8 ≤ fmtSize f))
  | 0x04 => eosBad || (if cX c then decide (cb c 19 0 ≠ 0) || decide (cb e 31 0 ≠ 0) else decide (cb c 15 0 > 49151))
  | 0x05 =>
    let plot := cb e 63 40
    eosBad || decide (cb e 23 0 ≠ 0) || !plotValid fw fh plot || decide (plotCount fw fh plot > 64)
      || decide (cb e 127 64 ≥ 2 ^ plotCount fw fh plot) || decide (cb e 39 24 > 49151)
      || decide (32 * (cb e 39 24 + cb c 19 0) > 0x180000)
  | 0x06 => eosBad
  | 0x07 => eosBad || s.drainBad b (cb c 19 13) (· == 12)
  | 0x08 =>
    let n := cb e 63 48
    let esz := cb e 47 32
    eosBad || decide (cb c 19 18 = 3) || decide (esz = 0) || (c.getLsbD 17 && decide (esz < 1024))
      || (if c.getLsbD 16 then decide (16 * cb c 15 0 + n * esz > scratchSize)
          else decide (cb c 15 7 ≠ 0) || s.feedBad b (cb c 6 0) (fun f => esz % fmtSize f == 0))
  | 0x09 =>
    let srcm := c.getLsbD 71
    eosBad || decide (cb c 53 16 ≠ 0) || decide (cb c 83 72 < 16) || (srcm != (p == 0x2A))
      || (if srcm then decide (cb c 70 54 % 2 = 1) || decide (8 * cb c 70 54 + 16 * cb c 15 0 > scratchSize)
          else decide (cb c 70 61 ≠ 0) || s.drainBad b (cb c 60 54) (· == 12))
  | 0x0A => eosBad || decide (cb c 10 0 ≠ 0)
  | 0x0B =>
    let n := cb c 32 21
    eosBad || decide (cb c 8 0 ≠ 0) || zenBad (c.getLsbD 19) (cb c 18 15) (cb c 14 9) n
      || decide (256 * (cb c 57 48 + n) > accSize) || decide (8 * (cb c 47 33 + n) > accSize)
      || (if c.getLsbD 83 then decide (8 * cb c 82 66 + 488 * n > scratchSize)
          else decide (cb c 82 73 ≠ 0) || s.drainBad b (cb c 72 66) (· == 10))
  | 0x0C =>
    let n := cb c 32 21
    let ps := cb c 20 17 + 1
    let ofmt := cb c 16 15
    let w := if ofmt = 0 then 4 else 2
    decide (cb c 3 0 ≠ 0) || decide (ofmt = 3) || decide (cb c 65 58 + ps - 1 > 255)
      || decide (256 * (cb c 57 48 + ps * n) > accSize) || decide (8 * (cb c 47 33 + ps * n) > accSize)
      || zenBad (c.getLsbD 14) (cb c 13 10) (cb c 9 4) n
      || (if c.getLsbD 83 then eosBad || decide (8 * cb c 82 66 + n * 64 * w > scratchSize)
          else decide (cb c 82 73 ≠ 0) || s.feedBad b (cb c 72 66) (· == 4 + ofmt))
  | 0x0D =>
    let emit := c.getLsbD 31
    let dstm := c.getLsbD 65
    decide (cb c 30 0 ≠ 0)
      || (if c.getLsbD 83 then decide (cb c 82 66 % 2 = 1) || decide (8 * cb c 82 66 + 16 * cb c 47 32 > scratchSize)
          else decide (cb c 82 73 ≠ 0) || s.drainBad b (cb c 72 66) (· == 11))
      || (if !emit then eosBad || dstm || decide (cb c 64 48 ≠ 0)
          else if dstm then eosBad || decide (cb c 64 48 % 2 = 1)
          else decide (cb c 64 55 ≠ 0) || s.feedBad b (cb c 54 48) (· == 11))
  | 0x0E => eosBad || decide (cb c 83 14 ≠ 0)
      || (if c.getLsbD 0 then decide (cb c 13 5 = 0) || decide (cb c 13 5 > 256) || decide (cb c 4 1 < 2) || decide (cb c 4 1 > 8)
          else decide (cb c 13 1 ≠ 0))
  | 0x0F => eosBad || s.collBad b c e
  | 0x10 =>
    decide (cb c 67 20 ≠ 0) ||
      (match (s.bay b).inst.bind fun x => s.inst? x.1 x.2 with
       | none => true
       | some x => match x.image.chans[cb c 83 68]? with
         | none => true
         | some r => decide (ringCap x r = 0) || decide (r.cact = 0xFFFF) || s.consBay x r != b
             || s.feedBad b (cb c 19 13) (· == r.fmtc))
  | _ => eosBad || decide (cb c 83 0 ≠ 0)

/-- A command fault, with FADDR [13:8] = OPC and [6:0] = port (R151). -/
def cmdFaddr (opc p : Nat) : Word := BitVec.ofNat 64 (opc * 256 + p)

/-! ### Destinations in the bay's own window (R228) -/

/-- Offsets of the bay's window that a command writes, widened to granules: for a range in its scratchpad or
accumulator memory. -/
def State.ownRange (s : State) (ctx : Ctx) (c e : KWord) : Option (Nat × Nat) :=
  let widen (o n : Nat) : Option (Nat × Nat) :=
    if n = 0 ∨ o ≥ Config.regBase then none else some (o / 32 * 32, (o + n + 31) / 32 * 32)
  let byPtr (p : Word) (n : Nat) : Option (Nat × Nat) :=
    match bayRange s.own (s.formed ctx true p 34 0 n).2 with
    | some (d, r) => if d = ctx.bay then some r else none
    | none => none
  match cOpc c with
  | 0x04 => if cX c then byPtr (ePtr e) (cb e 63 32) else widen (32 * cb c 15 0) (32 * 2 ^ cb c 19 16)
  | 0x05 =>
    match (s.bay ctx.bay).inst.bind fun x => s.field? x.1 with
    | none => none
    | some f =>
      let r := plotRect ctx.fw ctx.fh (cb e 63 40)
      let mine := (List.range 64).any fun j => (cb e 127 64).testBit j &&
        s.fieldBay f (r.1 + j % r.2.2.1) (r.2.1 + j / r.2.2.1) == ctx.bay
      if mine then widen (32 * cb e 39 24) (32 * cb c 19 0) else none
  | 0x06 => byPtr (cPtr c) (32 * cb c 19 8)
  | 0x08 => if c.getLsbD 16 then widen (16 * cb c 15 0) (cb e 63 48 * cb e 47 32) else none
  | _ => none

/-- `n` bytes from a pointer lie in the bay's own scratchpad and accumulator memory; of no bytes, the pointer itself does. -/
def State.ownMemory (s : State) (ctx : Ctx) (p : Word) (n : Nat) : Bool :=
  let k := Nat.max 1 n
  let l := (s.formed ctx true p 34 0 k).2
  (l.map Seg.len).foldl (· + ·) 0 == k && l.all fun x => decide (gaMod x.addr = s.own) && isWindow (gaLocal x.addr)
    && windowBay (gaLocal x.addr) == ctx.bay && decide (windowOff (gaLocal x.addr) + x.len ≤ Config.regBase)
/-- R177 allows the command in an open region. -/
def State.regionAllows (s : State) (ctx : Ctx) (c e : KWord) : Bool :=
  decide (cSinc c = 0) &&
    (match cOpc c with
     | 0x01 | 0x08 | 0x12 => true
     | 0x04 => if cX c then s.ownMemory ctx (ePtr e) (cb e 63 32)
         else decide (32 * cb c 15 0 + 32 * 2 ^ cb c 19 16 ≤ Config.regBase)
     | _ => false)

/-! ### Major 0x30 -/

/-- KLD and KST: form the 16-byte address, then the alignment check (R211). -/
def kAddr (s : State) (p : Word) (wr : Bool) : Except Flt (State × List Seg) :=
  match (if wr then s.storeAddr s.firCtx p 16 else s.loadAddr s.firCtx p 16) with
  | .error f => .error f
  | .ok (s, l) => if (l.map Seg.addr).headD 0 % 16 ≠ 0 then .error (s.flt s.firCtx 0x0D p) else .ok (s, l)

def execKld (n : R3) (a : R5) (s : State) : Out :=
  match kAddr s (s.regs.rg a) false with
  | .error f => memFault true f s
  | .ok (s', l) => match s'.readVia s.firCtx l with
    | .flt f => memFault true f s
    | .wait s' => .next s'
    | .ok s' bs => finish s' fun r => r.wk n (BitVec.ofNat 128 (gotNat bs)) (gotPoison bs)
def execKst (n : R3) (a : R5) (s : State) : Out :=
  let p := s.regs.rg a
  storeAllowed p (.kst n a) s fun s =>
    match kAddr s p true with
    | .error f => memFault false f s
    | .ok (s', l) => match s'.writeVia s.firCtx l (putBytes 16 (s.regs.rk n).toNat (s.regs.rkp n)) with
      | .flt f => memFault false f s
      | .wait s' => .next s'
      | .ok s' => retire s'
def execKins (n : R3) (a : R5) (h : BitVec 1) (s : State) : Out :=
  finish s fun r =>
    let lo := 64 * h.toNat
    r.wk n (BitVec.ofNat 128 (setBits (r.rk n).toNat (lo + 63) lo (r.rg a).toNat)) (r.rkp n || r.rgp a)
def execKclr (n : R3) (s : State) : Out := finish s fun r => r.wk n 0 false

/-- The command fault of a KISSUE. -/
def cmdFault (c : KWord) (p : Port) (s : State) : Out := takeFault 0x16 (cmdFaddr (cOpc c) p.toNat) s

/-- Number a COLL for its pair (GRP, PLOT) (R354). -/
def State.collSeq (s : State) (c e : KWord) : State × Nat :=
  match s.field? s.fir.field with
  | none => (s, 0)
  | some f =>
    let key := s.fir.bay * 2 ^ 26 + cb c 11 10 * 2 ^ 24 + cb e 63 40
    let n := tgetD key 0 f.colls
    (s.setField { f with colls := tput key (n + 1) f.colls }, n)

def execKissue (n : R3) (p : Port) (s : State) : Out :=
  let r := s.regs
  let c := r.rk n
  let x := cX c
  let e := if x then r.rk (n + 1) else 0
  let b := s.fir.bay
  let ctx := s.firCtx
  if p.toNat < 0x20 ∨ p.toNat > 0x2C then takeFault 0x04 (p.setWidth 64) s
  else if x && n.getLsbD 0 then cmdFault c p s
  else if r.rkp n || (x && r.rkp (n + 1)) then cmdFault c p s
  else if headerBad p.toNat c || s.payloadBad b p.toNat ctx.fw ctx.fh c e then cmdFault c p s
  else if s.fir.region.isSome && !s.regionAllows ctx c e then wordFault 0x11 (.kissue n p) s
  else
    let range := s.ownRange ctx c e
    let isArr := cOpc c == 0x0B && c.getLsbD 19
    let isDrn := cOpc c == 0x0C && c.getLsbD 14
    let z := if isArr then r.rz (BitVec.ofNat 4 (cb c 18 15)) else if isDrn then r.rz (BitVec.ofNat 4 (cb c 13 10)) else 0
    let (s, seq) := if cOpc c = 0x0F then s.collSeq c e else (s, 0)
    let cmd : Cmd :=
      ⟨s.nextCmd, c, e, s.fir.actor, s.fir.fidx, r.pc, z, .tokens, 0, cPtr c, s.fir.region.isSome, false, [], 0, 0, seq, 0, 0, 0⟩
    let s := ({ s with nextCmd := s.nextCmd + 1 } : State).followStores b s.fir.actor s.fir.fidx cmd.id
    if range.isSome && !s.sbFree b then parkAt (.queue p cmd range) (s.sbWait b cmd.id)
    else
      let s := match range with
        | some g => s.sbTake b p.toNat b cmd.id g
        | none => s
      if (s.queue b p.toNat).length ≥ Config.queueDepth then parkAt (.queue p cmd none) s else retire (s.enqueue b p.toNat cmd)

/-- Commands of the firing in the issue stage that are still queued at a port (R213). -/
def State.firCmds (s : State) (b actor : Nat) (fidx : BitVec 32) (p : Nat) : Bool :=
  (s.queue b p).any fun c => c.actor == actor && c.fidx == fidx
/-- KWAIT acquires the completions of the actor's commands at a port: the module sets of their pairs pass to it (R213,
R296). -/
def State.takeCompletions (s : State) (b a p : Nat) : State :=
  s.passSent (s.bayTenant b) (.port b p a) [.party (.actor b a)] false
def execKwait (p : Port) (s : State) : Out :=
  if p.toNat < 0x20 ∨ p.toNat > 0x2C then takeFault 0x04 (p.setWidth 64) s
  else if s.firCmds s.fir.bay s.fir.actor s.fir.fidx p.toNat then parkAt (.cmds p) s
  else retire (s.takeCompletions s.fir.bay s.fir.actor p.toNat)

end Sys2Proof.Machine
end

