-- ==== Sys2Proof/Machine/Port.lean ====
section
/-! DEFINITION. Major 0x2A: the port instructions (R123, R201-R204, R226, R230, R326). -/

namespace Sys2Proof.Machine

/-- The port fault, with FADDR the port number. -/
def portFault (p : Port) (s : State) : Out := takeFault 0x04 (p.setWidth 64) s
/-- The rate violation of a port. -/
def rateFault (p : Port) (s : State) : Out := takeFault 0x05 (p.setWidth 64) s

/-- A bound input port of the firing's actor, or the port fault (R123). -/
def withIn (p : Port) (s : State) (k : Inst → Nat → ChanRec → Out) : Out :=
  if p.toNat ≥ 16 then portFault p s
  else match s.actorNo s.fir.bay s.fir.actor with
    | none => portFault p s
    | some (x, n, _) => match inChan x n p.toNat with
      | none => portFault p s
      | some (c, r) => k x c r
/-- A bound output port of the firing's actor, or the port fault. -/
def withOut (p : Port) (s : State) (k : Inst → Nat → ChanRec → Out) : Out :=
  if p.toNat < 16 ∨ p.toNat ≥ 32 then portFault p s
  else match s.actorNo s.fir.bay s.fir.actor with
    | none => portFault p s
    | some (x, n, _) => match outChan x n p.toNat with
      | none => portFault p s
      | some (c, r) => k x c r

/-- Slot size in bytes and slots of a format (R201). -/
def slotsOf (fmt : Nat) : Nat × Nat :=
  if fmt = 0 then (8, 32) else if fmt = 1 ∨ fmt = 4 then (128, 2) else if fmt = 3 then (32, 8)
  else if fmt = 11 ∨ fmt = 12 then (16, 16) else (64, 4)
/-- Active slots: the mask bit of the first lane is 1. -/
def activeSlots (fmt : Nat) (m : Word) : List Nat :=
  (List.range (slotsOf fmt).2).filter fun t => m.getLsbD (t * (slotsOf fmt).1 / 4)

/-- Whether moving `n` tokens would pass the declared count (R39). -/
def State.overRate (s : State) (p : Port) (declared n : Nat) : Bool :=
  decide (tgetD p.toNat 0 s.fir.moved + n > declared)

/-- Take `n` tokens from an input port: the rate check, the wait, the end-of-stream fault (R202). -/
def takeIn (p : Port) (n : Nat) (x : Inst) (c : Nat) (r : ChanRec) (s : State) (k : State → List Tok → Out) : Out :=
  let ch := x.chan c
  if s.overRate p r.cn n then rateFault p s
  else if ch.seenToks.length ≥ n then k ((s.takeToks x c r n).countMoved p.toNat n) (ch.seenToks.take n)
  else if ch.closed && decide (ch.left < n) then rateFault p s
  else parkAt (.tokens p n) s

/-- Send tokens on an output port: the rate check and the wait for room. -/
def sendOut (p : Port) (l : List Tok) (x : Inst) (c : Nat) (r : ChanRec) (s : State) : Out :=
  if s.overRate p r.pn l.length then rateFault p s
  else if roomOf x r (x.chan c) < l.length then parkAt (.room p l.length) s
  else
    let s := l.foldl (fun s t => s.pushTok x.field x.id c t) (s.countMoved p.toNat l.length)
    retire (s.notePoisonSent x.field x.id (l.any fun t => t.poison != 0))

/-! ### RECV and SEND of whole tokens (R202) -/

/-- Lanes of a slot that hold bytes of its token; a block's other lanes are 0 and not poisoned (R182, R201). -/
def tokLanes (fmt : Nat) : Nat := Nat.min ((slotsOf fmt).1 / 4) ((fmtSize fmt + 3) / 4)
/-- The register with tokens laid into the active slots, and the poison of its lanes. -/
def layIn (fmt : Nat) (slots : List Nat) (l : List Tok) : Nat × Nat :=
  let sz := (slotsOf fmt).1
  ((slots.zip l).foldl (fun a (t, k) => a + (k.data.toNat % 2 ^ (8 * sz)) * 2 ^ (8 * sz * t)) 0,
   (slots.zip l).foldl (fun a (t, k) => a + (k.poison.toNat % 2 ^ tokLanes fmt) * 2 ^ (sz / 4 * t)) 0)
/-- Lanes of the active slots. -/
def slotLanes (sz : Nat) (slots : List Nat) : Word := wordOfBits fun i => slots.contains (i * 4 / sz)

/-- The tokens of the active slots of a register: lanes that the mask leaves inactive send 0. -/
def layOut (fmt : Nat) (m : Word) (v : VReg) (vp : Word) : List Tok :=
  let sz := (slotsOf fmt).1
  let v' := mergeLanes m v 0
  (activeSlots fmt m).map fun t =>
    ⟨BitVec.ofNat 3904 ((v'.toNat >>> (8 * sz * t)) % 2 ^ (8 * fmtSize fmt)),
     BitVec.ofNat 128 (((vp &&& m).toNat >>> (sz / 4 * t)) % 2 ^ tokLanes fmt), none⟩

/-! ### Rows (R203) -/

/-- The row part of a ROW port. -/
def State.rowPart (s : State) (p : Port) : RowPart :=
  (s.fir.rows.find? fun r => r.port == p.toNat).getD ⟨p.toNat, 0, 0, 0⟩
/-- Set the row part of a ROW port. -/
def State.setRow (s : State) (x : RowPart) : State :=
  { s with fir := { s.fir with rows := x :: s.fir.rows.filter fun r => r.port != x.port } }
/-- Wait for a visible row; a closed port with none left is a rate violation. -/
def headRow (p : Port) (x : Inst) (c : Nat) (s : State) (k : Tok → Out) : Out :=
  match (x.chan c).seenToks.head? with
  | some t => k t
  | none => if (x.chan c).closed && decide ((x.chan c).left = 0) then rateFault p s else parkAt (.row p) s

/-- RECV of a part of a row. -/
def recvRow (d : R5) (p : Port) (k : R3) (x : Inst) (c : Nat) (r : ChanRec) (s : State) : Out :=
  let part := s.rowPart p
  let m := s.regs.rm k
  let put (v vp : Nat) (g : Regs) : Regs :=
    g.wv d (mergeLanes m (BitVec.ofNat 2048 v) (g.rv d)) (mergeBits m (BitVec.ofNat 64 vp) (g.rvp d))
  if part.p = 0 then
    if s.overRate p r.cn 1 then rateFault p s
    else headRow p x c s fun t =>
      finish (s.setRow { part with p := 1 }) (put (t.data.toNat % 2 ^ 2048) (t.poison.toNat % 2 ^ 64))
  else headRow p x c s fun t =>
    finish (((s.setRow { part with p := 0 }).takeToks x c r 1).countMoved p.toNat 1)
      (put (bits t.data.toNat 3839 2048) (bits t.poison.toNat 119 64))

/-- SEND of a part of a row: 256 elements, then 224. Room for one row is reserved with the first part. -/
def sendRow (v : R5) (p : Port) (k : R3) (x : Inst) (c : Nat) (r : ChanRec) (s : State) : Out :=
  let part := s.rowPart p
  let m := s.regs.rm k
  let d := (mergeLanes m (s.regs.rv v) 0).toNat
  let q : BitVec 128 := (s.regs.rvp v &&& m).setWidth 128
  if part.p = 0 then
    if s.overRate p r.pn 1 then rateFault p s
    else if roomOf x r (x.chan c) < 1 then parkAt (.room p 1) s
    else retire ((s.setRow ⟨p.toNat, 1, BitVec.ofNat 3904 d, q⟩).modChan x.field x.id c
      fun ch => { ch with sent := ch.sent + 1 })
  else if part.p = 1 then
    retire (s.setRow ⟨p.toNat, 2, part.buf ||| BitVec.ofNat 3904 (d % 2 ^ 1792 * 2 ^ 2048),
      part.poison ||| (q &&& BitVec.ofNat 128 (2 ^ 56 - 1)) <<< 64⟩)
  else portFault p s

def execRecv (d : R5) (p : Port) (k : R3) (s : State) : Out :=
  withIn p s fun x c r => outsideRegion (.recv d p k) s fun s =>
    if r.fmtc = 10 then recvRow d p k x c r s
    else
      let m := s.regs.rm k
      let sl := activeSlots r.fmtc m
      let sz := (slotsOf r.fmtc).1
      takeIn p sl.length x c r s fun s l =>
        let v := layIn r.fmtc sl l
        let w := m &&& slotLanes sz sl
        finish s fun g => g.wv d (mergeLanes w (BitVec.ofNat 2048 v.1) (g.rv d))
          (mergeBits w (BitVec.ofNat 64 v.2) (g.rvp d))

def execRecvg (d : R5) (p : Port) (k : R3) (s : State) : Out :=
  withIn p s fun x c r =>
    if r.fmtc ≠ 0 then portFault p s
    else outsideRegion (.recvg d p k) s fun s => takeIn p 1 x c r s fun s l =>
      let t := l.headD ⟨0, 0, none⟩
      finish s fun g => g.wg d (t.data.setWidth 64) (decide (t.poison ≠ 0))

def execSend (v : R5) (p : Port) (k : R3) (s : State) : Out :=
  withOut p s fun x c r =>
    -- a row port with both parts sent takes the port fault first
    if r.fmtp = 10 ∧ (s.rowPart p).p = 2 then portFault p s
    else outsideRegion (.send v p k) s fun s =>
      if r.fmtp = 10 then sendRow v p k x c r s
      else sendOut p (layOut r.fmtp (s.regs.rm k) (s.regs.rv v) (s.regs.rvp v)) x c r s

def execSendg (g : R5) (p : Port) (k : R3) (s : State) : Out :=
  withOut p s fun x c r =>
    if r.fmtp ≠ 0 then portFault p s
    else outsideRegion (.sendg g p k) s fun s =>
      sendOut p [⟨(s.regs.rg g).setWidth 3904, if s.regs.rgp g then 3 else 0, none⟩] x c r s

/-- PEEKTAG: lanes 0 and 1 receive the tag, or all ones once the channel is closed with no row left. -/
def execPeektag (d : R5) (p : Port) (k : R3) (s : State) : Out :=
  withIn p s fun x c r =>
    if r.fmtc ≠ 10 then portFault p s
    else
      let ch := x.chan c
      let m := s.regs.rm k &&& 3
      let put (v q : Nat) : Out := finish s fun g =>
        g.wv d (mergeLanes m (BitVec.ofNat 2048 v) (g.rv d)) (mergeBits m (BitVec.ofNat 64 q) (g.rvp d))
      match ch.seenToks.head? with
      | some t => put (bits t.data.toNat 3903 3840) (bits t.poison.toNat 121 120)
      | none => if ch.closed && decide (ch.left = 0) then put (2 ^ 64 - 1) 0 else parkAt (.row p) s

/-- SENDTAG: the row enters the channel with the tag of lanes 0 and 1. -/
def execSendtag (v : R5) (p : Port) (k : R3) (s : State) : Out :=
  withOut p s fun x c r =>
    let part := s.rowPart p
    let tag := (s.regs.rv v).toNat % 2 ^ 64
    if r.fmtp ≠ 10 ∨ part.p ≠ 2 ∨ bits tag 47 43 ≠ 0 then portFault p s
    else outsideRegion (.sendtag v p k) s fun s =>
      let q := part.poison ||| (s.regs.rvp v &&& 3).setWidth 128 <<< 120
      let t : Tok := ⟨part.buf ||| BitVec.ofNat 3904 (tag * 2 ^ 3840), q, none⟩
      let s := (s.setRow ⟨p.toNat, 0, 0, 0⟩).modChan x.field x.id c fun ch => { ch with sent := ch.sent - 1 }
      let s := (s.pushTok x.field x.id c t).countMoved p.toNat 1
      retire (s.notePoisonSent x.field x.id (q != 0))

/-- PCOUNT: visible tokens and the closed bit, or room. -/
def execPcount (d : R5) (p : Port) (_k : R3) (s : State) : Out :=
  if p.toNat < 16 then
    withIn p s fun x c _ =>
      let ch := x.chan c
      finish s fun g => g.wg d (BitVec.ofNat 64 (ch.seenToks.length + if ch.closed then 2 ^ 63 else 0)) false
  else
    withOut p s fun x c r => finish s fun g => g.wg d (BitVec.ofNat 64 (roomOf x r (x.chan c))) false

end Sys2Proof.Machine
end

