-- ==== Sys2Proof/Machine/Sync.lean ====
section
/-! DEFINITION. Majors 0x1A-0x1C: acquire loads, release stores, semaphores, yards, owned words, read-modify-writes,
WAITV and MSG (R68-R75, R168-R174, R261). -/

namespace Sys2Proof.Machine

/-! ### Sync words (R69) -/

/-- The virtual address a pointer names, for an entry of SPACE 0: the name of a sync object (R68). -/
def State.virtOf (s : State) (c : Ctx) (p : Word) : Nat :=
  match s.entry c (ptrH p) with
  | some (_, e) => if e.space = 0 then e.base + ptrOff p else 0
  | none => 0

/-- Form the address of a sync word and check it in the order of R69. -/
def State.syncAddr (s : State) (c : Ctx) (p : Word) (wr : Bool) : Except Flt (State × Nat) :=
  match s.addressOf c p 8 wr with
  | .error f => .error f
  | .ok (s, l) =>
    let a := (l.map Seg.addr).headD 0
    if a % 8 ≠ 0 then .error (s.flt c 0x0D p)
    else if isWindow (gaLocal a) then .error (s.flt c 0x0B p)
    else .ok (s, a)

/-- Reach a sync word's home, after a held store of the actor to it (R61): an unreachable module gives the address fault once the wait has run out (R361). -/
def reachWord (s : State) (p : Word) (wr isLoad : Bool) (k : State → Nat → Out) : Out :=
  match s.syncAddr s.firCtx p wr with
  | .error f => memFault isLoad f s
  | .ok (s', a) => if s'.heldBlocks s.firCtx [⟨a, 8⟩] then .next (s'.flush s.firCtx.who)
    else match s'.routeFor s.firCtx [⟨a, 8⟩] with
    | (s', some false) => .next s'
    | (s', some true) => memFault isLoad (.mk0 0x0C (BitVec.ofNat 64 (gaLocal a))) s'
    | (s', none) => k s' a

/-- The word at its home, after the pairs of its line are applied (R295). -/
def State.readWord (s : State) (c : Ctx) (a : Nat) : State × Word × Bool :=
  let r := s.readSegs c [⟨a, 8⟩]
  (r.1, BitVec.ofNat 64 (gotNat r.2), gotPoison r.2)
/-- Write a word at its home: never versioned, and its waiters see it (R70, R173, R253). A write homed on another module
commits a versioned writer first (R256). -/
def State.writeWord (s : State) (c : Ctx) (a : Nat) (x : Word) (q : Bool) : State :=
  let s := if s.ownHbm a then s else match s.inst? c.field c.inst with
    | some y => s.earlyCommit y
    | none => s
  let s := (s.drainLines c [⟨a, 8⟩]).applySegs [⟨a, 8⟩]
  ((s.putWord c.field a x q).noteStreams [⟨a, 8⟩]).noteWords [⟨a, 8⟩]

/-- Change registers and retire once the acquire of a sync object is done: with a module of its set out of reach the
firing parks, its instruction complete but for the sweeps (R296, R297). -/
def acquireThen (va : Nat) (s : State) (f : Regs → Regs) : Out :=
  let c := s.firCtx
  if s.acquireReady c.who c.tenant va then finish (s.acquire c.who c.tenant va) f
  else .next (((s.acquireWait c.who c.tenant va).mapRegs f).park (.sweep va) true)

/-- A release waits while a pair or a held store of the firing's actor cannot reach its home (R61, R67, R361): it is tried
again. -/
def whenSent (s : State) (k : State → Out) : Out :=
  let s := s.flush s.firCtx.who
  if s.pairsHeld s.firCtx.who then .next s else k s

/-! ### LDA, STL (R168) -/

def execLda (_sc : Scope) (t a : R5) (off : BitVec 13) (s : State) : Out :=
  match movePtr (s.regs.rg a) off.toInt with
  | .error f => memFault true f s
  | .ok p => reachWord s p false true fun s w =>
    let va := s.virtOf s.firCtx p
    let r := s.readWord s.firCtx w
    acquireThen va r.1 fun g => g.wg t r.2.1 (r.2.2 || g.rgp a)

def execStl (sc : Scope) (t a : R5) (off : BitVec 13) (s : State) : Out :=
  outsideRegion (.stl sc t a off) s fun s =>
    match movePtr (s.regs.rg a) off.toInt with
    | .error f => memFault false f s
    | .ok p => reachWord s p true false fun s w => whenSent s fun s =>
      let s := s.release s.firCtx (scopeNat sc) (some (s.virtOf s.firCtx p))
      retire (s.writeWord s.firCtx w (s.regs.rg t) (s.regs.rgp t))

/-! ### Semaphores (R169, R170) -/

/-- Satisfy the waiters of semaphore `n` in arrival order; `kept` are the older waiters already tested. A waiter counts
each younger one satisfied before it; with 64 counted it blocks every younger one. -/
def semServeFrom (n : Nat) : Nat → List SemWaiter → List SemWaiter → Nat × List SemWaiter × List Who
  | v, kept, [] => (v, kept, [])
  | v, kept, w :: l =>
    if w.sem ≠ n then semServeFrom n v (kept ++ [w]) l
    else if kept.any fun k => k.sem == n && decide (k.passed ≥ 64) then (v, kept ++ w :: l, [])
    else if v ≥ w.thr then
      let r := semServeFrom n (v - w.thr) (kept.map fun k => if k.sem = n then { k with passed := k.passed + 1 } else k) l
      (r.1, r.2.1, w.who :: r.2.2)
    else semServeFrom n v (kept ++ [w]) l
/-- The count of semaphore `n`, its waiters kept and those satisfied, after its count has changed to `v` (R170). -/
def semServe (n v : Nat) (l : List SemWaiter) : Nat × List SemWaiter × List Who := semServeFrom n v [] l

/-- The head command's semaphore wait is satisfied: it goes on to its accesses. -/
def satisfiedHead (now : Nat) : List Cmd → List Cmd
  | c :: t => { c with phase := .run, waiting := false, started := now } :: t
  | [] => []

/-- Complete a satisfied waiter: a parked SEMWAIT (R153) or the head command of a port (R214). -/
def State.semDone (s : State) (b : Nat) : Who → State
  | .actor _ a => s.modFiring b a Firing.complete
  | .cmd _ p => s.modBay b fun x => { x with queues := tmod p [] (satisfiedHead s.draw) x.queues }
  | _ => s
/-- The parties that a semaphore satisfies acquire the completions that have signalled it: the module sets of their pairs
pass to them (R74, R296). -/
def State.semTaken (s : State) (b n : Nat) (l : List Who) : State :=
  if l.isEmpty then s else s.passSent (s.bayTenant b) (.sem b n) (l.map Carrier.party) (decide (tgetD n 0 (s.bay b).sems ≠ 0))

/-- The count of a semaphore. -/
def State.sem (s : State) (b n : Nat) : Nat := (tgetD n 0 (s.bay b).sems).toNat
/-- Set a count and satisfy its waiters. -/
def State.setSem (s : State) (b n v : Nat) : State :=
  let r := semServe n v (s.bay b).semWaiters
  let s := s.modBay b fun x => { x with sems := tput n (BitVec.ofNat 16 r.1) x.sems, semWaiters := r.2.1 }
  (r.2.2.foldl (fun s w => s.semDone b w) s).semTaken b n r.2.2
/-- Every increment saturates at 0xFFFF (R169). -/
def State.semAdd (s : State) (b n v : Nat) : State := s.setSem b n (Nat.min (s.sem b n + v) 0xFFFF)

/-- Semaphore number, bits [7:0] of a register. -/
def semNo (x : Word) : Nat := x.toNat % 256

def execSemadd (a b : R5) (s : State) : Out :=
  outsideRegion (.semadd a b) s fun s => whenSent s fun s =>
    let s := s.release s.firCtx 0 none
    retire (s.semAdd s.fir.bay (semNo (s.regs.rg a)) ((s.regs.rg b).toNat % 65536))
def execSemsub (d a b : R5) (s : State) : Out :=
  outsideRegion (.semsub d a b) s fun s =>
    let n := semNo (s.regs.rg a)
    let v := s.sem s.fir.bay n
    let t := Nat.min v ((s.regs.rg b).toNat % 65536)
    finish (s.setSem s.fir.bay n (v - t)) fun r => r.wg d (BitVec.ofNat 64 t) (r.rgp a || r.rgp b)
/-- SEMWAIT: joins the waiters; satisfied at once it retires, else the firing parks. -/
def execSemwait (a b : R5) (s : State) : Out :=
  outsideRegion (.semwait a b) s fun s =>
    let n := semNo (s.regs.rg a)
    let h := (s.regs.rg b).toNat % 65536
    let me := Who.actor s.fir.bay s.fir.actor
    if h = 0 then retire s
    else
      let x := s.bay s.fir.bay
      let r := semServe n (s.sem s.fir.bay n) (x.semWaiters ++ [⟨n, h, me, 0⟩])
      let s := s.setBay s.fir.bay { x with sems := tput n (BitVec.ofNat 16 r.1) x.sems, semWaiters := r.2.1 }
      let s := ((r.2.2.filter (· ≠ me)).foldl (fun s w => s.semDone s.fir.bay w) s).semTaken s.fir.bay n r.2.2
      if r.2.2.contains me then retire s else parkAt (.sem n h) s
def execSemget (d a : R5) (s : State) : Out :=
  finish s fun r => r.wg d (BitVec.ofNat 64 (s.sem s.fir.bay (semNo (r.rg a)))) (r.rgp a)

/-! ### Yards (R171, R260) -/

/-- The yard fault, with FADDR the index. -/
def yardFault (y : Word) (s : State) : Out := takeFault 0x13 y s

/-- The firing's field and its yard `y`, or the yard fault. -/
def withYard (y : Word) (s : State) (k : Field → Option Yard → Out) : Out :=
  if y.toNat > 23 then yardFault y s
  else match s.field? s.fir.field with
    | some f => k f (tget y.toNat f.yards)
    | none => yardFault y s

/-- Change a yard of a field. -/
def State.setYard (s : State) (f : Field) (y : Nat) (x : Yard) : State :=
  s.setField { f with yards := tput y x f.yards }

/-- Complete every RVWAIT of a field whose operand differs from the yard's phase. -/
def State.flipYard (s : State) (f y : Nat) (phase : BitVec 1) : State :=
  { s with bays := s.bays.map fun (k, b) => (k, { b with firings := b.firings.map fun x =>
      match x.status with
      | .parked (.yard z q) false =>
        if x.field = f ∧ z = y ∧ q ≠ phase then { x with status := .parked (.yard z q) true } else x
      | _ => x }) }

def execRvinit (a b : R5) (s : State) : Out :=
  outsideRegion (.rvinit a b) s fun s =>
    let y := s.regs.rg a
    let v := s.regs.rg b
    let n := wget v 15 0
    let d := wget v 39 16
    withYard y s fun f old =>
      if n = 0 then yardFault y s
      else if !plotValid (pktFw f.packet) (pktFh f.packet) d then takeFault 0x15 (BitVec.ofNat 64 d) s
      else match old with
        | none => retire (s.setYard f y.toNat ⟨n, BitVec.ofNat 24 d, 0, 0⟩)
        | some q => if q.n = n ∧ q.plot.toNat = d then retire s else yardFault y s

def execRvarr (d a : R5) (s : State) : Out :=
  outsideRegion (.rvarr d a) s fun s =>
    let y := s.regs.rg a
    withYard y s fun _ old => match old with
      | none => yardFault y s
      | some q =>
        let c := s.firCtx
        if !inPlot c.fw c.fh q.plot.toNat s.fir.fx s.fir.fy then yardFault y s
        else whenSent s fun s =>
          let s := s.release c 2 none
          match s.field? s.fir.field with
          | none => yardFault y s
          | some f =>
            let full := decide (q.count + 1 = q.n)
            let new : Yard := if full then { q with count := 0, phase := 1 - q.phase } else { q with count := q.count + 1 }
            let s := s.setYard f y.toNat new
            let s := if full then s.flipYard f.id y.toNat new.phase else s
            finish s fun r => r.wg d (q.phase.setWidth 64) (r.rgp a)

def execRvwait (a b : R5) (s : State) : Out :=
  outsideRegion (.rvwait a b) s fun s =>
    let y := s.regs.rg a
    let q : BitVec 1 := (s.regs.rg b).setWidth 1
    withYard y s fun _ old => match old with
      | none => yardFault y s
      | some x => if x.phase ≠ q then retire s else parkAt (.yard y.toNat q) s

/-! ### ACQ, REL, SYNCADD, SYNCCAS, WAITV (R70, R172, R173) -/

/-- OwnerTag (R70). -/
def State.ownerTag (s : State) : Word :=
  BitVec.ofNat 64 (2 ^ 63 + s.own * 2 ^ 15 + s.fir.bay * 2 ^ 4 + s.fir.actor)

/-- Register a waiter at a word's home. -/
def State.waitWord (s : State) (w : WordWaiter) : State := { s with waiters := s.waiters ++ [w] }

def execAcq (sc : Scope) (a : R5) (s : State) : Out :=
  outsideRegion (.acq sc a) s fun s =>
    let p := s.regs.rg a
    reachWord s p true false fun s w =>
      let va := s.virtOf s.firCtx p
      let r := s.readWord s.firCtx w
      let tag := s.ownerTag
      if r.2.1 = tag then takeFault 0x0E p s
      else if r.2.1 = 0 then acquireThen va (r.1.writeWord s.firCtx w tag false) id
      else parkAt (.acq va) (r.1.waitWord ⟨s.firCtx.who, w, 0, false, true, tag⟩)

def execRel (sc : Scope) (a : R5) (s : State) : Out :=
  outsideRegion (.rel sc a) s fun s =>
    let p := s.regs.rg a
    reachWord s p true false fun s w => whenSent s fun s =>
      let s := s.release s.firCtx (scopeNat sc) (some (s.virtOf s.firCtx p))
      let r := s.readWord s.firCtx w
      if r.2.1 = s.ownerTag then retire (r.1.writeWord s.firCtx w 0 false) else takeFault 0x0E p r.1

def execSyncadd (sc : Scope) (d a b : R5) (s : State) : Out :=
  outsideRegion (.syncadd sc d a b) s fun s =>
    let p := s.regs.rg a
    reachWord s p true false fun s w => whenSent s fun s =>
      let va := s.virtOf s.firCtx p
      let r := (s.release s.firCtx (scopeNat sc) (some va)).readWord s.firCtx w
      let s' := r.1.writeWord s.firCtx w (r.2.1 + s.regs.rg b) (r.2.2 || s.regs.rgp b)
      acquireThen va s' fun g => g.wg d r.2.1 (r.2.2 || g.rgp a || g.rgp b)

/-- SYNCCAS: a failed compare writes nothing and releases nothing. -/
def execSynccas (sc : Scope) (d a b : R5) (s : State) : Out :=
  outsideRegion (.synccas sc d a b) s fun s =>
    let p := s.regs.rg a
    reachWord s p true false fun s w =>
      let va := s.virtOf s.firCtx p
      let r := s.readWord s.firCtx w
      let hit := decide (r.2.1 = s.regs.rg d)
      let t := if hit then r.1.flush s.firCtx.who else r.1
      if hit && t.pairsHeld s.firCtx.who then .next t else
      let s' := if hit then
          (t.release s.firCtx (scopeNat sc) (some va)).writeWord s.firCtx w (s.regs.rg b) (s.regs.rgp b)
        else t
      acquireThen va s' fun g => g.wg d r.2.1 (r.2.2 || g.rgp a || g.rgp b || g.rgp d)

def execWaitv (_sc : Scope) (isAcq ge : Bool) (d a b : R5) (s : State) : Out :=
  let p := s.regs.rg a
  reachWord s p false true fun s w =>
    let va := s.virtOf s.firCtx p
    let v := s.regs.rg b
    let r := s.readWord s.firCtx w
    if if ge then decide (v.toNat ≤ r.2.1.toNat) else r.2.1 == v then
      let f (g : Regs) : Regs := g.wg d r.2.1 (r.2.2 || g.rgp a || g.rgp b)
      if isAcq then acquireThen va r.1 f else finish r.1 f
    else
      parkAt (.waitv va d isAcq (s.regs.rgp a || s.regs.rgp b)) (r.1.waitWord ⟨s.firCtx.who, w, v, ge, false, 0⟩)

/-! ### MSG (R174, R261) -/

/-- Bays of the sender's instance that hold a handler of class `c`. -/
def State.handlerBays (s : State) (c : Nat) : List Nat :=
  match (s.bay s.fir.bay).inst with
  | none => []
  | some (f, i) => match s.inst? f i with
    | none => []
    | some x => (((List.range x.image.actors.length).filter fun n =>
        (x.image.actors[n]?).any fun a => a.handler && a.cls == c).map (s.actBay x)).dedup

/-- The image of the firing's instance has a route of KIND 1 for a class. -/
def State.classRoute (s : State) (c : Nat) : Bool :=
  match s.inst? s.fir.field s.fir.inst with
  | none => false
  | some x => x.image.routes.any fun r => r.kind == 1 && r.cls == c

/-- Whether every handler bay of a class still takes a message: 16 entries with those on their way. -/
def State.routeAccepts (s : State) (f : Nat) (l : List Nat) : Bool :=
  l.all fun b => decide ((s.bay b).msgs.length +
    (s.msgs.filter fun m => m.field == f && m.bay == b).length < Config.messageQueue)

def execMsg (c : R3) (a : R5) (s : State) : Out :=
  outsideRegion (.msg c a) s fun s =>
    let p := s.regs.rg a
    match s.loadAddr s.firCtx p 64 with
    | .error f => memFault false f s
    | .ok (s', l) =>
      if p.toNat % 8 ≠ 0 then takeFault 0x0D p s'
      else if !s.classRoute c.toNat then takeFault 0x14 (c.setWidth 64) s'
      else match s'.readVia s.firCtx l with
        | .flt f => memFault false f s
        | .wait s' => .next s'
        | .ok s' bs =>
          let dst := s.handlerBays c.toNat
          if !s.routeAccepts s.fir.field dst then parkAt .route s
          else
            let m : Msg := ⟨c.toNat, s.ctl .bayxy, BitVec.ofNat 512 (gotNat bs),
              BitVec.ofNat 8 ((List.range 8).foldl (fun x k =>
                if gotPoison ((bs.drop (8 * k)).take 8) then x + 2 ^ k else x) 0), []⟩
            retire { s' with msgs := s'.msgs ++ dst.map fun b => ⟨s.fir.field, s.fir.inst, b, m, s.firCtx.who⟩ }

end Sys2Proof.Machine
end

