-- ==== Sys2Proof/Machine/Tenancy.lean ====
section
/-! DEFINITION. Partitions and lofts (R21, R22, R373, R384): the islands of a tenant, loft shares and their trailers,
and what the privileged instructions and the pre-emption ladder share. -/

namespace Sys2Proof.Machine

/-! ### Partitions (R373) -/

/-- VALID of PARTCFG. -/
def Tenant.valid (t : Tenant) : Bool := t.partcfg.getLsbD 63
/-- RES of PARTCFG. -/
def Tenant.resident (t : Tenant) : Bool := t.valid && t.partcfg.getLsbD 62
/-- Islands that resident partitions hold. -/
def State.heldIslands (s : State) : List Nat :=
  (List.range 16).flatMap fun t => if (s.tenant t).resident then (s.tenant t).pmap else []
/-- Islands under a placed field of tenant 0, which owns its bays until its launch completes (R26). -/
def State.systemIslands (s : State) : List Nat :=
  ((s.fields.filter fun f => f.tenant == 0).flatMap fun f => (s.fieldBays f).map fun x => bayIsland x.2.2).dedup
/-- Islands that serve another tenant than 0 now, or tenant 0's fields: no partition is made resident over them, since no
island serves two tenants at once (R21). That tenant 0's fields count is log entry 78. -/
def State.busyIslands (s : State) : List Nat := s.heldIslands ++ s.systemIslands
/-- Module bays of the fields that other tenants have on their islands now. -/
def State.othersBays (s : State) (t : Nat) : List Nat :=
  (s.fields.filter fun f => f.tenant ≠ t && (f.tenant == 0 || (s.tenant f.tenant).resident)).flatMap fun f =>
    (s.fieldBays f).map fun x => x.2.2
/-- A tenant's islands: those of its map, or for tenant 0 those that no resident partition holds. -/
def State.islandsOf (s : State) (t : Nat) : List Nat :=
  if t = 0 then (List.range Config.islands).filter fun i => !s.heldIslands.contains i else (s.tenant t).pmap
/-- Whether an island serves a tenant at present. -/
def State.serves (s : State) (t i : Nat) : Bool :=
  if t = 0 then !s.heldIslands.contains i else (s.tenant t).resident && (s.tenant t).pmap.contains i
/-- PRESTAT.STATE (R376). -/
def Tenant.pre (t : Tenant) : Nat := wget t.prestat 1 0

/-! ### Lofts (R384) -/

/-- One byte of a CRC-32C, least significant bit first. -/
def crcByte (c : BitVec 32) (b : Byte) : BitVec 32 :=
  (List.range 8).foldl (fun c _ => if c.getLsbD 0 then (c >>> 1) ^^^ 0x82F63B78#32 else c >>> 1)
    (c ^^^ b.setWidth 32)
/-- The CRC-32C of a list of bytes. -/
def crc32c (l : List Byte) : BitVec 32 := ~~~(l.foldl crcByte 0xFFFFFFFF#32)

/-- Loft of an island. -/
def State.loft (s : State) (i : Nat) : Loft := tgetD i .empty s.lofts
def State.setLoft (s : State) (i : Nat) (x : Loft) : State := { s with lofts := tput i x s.lofts }
/-- Global address of share `j` of an island's loft. -/
def State.shareAddr (s : State) (i j : Nat) : Nat := s.ga (windowAddr (islandBay i j) Config.loftBase)

/-- The 64 bytes of a trailer. -/
def trailer (c : LoftCtx) (j : Nat) (check : BitVec 32) : List Byte :=
  natLe 4 0x31585443 ++ natLe 1 c.tenant ++ natLe 1 j ++ natLe 2 c.island ++ natLe 1 c.rung ++ natLe 3 0
    ++ natLe 4 c.seq.toNat ++ natLe 8 c.dtime ++ natLe 36 0 ++ natLe 4 check.toNat

/-- The bytes of share `j` of the context stored at index `n`: the body is the device's own layout, here the index
(notes/assumptions/31.md). -/
def shareBytes (n : Nat) (c : LoftCtx) (j : Nat) : List Byte :=
  let body := natLe 8 n ++ List.replicate (0x15FFC0 - 8) 0
  body ++ trailer c j (crc32c body)

/-- SEQ of the trailer of a share as it stands in the loft. -/
def State.shareSeq (s : State) (i j : Nat) : Nat := leNat (s.mem.readList (s.shareAddr i j + 0x15FFC0 + 12) 4)
/-- Bays of an island. -/
def islandBays (i : Nat) : List Nat := (List.range 4).map (islandBay i)
/-- Bays of a tenant's partition. -/
def State.partBays (s : State) (t : Nat) : List Nat :=
  if (s.tenant t).resident then ((s.tenant t).pmap).flatMap islandBays else []
/-- Change whether bays stand still after a stop. -/
def State.setHalted (s : State) (v : Bool) (l : List Nat) : State :=
  l.foldl (fun (s : State) (b : Nat) => s.modBay b fun y => { y with halted := v }) s

/-- What a share's bytes say, once its trailer is found good for share `j` of island `i`: index and tenant. -/
def shareRead (i j : Nat) (l : List Byte) : Option (Nat × Nat) :=
  let body := l.take 0x15FFC0
  let t := l.drop 0x15FFC0
  let at_ (lo n : Nat) : Nat := leNat ((t.drop lo).take n)
  if at_ 0 4 = 0x31585443 ∧ at_ 4 1 < 16 ∧ at_ 5 1 = j ∧ at_ 6 2 = i ∧ at_ 9 3 = 0 ∧ at_ 24 36 = 0
      ∧ at_ 60 4 = (crc32c body).toNat
  then some (leNat (body.take 8), at_ 4 1) else none

/-- A tenant has a partition that maps an island and is not resident. -/
def State.mapsIdle (s : State) (t i : Nat) : Bool :=
  (s.tenant t).valid && !(s.tenant t).resident && (s.tenant t).pmap.contains i

/-! ### Solves and cached control blocks -/

/-- Live instances of a tenant. -/
def State.liveOf (s : State) (t : Nat) : List Inst :=
  s.insts.filter fun x => (s.field? x.field).any fun f => f.tenant == t
/-- Post a solve with a CAUSE; a posted solve that has not begun is merged into it (R337). -/
def State.postSolve (s : State) (t cause : Nat) : State := s.modTenant t fun x => { x with solve := some cause }

/-- A register-window unit finds its bay: no stop has frozen the bay (R229, R383), and its island serves the unit's tenant. -/
def State.unitLands (s : State) (u : RwUnit) : Bool :=
  !(s.bay u.bay).halted && (u.tenant == 0 || s.serves u.tenant (bayIsland u.bay))
/-- Land every register-window unit on its way to a bay that runs. -/
def State.landAll (s : State) : State :=
  let ok (u : RwUnit) : Bool := s.unitLands u
  (s.rwq.filter ok).foldl State.landUnit { s with rwq := s.rwq.filter fun u => !ok u }

end Sys2Proof.Machine
end

