-- ==== Sys2Proof/Machine/Scheduler.lean ====
section
/-! DEFINITION. The scheduler of a bay (R35-R38, R153, R174, R175, R242): which actors are fireable, firing entry,
parked firings that resume; the passing of time and of bay cycles (R40, R338); fetching an instruction (R108). -/

namespace Sys2Proof.Machine

/-! ### Bays that run -/

/-- The bay's island is not gated (R325) and no stop wave has frozen the bay (R381). -/
def State.bayRuns (s : State) (b : Nat) : Bool := decide ((s.island (bayIsland b)).k ≠ 0) && !(s.bay b).halted

/-- Records of the actors on a bay of an instance, with their numbers. -/
def State.bayActors (s : State) (x : Inst) (b : Nat) : List (Nat × ActorRec) :=
  (x.image.actors.zipIdx.map fun (a, n) => (n, a)).filter fun (n, _) => s.actBay x n == b

/-- The live instance of a bay. -/
def State.bayInst (s : State) (b : Nat) : Option Inst := (s.bay b).inst.bind fun (f, i) => s.inst? f i

/-! ### Fireable actors (R35, R242) -/

/-- A source actor: no handler, and no input port fed by an actor (R241). -/
def isSource (x : Inst) (n : Nat) : Bool :=
  (x.image.actors[n]?).any (fun a => !a.handler) && x.image.chans.all fun c => c.cact ≠ n || c.pact == 0xFFFF

/-- Every input condition of R35. -/
def inputsMet (x : Inst) (n : Nat) : Bool :=
  x.image.chans.zipIdx.all fun (c, k) =>
    c.cact ≠ n || decide ((x.chan k).seenToks.length ≥ if c.cvar then 1 else c.cn)
/-- Every output condition of R35. -/
def outputsMet (x : Inst) (n : Nat) : Bool :=
  x.image.chans.zipIdx.all fun (c, k) => c.pact ≠ n || decide (roomOf x c (x.chan k) ≥ c.pn)
/-- A source actor has used its firing budget (R242). -/
def spent (x : Inst) (n : Nat) (a : ActorRec) (fired : Nat) : Bool := isSource x n && decide (fired ≥ a.rep * x.tiles)

/-- The oldest message that a handler has still to fire for, of an unmasked class (R174, R175). -/
def Bay.nextMsg (y : Bay) (a : ActorRec) : Option (Nat × Msg) :=
  if y.cmask.getLsbD a.cls then none else findAt (fun m => m.cls == a.cls && !m.served.contains a.idx) y.msgs

/-- An actor has a firing in progress on a bay. -/
def State.inFiring (s : State) (b idx : Nat) : Bool := (s.firing? b idx).isSome

/-- Whether an actor is fireable (R35). -/
def State.fireable (s : State) (b : Nat) (x : Inst) (n : Nat) (a : ActorRec) : Bool :=
  let y := s.bay b
  !s.inFiring b a.idx &&
    if a.handler then (y.nextMsg a).isSome
    else inputsMet x n && outputsMet x n && !spent x n a (tgetD a.idx 0 y.fired) && !(isSource x n && s.gated x.field)

/-- Indices of the fireable actors of a bay, ascending. -/
def State.fireables (s : State) (b : Nat) : List Nat :=
  match s.bayInst b with
  | none => []
  | some x => if (s.bay b).faulted then [] else
    sortBy id (((s.bayActors x b).filter fun (n, a) => s.fireable b x n a).map fun (_, a) => a.idx)

/-- Bring the list of fireable actors up to date: those fireable longest stand first, and those that became fireable on
one bay cycle stand in index order (R36). -/
def State.refresh (s : State) (b : Nat) : State :=
  let now := s.fireables b
  s.modBay b fun y =>
    let old := y.fireOrder.filter fun x => now.contains x.1
    let new := (now.filter fun i => !(old.map Prod.fst).contains i).map fun i => (i, y.cyc)
    { y with fireOrder := (old.filter fun x => x.2 ≠ y.cyc) ++
        sortBy Prod.fst ((old.filter fun x => x.2 = y.cyc) ++ new) }

/-- Issue slots in use. -/
def State.slots (s : State) (b : Nat) : Nat := ((s.bay b).firings.filter fun f => f.slot).length

/-! ### Parked firings (R36, R153) -/

/-- Tenant of a firing. -/
def State.firTenant (s : State) (f : Firing) : Nat := (s.ctxOf (.actor f.bay f.actor) f.bay true f.field f.inst).tenant

/-- Two pairs are the same emission; a commit changes its tag. -/
def Pair.same (p q : Pair) : Bool :=
  p.who == q.who && p.tenant == q.tenant && p.handle == q.handle && p.op == q.op && p.va == q.va && p.pa == q.pa && p.value == q.value
/-- Two held stores are the same. -/
def HeldStore.same (x y : HeldStore) : Bool := x.actor == y.actor && x.fidx == y.fidx && x.segs == y.segs && x.bytes == y.bytes
/-- Pairs that open regions have staged. -/
def State.stagedPairs (s : State) : List Pair :=
  (s.bays.flatMap fun q => q.2.firings.flatMap fun f => (f.region.map Region.staged).getD [])
    ++ if s.fir.status = .ended then [] else (s.fir.region.map Region.staged).getD []
/-- Some of the accesses that an invalidation waits for has not been performed. -/
def State.outstanding (s : State) (p : Pending) : Bool :=
  p.pairs.any (fun x => (s.pairs ++ s.stagedPairs).any x.same)
    || p.units.any s.rwq.contains
    || p.stores.any (fun x => s.bays.any fun q => q.2.fwd.any x.same)
    || p.streams.any (fun n => s.streams.any fun m => m.id == n)
    || p.writes.any fun w => s.hostWrites.any fun q => q.2.any fun x => x.addr == w

/-- Whether what a parked firing waits for holds; an acquire also waits for the sweeps of its object (R296, R297). -/
def State.parkReady (s : State) (f : Firing) : Bool :=
  let swept (va : Nat) : Bool := s.acquireReady (.actor f.bay f.actor) (s.firTenant f) va
  match f.status with
  | .parked (.sweep va) true => swept va
  | .parked (.acq va) true => swept va
  | .parked (.waitv va _ true _) true => swept va
  | .parked (.inval p) true => !s.outstanding p
  | .parked _ true => true
  | .parked w false =>
    let port (p : Port) (k : ChanRec → Chan → Inst → Bool) : Bool :=
      match s.actorNo f.bay f.actor with
      | none => true
      | some (x, n, _) =>
        match if p.toNat < 16 then inChan x n p.toNat else outChan x n p.toNat with
        | some (c, r) => k r (x.chan c) x
        | none => true
    match w with
    | .tokens p n => port p fun _ c _ => decide (c.seenToks.length ≥ n) || (c.closed && decide (c.left < n))
    | .room p n => port p fun r c x => decide (roomOf x r c ≥ n)
    | .row p => port p fun _ c _ => decide (c.seenToks.length ≥ 1) || (c.closed && decide (c.left = 0))
    | .cmds p => !s.firCmds f.bay f.actor f.fidx p.toNat
    | .region => !((s.bay f.bay).queues.any fun (_, l) => l.any fun c => c.region && c.actor == f.actor)
    | .pairs => s.pairs.all fun q => q.who ≠ .actor f.bay f.actor
    | .route => match s.bayInst f.bay with
      | some x => s.msgs.all (fun m => !(m.field == x.field && m.inst == x.id)) ||
          x.image.actors.zipIdx.all fun (a, n) => !a.handler || s.routeAccepts x.field [s.actBay x n]
      | none => true
    | .reissue => true
    | _ => false
  | _ => false

/-- The ready parked firing that parked earliest. -/
def State.nextReady (s : State) (b : Nat) : Option Firing :=
  (sortBy Firing.since ((s.bay b).firings.filter s.parkReady)).head?

/-- A parked firing takes a slot: a completed instruction is retired (R153), a region goes back to its checkpoint
(R178), any other instruction is issued again. -/
def Firing.resume (f : Firing) : Firing :=
  let back : Firing := { f with status := .ready, slot := true, fresh := true }
  match f.status with
  | .parked (.page _ _) _ => { f.resumeRegion with slot := true, fresh := true }
  | .parked _ true => { back with regs := f.regs.endChecks f.regs.pc }
  | _ => back

/-- The sync object whose acquire a parked firing's completed instruction still has to make (R70, R173, R297). -/
def Firing.acquires (f : Firing) : Option Nat :=
  match f.status with
  | .parked (.acq va) true => some va
  | .parked (.waitv va _ true _) true => some va
  | .parked (.sweep va) true => some va
  | _ => Option.none
/-- Its acquire. -/
def State.resumeAcquire (s : State) (f : Firing) : State :=
  match f.acquires with
  | some va => s.acquire (.actor f.bay f.actor) (s.firTenant f) va
  | none => s
/-- The acquires of a bay that wait for a module with no route are known to the I/O dies (R361). -/
def State.noteSweeps (s : State) (b : Nat) : State :=
  (s.bay b).firings.foldl (fun s f => match f.acquires with
    | some va => s.acquireWait (.actor b f.actor) (s.firTenant f) va
    | none => s) s

/-! ### Firing entry (R37, R155, R174, R182) -/

/-- The registers at entry: g16..g23 and v24..v31 persist, the flags are 0, every other register is a free value;
`m` is the message of a handler. DESIGN CHOICE (notes/assumptions/6.md), unsafe: the poison bits of k0..k7, of which R37, R155
and R209 say nothing, are 0. -/
def entryRegs (draw : Nat) (p : Persist) (pc : Word) (m : Option Msg) : Regs where
  g := Vector.ofFn fun (i : Fin 32) =>
    if i.val = 0 then 0
    else if 16 ≤ i.val ∧ i.val < 24 then p.g.toList.getD (i.val - 16) 0
    else match m with
      | some q =>
        if 24 ≤ i.val then BitVec.ofNat 64 (q.body.toNat >>> (64 * (i.val - 24)))
        else if i.val = 1 then q.sender else Config.freeG draw i.val
      | none => Config.freeG draw i.val
  gp := BitVec.ofNat 32 (p.gp.toNat * 2 ^ 16)
  v := Vector.ofFn fun (i : Fin 32) => if 24 ≤ i.val then p.v.toList.getD (i.val - 24) 0 else Config.freeV draw i.val
  vp := Vector.ofFn fun (i : Fin 32) => if 24 ≤ i.val then p.vp.toList.getD (i.val - 24) 0 else 0
  m := Vector.ofFn fun (i : Fin 8) => if i.val = 0 then BitVec.allOnes 64 else Config.freeM draw i.val
  z := Vector.ofFn fun (i : Fin 16) => Config.freeZ draw i.val
  k := Vector.ofFn fun (i : Fin 8) => Config.freeK draw i.val
  kp := 0
  rmode := 0
  flags := 0
  lc0 := Config.freeLc draw 0
  lc1 := Config.freeLc draw 1
  depth := 0
  ls0 := 0
  le0 := 0
  ls1 := 0
  le1 := 0
  pc := pc

/-- Handlers of a class on a bay. -/
def State.handlersOn (s : State) (x : Inst) (b c : Nat) : List Nat :=
  ((s.bayActors x b).filter fun (_, a) => a.handler && a.cls == c).map fun (_, a) => a.idx

/-- A message a handler fires for leaves the queue once every handler of its class on the bay has fired. -/
def State.takeMsg (s : State) (x : Inst) (b : Nat) (k : Nat) (m : Msg) (idx : Nat) : State :=
  let served := idx :: m.served
  let all := (s.handlersOn x b m.cls).all served.contains
  s.modBay b fun y => { y with msgs := if all then dropAt y.msgs k else setAt y.msgs k { m with served := served } }

/-- Start a firing of an actor. -/
def State.fire (s : State) (b : Nat) (x : Inst) (a : ActorRec) : State :=
  let y := s.bay b
  let msg := if a.handler then y.nextMsg a else none
  let n := tgetD a.idx 0 y.fired
  let xy := match s.field? x.field with
    | some f => match (s.fieldBays f).find? fun (q : Nat × Nat × Nat) => q.2.2 == b with
      | some q => (q.1, q.2.1)
      | none => (0, 0)
    | none => (0, 0)
  let pc := BitVec.ofNat 64 ((codeRange x a).1 + a.entry)
  let f : Firing := {
    bay := b, actor := a.idx, field := x.field, inst := x.id, fidx := BitVec.ofNat 32 n, fx := xy.1, fy := xy.2
    regs := entryRegs s.draw (tgetD a.idx Persist.zero y.persist) pc (msg.map Prod.snd)
    status := .ready, slot := true, fresh := true, region := none, moved := [], rows := [], cycles := 0, since := 0 }
  let s := match msg with
    | some (k, m) => s.takeMsg x b k m a.idx
    | none => s
  s.modBay b fun y => { y with
    firings := y.firings ++ [f]
    ended := none
    fireOrder := y.fireOrder.filter fun z => z.1 ≠ a.idx
    fired := tput a.idx (n + 1) y.fired
    counters := tmod (32 * a.idx) 0 (· + 1) y.counters }

/-- FIRE_ACTOR: a free slot goes to the actor that has been fireable longest, when no parked firing is ready (R36). -/
def execFireActor (b : Nat) (s : State) : Out :=
  if !s.bayRuns b || decide (s.slots b ≥ Config.issueSlots) || (s.nextReady b).isSome then .next s
  else
    let s := s.refresh b
    match (s.bay b).fireOrder.head?, s.bayInst b with
    | some (i, _), some x => match (s.bayActors x b).find? fun (_, a) => a.idx == i with
      | some (_, a) => .next (s.fire b x a)
      | none => .next s
    | _, _ => .next s

/-! ### The passing of time (R6, R40, R150, R338) -/

/-- Add bay cycles to a counter of an actor. -/
def bumpCounter (o n : Nat) (t : Table (BitVec 32)) : Table (BitVec 32) :=
  if n = 0 then t else tmod o 0 (· + BitVec.ofNat 32 n) t

/-- The counter that an actor's cycles go to: FIRED 4, STARVED 8, BLOCKED 12 of its 32 bytes. -/
def State.cycleCounter (s : State) (b : Nat) (x : Inst) (n : Nat) (a : ActorRec) : Option Nat :=
  if spent x n a (tgetD a.idx 0 (s.bay b).fired) then none
  else match s.firing? b a.idx with
    | some f => match f.status with
      | .ready => if f.slot then some 4 else none
      | .parked (.tokens _ _) false => some 8
      | .parked (.row _) false => some 8
      | .parked (.room _ _) false => some 12
      | _ => none
    | none =>
      if a.handler then none
      else if !inputsMet x n then some 8 else if !outputsMet x n then some 12 else none

/-- `n` bay cycles pass on a bay; in `busy` of them a firing that holds a slot is not parked. -/
def State.passBay (s : State) (b n busy : Nat) : State :=
  match s.bayInst b with
  | none => s
  | some x =>
    let marks := (s.bayActors x b).filterMap fun (k, a) => (s.cycleCounter b x k a).map fun o => 32 * a.idx + o
    s.modBay b fun y => { y with
      cyc := y.cyc + BitVec.ofNat 64 n
      ended := if n = 0 then y.ended else none
      counters := marks.foldl (fun t o => bumpCounter o (if o % 32 = 4 then busy else n) t) y.counters
      firings := y.firings.map fun f => if f.slot && f.status == .ready then { f with cycles := f.cycles + busy } else f }

/-- A bay's only firing in progress, unparked and in a slot (R346). -/
def Bay.lone (y : Bay) : Bool := match y.firings with
  | [f] => f.slot && f.status == .ready
  | _ => false
/-- Bay cycles that pass on a bay before a step, and those in which its firings are not parked. A lone firing issues on
every cycle on which it is not parked, so none pass before steps other than its own, and one before its own, beside those
in which an instruction that is not one of one cycle keeps it parked; none pass between a FEND and the actor's next firing
when that can start at once (R346). Any other number is free. -/
def State.cyclesOf (s : State) (issue : Option (Nat × Bool)) (b : Nat) : Nat × Nat :=
  let y := s.bay b
  let free := Config.cycles s.draw b
  if y.lone then match issue with
    | some (c, one) => if c = b then (1 + if one then 0 else free, 1) else (0, 0)
    | none => (0, 0)
  else if y.firings.isEmpty && (y.ended.any fun i => (y.fireOrder.map Prod.fst).contains i) then (0, 0)
  else (free, free)

/-- Time passes before a step: a free number of device ticks, and bay cycles on every bay that runs
(notes/assumptions/24.md); actors that have become fireable are noted. `issue` is the bay that issues an instruction, and
whether that is an instruction of one cycle. -/
def State.pass (s : State) (issue : Option (Nat × Bool)) : State :=
  let s := (s.bays.map Prod.fst).foldl (fun s b =>
    if s.bayRuns b then
      let s := s.refresh b
      s.passBay b (s.cyclesOf issue b).1 (s.cyclesOf issue b).2
    else s) s
  { s with dtime := s.dtime + BitVec.ofNat 64 (Config.elapse s.draw), draw := s.draw + 1 }

/-! ### The issue stage -/

/-- The firings of a bay that are unparked and hold a slot; the one that issued longest ago stands first, those that took
a slot since behind it. -/
def State.ready (s : State) (b : Nat) : List Firing := (s.bay b).firings.filter fun f => f.slot && f.status == .ready
/-- The firing of an actor that can issue: in progress, unparked, holding a slot, on a bay that runs; slots issue in turn,
so it does not issue again while one that has been unparked since its last instruction waits (R36). -/
def State.issuable (s : State) (b a : Nat) : Option Firing :=
  if !s.bayRuns b then none
  else match (s.ready b).find? fun f => f.actor == a with
    | some f => if f.fresh || ((s.ready b).head?.any fun g => g.actor == a) then some f else none
    | none => none
/-- Move a firing into the issue stage. -/
def State.load_ (s : State) (f : Firing) : State :=
  ({ s with fir := f } : State).modBay f.bay fun y => { y with firings := y.firings.filter fun z => z.actor ≠ f.actor }
/-- Move the firing of the issue stage back to its bay; one that has ended is gone, and its actor is noted. -/
def State.unload (s : State) : State :=
  match s.fir.status with
  | .ended => s.modBay s.fir.bay fun y => { y with ended := some s.fir.actor }
  | _ =>
    let f := { s.fir with fresh := false }
    let s := s.modBay f.bay fun y => { y with firings := y.firings ++ [f] }
    { s with fir := { s.fir with status := .ended } }

/-- What the fetch of an instruction gives. -/
inductive Fetched
  | word (w : IWord)
  | bad
  deriving DecidableEq, Repr

/-- Fetch the word at the PC from the code the instance was armed with, on this bay the code it had cached (R41, R262): a PC
outside the actor's code, or a poisoned word, takes the fetch fault (R108, R389). -/
def State.fetch (s : State) : Fetched :=
  match s.actorAt s.fir.bay s.fir.actor with
  | none => .bad
  | some (x, a) =>
    let pc := s.fir.regs.pc.toNat
    let (lo, n) := codeRange x a
    if pc < lo ∨ pc ≥ lo + n ∨ pc % 4 ≠ 0 then .bad
    else
      let own : CachedCode := ⟨0, x.imgPtr, x.image.codeOff, x.image.code, x.image.codePoison⟩
      let c := ((s.bay s.fir.bay).code).getD own
      let base := x.imgPtr.toNat + c.codeOff
      let k := (pc - base) / 4
      if pc < base || c.codePoison.contains k || x.image.codePoison.contains k then .bad
      else match c.code[k]? with
        | some w => .word w
        | none => .bad

/-! ### The parked firings go on -/

/-- A firing waits at a port (R202, R203); its condition is tested and its tokens move there (R153). -/
def Firing.atPort (f : Firing) : Bool := match f.status with
  | .parked (.tokens _ _) false => true
  | .parked (.room _ _) false => true
  | .parked (.row _) false => true
  | _ => false
/-- The port does the work of the instruction in the issue stage. -/
def State.portWork (s : State) : Option State :=
  match s.fetch with
  | .bad => none
  | .word w => match decode w with
    | .ok i =>
      let r : Option Out := match i with
        | .recv d p k => some (execRecv d p k s)
        | .recvg d p k => some (execRecvg d p k s)
        | .send v p k => some (execSend v p k s)
        | .sendg g p k => some (execSendg g p k s)
        | .peektag d p k => some (execPeektag d p k s)
        | _ => none
      match r with
      | some (.next t) => some t
      | _ => none
    | .error _ => none
/-- An instruction that waits at a port completes there and is marked retired, whether or not a slot is free (R153, R202); the
port's rate violation is taken there. One whose word can no longer be read is issued again. -/
def State.atPortDone (s : State) (f : Firing) : State :=
  let back (t : State) (g : Firing) : State := { ({ t with fir := g } : State).unload with fir := s.fir }
  match (s.load_ { f with status := .ready }).portWork with
  | none => s.modFiring f.bay f.actor fun g => { g with status := .parked .reissue false }
  | some t => match t.fir.status, f.status with
    | .ready, .parked w _ =>
      let r := t.fir.regs
      back t { t.fir with
        status := .parked w true
        regs := { r with pc := f.regs.pc, depth := f.regs.depth, lc0 := f.regs.lc0, lc1 := f.regs.lc1 } }
    | _, _ => back t t.fir
/-- The ports of a bay complete what waits at them. -/
def State.portsDone (s : State) (b : Nat) : State :=
  (s.bay b).firings.foldl (fun s f => if f.atPort && s.parkReady f then s.atPortDone f else s) s

/-- FIRING_RESUME: the ports of the bay do their work; a free slot takes the ready parked firing that parked earliest (R36). -/
def execFiringResume (b : Nat) (s : State) : Out :=
  if !s.bayRuns b then .next s
  else
    let s := s.portsDone b
    if s.slots b ≥ Config.issueSlots then .next s
    else match s.nextReady b with
      | none => .next (s.noteSweeps b)
      | some f => .next (((s.resumeAcquire f).modFiring b f.actor Firing.resume).modBay b fun y =>
          { y with firings := (y.firings.filter fun z => z.actor ≠ f.actor) ++ y.firings.filter fun z => z.actor == f.actor })

end Sys2Proof.Machine
end

