-- ==== Sys2Proof/Machine/Engine.lean ====
section
/-! DEFINITION. The steps every stream command takes (R208, R214-R216, R231): done tokens, the semaphore wait, the
completion, a fault during execution; and the register-window units and spill rings of a bay (R226, R229). -/

namespace Sys2Proof.Machine

/-! ### The head command of a port -/

/-- A command makes no access yet: a store of its firing to the bay's own window, issued before it, is held (R76). -/
def State.storesFirst (s : State) (b : Nat) (c : Cmd) : Bool :=
  c.phase == .run && cOpc c.word != 0x12 && (s.bay b).fwd.any fun e => e.cmds.contains c.id
/-- The command at the head of a port that can act: its bay runs an instance and no command of the port has
faulted (R231). -/
def State.head (s : State) (b p : Nat) : Option Cmd :=
  if !s.bayRuns b || (s.bayInst b).isNone || (s.bay b).stuck.contains p then none
  else (s.queue b p).head?.filter fun c => !s.storesFirst b c
/-- Change the first element of a list. -/
def mapFirst {α : Type} (f : α → α) : List α → List α
  | [] => []
  | a :: l => f a :: l
/-- Change the head command of a port. -/
def State.modHead (s : State) (b p : Nat) (f : Cmd → Cmd) : State :=
  s.modBay b fun x => { x with queues := tmod p [] (mapFirst f) x.queues }
/-- Act on the head command of a port when it stands at a step. -/
def atPhase (b p : Nat) (ph : Phase) (s : State) (k : Cmd → Out) : Out :=
  match s.head b p with
  | some c => if c.phase = ph then k c else .next s
  | none => .next s
/-- Act on the head command of a port when it executes and has an operation code. -/
def executing (b p opc : Nat) (s : State) (k : Cmd → Out) : Out :=
  atPhase b p .run s fun c => if cOpc c.word = opc then k c else .next s

/-! ### Scoreboard entries (R60, R228) -/

/-- Drop the first entry that meets `p`. -/
def dropFirst {α : Type} (p : α → Bool) : List α → List α
  | [] => []
  | a :: l => if p a then l else a :: dropFirst p l
/-- Free a command's entry on a bay; a firing parked for it goes on. -/
def State.sbDrop (s : State) (dst id : Nat) : State :=
  (s.modBay dst fun x => { x with scoreboard := x.scoreboard.filter fun e => e.id ≠ id }).serveQueues dst
/-- Bays on which a command holds an entry, or waits for one (R60). -/
def State.sbBays (s : State) (id : Nat) : List Nat :=
  (s.bays.filter fun (_, x) => x.inbound.contains id || x.scoreboard.any fun e => e.id == id).map Prod.fst
/-- Free a command's entries on every bay. -/
def State.sbDropAll (s : State) (id : Nat) : State :=
  (s.sbBays id).foldl (fun s d =>
    (s.modBay d fun x => { x with inbound := x.inbound.filter fun k => k ≠ id }).sbDrop d id) s

/-! ### Faults during execution (R178, R231) -/

/-- A fault found while a command executes: the command is gone without completing, the commands behind it never
start, and the bay reports. -/
def State.cmdFail (s : State) (b p : Nat) (c : Cmd) (f : Flt) : State :=
  let x := (s.bay b).inst.getD (0, 0)
  let s := s.modBay b fun y => { y with queues := tmod p [] (·.drop 1) y.queues, stuck := p :: y.stuck }
  let s := (s.keeping f).sbDropAll c.id
  (s.bayFault b x.1 x.2 f.code c.pc f.faddr).serveQueues b

/-- A page request of a command issued in an open region: the region's work is discarded, the firing parks and the
request is posted (R178, R230). -/
def State.cmdRegionPage (s : State) (b : Nat) (c : Cmd) (f : Flt) : State :=
  let x := (s.bay b).inst.getD (0, 0)
  let ctx := s.ctxOf (.actor b c.actor) b true x.1 x.2
  let s := (s.keeping f).cancelRegion b c.actor
  let s := s.modBay b fun y => { y with cause := BitVec.ofNat 8 f.code, epc := c.pc, faddr := f.faddr }
  let n := s.parkings
  let s := ({ s with parkings := n + 1 } : State).modFiring b c.actor fun y =>
    ({ y with region := y.region.map fun r => { r with staged := [] } } : Firing).park (.page c.pc f.faddr) false n
  match f.page with
  | some p => s.postPage ctx.tenant p ctx.who
  | none => s

/-- A fault of an access of an executing command; `resolves` for LDS, CPY and GTH, whose page request in a region is
resolved (R316). -/
def State.cmdFlt (s : State) (b p : Nat) (c : Cmd) (f : Flt) (resolves : Bool) : State :=
  if resolves && c.region && f.code == 0x0A then s.cmdRegionPage b c f else s.cmdFail b p c f

/-- What one iteration of a command gives. -/
inductive Iter
  | go (s : State)
  | wait (s : State)
  | done (s : State)
  | flt (s : State) (f : Flt)

/-- One iteration of the head command of a port: it goes on, waits, finishes or faults. -/
def State.iterate (s : State) (b p : Nat) (resolves : Bool) (one : State → Cmd → Iter) : State :=
  match s.head b p with
  | none => s
  | some c => match one s c with
    | .go s => s
    | .wait s => s
    | .done s => s.modHead b p fun c => { c with phase := .finish }
    | .flt s f => s.cmdFlt b p c f resolves
/-- The event of a command that executes with an operation code: one iteration of it. The next one is an event of its own,
so accesses of other parties may fall between two iterations. -/
def runCmd (b p opc : Nat) (resolves : Bool) (one : State → Cmd → Iter) (s : State) : Out :=
  executing b p opc s fun _ => .next (s.iterate b p resolves one)

/-! ### Steps 1, 2 and 4 of R208 -/

/-- The edges of the bay's instance that meet a condition, with their record numbers. -/
def edgesOf (x : Inst) (p : EdgeRec → Bool) : List (Nat × EdgeRec) :=
  (x.image.edges.zipIdx.map fun (e, n) => (n, e)).filter fun (_, e) => p e
/-- Module bay of plot coordinates of an instance. -/
def State.plotBay (s : State) (x : Inst) (px py : Nat) : Nat :=
  match s.field? x.field with
  | some f => let r := plotRect (pktFw f.packet) (pktFh f.packet) x.plot.toNat; s.fieldBay f (r.1 + px) (r.2.1 + py)
  | none => 0
/-- Edges that end at an element. -/
def State.inEdges (s : State) (x : Inst) (b p : Nat) : List (Nat × EdgeRec) :=
  edgesOf x fun e => e.del == p && s.plotBay x e.dbx e.dby == b
/-- Edges that leave an element. -/
def State.outEdges (s : State) (x : Inst) (b p : Nat) : List (Nat × EdgeRec) :=
  edgesOf x fun e => e.sel == p && s.plotBay x e.sbx e.sby == b
/-- Counter of an edge at its destination bay. -/
def State.edgeCount (s : State) (d n : Nat) : Nat := (tgetD n 0 (s.bay d).edges).toNat
def State.setEdge (s : State) (d n v : Nat) : State :=
  s.modBay d fun y => { y with edges := tput n (BitVec.ofNat 16 v) y.edges }
/-- Send a done token on an edge; a full counter holds it back at its source (R216). -/
def State.sendDone (s : State) (x : Inst) (b p : Nat) (n : Nat) (e : EdgeRec) : State :=
  let d := s.plotBay x e.dbx e.dby
  if s.edgeCount d n ≥ 0xFFFF then s.modBay b fun y => { y with held := y.held ++ [(p, n)] }
  else s.setEdge d n (s.edgeCount d n + 1)
/-- Take one done token from an edge's counter; a token held back by it enters. -/
def State.takeDone (s : State) (x : Inst) (b p : Nat) (n : Nat) (e : EdgeRec) : State :=
  let s := s.setEdge b n (s.edgeCount b n - 1)
  -- an acquire of the completion that sent it: the module sets of its pairs pass on (R216, R296)
  let s := s.passSent (s.bayTenant b) (.edge b n) [.party (.cmd b p)] (decide (s.edgeCount b n ≠ 0))
  let src := s.plotBay x e.sbx e.sby
  if (s.bay src).held.any fun h => h.2 == n then
    (s.modBay src fun y => { y with held := dropFirst (fun h => h.2 == n) y.held }).setEdge b n (s.edgeCount b n + 1)
  else s

/-- Step 1: a token of every incoming edge. -/
def execDoneTokenTake (b : Nat) (p : Port) (s : State) : Out :=
  atPhase b p.toNat .tokens s fun _ => match s.bayInst b with
    | none => .next s
    | some x =>
      let es := s.inEdges x b p.toNat
      if (s.bay b).held.any (fun h => h.1 == p.toNat) || es.any fun (n, _) => s.edgeCount b n == 0 then .next s
      else
        let s := es.foldl (fun (s : State) (q : Nat × EdgeRec) => s.takeDone x b p.toNat q.1 q.2) s
        .next (s.modHead b p.toNat fun c => { c with phase := .sema })

/-- Step 2: the wait on semaphore WSEM; the command joins the waiters once (R170, R214). -/
def execCommandSemaphoreWait (b : Nat) (p : Port) (s : State) : Out :=
  atPhase b p.toNat .sema s fun c =>
    let h := cWthr c.word
    if h = 0 then .next (s.modHead b p.toNat fun c => { c with phase := .run, started := s.draw })
    else if c.waiting then .next s
    else
      let n := cWsem c.word
      let s := s.modHead b p.toNat fun c => { c with waiting := true }
      let s := s.modBay b fun x => { x with semWaiters := x.semWaiters ++ [⟨n, h, .cmd b p.toNat, 0⟩] }
      .next (s.setSem b n (s.sem b n))

/-- Every access of a finished command has been performed, and each of its tokens has entered the FIFO or ring (R215):
its register-window units have landed, its pairs are serialised, and no token of it waits in the router for the rest of
a row. -/
def State.cmdSettled (s : State) (b p : Nat) (c : Cmd) : Bool :=
  s.rwq.all (fun u => u.who != .cmd b p) && !s.pairsHeld (.cmd b p) &&
    (c.fed == 0 || match s.bayInst b with
      | none => true
      | some x => let ch := x.chan (c.fed - 1); decide (c.last ≤ ch.sent - ch.part.length))

/-- Those that may acquire a command's completion: its semaphore, its edges, KWAIT at its port (R74, R76). -/
def State.acquirers (s : State) (b p : Nat) (c : Cmd) : List Carrier :=
  (if cSinc c.word ≠ 0 then [.sem b (cSsem c.word)] else []) ++ .port b p c.actor ::
    match s.bayInst b with
    | some x => (s.outEdges x b p).map fun q => .edge (s.plotBay x q.2.dbx q.2.dby) q.1
    | none => []
/-- Step 4: the release at SCOPE, the signal, the done tokens; the queue entry is free again (R215). The module sets of its
pairs go to those that may acquire it (R296). -/
def State.completeCmd (s : State) (b p : Nat) (c : Cmd) : State :=
  let s := s.release (s.cmdCtx b p) (cScope c.word) none
  let s := s.passSent (s.bayTenant b) (.party (.cmd b p)) (s.acquirers b p c) false
  let s := if cSinc c.word ≠ 0 then s.semAdd b (cSsem c.word) (cSinc c.word) else s
  let s := match s.bayInst b with
    | some x => (s.outEdges x b p).foldl (fun (s : State) (q : Nat × EdgeRec) => s.sendDone x b p q.1 q.2) s
    | none => s
  (s.modBay b fun y => { y with queues := tmod p [] (·.drop 1) y.queues }).serveQueues b

def execCommandComplete (b : Nat) (p : Port) (s : State) : Out :=
  atPhase b p.toNat .finish s fun c => if s.cmdSettled b p.toNat c then .next (s.completeCmd b p.toNat c) else .next s

/-! ### Register-window units (R38, R229) -/

/-- The oldest unit on its way to a bay lands between two instructions; at a frozen bay it waits. -/
def execRegisterWindowLand (b : Nat) (s : State) : Out :=
  match findAt (fun u => u.bay == b && s.unitLands u) s.rwq with
  | none => .next s
  | some (k, u) => .next (({ s with rwq := dropAt s.rwq k } : State).landUnit u)

/-! ### Spill rings (R226) -/

/-- The token at the head of a channel's ring moves into its FIFO when that has room. -/
def execSpillRingRefill (f i c : Nat) (s : State) : Out :=
  match s.inst? f i with
  | none => .next s
  | some x => match x.image.chans[c]? with
    | none => .next s
    | some r =>
      if !s.bayRuns (s.consBay x r) then .next s else .next (s.refill x c r)

end Sys2Proof.Machine
end

