-- ==== Sys2Proof/Machine/Collective.lean ====
section
/-! DEFINITION. The collective engine (R354-R358): COLL reaches step 3, a match is found, the collective executes and
every participant completes at one moment, or it aborts for all. -/

namespace Sys2Proof.Machine

/-- The collective port. -/
def collPort : Nat := 0x2C
/-- Element size. -/
def collEsz (c : Cmd) : Nat := if cb c.word 15 12 = 2 then 2 else 4
/-- L, the bytes of one contribution. -/
def collL (c : Cmd) : Nat := cb c.ext 23 0 * collEsz c
/-- The parameters a match compares: OP, RED, ROOT, COUNT. -/
def collParams (c : Cmd) : Nat × Nat × Nat × Nat := (cb c.word 19 16, cb c.word 15 12, cb c.ext 39 24, cb c.ext 23 0)

/-- Local participants in rank order (R354). -/
def State.collLocal (s : State) (f : Field) (grp plot : Nat) : List Nat :=
  if grp = 1 then (s.fieldBays f).map fun x => x.2.2
  else
    let r := plotRect (pktFw f.packet) (pktFh f.packet) plot
    (List.range (r.2.2.1 * r.2.2.2)).map fun j => s.fieldBay f (r.1 + j % r.2.2.1) (r.2.1 + j / r.2.2.1)
/-- Modules of the gang a collective spans. -/
def collModules (f : Field) (grp : Nat) : Nat := if grp = 2 then pkt f.packet 360 352 else 1
/-- Position of this module among the modules a collective spans. -/
def collPos (f : Field) (grp : Nat) : Nat := Config.gangPosition f.id % Nat.max 1 (collModules f grp)
/-- Rank of the first local participant: m * B for module position m of the gang. -/
def collBase (f : Field) (grp locals : Nat) : Nat := if grp = 2 then collPos f grp * locals else 0
/-- The other modules a collective spans. -/
def collFar (f : Field) (grp : Nat) : List Nat :=
  ((List.range (collModules f grp)).filter fun q => q ≠ collPos f grp).map fun q => Config.gangMember f.id q % 320

/-- The executing COLL of a bay, and its collective. -/
def State.collOf (s : State) (x : Coll) (b : Nat) : Option Cmd :=
  match s.head b collPort with
  | some c => if c.phase = .run ∧ cOpc c.word = 0x0F ∧ cb c.word 11 10 = x.grp ∧ cb c.ext 63 40 = x.plot ∧ c.seq = x.seq
    then some c else none
  | none => none

/-- COLL: the participant has reached step 3 and waits for its partners. -/
def execColl (b : Nat) (s : State) : Out :=
  executing b collPort 0x0F s fun c => match (s.bay b).inst with
    | none => .next s
    | some (f, _) =>
      let same (x : Coll) : Bool :=
        x.field == f && x.grp == cb c.word 11 10 && x.plot == cb c.ext 63 40 && x.seq == c.seq
      if s.colls.any same then
        .next { s with colls := s.colls.map fun x =>
          if (same x && !x.bays.contains b) then { x with bays := x.bays ++ [b] } else x }
      else .next { s with colls := s.colls ++ [⟨f, cb c.word 11 10, cb c.ext 63 40, c.seq, [b], false⟩] }

/-- The mark of the ranges that a running collective writes (R356). -/
def collTag (x : Coll) : Nat := x.seq * 2 ^ 26 + x.grp * 2 ^ 24 + x.plot
/-- Its result bytes read as undefined until it completes. -/
def State.unveil (s : State) (x : Coll) : State :=
  { s with veils := s.veils.filter fun v => !(v.field == x.field && v.inst == 0 && v.chan == collTag x) }

/-- Bytes a participant reads and writes: (SRC, DST) lengths for P participants. -/
def collSizes (op l p : Nat) (root : Bool) : Nat × Nat :=
  match op with
  | 0 => (l, l)
  | 1 => (l, p * l)
  | 2 => (p * l, l)
  | _ => (if root then l else 0, l)

/-- Address formation of a participant's buffers; a DST in a register window is a window fault (R56). -/
def State.collSegs (s : State) (b : Nat) (c : Cmd) (n : Nat × Nat) : Except Flt (State × List Seg × List Seg) :=
  let ctx := s.cmdCtx b collPort
  match if n.1 = 0 then Except.ok (s, []) else s.loadAddr ctx (cPtr c.word) n.1 with
  | .error f => .error f
  | .ok (s, src) => match if n.2 = 0 then Except.ok (s, []) else s.storeAddr ctx (ePtr c.ext) n.2 with
    | .error f => .error f
    | .ok (s, dst) => .ok (s, src, dst)

/-- The DST bytes of a participant that can be formed become undefined; a register window is not written (R56, R357). -/
def State.collLose (s : State) (b : Nat) (c : Cmd) (p : Nat) : State :=
  let ctx := s.cmdCtx b collPort
  let r := s.formed ctx true (ePtr c.ext) 34 0 (collSizes (cb c.word 19 16) (collL c) p false).2
  let dst := r.2.filter fun x => !segsTouchReg [x]
  r.1.writeSegs ctx dst ((segBytes dst).map fun a => (s.anyByte a, false))

/-- Abort a collective: the participant at `bad` reports its own fault, every other the command fault; their DST bytes
are undefined (R357). -/
def State.collAbort (s : State) (x : Coll) (bad : Nat → Option Flt) (p : Nat) : State :=
  let base := s.unveil { x with matched := true }
  let s := { base with colls := base.colls.filter fun y => !(y.field == x.field && y.grp == x.grp && y.plot == x.plot && y.seq == x.seq) }
  x.bays.foldl (fun s b => match s.collOf x b with
    | none => s
    | some c => (s.collLose b c p).cmdFail b collPort c ((bad b).getD (.mk0 0x16 (cmdFaddr 0x0F collPort)))) s

/-- The other modules of a collective, seen from its participants here (R361): nothing where each can be reached; else a wait
for a route, or the address fault once the wait has run out. -/
def State.collReach (s : State) (x : Coll) (locals far : List Nat) : Option (State × Option Flt) :=
  let me := Who.cmd (locals.headD 0) collPort
  match far.find? fun m => locals.any fun b => s.unreachable m (bayDie b) with
  | none => none
  | some m => match s.routeWaits.find? fun r => r.who == me && r.module == m with
    | none => some ({ s with routeWaits := s.routeWaits ++ [⟨me, m, false⟩] }, none)
    | some r =>
      if r.expired then
        some (({ s with routeWaits := s.routeWaits.filter fun r => r.who ≠ me } : State).noteDrops x.field
          (s.whoInst me).2 1 (m * 2 ^ 47), some (.mk0 0x0C 0))
      else some (s, none)

/-- COLLECTIVE_MATCH: every participant has reached step 3; parameters are compared, and the collective begins. Whether a
participant of another module has other parameters is that module's. A gang with a module that cannot be reached waits
for a route, then aborts (R361). -/
def execCollectiveMatch (n : Nat) (s : State) : Out :=
  match s.colls[n]? with
  | none => .next s
  | some x => match s.field? x.field with
    | none => .next s
    | some f =>
      let locals := s.collLocal f x.grp x.plot
      let cmds := locals.map (s.collOf x)
      if x.matched || !(locals.all x.bays.contains) || cmds.any Option.isNone then .next s
      else
        let p := locals.length * Nat.max 1 (collModules f x.grp)
        let params := (cmds.filterMap id).map collParams
        let far := collFar f x.grp
        if params.any (fun q => some q ≠ params.head?) || far.any (fun m => s.pick 7 m % 2 == 1) then .next (s.collAbort x (fun _ => none) p)
        else match s.collReach x locals far with
        | some (s, none) => .next s
        | some (s, some g) => .next (s.collAbort x (fun _ => some g) p)
        | none =>
          let veils := locals.flatMap fun b => match s.collOf x b with
            | none => []
            | some c => match s.collSegs b c (collSizes (cb c.word 19 16) (collL c) p false) with
              | .error _ => []
              | .ok (_, _, dst) => dst.map fun y => (⟨y.addr, y.addr + y.len, x.field, 0, collTag x⟩ : Veil)
          .next { s with colls := setAt s.colls n { x with matched := true }, veils := s.veils ++ veils }

/-- Combine element `k` over the ranks; a floating-point sum takes them in any order (R103, R356). -/
def collElem (s : State) (red k : Nat) (l : List Nat) : Nat :=
  let ch (j : Nat) : Nat := s.pick 6 (k * 2 ^ 16 + j)
  match red with
  | 0 => (l.foldl (· + ·) 0) % 2 ^ 32
  | 1 => (fsum 0 false ch (l.map F32.decode)).1
  | 2 => (BF16.ofVal 0 (F32.decode (fsum 0 false ch (l.map BF16.decode)).1)).1
  | 3 => l.tail.foldl (fun a x => if sint 32 x < sint 32 a then x else a) (l.headD 0)
  | 4 => l.tail.foldl (fun a x => if sint 32 a < sint 32 x then x else a) (l.headD 0)
  | 5 => l.tail.foldl (fun a x => (F32.minmax false a x).1) ((F32.ofVal 0 (F32.decode (l.headD 0))).1)
  | _ => l.tail.foldl (fun a x => (F32.minmax true a x).1) ((F32.ofVal 0 (F32.decode (l.headD 0))).1)

/-- Reduce the contributions of every rank at byte offset `off`, `l` bytes. -/
def collReduce (s : State) (red esz off l : Nat) (src : List (List (Byte × Bool))) : List (Byte × Bool) :=
  (List.range (l / esz)).flatMap fun i =>
    let parts := src.map fun q => (q.drop (off + esz * i)).take esz
    putBytes esz (collElem s red (off + i) (parts.map gotNat)) (parts.any gotPoison)

/-- Elements as they are copied: one with a poisoned byte is poisoned whole (R356). -/
def wholeElems (esz : Nat) (l : List (Byte × Bool)) : List (Byte × Bool) :=
  (List.range (l.length / esz)).flatMap fun i =>
    let e := (l.drop (esz * i)).take esz
    e.map fun z => (z.1, gotPoison e)
/-- The result of the participant of rank `q` among P. -/
def collResult (s : State) (op red esz l p root q : Nat) (src : List (List (Byte × Bool))) : List (Byte × Bool) :=
  match op with
  | 0 => collReduce s red esz 0 l src
  | 1 => (List.range p).flatMap fun k => wholeElems esz ((src.getD k []).take l)
  | 2 => collReduce s red esz (q * l) l src
  | _ => wholeElems esz ((src.getD root []).take l)

/-- Addresses at which a participant's result is undefined: SRC and DST overlap other than exactly, in ALLRED and
BCAST (R356). -/
def collOverlap (op : Nat) (src dst : List Seg) (a : Nat) : Bool :=
  !((op == 0 || op == 3) && src == dst) && src.any fun x => decide (x.addr ≤ a) && decide (a < x.addr + x.len)

/-- Participant `k` of those whose DST ranges are listed writes byte `a`: where several cover an aligned granule, which one
does is unspecified and may differ from granule to granule (R356). -/
def State.collWins (s : State) (dsts : List (List Seg)) (k a : Nat) : Bool :=
  let covers (l : List Seg) : Bool := l.any fun x => decide (x.addr ≤ a) && decide (a < x.addr + x.len)
  let rank (j : Nat) : Nat := (j + s.pick 8 (a / 32)) % Nat.max 1 dsts.length
  dsts.zipIdx.all fun (l, j) => j == k || !covers l || decide (rank j < rank k)

/-- The test of the participants' accesses for routes (R361): the waits it opens or ends, and whether all may go on. -/
def State.collRoutes (s : State) (l : List (Nat × List Seg)) : State × Bool :=
  let r := l.foldl (fun (r : State × Bool) (b, q) => match r.1.routeFor (r.1.cmdCtx b collPort) q with
    | (s, some false) => (s, false)
    | (s, _) => (s, r.2)) (s, true)
  if r.2 then r
  else ({ s with routeWaits := s.routeWaits ++ r.1.routeWaits.filter fun w => !s.routeWaits.contains w }, false)
/-- A participant's contribution: data of an unreachable module comes marked poisoned (R361). -/
def State.collRead (s : State) (b : Nat) (l : List Seg) : State × List (Byte × Bool) :=
  let ctx := s.cmdCtx b collPort
  if l.any fun x => s.noRoute ctx.who x.addr then (s, (segBytes l).map fun a => (s.anyByte a, true)) else s.readSegs ctx l
/-- Write bytes of a participant's result; a write to an unreachable module is dropped (R361). -/
def State.collWrite (s : State) (b : Nat) (l : List Seg) (bs : List (Byte × Bool)) : State :=
  let ctx := s.cmdCtx b collPort
  if l.any fun x => s.noRoute ctx.who x.addr then s else s.writeSegs ctx l bs

/-- COLLECTIVE_COMPLETE: the buffers are read and written, and every participant completes at one moment. It waits while
a participant's bay is stopped (R357) or a module cannot be reached, until that wait runs out (R361). -/
def execCollectiveComplete (n : Nat) (s : State) : Out :=
  match s.colls[n]? with
  | none => .next s
  | some x => match s.field? x.field with
    | none => .next s
    | some f =>
      let locals := s.collLocal f x.grp x.plot
      match (locals.map fun b => (s.collOf x b).map fun c => (b, c)).foldr (fun o l => match o, l with
          | some y, some t => some (y :: t)
          | _, _ => none) (some []) with
      | none => .next s
      | some parts =>
        if !x.matched || parts.isEmpty then .next s
        else match s.collReach x locals (collFar f x.grp) with
        | some (s, none) => .next s
        | some (s, some g) => .next (s.collAbort x (fun _ => some g) (locals.length * Nat.max 1 (collModules f x.grp)))
        | none =>
          let p := locals.length * Nat.max 1 (collModules f x.grp)
          let base := collBase f x.grp locals.length
          let c0 := (parts.map Prod.snd).head?
          let op := c0.elim 0 fun c => cb c.word 19 16
          let red := c0.elim 0 fun c => cb c.word 15 12
          let root := c0.elim 0 fun c => cb c.ext 39 24
          let l := c0.elim 0 collL
          let esz := c0.elim 4 collEsz
          let size (k : Nat) : Nat × Nat := collSizes op l p (op == 3 && base + k == root)
          let formed := parts.zipIdx.map fun ((b, c), k) => (b, c, s.collSegs b c (size k))
          let bad (b : Nat) : Option Flt := formed.findSome? fun (d, _, r) => match r with
            | .error g => if d = b then some g else none
            | .ok _ => none
          -- a participant of another module may find a fault too
          if (formed.any fun (_, _, r) => match r with
              | .error _ => true
              | .ok _ => false) || (collFar f x.grp).any (fun m => s.pick 9 m % 2 == 1) then .next (s.collAbort x bad p)
          else
            let segs := formed.map fun (_, _, r) => match r with
              | .ok (_, y) => y
              | .error _ => ([], [])
            let (s, go) := s.collRoutes ((parts.zip segs).map fun ((b, _), (sr, ds)) => (b, sr ++ ds))
            if !go then .next s else
            -- reads, after the pending pairs of their lines
            let r := (parts.zip segs).foldl (fun (acc : State × List (List (Byte × Bool))) ((b, _), (src, _)) =>
              let g := acc.1.collRead b src
              (g.1, acc.2 ++ [g.2])) (s.unveil x, [])
            let far (k : Nat) : List (Byte × Bool) := (List.range (collSizes op l p (op == 3 && k == root)).1).map fun i =>
              (s.anyByte (k * 2 ^ 32 + i), s.pick 10 (k * 2 ^ 32 + i) % 2 == 1)
            let dsts := segs.map Prod.snd
            let src := (List.range p).map fun k =>
              if base ≤ k ∧ k < base + locals.length then r.2.getD (k - base) [] else far k
            let out := (parts.zip segs).zipIdx.foldl (fun (s : State) (((b, _), (sr, ds)), k) =>
              let res := collResult s op red esz l p root (base + k) src
              let res := ((segBytes ds).zip res).map fun (a, z) => if collOverlap op sr ds a then (s.anyByte a, false) else z
              let keep := ((segBytes ds).zip res).filter fun (a, _) => s.collWins dsts k a
              s.collWrite b (if keep.length = res.length then ds else keep.map fun z => ⟨z.1, 1⟩) (keep.map Prod.snd)) r.1
            let out := { out with colls := dropAt out.colls n }
            .next (parts.foldl (fun s (b, c) => s.completeCmd b collPort c) out)

end Sys2Proof.Machine
end

