-- ==== Sys2Proof/Machine/Fabric.lean ====
section
/-! DEFINITION. Fabric and Selrin Link events (R79, R261, R326, R359-R363): messages and tokens arrive, coincident
edges, link errors, routes, device time. -/

namespace Sys2Proof.Machine

/-! ### Messages and tokens -/

/-- A route-class message enters its handler bay's queue; messages of one network from one bay to
another keep their order (R349, R350). -/
def execMessageDeliver (n : Nat) (s : State) : Out :=
  match s.msgs[n]? with
  | none => .next s
  | some m =>
    let rest := { s with msgs := dropAt s.msgs n }
    if (s.bay m.bay).inst ≠ some (m.field, m.inst) then
      -- the instance has ended, or its bay is stopped
      if (s.inst? m.field m.inst).isNone then .next rest else .next s
    else if (s.bay m.bay).halted || decide ((s.bay m.bay).msgs.length ≥ Config.messageQueue)
        || (s.msgs.take n).any fun q => q.from_.bay == m.from_.bay && q.bay == m.bay && s.tenantOf q.field == s.tenantOf m.field then .next s
    else .next (State.modBay rest m.bay fun y => { y with msgs := y.msgs ++ [m.msg] })

/-- Tokens of two channels take one path: one producer bay, one consumer bay, one virtual channel (R348, R349). -/
def State.sameWay (s : State) (x : Inst) (r q : ChanRec) : Bool :=
  s.prodBay x r == s.prodBay x q && s.consBay x r == s.consBay x q && r.vch == q.vch

/-- The oldest token of a channel on its way may arrive: the tokens sent before it on its path have arrived, and both bays
run; on a crossing channel the consumer's side has learnt of it on a coincident edge (R326, R336). -/
def State.tokenReady (s : State) (x : Inst) (c : Nat) (r : ChanRec) : Bool :=
  s.bayRuns (s.consBay x r) && s.bayRuns (s.prodBay x r)
    && (!s.crossing x r || decide ((x.chan c).passed > 0))
    && (x.sends.takeWhile (· != c)).all fun d => !(x.image.chans[d]?).any (s.sameWay x r)

/-- The oldest token on its way lands in the consumer's FIFO or ring; with the last one an end of stream closes the
channel. -/
def execChannelTokenArrive (f i c : Nat) (s : State) : Out :=
  match s.inst? f i with
  | none => .next s
  | some x => match x.image.chans[c]?, (x.chan c).flight with
    | some r, t :: l =>
      if !s.tokenReady x c r then .next s
      else
        let s := s.modInst f i fun y => { y with sends := y.sends.erase c }
        let s := (s.modChan f i c fun ch => { ch with flight := l, passed := ch.passed - 1 }).landTok f i c t
        .next (s.modChan f i c fun ch => { ch with closed := ch.closed || (ch.eosSent && l.isEmpty) })
    | _, _ => .next s

/-- On an edge where both clocks fire, each side learns the other's pointer: the producer what the consumer has taken, the
consumer of the tokens in the crossing FIFO's 8 entries. -/
def execCoincidentEdge (f i c : Nat) (s : State) : Out :=
  match s.inst? f i with
  | none => .next s
  | some x => match x.image.chans[c]? with
    | none => .next s
    | some r =>
      if s.bayRuns (s.prodBay x r) && s.bayRuns (s.consBay x r) then
        .next (s.modChan f i c fun ch => { ch with seen := ch.consumed, passed := Nat.min 8 ch.flight.length })
      else .next s

/-! ### Links (R360, R362) -/

/-- Add to a 16-bit counter, saturating. -/
def sat16 (x : BitVec 16) (n : Nat) : BitVec 16 := BitVec.ofNat 16 (Nat.min (x.toNat + n) 0xFFFF)

/-- Flits received with a bad CRC are counted. -/
def execLinkCrcError (port n : Nat) (s : State) : Out :=
  let x := s.link port
  .next (s.setLink port { x with crcerr := sat16 x.crcerr n })
/-- Flits not acknowledged in time are replayed, with every flit sent after them. -/
def execLinkAckTimeout (port n : Nat) (s : State) : Out :=
  let x := s.link port
  .next (s.setLink port { x with replay := sat16 x.replay n })

/-- A port goes down: its routes go to the port the table gives next, or are gone. An entry of one die and slice stands as
no route. -/
def State.portDown (s : State) (port next : Nat) : State :=
  let x := s.link port
  let downs := if x.up then BitVec.ofNat 8 (Nat.min (x.downs.toNat + 1) 0xFF) else x.downs
  let s := s.setLink port { x with up := false, lanes := 0, downs := downs }
  { s with routes := s.routes.filterMap fun (m, p) =>
      if p ≠ port then some (m, p) else if next ≠ port && (s.link next).up then some (m, next)
      else if m < 512 then none else some (m, 18) }
/-- The port that the route table gives after a port that goes down: one that is up, if any is. -/
def State.nextPort (s : State) (port : Nat) : Nat :=
  let ups := (List.range 18).filter fun p => p ≠ port && (s.link p).up
  ups.getD (s.pick 5 port % Nat.max 1 ups.length) port

/-- A port whose lane fails retraining narrows to 4 or 2 lanes; with fewer it goes down, and its traffic goes on over the
next port. -/
def execLinkRetrain (port : Nat) (s : State) : Out :=
  let x := s.link port
  let n := x.lanes.toNat
  .next (if n > 4 then s.setLink port { x with lanes := 4 }
    else if n > 2 then s.setLink port { x with lanes := 2 }
    else s.portDown port (s.nextPort port))
def execLinkDown (port next : Nat) (s : State) : Out := .next (s.portDown port next)

/-- A wait for a route runs out (R361): an access waiting for one completes when it is tried again; past the waiting
accesses, a pair on its way to an unreachable module is dropped and counted. -/
def execLinkRouteTimeout (n : Nat) (s : State) : Out :=
  if n < s.routeWaits.length then
    .next { s with routeWaits := s.routeWaits.zipIdx.map fun (r, k) => if k = n then { r with expired := true } else r }
  else
    let k := n - s.routeWaits.length
    match s.pairs[k]? with
    | none => .next s
    | some p =>
      if !s.noRoute p.who p.pa then .next s
      else
        .next (({ s with pairs := dropAt s.pairs k } : State).noteDrops p.field (s.whoInst p.who).2 1 p.pa)

/-- Module of an entry of the route table. -/
def routeModule (n : Nat) : Nat := if n < 512 then n else (n - 512) / 32768
/-- A route to a member module exists (again): Clotus has written an entry of the route table, for the module or for one
pair of source die and home slice, and traffic resumes (R359, R361). A port that comes up knows its other end (R362). -/
def execRouteReturn (n port : Nat) (s : State) : Out :=
  let m := routeModule n
  if m ≥ 320 ∨ m = s.own ∨ port ≥ 18 then .next s
  else
    let x := s.link port
    let (pm, pp) := Config.linkPeer port
    let s := if x.up then s else s.setLink port { x with
      up := true, lanes := 8, peer := BitVec.ofNat 9 (pm % 320), peerPort := BitVec.ofNat 5 (pp % 18) }
    .next { s with routes := tput n port s.routes
                   members := if s.members.contains m then s.members else s.members ++ [m]
                   routeWaits := s.routeWaits.filter fun r => r.module ≠ m }

/-- Device time is compared with the domain's source (R363): DTSYNC says whether it lies in bound; a correction never
steps back and adds at most one tick here. -/
def execDeviceTimeAlign (inBound : Bool) (ahead : Nat) (s : State) : Out :=
  .next { s with domcfg := wset s.domcfg 32 32 (if inBound then 1 else 0)
                 dtime := if ahead = 0 then s.dtime else s.dtime + 1 }

end Sys2Proof.Machine
end

