-- ==== Sys2Proof/Machine/Update.lean ====
section
/-! DEFINITION. Major 0x1D: update emission (R184-R186), with the pair a party forms (R288). -/

namespace Sys2Proof.Machine

/-- Form the pair of a pointer: address, operator and alignment checks of R184 in order, an address in a register
window taking the window fault (R56); `val` gives the value for the region's operator. -/
def State.pairOf (s : State) (c : Ctx) (p : Word) (val : Nat → Nat) (poison : Bool) : Except Flt (State × Pair) :=
  match s.entry c (ptrH p) with
  | none => .error ((s.touch c (ptrH p)).flt c 0x06 p)
  | some (s, e) => match s.addressOf c p (opSize e.op) true with
    | .error f => .error f
    | .ok (s, l) =>
      let a := (l.map Seg.addr).headD 0
      if segsTouchReg l then .error (s.flt c 0x0B p)
      else if e.op = 0 then .error (s.flt c 0x07 p)
      else if a % opSize e.op ≠ 0 then .error (s.flt c 0x0D p)
      else
        let tag := match s.inst? c.field c.inst with
          | some x => if x.versioned then c.inst else 0
          | none => 0
        .ok (s, ⟨c.tenant, ptrH p, e.op, e.sync, e.base + ptrOff p, a,
          BitVec.ofNat 64 (val e.op % 2 ^ (8 * opSize e.op)), poison, tag, c.field, c.inst, c.who⟩)

/-- The value a scalar register gives a pair: COUNT carries 1. -/
def updVal (x : Nat) (op : Nat) : Nat := if op = 13 then 1 else x
/-- The value a lane gives a pair (R185). -/
def updvVal (x : Nat) (op : Nat) : Nat :=
  if op = 13 then 1 else if op = 2 then ofInt 64 (sint 32 x) else x

def execUpd (a b : R5) (s : State) : Out :=
  let p := s.regs.rg a
  match s.pairOf s.firCtx p (updVal (s.regs.rg b).toNat) (s.regs.rgp b) with
  | .error f => memFault false f s
  | .ok (s', x) => match s.fir.region with
    | some r =>
      if r.staged.length ≥ Config.stageSize then takeFault 0x12 p s'
      else retire { s' with fir := { s'.fir with region := some { r with staged := r.staged ++ [x] } } }
    | none => retire ((s'.sendPair x).notePoisonSent s.fir.field s.fir.inst x.poison)

/-- The pairs of the lanes of UPDV, lowest lane first, with the pointer of each. -/
def State.updvPairs (s : State) (c : Ctx) (base : Word) (va vb : VReg) (vp : Word) :
    List Nat → Except Flt (State × List (Word × Pair))
  | [] => .ok (s, [])
  | i :: l =>
    let off := lane va i
    if off = 0xFFFFFFFF then State.updvPairs s c base va vb vp l
    else match offsetAdd base (off : Int) with
      | none => .error (s.flt c 0x08 base)
      | some q => match s.pairOf c q (updvVal (lane vb i)) (vp.getLsbD i) with
        | .error f => .error f
        | .ok (s, x) => match State.updvPairs s c base va vb vp l with
          | .error f => .error f
          | .ok (s, xs) => .ok (s, (q, x) :: xs)

def execUpdv (d a b : R5) (s : State) : Out :=
  let r := s.regs
  match s.updvPairs s.firCtx (r.rg d) (r.rv a) (r.rv b) (r.rvp b) (List.range 64) with
  | .error f => memFault false f s
  | .ok (s', xs) => match s.fir.region with
    | some g =>
      if g.staged.length + xs.length > Config.stageSize then
        takeFault 0x12 ((xs.map Prod.fst).getD (Config.stageSize - g.staged.length) 0) s'
      else retire { s' with fir := { s'.fir with region := some { g with staged := g.staged ++ xs.map Prod.snd } } }
    | none => retire (((xs.map Prod.snd).foldl State.sendPair s').notePoisonSent s.fir.field s.fir.inst
        (xs.any fun x => x.2.poison))

/-- UPDFL parks until the actor's pairs have been serialised (R186). -/
def execUpdfl (s : State) : Out :=
  outsideRegion .updfl s fun s =>
    if s.pairs.any fun p => p.who == s.firCtx.who then parkAt .pairs s else retire s

end Sys2Proof.Machine
end

