-- ==== Sys2Proof/Machine/Stream.lean ====
section
/-! DEFINITION. Commands of the load and store elements and of the copy engine, and UPDS (R217-R228, R290, R352,
R353): LDS, STS, LDL, SPLRD, CPY, CPYM with its multicast stream, FILL, SCT, NOPC, UPDS. -/

namespace Sys2Proof.Machine

/-! ### Tokens of a feed or a drain -/

/-- Poison of a token by lanes of four bytes. -/
def bytesPoison (l : List (Byte × Bool)) : BitVec 128 :=
  BitVec.ofNat 128 ((List.range ((l.length + 3) / 4)).foldl (fun a i =>
    if gotPoison ((l.drop (4 * i)).take 4) then a + 2 ^ i else a) 0)
/-- The token that loaded bytes form; in an open region it is pending (R230). -/
def tokFrom (b : Nat) (c : Cmd) (l : List (Byte × Bool)) : Tok :=
  ⟨BitVec.ofNat 3904 (gotNat l), bytesPoison l, if c.region then some (b, c.actor) else none⟩
/-- The bytes of a token with their marks. -/
def tokOut (n : Nat) (t : Tok) : List (Byte × Bool) :=
  (natLe n t.data.toNat).zipIdx.map fun (x, i) => (x, t.poison.getLsbD (i / 4))
/-- Room for one more token of a command; a pending token must fit the FIFO itself (R230). -/
def feedRoom (x : Inst) (r : ChanRec) (ch : Chan) (region : Bool) : Bool :=
  decide (roomOf x r ch ≥ 1) &&
    (!region || decide (ch.ringCount = 0) && decide (ch.part.length + 1 ≤ (r.depth - ch.fifo.length) * r.k))
/-- Push one token of the head command of a port into its channel; the command remembers its latest token (R215). -/
def State.feedTok (s : State) (b p : Nat) (x : Inst) (k : Nat) (t : Tok) : State :=
  let s := (s.pushTok x.field x.id k t).notePoisonSent x.field x.id (t.poison != 0)
  let n := (s.inst? x.field x.id).elim 0 fun y => (y.chan k).sent
  s.modHead b p fun c => { c with fed := k + 1, last := n }
/-- End of a command that feeds a channel: EOS closes it after the last token (R218). -/
def endFeed (c : Cmd) (x : Inst) (k : Nat) (s : State) : Iter :=
  .done (if cEos c.word then s.closeChan x.field x.id k else s)
/-- A command moves on by one. -/
def State.advance (s : State) (b p : Nat) : State := s.modHead b p fun c => { c with pos := c.pos + 1 }

/-! ### Granules that land whole (R65) -/

/-- The runs of the bytes `off .. off + n - 1` of a list of runs. -/
def cutRuns : List (Nat × Nat) → Nat → Nat → List Seg
  | [], _, _ => []
  | (a, len) :: l, off, n =>
    let k := Nat.min n (len - off)
    if k = 0 then cutRuns l (off - len) n else ⟨a + off, k⟩ :: cutRuns l (off + k - len) (n - k)

/-- Runs without their first `n` bytes. -/
def dropRuns : Nat → List Seg → List Seg
  | _, [] => []
  | n, x :: l => if n ≥ x.len then dropRuns (n - x.len) l else ⟨x.addr + n, x.len - n⟩ :: l
/-- The bytes after a list of runs up to the end of the aligned 32-byte granule that its last run begins; 0 where the runs end
a granule or go on with one that they do not begin. -/
def granuleRest (l : List Seg) : Nat := match l.getLast? with
  | none => 0
  | some x =>
    let e := x.addr + x.len
    if e % 32 = 0 ∨ e / 32 * 32 < x.addr then 0 else 32 - e % 32
/-- Bytes that a command holds for its next access. -/
def Cmd.held (c : Cmd) : List (Byte × Bool) := c.lines.map Prod.snd
/-- Set them. -/
def Cmd.hold (l : List (Byte × Bool)) (c : Cmd) : Cmd := { c with lines := l.zipIdx.map fun (x, i) => (i, x) }

/-- What a read gives that takes a granule whole: the bytes wanted and those past them. -/
inductive Ahead
  | ok (s : State) (l rest : List (Byte × Bool))
  | wait (s : State)
  | flt (f : Flt)
/-- Read `n` bytes through a pointer, the first of which are `held` from the read before; where they begin a granule that the
command goes on to cover whole (`more`), the rest of it is read with them. -/
def State.readAhead (s : State) (ctx : Ctx) (read : State → Ctx → List Seg → Got) (q : Word) (n : Nat) (held : List (Byte × Bool))
    (more : Nat → Bool) : Ahead :=
  match s.loadAddr ctx q n with
  | .error f => .flt f
  | .ok (t, segs) =>
    if held.length ≥ n then .ok t (held.take n) (held.drop n)
    else
      let e := granuleRest segs
      let r : State × List Seg := if e = 0 || !more e then (t, segs) else match s.loadAddr ctx q (n + e) with
        | .ok z => z
        | .error _ => (t, segs)
      match read r.1 ctx (dropRuns held.length r.2) with
      | .flt f => .flt f
      | .wait s => .wait s
      | .ok s bs => .ok s ((held ++ bs).take n) ((held ++ bs).drop n)

/-- TokenPtr (R220). -/
def tokenPtr (c : Cmd) (t sz : Nat) : Option Word :=
  if cX c.word then
    let tpr := cb c.ext 47 32
    offsetAdd (cPtr c.word) ((t / tpr : Nat) * (ePtr c.ext).toInt + ((t % tpr * sz : Nat) : Int))
  else offsetAdd (cPtr c.word) ((t * sz : Nat) : Int)

/-- The `e` bytes after the token at a command's place belong to its further tokens and follow in memory. -/
def tokensFollow (c : Cmd) (total sz : Nat) (q : Word) (e : Nat) : Bool :=
  decide ((c.pos + 1) * sz + e ≤ total * sz) && (List.range ((e + sz - 1) / sz)).all fun i =>
    tokenPtr c (c.pos + 1 + i) sz == offsetAdd q (((i + 1) * sz : Nat) : Int)
/-- The pointer of an access: a carry into the handle field is a bound fault (R217). -/
def withPtr (s : State) (base : Word) (q : Option Word) (k : Word → Iter) : Iter :=
  match q with
  | some p => k p
  | none => .flt s (.mk0 0x08 base)

/-- Read through a pointer for a unit that waits on the scoreboard. -/
def readIter (s : State) (ctx : Ctx) (p : Word) (n : Nat) (k : State → List (Byte × Bool) → Iter) : Iter :=
  match s.load ctx p n with
  | .flt f => .flt s f
  | .wait s => .wait s
  | .ok s l => k s l

/-! ### LDS, LDL, SPLRD -/

/-- Source gating holds a command that feeds a channel: at a token boundary, or where a router builds rows at the end of
the row (R232, R281). -/
def State.feedGated (s : State) (x : Inst) (r : ChanRec) (ch : Chan) : Bool :=
  s.gated x.field && !(r.k == 15 && !ch.part.isEmpty)

/-- One token of LDS: the read, then the wait for room (R218). -/
def ldsOne (b p : Nat) (s : State) (c : Cmd) : Iter :=
  match s.extIn b (cb c.word 19 13) with
  | none => .wait s
  | some (x, k, r) =>
    if c.pos ≥ cb c.word 12 0 then endFeed c x k s
    else if s.feedGated x r (x.chan k) then .wait s
    else
      let n := fmtSize r.fmtp
      withPtr s (cPtr c.word) (tokenPtr c c.pos n) fun q =>
        match s.readAhead (s.cmdCtx b p) State.readVia q n c.held (tokensFollow c (cb c.word 12 0) n q) with
        | .flt f => .flt s f
        | .wait s => .wait s
        | .ok s' l rest =>
          if feedRoom x r (x.chan k) c.region then
            .go (((s'.feedTok b p x k (tokFrom b c l)).advance b p).modHead b p (Cmd.hold rest))
          else .wait s

/-- One node of LDL (R221). -/
def ldlOne (b p : Nat) (s : State) (c : Cmd) : Iter :=
  match s.extIn b (cb c.word 19 13) with
  | none => .wait s
  | some (x, k, r) =>
    let n := cb c.word 6 0
    if ptrOff c.ptr = 0 ∨ (n ≠ 0 ∧ c.pos ≥ n) then endFeed c x k s
    else if s.feedGated x r (x.chan k) then .wait s
    else readIter s (s.cmdCtx b p) c.ptr (fmtSize r.fmtp) fun s' l =>
      if feedRoom x r (x.chan k) c.region then
        let link := gotNat ((l.drop (8 * cb c.word 12 7)).take 8)
        .go ((s'.feedTok b p x k (tokFrom b c l)).modHead b p fun c =>
          { c with pos := c.pos + 1, ptr := mkPtr (ptrH (cPtr c.word)) link })
      else .wait s

/-- One token of SPLRD, from the head of a ring of the bay (R226). -/
def splrdOne (b p : Nat) (s : State) (c : Cmd) : Iter :=
  match s.extIn b (cb c.word 19 13) with
  | none => .wait s
  | some (x, k, r) =>
    let n := cb c.word 83 68
    if c.pos ≥ cb c.word 12 0 then endFeed c x k s
    else if s.feedGated x r (x.chan k) then .wait s
    else match x.image.chans[n]? with
      | none => .wait s
      | some q =>
        let ch := x.chan n
        if ch.ringCount = 0 then if ch.closed then endFeed c x k s else .wait s
        else if !feedRoom x r (x.chan k) c.region then .wait s
        else match s.ringPop x n q with
          | none => .wait s
          | some (s, t) =>
            -- the token has left the ring: room returns to the ring's producer
            let s := s.modChan x.field x.id n fun ch =>
              { ch with consumed := ch.consumed + q.k, seen := if s.crossing x q then ch.seen else ch.consumed + q.k }
            .go ((s.feedTok b p x k t).advance b p)

/-! ### STS, SCT, UPDS -/

/-- The head token of an output port that the bay's engines drain. -/
def State.drainHead (s : State) (b q : Nat) : Option (Inst × Nat × ChanRec × Tok) :=
  match s.extOut b q with
  | none => none
  | some (x, k, r) => ((x.chan k).seenToks.head?).map fun t => (x, k, r, t)

/-- Store bytes whose address is formed, then take the token: the faulting access leaves it (R231). -/
def storeTok (b p : Nat) (s : State) (x : Inst) (k : Nat) (r : ChanRec) (q : Word) (l : List (Byte × Bool)) : Iter :=
  match s.storeAddr (s.cmdCtx b p) q l.length with
  | .error f => .flt s f
  | .ok (s', segs) => match s'.writeVia (s.cmdCtx b p) segs l with
    | .flt f => .flt s f
    | .wait s => .wait s
    | .ok s' => .go ((s'.takeToks x k r 1).advance b p)

/-- Write the bytes that an STS holds, which stand before the token whose pointer is `q`. -/
def putHeld (b p : Nat) (s : State) (c : Cmd) (q : Word) (k : State → Iter) : Iter :=
  if c.held = [] then k s
  else withPtr s q (offsetAdd q (-(c.held.length : Int))) fun q => match s.storeAddr (s.cmdCtx b p) q c.held.length with
    | .error f => .flt s f
    | .ok (s', segs) => match s'.writeVia (s.cmdCtx b p) segs c.held with
      | .flt f => .flt s f
      | .wait s => .wait s
      | .ok s => k (s.modHead b p (Cmd.hold []))
/-- One token of STS (R219): its bytes are stored, but those of a granule that its next tokens complete are held until that
lands whole (R65). At a fault, and at the end of the channel's stream, the bytes held are stored as they stand. -/
def stsOne (b p : Nat) (s : State) (c : Cmd) : Iter :=
  if c.pos ≥ cb c.word 12 0 then .done s
  else match s.extOut b (cb c.word 19 13) with
    | none => .wait s
    | some (x, k, r) =>
      let n := fmtSize r.fmtc
      let ctx := s.cmdCtx b p
      match (x.chan k).seenToks.head? with
      | none =>
        if c.held = [] || !((x.chan k).closed && decide ((x.chan k).left = 0)) then .wait s
        else withPtr s (cPtr c.word) (tokenPtr c c.pos n) fun q => putHeld b p s c q .go
      | some t => withPtr s (cPtr c.word) (tokenPtr c c.pos n) fun q => match s.storeAddr ctx q n with
        | .error f => putHeld b p s c q fun s => .flt s f
        | .ok _ => withPtr s q (offsetAdd q (-(c.held.length : Int))) fun q0 =>
          let all := c.held ++ tokOut n t
          match s.storeAddr ctx q0 all.length with
          | .error f => putHeld b p s c q fun s => .flt s f
          | .ok (s', segs) =>
            let e := granuleRest segs
            let whole : Bool := match s.storeAddr ctx q0 (all.length + e) with
              | .ok _ => true
              | .error _ => false
            let keep := if e ≠ 0 && tokensFollow c (cb c.word 12 0) n q e && whole then 32 - e else 0
            let now := all.length - keep
            let went (s : State) : Iter := .go (((s.takeToks x k r 1).advance b p).modHead b p (Cmd.hold (all.drop now)))
            if now = 0 then went s'
            else match s'.writeVia ctx (cutRuns (segs.map fun y => (y.addr, y.len)) 0 now) (all.take now) with
              | .flt f => .flt s f
              | .wait s => .wait s
              | .ok s => went s

/-- One pair of SCT (R225, R312). -/
def sctOne (b p : Nat) (s : State) (c : Cmd) : Iter :=
  if c.pos ≥ cb c.word 10 0 then .done s
  else match s.drainHead b (cb c.word 19 13) with
    | none => .wait s
    | some (x, k, r, t) =>
      let n := 2 ^ cb c.word 12 11
      withPtr s (cPtr c.word) (offsetAdd (cPtr c.word) ((bits t.data.toNat 51 0 : Nat) : Int)) fun q =>
        storeTok b p s x k r q (((tokOut 16 t).drop 8).take n)

/-- Emit the pair at (a, v), then go on with `k` (R290). -/
def updsPair (b p : Nat) (s : State) (c : Cmd) (a v : Nat) (q : Bool) (k : State → Iter) : Iter :=
  match s.pairOf (s.cmdCtx b p) (mkPtr (cb c.word 83 72) a) (updVal v) q with
  | .error f => .flt s f
  | .ok (s, x) =>
    let i := (s.bay b).inst.getD (0, 0)
    k ((s.sendPair x).notePoisonSent i.1 i.2 q)

/-- One pair of UPDS. -/
def updsOne (b p : Nat) (s : State) (c : Cmd) : Iter :=
  if c.pos ≥ cb c.word 15 0 then .done s
  else if c.word.getLsbD 71 then
    let o := 8 * cb c.word 70 54 + 16 * c.pos
    match s.readVia (s.cmdCtx b p) [⟨s.ga (windowAddr b o), 16⟩] with
    | .flt f => .flt s f
    | .wait s => .wait s
    | .ok s l => updsPair b p s c (gotNat (l.take 8)) (gotNat (l.drop 8)) (gotPoison (l.drop 8)) fun s => .go (s.advance b p)
  else match s.drainHead b (cb c.word 60 54) with
    | none => .wait s
    | some (x, k, r, t) =>
      updsPair b p s c (bits t.data.toNat 63 0) (bits t.data.toNat 127 64) (decide (bits t.poison.toNat 3 2 ≠ 0))
        fun s => .go ((s.takeToks x k r 1).advance b p)

/-! ### Copies (R222, R224, R228) -/

/-- Window of a bay in which an offset lies (R54): 0 scratchpad, 1 accumulator memory, 2 registers, 3 loft, 4 none. -/
def windowOf (w : Nat) : Nat :=
  if w < Config.accBase then 0 else if w < Config.regBase then 1 else if w < Config.loftBase then 2
  else if w < Config.loftTop then 3 else 4
/-- First offset past a window. -/
def windowEnd (k : Nat) : Nat :=
  if k = 0 then Config.accBase else if k = 1 then Config.regBase else if k = 2 then Config.loftBase
  else if k = 3 then Config.loftTop else Config.windowSize
/-- The first byte of a run in a bay window that lies past the window of its first byte (R60, R222). -/
def spanBad (x : Seg) : Option Nat :=
  let a := gaLocal x.addr
  if !isWindow a then none
  else
    let w := windowOff a
    let e := windowEnd (windowOf w)
    if w + x.len > e then some (a - w + e) else none

/-- The window in which a run begins: its module, bay and window, or none. -/
def Seg.window (x : Seg) : Option (Nat × Nat × Nat) :=
  let a := gaLocal x.addr
  if isWindow a then some (gaMod x.addr, windowBay a, windowOf (windowOff a)) else none

/-- The destination range does not lie wholly in one window: the window fault before any byte is written, with the local
address of the first byte outside the first one's window. -/
def spanFault (l : List Seg) : Option Nat :=
  match l.findSome? spanBad, l with
  | some a, _ => some a
  | none, x :: r => (r.find? fun y => y.window != x.window).map fun y => gaLocal y.addr
  | none, [] => none

/-- The entry of an inbound copy, taken when its first byte reaches another bay; whether the copy may go on. -/
def State.takeInbound (s : State) (b p : Nat) (c : Cmd) (l : List Seg) : State × Bool :=
  match bayRange s.own l with
  | none => (s, true)
  | some (d, r) => if d = b then (s, true) else s.sbArrive d p b c.id r

/-- The register-window units that a state has beyond an older one were formed through a handle. -/
def State.unitsThrough (s old : State) (h : Nat) : State :=
  if s.rwq.length ≤ old.rwq.length then s
  else { s with rwq := s.rwq.zipIdx.map fun (u, k) => if k < old.rwq.length then u else { u with handle := h } }
/-- Handle that a copy's destination is formed through: 0 for an offset of the own window. -/
def copyHandle (c : Cmd) : Nat := if cOpc c.word = 0x06 then ptrH (cPtr c.word) else if cX c.word then ptrH (ePtr c.ext) else 0
/-- Write one piece of a copy and move on by its length; `rest` is what has been read past it. -/
def putPiece (b p : Nat) (s : State) (segs : List Seg) (l rest : List (Byte × Bool)) : Iter :=
  match s.writeOpen (s.cmdCtx b p) segs l with
  | .flt f => .flt s f
  | .wait s => .wait s
  | .ok t => .go ((t.unitsThrough s (((s.queue b p).head?.map copyHandle).getD 0)).modHead b p fun c =>
      { Cmd.hold rest c with pos := c.pos + l.length })

/-- Length of the next piece of a copy: to the end of the aligned 32-byte granule of its destination (R65). -/
def pieceLen (a left : Nat) : Nat := Nat.min (32 - a % 32) left
/-- Length of the least piece: an aligned 8-byte unit of a register window, which lands whole (R56), or one byte. -/
def unitLen (a left : Nat) : Nat :=
  let l := gaLocal a
  if isWindow l && isRegOff (windowOff l) then Nat.min (8 - a % 8) left else 1

/-- Destination bytes `pos..pos+n-1` of a copy of length `len`. -/
def State.cpyDest (s : State) (b p : Nat) (c : Cmd) (pos n : Nat) : Except Flt (State × List Seg) :=
  if cX c.word then
    match offsetAdd (ePtr c.ext) (pos : Int) with
    | none => .error (.mk0 0x08 (ePtr c.ext))
    | some q => s.copyAddr (s.cmdCtx b p) q n
  else
    let l : List Seg := [⟨s.ga (windowAddr b (32 * cb c.word 15 0 + pos)), n⟩]
    if s.regSegsOk l then .ok (s, l) else .error (.mk0 0x0B (BitVec.ofNat 64 (windowAddr b (32 * cb c.word 15 0 + pos))))

/-- Length of a CPY in bytes. -/
def cpyLen (c : Cmd) : Nat := if cX c.word then cb c.ext 63 32 else 32 * 2 ^ cb c.word 19 16

/-- The fault of a CPY or FILL whose destination spans two windows, or runs out of the windows it begins in: `out` is the fault
of the range's first byte with no address. -/
def spanFlt (local_ : Bool) (dst : Word) (l : List Seg) (out : Option (Nat × Flt)) : Option Flt :=
  match spanFault l, out with
  | some a, _ => some (.mk0 0x0B (if local_ then BitVec.ofNat 64 a else dst))
  | none, some (k, f) => if k ≠ 0 ∧ f.code = 0x0B then some { f with faddr := dst } else none
  | none, none => none

/-- Source bytes of a piece; where the ranges of a copy overlap, the overlapping destination bytes are free values. -/
def State.cpySource (s : State) (src dst : List Seg) (at_ : List Nat) (l : List (Byte × Bool)) : List (Byte × Bool) :=
  let laps := src.any fun x => dst.any fun y => decide (x.addr < y.addr + y.len) && decide (y.addr < x.addr + x.len)
  if !laps then l
  else (l.zip at_).map fun (z, a) =>
    if src.any fun x => decide (x.addr ≤ a) && decide (a < x.addr + x.len) then (s.anyByte a, false) else z

/-- The runs of a CPY's destination range. -/
def State.cpyRange (s : State) (b p : Nat) (c : Cmd) : State × List Seg :=
  if cX c.word then s.formed (s.cmdCtx b p) true (ePtr c.ext) 34 0 (cpyLen c)
  else (s, [⟨s.ga (windowAddr b (32 * cb c.word 15 0)), cpyLen c⟩])

/-- The first byte of a copy's destination, through a pointer, that has no address. -/
def State.rangeOut (s : State) (ctx : Ctx) (c : Cmd) (dst : Word) (len : Nat) : Option (Nat × Flt) :=
  if c.pos = 0 then s.unformed ctx true dst 34 0 len else none
/-- What a copy does before its first byte: the test of its destination range, then its entry (R60, R222). -/
def beforeCopy (b p : Nat) (s : State) (c : Cmd) (f : Option Flt) (l : List Seg) (k : State → Iter) : Iter :=
  if c.pos ≠ 0 then k s
  else match f with
    | some f => .flt s f
    | none => let r := s.takeInbound b p c l; if r.2 then k r.1 else .wait r.1

/-- One piece of a CPY (R222): of each byte the source is formed before the destination; a source granule is read once and
lands in as many pieces as it has destination granules (R65). -/
def cpyOne (b p : Nat) (s : State) (c : Cmd) : Iter :=
  let len := cpyLen c
  let ctx := s.cmdCtx b p
  if c.pos ≥ len then .done (s.sbDropAll c.id)
  else
    let whole := s.cpyRange b p c
    let from_ := (s.formed ctx false (cPtr c.word) 34 0 len).2
    let out := if cX c.word then s.rangeOut ctx c (ePtr c.ext) len else none
    beforeCopy b p (if c.pos = 0 then whole.1 else s) c (spanFlt (!cX c.word) (ePtr c.ext) whole.2 out) whole.2 fun s =>
      withPtr s (cPtr c.word) (offsetAdd (cPtr c.word) (c.pos : Int)) fun q => match s.loadAddr ctx q 1 with
        | .error f => .flt s f
        | .ok (s, _) => match s.cpyDest b p c c.pos 1 with
          | .error f => .flt s f
          | .ok (s, d) =>
            let move (n : Nat) : Iter :=
              match s.readAhead ctx State.readOpen q n c.held fun e => decide (c.pos + n + e ≤ len) with
              | .flt f => .flt s f
              | .wait s => .wait s
              | .ok s l rest => match s.cpyDest b p c c.pos n with
                | .error f => .flt s f
                | .ok (s, segs) => putPiece b p s segs (s.cpySource from_ whole.2 (segBytes segs) l) rest
            let a := (d.map Seg.addr).headD 0
            match move (pieceLen a (len - c.pos)) with
            | .flt _ _ => move (unitLen a (len - c.pos))
            | r => r

/-- One piece of a FILL (R224). -/
def fillOne (b p : Nat) (s : State) (c : Cmd) : Iter :=
  let len := 32 * cb c.word 19 8
  let ctx := s.cmdCtx b p
  let dst := cPtr c.word
  let v : Byte := BitVec.ofNat 8 (cb c.word 7 0)
  if c.pos ≥ len then .done (s.sbDropAll c.id)
  else
    let whole := s.formed ctx true dst 34 0 len
    beforeCopy b p (if c.pos = 0 then whole.1 else s) c (spanFlt false dst whole.2 (s.rangeOut ctx c dst len)) whole.2 fun s =>
      withPtr s dst (offsetAdd dst (c.pos : Int)) fun q => match s.copyAddr ctx q 1 with
        | .error f => .flt s f
        | .ok (s, d) =>
          let a := (d.map Seg.addr).headD 0
          let put (n : Nat) : Iter := match s.copyAddr ctx q n with
            | .error f => .flt s f
            | .ok (s, l) => putPiece b p s l (List.replicate n (v, false)) []
          match put (pieceLen a (len - c.pos)) with
          | .flt _ _ => put (unitLen a (len - c.pos))
          | r => r

/-! ### Events of these commands -/

/-- The next token of an executing LDS comes from the issuing bay's own scratchpad: such tokens move with the bay's cycles
(R346). -/
def State.localLoad (s : State) (b p : Nat) (c : Cmd) : Bool :=
  c.phase == .run && cOpc c.word == 0x01 && decide (c.pos < cb c.word 12 0) &&
    match s.extIn b (cb c.word 19 13) with
    | none => false
    | some (_, _, r) => match tokenPtr c c.pos (fmtSize r.fmtp) with
      | none => false
      | some q => match s.loadAddr (s.cmdCtx b p) q (fmtSize r.fmtp) with
        | .ok (_, l) => l.all fun g => decide (gaMod g.addr = s.own) && isWindow (gaLocal g.addr)
            && windowBay (gaLocal g.addr) == b && decide (windowOff (gaLocal g.addr) + g.len ≤ scratchSize)
        | .error _ => false
/-- The head command of a port is such an LDS. -/
def State.localHead (s : State) (b p : Nat) : Bool := (s.head b p).any (s.localLoad b p)
/-- `n` bay cycles of a local LDS: one token in each cycle in which its channel has room. -/
def localCycles (b p : Nat) : Nat → State → State
  | 0, s => s
  | n + 1, s => if s.localHead b p then localCycles b p n (s.iterate b p true (ldsOne b p)) else s

/-- LDS: one token, or the end. Tokens of a local LDS move as bay cycles pass (R346). -/
def execLds (b : Nat) (p : Port) (s : State) : Out :=
  if s.localHead b p.toNat then .next s else runCmd b p.toNat 0x01 true (ldsOne b p.toNat) s
def execSts (b : Nat) (p : Port) (s : State) : Out := runCmd b p.toNat 0x02 false (stsOne b p.toNat) s
def execLdl (b : Nat) (p : Port) (s : State) : Out := runCmd b p.toNat 0x03 false (ldlOne b p.toNat) s
/-- CPY: one piece in an event, so that the pieces of two copies may fall in any order (R81). -/
def execCpy (b : Nat) (s : State) : Out := runCmd b 0x28 0x04 true (cpyOne b 0x28) s
def execFill (b : Nat) (s : State) : Out := runCmd b 0x28 0x06 false (fillOne b 0x28) s
def execSct (b : Nat) (p : Port) (s : State) : Out :=
  if p.toNat = 0x2B then .next s else runCmd b p.toNat 0x07 false (sctOne b p.toNat) s
def execSctGleaner (b : Nat) (s : State) : Out := runCmd b 0x2B 0x07 false (sctOne b 0x2B) s
def execSplrd (b : Nat) (p : Port) (s : State) : Out := runCmd b p.toNat 0x10 false (splrdOne b p.toNat) s
def execUpds (b : Nat) (p : Port) (s : State) : Out := runCmd b p.toNat 0x09 false (updsOne b p.toNat) s
/-- NOPC makes no access (R227). -/
def execNopc (b : Nat) (p : Port) (s : State) : Out :=
  executing b p.toNat 0x12 s fun _ => .next (s.modHead b p.toNat fun c => { c with phase := .finish })

/-! ### CPYM (R223, R352, R353) -/

/-- Receivers of a CPYM: module bays of the plot bays whose mask bit is set. -/
def State.cpymBays (s : State) (b : Nat) (c : Cmd) : List Nat :=
  match (s.bay b).inst.bind fun x => s.field? x.1 with
  | none => []
  | some f =>
    let r := plotRect (pktFw f.packet) (pktFh f.packet) (cb c.ext 63 40)
    ((List.range 64).filter fun j => (cb c.ext 127 64).testBit j).map fun j =>
      s.fieldBay f (r.1 + j % r.2.2.1) (r.2.1 + j / r.2.2.1)
/-- The destination range of a CPYM in a receiver's window. -/
def State.cpymDest (s : State) (c : Cmd) (d : Nat) (k n : Nat) : Seg := ⟨s.ga (windowAddr d (32 * (cb c.ext 39 24 + k))), 32 * n⟩
/-- The window fault of a receiver of a CPYM whose range spans two windows, with its local window address. -/
def State.cpymBad (s : State) (b : Nat) (c : Cmd) : Option Flt :=
  (s.cpymBays b c).findSome? fun d => (spanBad (s.cpymDest c d 0 (cb c.word 19 0))).map fun a => .mk0 0x0B (BitVec.ofNat 64 a)

/-- The source of a CPYM, formed whole for the request to its home slice: its runs, or the fault found before any byte
moves. It must resolve to HBM4E, and every receiver's range must lie in one window (R223). -/
def State.cpymSource (s : State) (b : Nat) (c : Cmd) : Except Flt (State × List Seg) :=
  match s.cpymBad b c with
  | some f => .error f
  | none => match s.addressOf (s.cmdCtx b 0x28) (cPtr c.word) (32 * cb c.word 19 0) false with
    | .error f => .error f
    | .ok (s, l) => if l.any fun x => isWindow (gaLocal x.addr) then .error (.mk0 0x0B (cPtr c.word)) else .ok (s, l)

/-- A CPYM that moves something: its mask and its length are nonzero. -/
def cpymMoves (c : Cmd) : Bool := decide (cb c.ext 127 64 ≠ 0) && decide (cb c.word 19 0 ≠ 0)
/-- Some command takes granules of a stream and does not hold them all yet. -/
def State.streamLive (s : State) (id : Nat) : Bool :=
  s.bays.any fun (_, y) => (tgetD 0x28 [] y.queues).head?.any fun c =>
    decide (c.phase = .run) && decide (cOpc c.word = 0x05) && decide (c.stream = id)
/-- A stream that a CPYM of tenant `t` with source `src` may join (R353). -/
def State.joinable (s : State) (t len : Nat) (src : List (Nat × Nat)) (m : McStream) : Bool :=
  m.tenant == t && m.src == src && m.len == len && !m.lost && decide (0 < m.read) && decide (m.read < len)
    && !m.written && decide (m.joins < 4) && s.streamLive m.id

/-- The head CPYM of a bay takes a stream from a granule on. -/
def State.takeStream (s : State) (b id at_ : Nat) : State := s.modHead b 0x28 fun c => { c with stream := id, joined := at_ }
/-- A new stream for the head CPYM of a bay. -/
def State.openStream (s : State) (b t len : Nat) (src : List (Nat × Nat)) (lost : Bool) : State :=
  let s := s.takeStream b s.nextStream 0
  { s with streams := s.streams ++ [⟨s.nextStream, t, src, len, 0, false, 0, 0, lost⟩], nextStream := s.nextStream + 1 }
/-- MULTICAST_REQUEST: the request of the bay's CPYM reaches the home slice of its source: it joins an open stream of that
source, or opens one. A request whose source cannot be formed is never sent; one with no route waits, and once the wait has
run out its data comes marked poisoned, from no home slice (R361). -/
def execMulticastRequest (b : Nat) (s : State) : Out :=
  executing b 0x28 0x05 s fun c =>
    if c.stream ≠ 0 || !cpymMoves c then .next s
    else match s.cpymSource b c with
      | .error _ => .next s
      | .ok (s, l) =>
        let t := (s.cmdCtx b 0x28).tenant
        let len := cb c.word 19 0
        let src := l.map fun x => (x.addr, x.len)
        match s.routeFor (s.cmdCtx b 0x28) l with
        | (s, some false) => .next s
        | (s, some true) => .next (s.openStream b t len src true)
        | (s, none) => match s.streams.find? (s.joinable t len src) with
          | some m =>
            let s := s.takeStream b m.id m.read
            let s : State := { s with streams := s.streams.map fun y => if y.id = m.id then
              { y with joins := y.joins + 1, replayTo := Nat.max y.replayTo m.read } else y }
            .next (s.modTenant t fun x => { x with mcstat := wadd x.mcstat 47 32 1 })
          | none => .next ((s.openStream b t len src false).modTenant t fun x => { x with mcstat := wadd x.mcstat 63 48 1 })

/-- Commands at the heads of copy engines that take the stream's next granule. -/
def State.streamTakers (s : State) (m : McStream) : List (Nat × Cmd) :=
  s.bays.filterMap fun (b, _) => match s.head b 0x28 with
    | some c => if c.phase = .run ∧ cOpc c.word = 0x05 ∧ c.stream = m.id ∧
        (if m.read < m.len then decide (c.joined ≤ m.read) else decide (m.read - m.len < c.joined)) = true
      then some (b, c) else none
    | none => none

/-- Take the scoreboard entries of a CPYM on its receivers, once for the command; whether it has them all (R228). -/
def State.cpymEntries (s : State) (b : Nat) (c : Cmd) : State × Bool :=
  (s.cpymBays b c).foldl (fun (r : State × Bool) d =>
    match bayRange r.1.own [r.1.cpymDest c d 0 (cb c.word 19 0)] with
    | none => r
    | some (_, g) => if d = b then r else let x := r.1.sbArrive d 0x28 b c.id g; (x.1, r.2 && x.2)) (s, true)

/-- A command of a stream has had a granule delivered. -/
def cpymHad (m : McStream) (c : Cmd) (j : Nat) : Bool :=
  if m.read < m.len then decide (c.joined ≤ j) && decide (j < m.read)
  else decide (c.joined ≤ j) && decide (j < m.len) || decide (j < m.read - m.len)
/-- A write of a stream's granule `k` at a bay lands before one that another running command of the stream has made to the same
bytes: the two are unordered (R81, R364). `now` are the commands that have had granule `k` in this event. -/
def State.overtaken (s : State) (m : McStream) (now : List (Nat × Cmd)) (c : Cmd) (d k : Nat) : Bool :=
  let at_ := cb c.ext 39 24 + k
  let rivals := s.bays.filterMap fun (b, _) => match s.head b 0x28 with
    | some y => if y.phase = .run ∧ cOpc y.word = 0x05 ∧ y.stream = m.id ∧ y.id ≠ c.id ∧ (s.cpymBays b y).contains d = true then
        some y else none
    | none => none
  (rivals.any fun y =>
    let j := at_ - cb y.ext 39 24
    decide (cb y.ext 39 24 ≤ at_) && (cpymHad m y j || j == k && now.any fun q => q.2.id == y.id))
    && decide (s.pick 19 (at_ * 2048 + d) % 2 = 1)
/-- Deliver one granule to every receiver of a command, in order; a unit of a register window that no register has is the
command's fault, after the accesses before it (R231). -/
def State.deliver (s : State) (b : Nat) (c : Cmd) (m : McStream) (now : List (Nat × Cmd)) (k : Nat) (l : List (Byte × Bool)) :
    State × Option Flt :=
  (s.cpymBays b c).foldl (fun (r : State × Option Flt) d => match r.2 with
    | some _ => r
    | none =>
      let g := r.1.cpymDest c d k 1
      match (List.range 4).find? fun j => !r.1.regSegsOk [⟨g.addr + 8 * j, 8⟩] with
      | some j => (if j = 0 then r.1 else r.1.writeSegs (r.1.cmdCtx b 0x28) [⟨g.addr, 8 * j⟩] (l.take (8 * j)),
          some (.mk0 0x0B (BitVec.ofNat 64 (gaLocal (g.addr + 8 * j)))))
      | none => (if r.1.overtaken m now c d k then r.1 else r.1.writeSegs (r.1.cmdCtx b 0x28) [g] l, none)) (s, none)

/-- A command holds every granule of its stream. -/
def cpymDone (m : McStream) (c : Cmd) : Bool := decide (m.read ≥ m.len + c.joined)

/-- One granule of the stream of the bay's CPYM, read once and sent to every command that takes it; every receiver takes
its entry before its first granule. DESIGN CHOICE (notes/assumptions/97.md), unsafe: commands of two launches of one tenant may
take one stream whose source line stands in the version of one of them; R352 gives all receivers the same bytes and R254
gives the other launch the committed ones; the bytes are those that the launch of the bay `b`, whose event reads them, sees. -/
def cpymGranule (b : Nat) (s : State) (m : McStream) : State :=
  let k := if m.read < m.len then m.read else m.read - m.len
  let takers := s.streamTakers m
  let r := takers.foldl (fun (r : State × Bool) (q : Nat × Cmd) =>
    let x := r.1.cpymEntries q.1 q.2; (x.1, r.2 && x.2)) (s, true)
  let segs := cutRuns m.src (32 * k) 32
  if !r.2 then r.1
  else match if m.lost then Got.ok r.1 ((segBytes segs).map fun a => (s.anyByte a, true)) else r.1.readOpen (s.cmdCtx b 0x28) segs with
    | .flt _ => r.1
    | .wait s => s
    | .ok s bs =>
      let out := takers.foldl (fun (z : State × List (Nat × Cmd)) (q : Nat × Cmd) =>
        match z.1.deliver q.1 q.2 m z.2 k bs with
        | (s, none) => (s, q :: z.2)
        | (s, some f) => (s.cmdFlt q.1 0x28 q.2 f false, z.2)) (s, [])
      let s := if m.read < m.len then out.1
        else out.1.modTenant m.tenant fun x => { x with mcstat := wadd x.mcstat 31 0 1 }
      { s with streams := s.streams.map fun y => if y.id = m.id then { y with read := y.read + 1 } else y }

/-- A CPYM has moved all its bytes: its entries are free, and the last taker of a stream closes it. -/
def State.cpymEnd (s : State) (b : Nat) (c : Cmd) : State :=
  let s := (s.sbDropAll c.id).modHead b 0x28 fun c => { c with phase := .finish }
  { s with streams := s.streams.filter fun m => decide (m.id ≠ c.stream) || s.streamLive m.id }

/-- CPYM: an empty mask or length moves nothing; one whose source or receivers cannot be formed faults before any byte
moves; a command that holds every granule is done; else its stream reads one more granule. -/
def execCpym (b : Nat) (s : State) : Out :=
  executing b 0x28 0x05 s fun c =>
    if !cpymMoves c then .next (s.cpymEnd b c)
    else match s.streams.find? fun m => m.id == c.stream with
      | none => match s.cpymSource b c with
        | .error f => .next (s.cmdFlt b 0x28 c f false)
        | .ok _ => .next s
      | some m => .next (if cpymDone m c then s.cpymEnd b c else cpymGranule b s m)

end Sys2Proof.Machine
end

