-- ==== Sys2Proof/Machine/Flail.lean ====
section
/-! DEFINITION. The Flail array (R266-R286): APNL, ARUN with its row dispatcher, ADRN, ASORT, ACFG, and the reload of
slots on resume. -/

namespace Sys2Proof.Machine

/-- The array port. -/
def arrayPort : Nat := 0x29
/-- Change the array of a bay. -/
def State.modArray (s : State) (b : Nat) (f : Flail → Flail) : State := s.modBay b fun y => { y with array := f y.array }
/-- A slot of the weight buffer. -/
def Flail.slot (a : Flail) (n : Nat) : Slot := tgetD n Slot.invalid a.slots
/-- A scale entry; 64 copies of BF16 1.0 since arm (R266). -/
def Flail.scale (a : Flail) (n : Nat) : BitVec 1024 × Bool :=
  tgetD n (BitVec.ofNat 1024 ((List.range 64).foldl (fun x c => x + 0x3F80 * 2 ^ (16 * c)) 0), false) a.scales

/-! ### Reading a panel (R266, R268, R283) -/

/-- The fault of the first byte of a range that cannot be loaded. -/
def State.firstBad (s : State) (ctx : Ctx) (p : Word) (n : Nat) : Flt :=
  match (List.range n).findSome? fun k => match movePtr p (k : Int) with
      | .error f => some f
      | .ok q => match s.loadAddr ctx q 1 with
        | .error f => some f
        | .ok _ => none with
  | some f => f
  | none => .mk0 0x08 p
/-- Read a range byte by byte through moving pointers. -/
def State.readRange (s : State) (ctx : Ctx) (p : Word) (n : Nat) (read : State → Ctx → List Seg → Got) : Got :=
  match s.loadAddr ctx p n with
  | .error f => .flt { s.firstBad ctx p n with kept := f.kept }
  | .ok (s, l) => read s ctx l
/-- The byte at an offset from a pointer, when it can be read now. -/
def State.tryByte (s : State) (ctx : Ctx) (p : Word) (k : Nat) : Option (Byte × Bool) :=
  match movePtr p (k : Int) with
  | .error _ => none
  | .ok q => match s.load ctx q 1 with
    | .ok _ l => l.head?
    | _ => none

/-- The array after a load of weight bytes. -/
def Flail.putSlot (a : Flail) (n : Nat) (src : Word) (l : List (Byte × Bool)) : Flail :=
  let bytes := (l.zipIdx.filter fun x => x.1.1 ≠ 0).map fun (x, k) => (k, x.1)
  { a with slots := tput n ⟨true, src, bytes, gotPoison l, false⟩ a.slots
           resident := if a.resident = some n then none else a.resident }
/-- The array after a load of scale bytes. -/
def Flail.putScale (a : Flail) (n : Nat) (l : List (Byte × Bool)) : Flail :=
  { a with scales := tput n (BitVec.ofNat 1024 (gotNat l), gotPoison l) a.scales }
/-- A slot becomes invalid; a resident slot leaves the cells. -/
def Flail.dropSlot (a : Flail) (n : Nat) : Flail :=
  { a with slots := tput n { a.slot n with valid := false } a.slots
           resident := if a.resident = some n then none else a.resident }

/-- APNL loads a slot or a scale entry. A fault leaves the slot invalid, or the scale entry a mixture of old and new
bytes (R268). -/
def execApnl (b : Nat) (s : State) : Out :=
  executing b arrayPort 0x0A s fun c =>
    let n := cb c.word 19 12
    let kind := c.word.getLsbD 11
    let len := if kind then 128 else 6144
    match s.readRange (s.cmdCtx b arrayPort) (cPtr c.word) len State.readVia with
    | .wait s => .next s
    | .flt f =>
      let old := (s.bay b).array.scale n
      let mixed := (List.range 128).map fun k => match s.tryByte (s.cmdCtx b arrayPort) (cPtr c.word) k with
        | some z => if s.pick 12 k % 2 = 0 then (byteOf old.1 k, old.2) else (z.1, old.2 || z.2)
        | none => (byteOf old.1 k, old.2)
      .next ((s.modArray b fun a => if kind then a.putScale n mixed else a.dropSlot n).cmdFlt b arrayPort c f false)
    | .ok s l =>
      let s := s.modArray b fun a => if kind then a.putScale n l else a.putSlot n (cPtr c.word) l
      .next (s.modHead b arrayPort fun c => { c with phase := .finish })

/-! ### ARUN (R267, R269-R274) -/

/-- The weight of column `c` at index `k` (R267). -/
def Slot.weight (x : Slot) (c k : Nat) : Int :=
  tritVal ((t5Digits (tgetD (96 * c + k / 5) 0 x.bytes).toNat).getD (k % 5) 0)
/-- A row that a predicate turns off (R272). -/
def rowOff (zen : Bool) (z : Word) (t0 r : Nat) : Bool := zen && !z.getLsbD (t0 + r / 16)
/-- The partial sums of a row (R273). -/
def partials (x : Slot) (row : TokenData) : List Nat :=
  (List.range 64).map fun c =>
    ofInt 32 ((List.range 480).foldl (fun (a : Int) k => a + x.weight c k * sint 8 (bits row.toNat (8 * k + 7) (8 * k))) 0)
/-- The tag of a row. -/
def rowTag (row : TokenData) : Nat := bits row.toNat 3903 3840

/-- Make a command's slot resident: an illegal byte makes it invalid and faults (R269). -/
def Flail.fetch (a : Flail) (n : Nat) : Flail × Option Nat :=
  if a.resident = some n then (a, none)
  else match (a.slot n).bytes.find? fun x => x.2.toNat ≥ 243 with
    | some (k, _) => ({ a with slots := tput n { a.slot n with valid := false } a.slots, resident := none }, some k)
    | none => ({ a with resident := some n }, none)

/-- The next row of an ARUN: `none` while it is not there; its token with the channel it comes from. -/
inductive NextRow
  | row (t : Tok) (from_ : Option (Inst × Nat × ChanRec))
  | absent
  | ended
  | wait (s : State)

/-- Find row `r` of an ARUN. -/
def State.arunNext (s : State) (b : Nat) (c : Cmd) : NextRow :=
  if c.word.getLsbD 83 then
    match s.readVia (s.cmdCtx b arrayPort) [⟨s.ga (windowAddr b (8 * cb c.word 82 66 + 488 * c.pos)), 488⟩] with
    | .ok _ l => .row ⟨BitVec.ofNat 3904 (gotNat l), bytesPoison l, none⟩ none
    | .wait s => .wait s
    | .flt _ => .absent
  else match s.extOut b (cb c.word 72 66) with
    | none => .absent
    | some (x, k, r) => match (x.chan k).seenToks.head? with
      | some t => .row t (some (x, k, r))
      | none => if (x.chan k).closed && decide ((x.chan k).left = 0) then .ended else .absent

/-- Row `r` of the command is off. -/
def arunOff (c : Cmd) : Bool := rowOff (c.word.getLsbD 19) c.zcap (cb c.word 14 9) c.pos
/-- The next row is there and takes no cell: it is ZERO or off. -/
def State.arunSkips (s : State) (b : Nat) (c : Cmd) : Bool :=
  match s.arunNext b c with
  | .row t _ => arunOff c || nbit (rowTag t.data) 40
  | _ => false

/-- A slot whose contents were lost is read again at its next use; a read that fails leaves the data poisoned (R389). -/
def State.refetch (s : State) (b n : Nat) : Except State State :=
  let x := (s.bay b).array.slot n
  if !x.stale || (s.bay b).array.resident == some n then .ok s
  else match s.readRange (s.cmdCtx b arrayPort) x.source 6144 State.readVia with
    | .wait s => .error s
    | .flt _ => .ok (s.modArray b fun a => { a with slots := tput n { x with poison := true, stale := false } a.slots })
    | .ok s l => .ok (s.modArray b fun a => a.putSlot n x.source l)

/-- One row of an ARUN (R273). -/
def arunOne (b : Nat) (s : State) (c : Cmd) : Iter :=
  let n := cb c.word 65 58
  let bad : Flt := .mk0 0x16 (cmdFaddr 0x0B arrayPort)
  let t5 (o : Nat) : Flt := .mk0 0x1B (BitVec.ofNat 64 (o * 2 ^ 16 + n))
  if c.pos ≥ cb c.word 32 21 then .done s
  else if (s.bay b).array.winnow then .flt s bad
  else if !((s.bay b).array.slot n).valid then .flt s (t5 0x1FFF)
  else match s.refetch b n with
  | .error s => .wait s
  | .ok s =>
    match (s.bay b).array.fetch n with
    | (a', some k) => .flt (s.modArray b fun _ => a') (t5 k)
    | (a', none) =>
      let s := s.modArray b fun _ => a'
      match s.arunNext b c with
      | .absent => .wait s
      | .wait s => .wait s
      | .ended => .done s
      | .row t from_ =>
        let tag := rowTag t.data
        if bits tag 47 43 ≠ 0 then .flt s bad
        else
          let take (s : State) : State := match from_ with
            | some (x, k, r) => s.takeToks x k r 1
            | none => s
          let last := c.word.getLsbD 20 && nbit tag 41
          let stop (s : State) : Iter :=
            let s := s.modHead b arrayPort fun c => { c with pos := c.pos + 1 }
            if last then .done s else .go s
          if arunOff c then stop (take s)
          else
            let q := decide (t.poison ≠ 0) || (a'.slot n).poison
            let p := if nbit tag 40 then List.replicate 64 0 else partials (a'.slot n) t.data
            let ctx := s.cmdCtx b arrayPort
            let at_ (o len : Nat) : List Seg := [⟨s.ga (windowAddr b (Config.accBase + o)), len⟩]
            match s.writeVia ctx (at_ (256 * (cb c.word 57 48 + c.pos)) 256) (p.flatMap fun v => putBytes 4 v q) with
            | .flt f => .flt s f
            | .wait s => .wait s
            | .ok s => match s.writeVia ctx (at_ (8 * (cb c.word 47 33 + c.pos)) 8) (putBytes 8 tag q) with
              | .flt f => .flt s f
              | .wait s => .wait s
              | .ok s =>
                let s := take s
                stop (match from_ with
                  | some (x, k, r) => if r.k ≠ 15 then s else s.modChan x.field x.id k fun ch =>
                      { ch with stored := some (s.ga (windowAddr b (Config.accBase + 8 * (cb c.word 47 33 + c.pos))), tag) }
                  | none => s)

/-- ARUN runs one row, when it is there, or ends: the rows are done, or a fault. -/
def execArun (b : Nat) (s : State) : Out := runCmd b arrayPort 0x0B false (arunOne b) s

/-- Rows of one dispatch: up to `n` that take no cell, then one that does (R274). -/
def arunCycle (b : Nat) : Nat → State → State
  | n, s => match s.head b arrayPort with
    | none => s
    | some c =>
      if c.phase ≠ .run ∨ cOpc c.word ≠ 0x0B then s
      else if s.arunSkips b c then match n with
        | 0 => s
        | n + 1 => arunCycle b n (s.iterate b arrayPort false (arunOne b))
      else s.iterate b arrayPort false (arunOne b)

/-- ARUN_ROW_DISPATCH: one bay cycle of the dispatcher takes up to 8 consecutive ZERO or off rows, and one further row
that is neither. -/
def execArunRowDispatch (b : Nat) (s : State) : Out := executing b arrayPort 0x0B s fun _ => .next (arunCycle b 8 s)

/-! ### ADRN (R275, R276) -/

/-- One output column from the terms of a row's passes, added to +0 in an unspecified order (R276). -/
def adrnCol (s : State) (ofmt key : Nat) (terms : List FVal) : Nat :=
  let acc := accTerms (fun j => s.pick 13 (16 * key + j)) terms.length (.fin false 0 0) terms
  match ofmt with
  | 0 => (F32.ofVal 0 acc).1
  | 1 => (BF16.ofVal 0 acc).1
  | _ => (F16.ofVal 0 acc).1

/-- The term of one pass: partial times column scale, rounded, times row scale, rounded. -/
def adrnTerm (rec scale rowScale : Nat) : FVal :=
  let v := sint 32 rec
  let t := (F32.ofVal 0 ((FVal.fin (decide (v < 0)) v.natAbs 0).mul (BF16.decode scale))).1
  F32.decode (F32.ofVal 0 ((F32.decode t).mul (BF16.decode rowScale))).1

/-- The records of a row: for each pass 256 partial bytes and 8 tag bytes. -/
def State.adrnRecs (s : State) (b : Nat) (c : Cmd) (r : Nat) : Nat → Except State (State × List (List (Byte × Bool) × List (Byte × Bool)))
  | 0 => .ok (s, [])
  | n + 1 =>
    let rows := cb c.word 32 21
    match State.adrnRecs s b c r n with
    | .error s => .error s
    | .ok (s, l) =>
      let at_ (o len : Nat) : List Seg := [⟨s.ga (windowAddr b (Config.accBase + o)), len⟩]
      match s.readVia (s.cmdCtx b arrayPort) (at_ (256 * (cb c.word 57 48 + n * rows + r)) 256) with
      | .ok s p => match s.readVia (s.cmdCtx b arrayPort) (at_ (8 * (cb c.word 47 33 + n * rows + r)) 8) with
        | .ok s t => .ok (s, l ++ [(p, t)])
        | .wait s => .error s
        | .flt _ => .error s
      | .wait s => .error s
      | .flt _ => .error s

/-- One output of ADRN: a row to the scratchpad, or half a row as a token; `forced` sends the token without room. -/
def adrnHalf (b : Nat) (forced : Bool) (s : State) (c : Cmd) : Iter :=
  let dstm := c.word.getLsbD 83
  let half := if dstm then 0 else c.pos % 2
  let r := if dstm then c.pos else c.pos / 2
  let ofmt := cb c.word 16 15
  let w := if ofmt = 0 then 4 else 2
  let fslot := cb c.word 65 58
  let next (s : State) (n : Nat) : Iter := .go (s.modHead b arrayPort fun c => { c with pos := c.pos + n })
  if r ≥ cb c.word 32 21 then
    if dstm then .done s
    else match s.extIn b (cb c.word 72 66) with
      | some (x, k, _) => endFeed c x k s
      | none => .wait s
  else if rowOff (c.word.getLsbD 14) c.zcap (cb c.word 9 4) r then next s (if dstm then 1 else 2)
  else match s.adrnRecs b c r (cb c.word 20 17 + 1) with
    | .error s => .wait s
    | .ok (s, recs) =>
      if recs.any fun (_, t) => bits (gotNat t) 47 43 ≠ 0 then .flt s (.mk0 0x16 (cmdFaddr 0x0C arrayPort))
      else
        let a := (s.bay b).array
        let q := recs.zipIdx.any fun ((p, t), i) => gotPoison p || gotPoison t || (a.scale (fslot + i)).2
        let cols := (List.range 64).map fun col =>
          adrnCol s ofmt (r * 64 + col) (recs.zipIdx.map fun ((p, t), i) =>
            adrnTerm (gotNat ((p.drop (4 * col)).take 4)) (bits (a.scale (fslot + i)).1.toNat (16 * col + 15) (16 * col))
              (bits (gotNat t) 63 48))
        if dstm then
          match s.writeVia (s.cmdCtx b arrayPort) [⟨s.ga (windowAddr b (8 * cb c.word 82 66 + 64 * w * r)), 64 * w⟩]
              (cols.flatMap fun v => putBytes w v q) with
          | .flt f => .flt s f
          | .wait s => .wait s
          | .ok s => next s 1
        else match s.extIn b (cb c.word 72 66) with
          | none => .wait s
          | some (x, k, rc) =>
            if forced || feedRoom x rc (x.chan k) c.region then
              next (s.feedTok b arrayPort x k (tokFrom b c (((cols.drop (32 * half)).take 32).flatMap fun v => putBytes w v q))) 1
            else .wait s
/-- One output of ADRN, a token only with room for it. -/
def adrnOne (b : Nat) (s : State) (c : Cmd) : Iter := adrnHalf b false s c

def execAdrn (b : Nat) (s : State) : Out := runCmd b arrayPort 0x0C false (adrnOne b) s

/-! ### Winnow mode (R277, R278) -/

/-- ACFG sets the mode. -/
def execAcfg (b : Nat) (s : State) : Out :=
  executing b arrayPort 0x0E s fun c =>
    let s := s.modArray b fun a =>
      if c.word.getLsbD 0 then
        { a with winnow := true, len := cb c.word 4 1, ksel := cb c.word 13 5, running := [], runPoison := false, resident := none }
      else if a.winnow then { a with winnow := false, running := [], runPoison := false, resident := none } else a
    .next (s.modHead b arrayPort fun c => { c with phase := .finish })

/-- The rank order of KEY tokens: higher KEYV first, then lower IDX (R97). -/
def keyAbove (x y : BitVec 128) : Bool :=
  let kx := bits x.toNat 63 0
  let ky := bits y.toNat 63 0
  decide (ky < kx) || (kx == ky && decide (bits x.toNat 95 64 < bits y.toNat 95 64))
/-- Insert a key by rank. -/
def keyInsert (x : BitVec 128) : List (BitVec 128) → List (BitVec 128)
  | [] => [x]
  | y :: l => if keyAbove x y then x :: y :: l else y :: keyInsert x l

/-- Take one key into the running set. -/
def Flail.takeKey (a : Flail) (x : BitVec 128) (q : Bool) : Flail :=
  { a with running := (keyInsert x a.running).take a.ksel, runPoison := a.runPoison || q }

/-- One key of ASORT, or one emitted token. -/
def asortOne (b : Nat) (s : State) (c : Cmd) : Iter :=
  let a := (s.bay b).array
  let bad : Flt := .mk0 0x16 (cmdFaddr 0x0D arrayPort)
  let n := cb c.word 47 32
  let emit := c.word.getLsbD 31
  let dstm := c.word.getLsbD 65
  let next (s : State) : Iter := .go (s.modHead b arrayPort fun c => { c with pos := c.pos + 1 })
  let keyBad (x : BitVec 128) : Bool := decide (bits x.toNat 127 96 ≠ 0) || decide (bits x.toNat 63 0 / 2 ^ (8 * a.len) ≠ 0)
  let take (s : State) (x : BitVec 128) (q : Bool) : State :=
    (s.modArray b fun a => a.takeKey x q).modHead b arrayPort fun c => { c with pos := c.pos + 1 }
  if !a.winnow then .flt s bad
  else if c.pos = 0 && emit && dstm && decide (8 * cb c.word 64 48 + 16 * a.ksel > scratchSize) then .flt s bad
  else if c.pos < n then
    if c.word.getLsbD 83 then
      -- two keys that fill an aligned granule are read at once (R65)
      let o := 16 * (cb c.word 82 66 / 2) + 16 * c.pos
      let two := o % 32 = 0 && decide (c.pos + 1 < n)
      match s.readVia (s.cmdCtx b arrayPort) [⟨s.ga (windowAddr b o), if two then 32 else 16⟩] with
      | .ok s l =>
        let x := BitVec.ofNat 128 (gotNat (l.take 16))
        let y := BitVec.ofNat 128 (gotNat (l.drop 16))
        if keyBad x then .flt s bad
        else
          let s := take s x (gotPoison (l.take 16))
          if !two then .go s else if keyBad y then .flt s bad else .go (take s y (gotPoison (l.drop 16)))
      | .wait s => .wait s
      | .flt f => .flt s f
    else match s.drainHead b (cb c.word 72 66) with
      | none => .wait s
      | some (x, k, r, t) =>
        if keyBad (t.data.setWidth 128) then .flt s bad
        else .go ((take s (t.data.setWidth 128) (decide (t.poison ≠ 0))).takeToks x k r 1)
  else if !emit then .done s
  else
    let m := a.running.length
    let clear (s : State) : State := s.modArray b fun a => { a with running := [], runPoison := false }
    if dstm then
      match s.writeVia (s.cmdCtx b arrayPort) [⟨s.ga (windowAddr b (8 * cb c.word 64 48)), 16 * m⟩]
          (a.running.flatMap fun x => putBytes 16 x.toNat a.runPoison) with
      | .flt f => .flt s f
      | .wait s => .wait s
      | .ok s => .done (clear s)
    else match s.extIn b (cb c.word 54 48) with
      | none => .wait s
      | some (x, k, r) => match a.running[c.pos - n]? with
        | none => endFeed c x k (clear s)
        | some y =>
          if feedRoom x r (x.chan k) c.region then
            next (s.feedTok b arrayPort x k (tokFrom b c (putBytes 16 y.toNat a.runPoison)))
          else .wait s

def execAsort (b : Nat) (s : State) : Out := runCmd b arrayPort 0x0D false (asortOne b) s

/-! ### Saved and reloaded arrays (R282, R283) -/

/-- The array as a stop saves it: the contents of the weight buffer are not saved. -/
def Flail.saved (a : Flail) : Flail := { a with slots := a.slots.map fun (n, x) => (n, { x with bytes := [], poison := false }) }

/-- What a reload of one bay's slots gives. -/
inductive Reload
  | ok (s : State)
  | wait (s : State)
  | flt (f : Flt)

/-- Reload a bay's valid slots from their source pointers, as APNL with KIND 0 would; a resident slot is fetched and
checked again at its next use. -/
def State.reloadSlots (s : State) (b : Nat) : List (Nat × Slot) → Reload
  | [] => .ok s
  | (n, x) :: l =>
    if !x.valid then State.reloadSlots s b l
    else match s.readRange (s.cmdCtx b arrayPort) x.source 6144 State.readOpen with
      | .wait s => .wait s
      | .flt f => .flt f
      | .ok s bs => State.reloadSlots (s.modArray b fun a => { a.putSlot n x.source bs with resident := none }) b l

end Sys2Proof.Machine
end

