-- ==== Sys2Proof/Machine/Gleaner.lean ====
section
/-! DEFINITION. The Gleaner (R306-R316, R322): GTH with its KV check and the lines fetched early, and the single token
moves of the engines (R218, R219). -/

namespace Sys2Proof.Machine

/-- The Gleaner port. -/
def gleanerPort : Nat := 0x2B

/-! ### Fields of a GTH (R307) -/

def gthEsz (c : Cmd) : Nat := cb c.ext 47 32
def gthN (c : Cmd) : Nat := cb c.ext 63 48
def gthKv (c : Cmd) : Bool := c.word.getLsbD 17
def gthDstm (c : Cmd) : Bool := c.word.getLsbD 16
/-- Bytes of one index. -/
def gthIsz (c : Cmd) : Nat := if cb c.word 19 18 = 0 then 4 else if cb c.word 19 18 = 1 then 8 else 16
/-- Bytes between elements; 0 means ESZ. -/
def gthStride (c : Cmd) : Nat := if cb c.ext 31 0 = 0 then gthEsz c else cb c.ext 31 0
/-- The index an entry of the list holds, `none` when it is null. -/
def gthIndex (c : Cmd) (w : Nat) : Option Nat :=
  match cb c.word 19 18 with
  | 0 => if bits w 31 0 = 2 ^ 32 - 1 then none else some (bits w 31 0)
  | 1 => if bits w 63 0 = 2 ^ 64 - 1 then none else some (bits w 63 0)
  | _ => if bits w 95 64 = 2 ^ 32 - 1 then none else some (bits w 95 64)

/-! ### The merge buffer (R311): keys of bytes and lines that were fetched early -/

/-- Key of byte `k` of element `t`. -/
def elemKey (c : Cmd) (t k : Nat) : Nat := gthEsz c * t + k
/-- Key of byte `k` of index `t`. -/
def indexKey (t k : Nat) : Nat := 2 ^ 40 + 16 * t + k
/-- Key that says line `l` of element `t` is held. -/
def lineKey (t l : Nat) : Nat := 2 ^ 41 + 2048 * t + l
/-- Lines a command holds in the buffer. -/
def heldLines (c : Cmd) : Nat := (c.lines.filter fun x => decide (x.1 ≥ 2 ^ 41)).length
/-- Bytes as the buffer holds them, or as just read. -/
def fromBuffer (c : Cmd) (key : Nat → Nat) (l : List (Byte × Bool)) : List (Byte × Bool) :=
  l.zipIdx.map fun (x, k) => tgetD (key k) x c.lines
/-- Drop what the buffer holds of the elements before `t`. -/
def dropLines (c : Cmd) (t : Nat) : Table (Byte × Bool) :=
  c.lines.filter fun x =>
    if x.1 ≥ 2 ^ 41 then decide (t ≤ (x.1 - 2 ^ 41) / 2048)
    else if x.1 ≥ 2 ^ 40 then decide (t ≤ (x.1 - 2 ^ 40) / 16)
    else decide (gthEsz c * t ≤ x.1)
/-- Put bytes into the buffer. -/
def bufferPut (key : Nat → Nat) (l : List (Byte × Bool)) (t : Table (Byte × Bool)) : Table (Byte × Bool) :=
  l.zipIdx.foldl (fun t (x, k) => tput (key k) x t) t

/-! ### Elements -/

/-- KvCheck (R314): the first 1,024 bytes of a KV page record. -/
def kvBad (l : List (Byte × Bool)) : Bool :=
  let at_ (lo n : Nat) : Nat := gotNat ((l.drop lo).take n)
  decide (at_ 0 4 ≠ 0x3147564B) || decide (at_ 4 1 > 128) || decide (at_ 5 251 ≠ 0) || decide (at_ 768 256 ≠ 0)

/-- Read index `t`. -/
def gthReadIndex (b : Nat) (s : State) (c : Cmd) (t : Nat) (k : State → List (Byte × Bool) → Iter) : Iter :=
  withPtr s (cPtr c.word) (offsetAdd (cPtr c.word) ((gthIsz c * t : Nat) : Int)) fun q =>
    readIter s (s.cmdCtx b gleanerPort) q (gthIsz c) fun s l => k s (fromBuffer c (indexKey t) l)

/-- Read element `t` whole: a null index gives zero bytes, and a KV page record is checked (R309). -/
def gthElem (b : Nat) (s : State) (c : Cmd) (t : Nat) (k : State → List (Byte × Bool) → Iter) : Iter :=
  gthReadIndex b s c t fun s w => match gthIndex c (gotNat w) with
    | none => k s (List.replicate (gthEsz c) (0, false))
    | some v => withPtr s (ePtr c.ext) (offsetAdd (ePtr c.ext) ((v * gthStride c : Nat) : Int)) fun p =>
      readIter s (s.cmdCtx b gleanerPort) p (gthEsz c) fun s' l =>
        let l := fromBuffer c (elemKey c t) l
        if gthKv c && kvBad l then .flt s (.mk0 0x16 p) else k s' l

/-- Tokens of one element. -/
def gthPer (c : Cmd) (r : ChanRec) : Nat := Nat.max 1 (gthEsz c / Nat.max 1 (fmtSize r.fmtp))

/-! ### Lines and the merge buffer of a die (R311, R375) -/

/-- The next element that a GTH has not delivered whole. -/
def State.gthNext (s : State) (b : Nat) (c : Cmd) : Nat :=
  if gthDstm c then c.pos else match s.extIn b (cb c.word 6 0) with
    | some (_, _, r) => c.pos / gthPer c r
    | none => 0
/-- What the buffer keeps at a stop: the rest of an element that has begun to go into its port; lines fetched beyond it are
dropped (R323). -/
def State.gthKept (s : State) (b : Nat) (c : Cmd) : Table (Byte × Bool) :=
  match s.extIn b (cb c.word 6 0) with
  | some (_, _, r) =>
    let t := c.pos / gthPer c r
    if gthDstm c || c.pos % gthPer c r == 0 then []
    else c.lines.filter fun x =>
      decide (gthEsz c * t ≤ x.1) && decide (x.1 < gthEsz c * (t + 1)) || decide (x.1 ≥ 2 ^ 41) && (x.1 - 2 ^ 41) / 2048 == t
        || decide (x.1 ≥ 2 ^ 40) && decide (x.1 < 2 ^ 41) && (x.1 - 2 ^ 40) / 16 == t
  | none => []

/-- The index of element `t` and the bytes of the element: `none` when they cannot be formed now; a null index has none. -/
def State.gthBytes (s : State) (b : Nat) (c : Cmd) (t : Nat) : Option (State × List (Byte × Bool) × List Nat) :=
  let ctx := s.cmdCtx b gleanerPort
  match (offsetAdd (cPtr c.word) ((gthIsz c * t : Nat) : Int)).map fun q => s.load ctx q (gthIsz c) with
  | some (.ok s l) =>
    let w := fromBuffer c (indexKey t) l
    match gthIndex c (gotNat w) with
    | none => some (s, w, [])
    | some v => match (offsetAdd (ePtr c.ext) ((v * gthStride c : Nat) : Int)).map fun p => s.loadAddr ctx p (gthEsz c) with
      | some (.ok (s, segs)) => some (s, w, segBytes segs)
      | _ => none
  | _ => none
/-- The lines of element `t`. -/
def State.gthLines (s : State) (b : Nat) (c : Cmd) (t : Nat) : Option (List Nat) :=
  (s.gthBytes b c t).map fun x => (x.2.2.map lineOf).dedup
/-- Buffer lines that elements `t`, `t + 1`, … of a command ask for after `got`, at most 256; requests go in index order and
stop at an element that cannot be formed. -/
def State.gthWants (s : State) (b : Nat) (c : Cmd) : Nat → Nat → Nat → Nat
  | 0, _, got => Nat.min 256 got
  | n + 1, t, got =>
    if got ≥ 256 then 256 else match s.gthLines b c t with
      | none => got
      | some l => s.gthWants b c n (t + 1) (got + l.length)
/-- Buffer lines a command asks for now. -/
def State.gthNeed (s : State) (b : Nat) (c : Cmd) : Nat := s.gthWants b c (gthN c - s.gthNext b c) (s.gthNext b c) 0
/-- GTH commands that execute on a die, with their bays, in the order in which they reached step 3. -/
def State.gathers (s : State) (die : Nat) : List (Nat × Cmd) :=
  sortBy (fun q => q.2.started * 2048 + q.1) (s.bays.filterMap fun (d, _) => match s.head d gleanerPort with
    | some x => if bayDie d = die ∧ x.phase = .run ∧ cOpc x.word = 0x08 then some (d, x) else none
    | none => none)
/-- Give the 1,024 lines of a die to commands, oldest first: what a command asks for, at most 256, of what the older ones have
been given and the younger ones hold; a tenant that `capped` names has at most 768. Answers bays with their lines. -/
def giveLines (tenant : Nat → Nat) (capped : Nat → Bool) (need : Nat × Cmd → Nat) :
    List (Nat × Nat) → List (Nat × Cmd) → List (Nat × Nat)
  | given, [] => given
  | given, q :: l =>
    let used (p : Nat → Bool) : Nat := ((given.filter fun x => p x.1).map Prod.snd).foldl (· + ·) 0
      + ((l.filter fun x => p x.1).map fun x => heldLines x.2).foldl (· + ·) 0
    let room := 1024 - used fun _ => true
    let cap := if capped (tenant q.1) then 768 - used fun d => tenant d == tenant q.1 else 1024
    giveLines tenant capped need ((q.1, Nat.max (heldLines q.2) (Nat.min (need q) (Nat.min 256 (Nat.min room cap)))) :: given) l
/-- Tenant of a bay's engines. -/
def State.engineTenant (s : State) (d : Nat) : Nat := (s.cmdCtx d gleanerPort).tenant
/-- A command of another tenant waits for a line of the die. -/
def State.linesWanted (s : State) (die t : Nat) : Bool :=
  (s.gathers die).any fun q => s.engineTenant q.1 != t && decide (heldLines q.2 < s.gthNeed q.1 q.2)
/-- Buffer lines that the command of a bay may hold now. -/
def State.gthShare (s : State) (b : Nat) : Nat :=
  tgetD b 0 (giveLines s.engineTenant (s.linesWanted (bayDie b)) (fun q => s.gthNeed q.1 q.2) [] (s.gathers (bayDie b)))
/-- A command asks for a line: a tenant of the die that holds more than 768 while another's command waits for one gives lines
back, its youngest commands first, and fetches them again (R375). -/
def State.yieldLines (s : State) (b : Nat) : State :=
  let l := s.gathers (bayDie b)
  let over_ (s : State) (t : Nat) : Bool :=
    decide ((((s.gathers (bayDie b)).filter fun q => s.engineTenant q.1 == t).map fun q => heldLines q.2).foldl (· + ·) 0 > 768)
  l.reverse.foldl (fun s q =>
    if s.engineTenant q.1 ≠ s.engineTenant b ∧ over_ s (s.engineTenant q.1) = true then
      s.modHead q.1 gleanerPort fun c => { c with lines := [] }
    else s) s
/-- The next element of an older command of the die stands ready in the buffer and finds room: it is delivered first. -/
def State.olderReady (s : State) (b : Nat) (c : Cmd) : Bool :=
  (s.gathers (bayDie b)).any fun (d, x) =>
    decide (x.started * 2048 + d < c.started * 2048 + b) &&
      (match s.gthLines d x (s.gthNext d x) with
       | some l => l != [] && (List.range l.length).all fun k => (tget (lineKey (s.gthNext d x) k) x.lines).isSome
       | none => false) &&
      (gthDstm x || match s.extIn d (cb x.word 6 0) with
       | some (y, k, r) => feedRoom y r (y.chan k) x.region
       | none => false)

/-! ### Delivery -/

/-- Runs of consecutive addresses. -/
def addrRuns : List Nat → List Seg
  | [] => []
  | a :: l => match addrRuns l with
    | x :: r => if a + 1 = x.addr then ⟨a, x.len + 1⟩ :: r else ⟨a, 1⟩ :: x :: r
    | [] => [⟨a, 1⟩]
/-- The buffer after the lines of element `t` from byte `lo` on have been read up to byte `hi`: what lies before them has been
delivered; `at_` are the element's addresses. -/
def fillLines (c : Cmd) (t lo hi : Nat) (at_ : List Nat) (l : List (Nat × (Byte × Bool))) : Table (Byte × Bool) :=
  let ls := (at_.map lineOf).dedup
  let idx (k : Nat) : Nat := ls.findIdx (· == lineOf (at_.getD k 0))
  let kept := c.lines.filter fun x =>
    !(decide (gthEsz c * t ≤ x.1) && decide (x.1 < gthEsz c * t + lo)) &&
      !(decide (lineKey t 0 ≤ x.1) && decide (x.1 < lineKey t (idx lo)))
  let put := l.foldl (fun m (k, x) => tput (elemKey c t k) x m) kept
  (List.range (idx (hi - 1) + 1 - idx lo)).foldl (fun m k => tput (lineKey t (idx lo + k)) (0, false) m) put
/-- Read of element `t` from byte `lo` on what the buffer has room for and does not hold; `n` bytes are needed. A null index
gives zero bytes; the element is formed whole, and a KV page record is checked at its first byte (R309). -/
def gthFill (b : Nat) (s : State) (c : Cmd) (t lo n : Nat) (k : State → Iter) : Iter :=
  gthReadIndex b s c t fun s w =>
    let index (m : Table (Byte × Bool)) : Table (Byte × Bool) := bufferPut (indexKey t) w m
    match gthIndex c (gotNat w) with
    | none => k (s.modHead b gleanerPort fun c => { c with
        lines := index (bufferPut (elemKey c t) (List.replicate (gthEsz c) (0, false)) c.lines) })
    | some v => withPtr s (ePtr c.ext) (offsetAdd (ePtr c.ext) ((v * gthStride c : Nat) : Int)) fun p =>
      match s.loadAddr (s.cmdCtx b gleanerPort) p (gthEsz c) with
      | .error f => .flt s f
      | .ok (s', segs) =>
        let s' := s'.yieldLines b
        let at_ := segBytes segs
        let from_ := at_.drop lo
        let ls := ((from_.map lineOf).dedup).take (s'.gthShare b)
        let hi := lo + (from_.takeWhile fun a => ls.contains (lineOf a)).length
        let kv := gthKv c && decide (lo = 0)
        if hi < lo + (if kv then Nat.max n 1024 else n) then .wait s'
        else
          let miss := (List.range (hi - lo)).map (lo + ·) |>.filter fun j => (tget (elemKey c t j) c.lines).isNone
          match s'.readVia (s'.cmdCtx b gleanerPort) (addrRuns (miss.map fun j => at_.getD j 0)) with
          | .flt f => .flt s f
          | .wait s => .wait s
          | .ok s' got =>
            let lines := index (fillLines c t lo hi at_ (miss.zip got))
            let bytes := (List.range 1024).map fun j => tgetD (elemKey c t j) (0, false) lines
            if kv && kvBad bytes then .flt s (.mk0 0x16 p)
            else k (s'.modHead b gleanerPort fun c => { c with lines := lines })

/-- One token of a GTH into a port: its bytes come from the merge buffer, and it waits for room (R309, R324). -/
def gthToken (b : Nat) (s : State) (c : Cmd) : Iter :=
  match s.extIn b (cb c.word 6 0) with
  | none => .wait s
  | some (x, k, r) =>
    let sz := fmtSize r.fmtp
    let per := gthPer c r
    let t := c.pos / per
    let j := c.pos % per
    let push (s : State) : Iter := match s.head b gleanerPort with
      | none => .wait s
      | some c =>
        let l := (List.range sz).map fun i => tgetD (elemKey c t (sz * j + i)) (0, false) c.lines
        if feedRoom x r (x.chan k) c.region then
          .go ((s.feedTok b gleanerPort x k (tokFrom b c l)).modHead b gleanerPort fun c =>
            { c with pos := c.pos + 1, lines := if j + 1 ≥ per then dropLines c (t + 1) else c.lines })
        else .wait s
    if t ≥ gthN c then .done s
    else if j ≠ 0 && (List.range sz).all fun i => (tget (elemKey c t (sz * j + i)) c.lines).isSome then push s
    else gthFill b s c t (sz * j) sz push

/-- One element of a GTH into the issuing bay's scratchpad. -/
def gthScratch (b : Nat) (s : State) (c : Cmd) : Iter :=
  let esz := gthEsz c
  let lines := (s.gthLines b c c.pos).getD []
  let held := (List.range lines.length).all fun k => (tget (lineKey c.pos k) c.lines).isSome
  if c.pos ≥ gthN c then .done (s.sbDropAll c.id)
  else if !held && (s.yieldLines b).gthShare b = 0 then .wait (s.yieldLines b)
  else gthElem b s c c.pos fun s l =>
    match s.writeOpen (s.cmdCtx b gleanerPort) [⟨s.ga (windowAddr b (16 * cb c.word 15 0 + esz * c.pos)), esz⟩] l with
    | .flt f => .flt s f
    | .wait s => .wait s
    | .ok s => .go (s.modHead b gleanerPort fun c => { c with pos := c.pos + 1, lines := dropLines c (c.pos + 1) })

/-- One delivery of a GTH; of the lines that stand ready, those of the oldest command of the die go first (R311). -/
def gthOne (b : Nat) (s : State) (c : Cmd) : Iter :=
  if s.olderReady b c then .wait s else if gthDstm c then gthScratch b s c else gthToken b s c

def execGth (b : Nat) (s : State) : Out := runCmd b gleanerPort 0x08 true (gthOne b) s

/-! ### Lines requested ahead (R311) -/

/-- Lines that a command asks for ahead of element `t`; `none` when one of them cannot be formed. -/
def State.gthAhead (s : State) (b : Nat) (c : Cmd) (t : Nat) : Option Nat :=
  let n := s.gthNext b c
  (List.range (t - n)).foldl (fun o k => match o, s.gthLines b c (n + k) with
    | some m, some l => some (m + l.length)
    | _, _ => none) (some 0)

/-- GLEANER_LINE_REPLY: line `l` of element `t`, read before its turn, waits in the merge buffer with its index. Lines are
requested in index order as buffer space allows. A read that would fault is left to its turn, since faults are taken in
index order. -/
def execGleanerLineReply (b t l : Nat) (s : State) : Out :=
  executing b gleanerPort 0x08 s fun c =>
    if t < s.gthNext b c || t ≥ gthN c || (tget (lineKey t l) c.lines).isSome then .next s
    else match s.gthAhead b c t, s.gthBytes b c t with
      | some m, some (s', w, bytes) => match (bytes.map lineOf).dedup[l]? with
        | none => .next s
        | some n =>
          let s' := s'.yieldLines b
          if m + l ≥ s'.gthShare b then .next s'
          else
            let ks := (List.range bytes.length).filter fun k => lineOf (bytes.getD k 0) == n
            match s'.readVia (s'.cmdCtx b gleanerPort) (ks.map fun k => ⟨bytes.getD k 0, 1⟩) with
            | .ok s' got => .next (s'.modHead b gleanerPort fun c =>
                { c with lines := tput (lineKey t l) (0, false) (bufferPut (indexKey t) w
                    ((ks.zip got).foldl (fun m (k, x) => if (tget (elemKey c t k) m).isSome then m else tput (elemKey c t k) x m)
                      c.lines)) })
            | _ => .next s
      | _, _ => .next s

/-! ### Single tokens (R218, R219, R225) -/

/-- One iteration of the head command of a port, when its operation code is in a list. -/
def oneToken (b p : Nat) (ops : List Nat) (s : State) : Out :=
  atPhase b p .run s fun c =>
    let opc := cOpc c.word
    if !ops.contains opc then .next s
    else
      let resolves := opc == 0x01 || opc == 0x08
      let one : State → Cmd → Iter := match opc with
        | 0x01 => ldsOne b p
        | 0x02 => stsOne b p
        | 0x03 => ldlOne b p
        | 0x07 => sctOne b p
        | 0x08 => gthOne b
        | 0x09 => updsOne b p
        | 0x0C => adrnOne b
        | 0x0D => asortOne b
        | _ => splrdOne b p
      .next (s.iterate b p resolves one)

/-- ENGINE_TOKEN_PUSH: a load element, Gleaner or array pushes one token; those of a local LDS move as bay cycles pass. -/
def execEngineTokenPush (b : Nat) (p : Port) (s : State) : Out :=
  if s.localHead b p.toNat then .next s else oneToken b p.toNat [0x01, 0x03, 0x08, 0x0C, 0x0D, 0x10] s
/-- ENGINE_TOKEN_TAKE: a store element, SCT or UPDS takes one token. -/
def execEngineTokenTake (b : Nat) (p : Port) (s : State) : Out := oneToken b p.toNat [0x02, 0x07, 0x09] s

end Sys2Proof.Machine
end

