-- ==== Sys2Proof/Machine/Granary.lean ====
section
/-! DEFINITION. Granary events (R289, R291, R292, R296, R305): a pair is serialised, a batch closes, a batch is
inserted, a sweep reaches a slice. The bin store itself stands in Memsys.lean. -/

namespace Sys2Proof.Machine

/-- The pair at a position of the way is the oldest on its path, and a route reaches its slice. -/
def State.pairReady (s : State) (n : Nat) (p : Pair) : Bool :=
  (s.pairs.take n).all (fun q => !s.samePath q p) && !s.stays p

/-- A pair arrives at its home slice and joins the open batch. -/
def execPairArrive (n : Nat) (s : State) : Out :=
  match s.pairs[n]? with
  | none => .next s
  | some p => if s.pairReady n p then .next (({ s with pairs := dropAt s.pairs n } : State).serialise p) else .next s

/-- 64 ring cycles have passed since the batch's first pair: it closes. -/
def execBatchTimeout (k : Nat) (s : State) : Out :=
  let x := s.slice k
  .next (if x.batch = [] then s else s.setSlice k { x with closed := true })

/-- A closed batch is inserted and the limits are tested. -/
def execBatchInsert (k : Nat) (s : State) : Out := .next (s.settle k)

/-- A sweep for a sync object reaches a slice: its pending pairs are applied there. Acquires sweep in their own step
(`State.acquire`). -/
def execSweep (k key : Nat) (s : State) : Out := .next (s.sweepSlice k key)

end Sys2Proof.Machine
end

