-- ==== Sys2Proof/Machine/Privileged.lean ====
section
/-! DEFINITION. Major 0x3E: the privileged instructions (R52, R263, R264, R342, R385). -/

namespace Sys2Proof.Machine

/-- The privilege fault of a tenant other than 0 (R107, R151); FADDR is the instruction word. -/
def privileged (i : Instr) (s : State) (k : State → Out) : Out :=
  if s.firCtx.tenant ≠ 0 then wordFault 0x03 i s else k s

/-- Drop cached handle entries of a tenant from every bay and sequencer. -/
def State.dropHandles (s : State) (t : Nat) (all : Bool) (h : Nat) : State :=
  let gone (k : Nat) : Bool := k / 4096 == t && (all || k % 4096 == h)
  { s with bays := s.bays.map fun (b, x) => (b, { x with hcache := x.hcache.filter fun e => !gone e.1 })
           seqCache := s.seqCache.filter fun e => !gone (e.1 % 65536) }
/-- Drop cached images of a tenant from every sequencer, and their actor code from every bay. -/
def State.dropImages (s : State) (t : Nat) (all : Bool) (p : Word) : State :=
  { s with
    images := s.images.filter fun x => !(x.tenant == t && (all || x.ptr == p))
    bays := s.bays.map fun (b, y) => (b, { y with codes := y.codes.filter fun x => !(x.tenant == t && (all || x.ptr == p)) }) }
/-- Drop cached translations of a tenant. -/
def State.dropTlb (s : State) (t : Nat) (all : Bool) (va : Nat) : State :=
  { s with
    tlb := s.tlb.filter fun x => !(x.tenant == t && (all || (decide (x.va ≤ va) && decide (va < x.va + x.size))))
    walks := s.walks.filter fun x => !(x.tenant == t && (all || x.page == va / 2 ^ x.lo)) }

/-- Accesses of a tenant on their way, of those that `pair`, `handle` and `runs` name. -/
def State.onWay (s : State) (t : Nat) (pair : Pair → Bool) (handle : Nat → Bool) (runs : List Seg → Bool) : Pending where
  pairs := (s.pairs ++ s.stagedPairs).filter fun p => p.tenant == t && pair p
  units := s.rwq.filter fun u => u.tenant == t && handle u.handle && runs [⟨s.ga (windowAddr u.bay (Config.regBase + u.off)), 8⟩]
  stores := s.bays.flatMap fun q => if s.bayTenant q.1 = t then
    q.2.fwd.filter fun e => handle e.handle && runs (asSegs e.segs) else []
  streams := (s.streams.filter fun m => m.tenant == t && runs (asSegs m.src) && s.bays.any fun q =>
    (tgetD 0x28 [] q.2.queues).head?.any fun c => c.stream == m.id && handle (ptrH (cPtr c.word))).map McStream.id
  writes := (s.hostWrites.filter fun q => q.1 % 16 == t).flatMap fun q => (q.2.map HostWrite.addr).filter fun l => runs (asSegs l)
/-- HINV (R263): the cached entries go; the accesses formed through them, by their handle. -/
def State.hinv (s : State) (t : Nat) (all : Bool) (h : Nat) : State × Pending :=
  let through (k : Nat) : Bool := decide (k > 3) && (all || k == h)
  (s.dropHandles t all h, { s.onWay t (fun p => through p.handle) through (fun _ => true) with writes := [] })
/-- TLBI (R52): the cached translations go; the accesses translated through them, by the physical pages they name. -/
def State.tlbi (s : State) (t : Nat) (all : Bool) (va : Nat) : State × Pending :=
  let gone := s.tlb.filter fun x => x.tenant == t && (all || (decide (x.va ≤ va) && decide (va < x.va + x.size)))
  let hit (l : List Seg) : Bool := l.any fun y => gone.any fun x => decide (y.addr < x.pa + x.size) && decide (x.pa < y.addr + y.len)
  (s.dropTlb t all va, s.onWay t (fun p => hit [⟨p.pa, opSize p.op⟩]) (fun _ => true) hit)
/-- The firing parks until the accesses formed through what an invalidation has dropped are performed, and retires. -/
def waitFor (r : State × Pending) : Out := if r.1.outstanding r.2 then .next (r.1.park (.inval r.2) true) else retire r.1

def execHinv (a b : R5) (s : State) : Out :=
  privileged (.hinv a b) s fun s =>
    let x := s.regs.rg a
    waitFor (s.hinv (wget x 3 0) (x.getLsbD 4) (wget (s.regs.rg b) 11 0))
def execImginv (a b : R5) (s : State) : Out :=
  privileged (.imginv a b) s fun s =>
    let x := s.regs.rg a
    retire (s.dropImages (wget x 3 0) (x.getLsbD 4) (s.regs.rg b))
def execTlbi (a b : R5) (s : State) : Out :=
  privileged (.tlbi a b) s fun s =>
    let x := s.regs.rg a
    waitFor (s.tlbi (wget x 3 0) (x.getLsbD 4) (wget (s.regs.rg b) 51 0))

/-! ### Context moves (R385) -/

/-- Bytes of a save area. -/
def saveArea : Nat := 0x580000
/-- A context move ends with a status; the destination is poisoned when a source is (R155). -/
def moveStatus (d a b : R5) (n : Word) (s : State) : Out := finish s fun r => r.wg d n (r.rgp a || r.rgp b)
/-- The four shares of an island's loft as they stand. -/
def State.loftBytes (s : State) (i : Nat) : List (Byte × Bool) :=
  (List.range 4).flatMap fun j => (List.range Config.shareSize).map fun k =>
    (s.mem.read (s.shareAddr i j + k), decide (s.mpoison.read (s.shareAddr i j + k) ≠ 0))
/-- Write the four shares of an island's loft. -/
def State.putLoft (s : State) (i : Nat) (l : List (Byte × Bool)) : State :=
  (List.range 4).foldl (fun s j =>
    s.rawWrite (((l.drop (Config.shareSize * j)).take Config.shareSize).zipIdx.map fun (b, k) =>
      (s.shareAddr i j + k, b.1, b.2))) s
/-- The share of a bay: bay `j` with its bytes, and the fields that the share's bay is the origin of, from one save. -/
def State.shareOf (s : State) (c : LoftCtx) (j : Nat) : LoftCtx :=
  let b := islandBay c.island j
  let fields := c.fields.filter fun f => s.fieldBay f 0 0 == b
  let mine (x : Inst) : Bool := fields.any fun f => f.id == x.field
  let here (a : Nat) : Bool := isWindow (gaLocal a) && windowBay (gaLocal a) == b
  let ring (a : Nat) : Bool := s.veils.any fun v =>
    decide (v.lo ≤ a) && decide (a < v.hi) && c.insts.any fun x => mine x && x.field == v.field && x.id == v.inst
  let keep (a : Nat) : Bool := if isWindow (gaLocal a) then here a else ring a
  { c with
    bays := c.bays.filter fun q => q.1 == b, mem := c.mem.filter fun x => keep x.1
    mpoison := c.mpoison.filter fun x => keep x.1, fields := fields, insts := c.insts.filter mine }
/-- One context of four shares, the later of which may come from other saves; tenant, stop and time are the first's. -/
def joinShares (c : LoftCtx) (l : List LoftCtx) : LoftCtx :=
  let add (m : Memory) (n : Memory) : Memory := n.foldl (fun m x => Memory.write m x.1 x.2) m
  l.foldl (fun (d : LoftCtx) (e : LoftCtx) => { d with
    bays := d.bays ++ e.bays, mem := add d.mem e.mem, mpoison := add d.mpoison e.mpoison
    fields := d.fields ++ e.fields, insts := d.insts ++ e.insts }) c
/-- The context a save area holds for an island, if each of its four shares is good (R385): every trailer, and every
trailer's tenant. Shares of one save give that context; the shares of different saves are joined into a new one. -/
def State.savedCtx (s : State) (i : Nat) (l : List (Byte × Bool)) : Option (State × Nat) :=
  let share (j : Nat) : List (Byte × Bool) := (l.drop (Config.shareSize * j)).take Config.shareSize
  let read (j : Nat) : Option (Nat × Nat) := if gotPoison (share j) then none else shareRead i j ((share j).map Prod.fst)
  let got := (List.range 4).map read
  if got.any (fun q => !q.any fun q => s.mapsIdle q.2 i && (s.ctxs[q.1]?).isSome) then none
  else
    let ns := got.map fun q => (q.map Prod.fst).getD 0
    let n := ns.headD 0
    if ns.all (· == n) then some (s, n)
    else match (ns.zipIdx.filterMap fun (m, j) => (s.ctxs[m]?).map fun c => s.shareOf c j) with
      | [] => none
      | c :: rest => some ({ s with ctxs := s.ctxs ++ [joinShares c rest] }, s.ctxs.length)

def execCtxsave (d a b : R5) (s : State) : Out :=
  privileged (.ctxsave d a b) s fun s =>
    let p := s.regs.rg b
    let i := wget (s.regs.rg a) 8 0
    if wget p 5 0 ≠ 0 then takeFault 0x0D p s
    else match s.storeAddr s.firCtx p saveArea with
      | .error f => memFault false f s
      | .ok (s', l) => if i ≥ Config.islands then moveStatus d a b 5 s' else match s'.loft i with
        | .empty => moveStatus d a b 1 s'
        | .restoring _ => moveStatus d a b 2 s'
        | .full _ => match s'.writeVia s.firCtx l (s'.loftBytes i) with
          | .flt f => memFault false f s
          | .wait s' => .next s'
          | .ok s' => moveStatus d a b 0 (s'.setLoft i .empty)

def execCtxload (d a b : R5) (s : State) : Out :=
  privileged (.ctxload d a b) s fun s =>
    let p := s.regs.rg b
    let i := wget (s.regs.rg a) 8 0
    if wget p 5 0 ≠ 0 then takeFault 0x0D p s
    else match s.loadAddr s.firCtx p saveArea with
      | .error f => memFault false f s
      | .ok (s', l) => if i ≥ Config.islands then moveStatus d a b 5 s' else match s'.loft i with
        | .empty => match s'.readVia s.firCtx l with
          | .flt f => memFault false f s
          | .wait s' => .next s'
          | .ok s' bs => match s'.savedCtx i bs with
            | none => moveStatus d a b 3 s'
            | some (s', n) => moveStatus d a b 0 ((s'.putLoft i bs).setLoft i (.full n))
        | _ => moveStatus d a b 4 s'

/-! ### SOLVREQ (R342) -/

/-- Set EFFB of an actor record of an instance: in its bay's counter block, or in every saved block of the bay as the
instance holds it (R338, R384). -/
def State.setEffb (s : State) (x : Inst) (n : Nat) (idx v : Nat) : State :=
  let b := s.actBay x n
  let put (y : Bay) : Bay := { y with counters := tput (32 * idx + 20) (BitVec.ofNat 32 v) y.counters }
  if (s.bay b).inst == some (x.field, x.id) then s.modBay b put
  else { s with ctxs := s.ctxs.map fun c => { c with
    bays := c.bays.map fun q => if q.1 = b ∧ q.2.inst = some (x.field, x.id) then (b, put q.2) else q } }

/-- Drop the solver's measurements of a tenant's instances; EFFB becomes BOUND. -/
def State.dropMeasures (s : State) (t : Nat) : State :=
  let mine := s.liveOf t
  let s : State := { s with insts := s.insts.map fun x =>
    if (s.field? x.field).any fun f => f.tenant == t then { x with measures := [], ends := [] } else x }
  mine.foldl (fun (s : State) (x : Inst) => x.image.actors.zipIdx.foldl (fun (s : State) (q : ActorRec × Nat) =>
    s.setEffb x q.2 q.1.idx q.1.bound) s) s

def execSolvreq (a b : R5) (s : State) : Out :=
  privileged (.solvreq a b) s fun s =>
    let t := wget (s.regs.rg a) 3 0
    let s := if (s.regs.rg b).getLsbD 0 then s.dropMeasures t else s
    retire (if (s.liveOf t).isEmpty then s else s.postSolve t 5)

end Sys2Proof.Machine
end

