-- ==== Sys2Proof/Machine/Report.lean ====
section
/-! DEFINITION. What the host is told (R29, R387): fault records, completion records and MSI-X messages. -/

namespace Sys2Proof.Machine

/-- A fault record before it is written (R387). -/
structure Report where
  kind : Nat
  cause : Nat
  recoverable : Bool
  sect : Nat
  faddr : Word
  epc : Word
  node : Word
  launch : Nat
  bay : Nat
  count : Nat
  deriving DecidableEq, Repr

/-- The 64 bytes of a record. -/
def Report.bytes (r : Report) (dtime : Nat) : List Byte :=
  natLe 1 r.kind ++ natLe 1 r.cause ++ natLe 1 (if r.recoverable then 1 else 0) ++ natLe 1 0 ++ natLe 4 r.sect
    ++ natLe 8 r.faddr.toNat ++ natLe 8 r.epc.toNat ++ natLe 8 r.node.toNat ++ natLe 2 r.launch ++ natLe 2 r.bay
    ++ natLe 4 (Nat.min r.count (2 ^ 32 - 1)) ++ natLe 8 dtime ++ natLe 16 0

/-- Send an MSI-X message to a tenant's functions, or to the physical function. -/
def State.interrupt (s : State) (t : Nat) (physical : Bool) : State := { s with msix := s.msix ++ [⟨t, physical⟩] }

/-- Context of a unit that acts for a tenant with a field of a size at an origin; handles 0..3 name nothing for it. -/
def State.unitCtx (s : State) (t f fw fh ox oy : Nat) : Ctx := ⟨.unit, t, s.moduleBay t ox oy, false, f, 0, fw, fh, ox, oy⟩

/-- Write a record to the tenant's ring: a full ring, EN = 0 or a failed write only counts it as lost (R387). -/
def State.fltRecord (s : State) (t : Nat) (r : Report) : State :=
  let x := s.tenant t
  let prod := wget x.fltptr 31 16
  let lost : State := s.modTenant t fun y => { y with fltptr := wadd y.fltptr 63 48 1 }
  if !x.fltring.getLsbD 63 || (prod + 65536 - wget x.fltptr 15 0) % 65536 ≥ 64 then lost
  else match s.transRange State.atHome (s.unitCtx t 0 0 0 0 0) 0 true 2 (wget x.fltring 51 12 * 4096 + 64 * (prod % 64)) 64 with
    | .error _ => lost
    | .ok (s1, l) =>
      -- a record is no copy's write: none goes into a register window (R56)
      if segsTouchReg l then lost
      else
        let s := s1.writeSegs (s1.unitCtx t 0 0 0 0 0) l ((r.bytes s.dtime.toNat).map fun b => (b, false))
        (s.modTenant t fun y => { y with fltptr := wset y.fltptr 31 16 (prod + 1) }).interrupt t false

/-- Runs of single bytes. -/
def byteRuns (l : List Seg) : List Seg := (segBytes l).map fun a => ⟨a, 1⟩

/-- Complete a launch (R29): the pairs of the field are serialised; word 0 of the record for code 0 alone, then word 1, then
the message. A record that cannot be written gives a TYPE 4 report. -/
def State.complete (s : State) (t : Nat) (p : BitVec 512) (code : Nat) (c : Ctx) : State :=
  let id := pkt p 335 320
  let s := s.drainIf fun x => x.field == c.field
  let s := if pktDone p = 0 then s
    else match s.storeAddr c (pktDone p) 16 with
      | .error f => (s.keeping f).fltRecord t ⟨4, f.code, false, 0, pktDone p, 0, 0, id, 0x7FF, 0⟩
      | .ok (s, l) =>
        let l := byteRuns l
        let s := if code = 0 then s.writeSegs c (l.take 8) (putBytes 8 (pkt p 255 192) false) else s
        s.writeSegs c (l.drop 8) (putBytes 8 (id * 2 ^ 48 + 2 ^ 32 + code) false)
  if nbit p.toNat 338 then s.interrupt t false else s

/-- Context of a field's completion record. -/
def State.fieldCtx (s : State) (f : Field) : Ctx := s.unitCtx f.tenant f.id (pktFw f.packet) (pktFh f.packet) f.ox f.oy

end Sys2Proof.Machine
end

