-- ==== Sys2Proof/Machine/Launch.lean ====
section
/-! DEFINITION. Launches (R23-R30, R394-R396): packets enter a queue, the distributor checks and places them, gangs meet
their deadline, launches complete. -/

namespace Sys2Proof.Machine

/-! ### Packets and queues -/

/-- BAR accesses other than to BOOTST and MODINFO are served (R359, R399). -/
def State.served (s : State) : Bool := decide (wget s.bootst 1 0 = 3) && decide (s.modnum ≠ 0x1FF)
/-- Key of a function. -/
def fnKey (f : HostFn) : Nat := 16 * f.port.toNat + f.vf.toNat
/-- Writes of a function that have not been acknowledged (R396). -/
def State.pendingWrites (s : State) (f : HostFn) : List HostWrite := tgetD (fnKey f) [] s.hostWrites
/-- LQ_FREE (R23). -/
def Tenant.free (t : Tenant) : Nat := Config.launchQueue - t.launches.length

/-- A write to a launch window's packet address. It passes the ordering point like a write with Relaxed Ordering clear:
after every earlier write of its function (R25, R396). The window of `vf` 0 is tenant 0's. -/
def execLaunchPacketWrite (fn : HostFn) (off size : Nat) (data : BitVec 512) (s : State) : Out :=
  let t := fn.vf.toNat
  if !s.served || !(s.pendingWrites fn).isEmpty then .next s
  else if off ≠ 0 ∨ size ≠ 64 then .next (s.modTenant t fun x => { x with lqdisc := wadd x.lqdisc 31 0 1 })
  else if (s.tenant t).free = 0 then .next (s.modTenant t fun x => { x with lqdisc := wadd x.lqdisc 63 32 1 })
  else .next (s.modTenant t fun x => { x with launches := x.launches ++ [data] })

/-! ### The distributor (R26) -/

def pktGang (p : BitVec 512) : Bool := nbit p.toNat 336
def pktFixed (p : BitVec 512) : Bool := nbit p.toNat 337
def pktGangn (p : BitVec 512) : Nat := pkt p 360 352
/-- A RATE that is NaN, infinite or has its sign bit set (R26, R251). -/
def rateBad (r : Nat) : Bool := decide (bits r 30 23 = 255) || nbit r 31
/-- A malformed packet: code 0x0001. -/
def pktMalformed (p : BitVec 512) : Bool :=
  decide (pkt p 295 292 ≠ 0) || decide (pkt p 319 312 ≠ 0) || decide (pkt p 343 339 ≠ 0) || decide (pkt p 351 344 ≠ 0)
    || decide (pkt p 367 361 ≠ 0) || decide (pkt p 511 384 ≠ 0) || decide (pktFw p = 0) || decide (pktFh p = 0)
    || rateBad (pkt p 287 256)
    || (pktGang p && (decide (pktStart p = 0) || decide (pktGangn p = 0) || decide (pktGangn p > 320)))
    || (!pktGang p && decide (pktGangn p ≠ 0))
    || (!pktFixed p && (decide (pkt p 375 368 ≠ 0) || decide (pkt p 383 376 ≠ 0)))
/-- A field that exceeds the grid: code 0x0002. -/
def pktTooBig (vw vh : Nat) (p : BitVec 512) : Bool :=
  decide (pktFw p > vw) || decide (pktFh p > vh)
    || (pktFixed p && (decide (pkt p 375 368 + pktFw p > vw) || decide (pkt p 383 376 + pktFh p > vh)))
/-- A gang that STARTTICK - 2,000 has left unplaced: code 0x0004 (R28). -/
def State.gangLate (s : State) (p : BitVec 512) : Bool := pktGang p && decide (s.dtime.toNat + 2000 > pktStart p)

/-- Origins the distributor tries, in order. -/
def origins (vw vh : Nat) (p : BitVec 512) : List (Nat × Nat) :=
  if pktFixed p then [(pkt p 375 368, pkt p 383 376)]
  else (List.range (vh + 1 - pktFh p)).flatMap fun y => (List.range (vw + 1 - pktFw p)).map fun x => (x, y)
/-- Two rectangles of virtual bays meet. -/
def overlap (x0 y0 w0 h0 x1 y1 w1 h1 : Nat) : Bool :=
  decide (x0 < x1 + w1) && decide (x1 < x0 + w0) && decide (y0 < y1 + h1) && decide (y1 < y0 + h0)
/-- Every bay of a rectangle at an origin is free for the tenant: no field owns it, and no resident partition holds it when
the tenant is 0 (R21, R26, R373). -/
def State.freeRect (s : State) (t w h ox oy : Nat) : Bool :=
  s.fields.all (fun f => decide (f.tenant ≠ t) || !overlap ox oy w h f.ox f.oy (pktFw f.packet) (pktFh f.packet)) &&
    (decide (t ≠ 0) ||
      let held := s.heldIslands
      held.isEmpty || (List.range h).all fun y => (List.range w).all fun x =>
        !held.contains (bayIsland (64 * (oy + y) + ox + x))) &&
    let taken := s.othersBays t
    taken.isEmpty || (List.range h).all fun y => (List.range w).all fun x => !taken.contains (s.moduleBay t (ox + x) (oy + y))

/-- Remove the head packet of a tenant and complete it with a code. -/
def State.reject (s : State) (t : Nat) (p : BitVec 512) (code : Nat) : State :=
  let s := s.modTenant t fun x => { x with launches := x.launches.drop 1 }
  s.complete t p code (s.unitCtx t 0 0 0 0 0)
/-- Place the head packet at an origin. -/
def State.place (s : State) (t : Nat) (p : BitVec 512) (ox oy : Nat) : State :=
  let f : Field := {
    id := s.nextField, tenant := t, packet := p, ox := ox, oy := oy, stage := .placed, code := 0, tasks := [], nextTask := 1
    yards := [], rate := BitVec.ofNat 32 (pkt p 287 256), rpn := pkt p 291 288, nextInst := 1, fault := none, faults := 0
    colls := [], yielded := false, rung := 0 }
  let alone := s.fields.all fun f => f.tenant ≠ t
  let s := s.modTenant t fun x => { x with
    launches := x.launches.drop 1, sliceAt := if alone then s.dtime.toNat else x.sliceAt }
  let s : State := { s with fields := s.fields ++ [f], nextField := s.nextField + 1 }
  -- a stop leaves its bays halted; tenant 0 has them while no resident partition holds them
  if t = 0 then s.setHalted false ((s.fieldBays f).map fun q => q.2.2) else s

/-- Partition grid as the distributor checks it: a tenant with no partition has none. -/
def State.gridOf (s : State) (t : Nat) : Nat × Nat := if t = 0 ∨ (s.tenant t).valid = true then s.grid t else (0, 0)
/-- The distributor looks at a tenant's packets: not before the module has its number (R359), not while a partition is
not resident (R373), not while its tenant is stopped or restoring (R382). -/
def State.distributes (s : State) (t : Nat) : Bool :=
  decide (s.modnum ≠ 0x1FF) &&
    (decide (t = 0) || (decide ((s.tenant t).pre < 2) && (!(s.tenant t).valid || (s.tenant t).resident)))

def execLaunchDistribute (t : BitVec 4) (s : State) : Out :=
  let n := t.toNat
  match (s.tenant n).launches.head? with
  | none => .next s
  | some p =>
    if !s.distributes n then .next s
    else
      let (vw, vh) := s.gridOf n
      if pktMalformed p then .next (s.reject n p 0x0001)
      else if pktTooBig vw vh p then .next (s.reject n p 0x0002)
      else if s.gangLate p then .next (s.reject n p 0x0004)
      else match (origins vw vh p).find? fun o => s.freeRect n (pktFw p) (pktFh p) o.1 o.2 with
        | some o => .next (s.place n p o.1 o.2)
        | none => .next s

/-! ### Gangs (R28, R363) -/

/-- STARTTICK - 2,000 passes. A gang packet still in the queue (`n` its position) completes with code 0x0004; a placed
gang field (`n` its id) may start only when DTSYNC is 1, and completes with 0x0004 otherwise. -/
def execGangDeadline (t : BitVec 4) (placed : Bool) (n : Nat) (s : State) : Out :=
  let due (p : BitVec 512) : Bool := pktGang p && decide (s.dtime.toNat + 2000 ≥ pktStart p)
  if placed then match s.field? n with
    | none => .next s
    | some f =>
      if f.tenant ≠ t.toNat ∨ f.stage ≠ .placed ∨ due f.packet = false then .next s
      else if s.domcfg.getLsbD 32 then .next (s.setField { f with stage := .cleared })
      else .next (s.setField { f with stage := .ended, code := 0x0004 })
  else match (s.tenant t.toNat).launches[n]? with
    | none => .next s
    | some p =>
      if due p = false ∨ pktMalformed p = true then .next s
      else
        let s := s.modTenant t.toNat fun x => { x with launches := dropAt x.launches n }
        .next (s.complete t.toNat p 0x0004 (s.unitCtx t.toNat 0 0 0 0 0))

/-! ### Completion (R29, R32) -/

/-- Drop a field that has ended; its bays are free again, and its yards are gone (R260). -/
def State.dropField (s : State) (f : Nat) : State := { s with fields := s.fields.filter fun x => x.id ≠ f }

/-- The launch of a field that has ended completes: the record is written after every write of the field, so it waits while
a pair of the field cannot reach its home. -/
def execLaunchComplete (f : Nat) (s : State) : Out :=
  match s.field? f with
  | none => .next s
  | some x =>
    if x.stage ≠ .ended ∨ (s.tenant x.tenant).pre ≥ 2 ∨ s.insts.any (fun i => i.field == f) = true
        ∨ s.pairs.any (fun p => p.field == f && s.noRoute p.who p.pa) = true then .next s
    else
      let s := s.complete x.tenant x.packet x.code (s.fieldCtx x)
      .next (s.dropField f)

end Sys2Proof.Machine
end

