-- ==== Sys2Proof/Machine/Sequencer.lean ====
section
/-! DEFINITION. The walk of a graph sequencer (R32, R128, R235-R251, R259): reading nodes and words, lists, controllers
and their permits, conditions, WAITF, RATE and END. -/

namespace Sys2Proof.Machine

/-! ### Reads (R235, R248) -/

/-- What a read of a sequencer gives: bytes; a page request; a wait for a route; a failure. -/
inductive SeqGot
  | ok (s : State) (l : List (Byte × Bool))
  | page (s : State) (p : Nat × Nat × Nat)
  | wait (s : State)
  | bad (s : State)

/-- Read through a pointer: a leaf with FLASH = 1 is a page request, every other failure a node fault. -/
def State.seqRead (s : State) (c : Ctx) (p : Word) (n : Nat) : SeqGot :=
  match s.loadAddr c p n with
  | .error f => match f.page with
    | some q => .page (s.keeping f) q
    | none => .bad (s.keeping f)
  | .ok (s, l) => match s.readOpen c l with
    | .flt _ => .bad s
    | .wait s => .wait s
    | .ok s bs => .ok s bs

/-- The address of a condition word, flag or loop-count entry (R248): aligned, and in HBM4E. -/
def State.seqAddr (s : State) (c : Ctx) (p : Word) : Except SeqGot (State × Nat) :=
  match s.addressOf c p 8 false with
  | .error f => .error (match f.page with
    | some q => .page (s.keeping f) q
    | none => .bad (s.keeping f))
  | .ok (s, l) =>
    let a := (l.map Seg.addr).headD 0
    if a % 8 ≠ 0 ∨ isWindow (gaLocal a) = true then .error (.bad s)
    else match s.routeFor c [⟨a, 8⟩] with
      | (s, some false) => .error (.wait s)
      | (s, some true) => .error (.bad s)
      | (s, none) => .ok (s, a)

/-- Read a word as LDA.FLD does: an acquire (R248); a poisoned word is a failure (R389). -/
def State.seqWord (s : State) (c : Ctx) (p : Word) : SeqGot :=
  match s.seqAddr c p with
  | .error g => g
  | .ok (s, a) =>
    let va := s.virtOf c p
    let r := s.readWord c a
    if r.2.2 then .bad r.1
    else if r.1.acquireReady c.who c.tenant va then .ok (r.1.acquire c.who c.tenant va) (putBytes 8 r.2.1.toNat false)
    else .wait (r.1.acquireWait c.who c.tenant va)

/-! ### Tasks and faults -/

/-- A walk task of a field. -/
def Field.task? (f : Field) (t : Nat) : Option Task := f.tasks.find? fun x => x.id == t
/-- Replace a task. -/
def Field.setTask (f : Field) (x : Task) : Field := { f with tasks := f.tasks.map fun y => if y.id = x.id then x else y }
/-- Change a task of a field. -/
def State.modTask (s : State) (f t : Nat) (g : Task → Task) : State :=
  match s.field? f with
  | none => s
  | some x => s.setField { x with tasks := x.tasks.map fun y => if y.id = t then g y else y }
/-- A fault of the sequencer itself (R259): it walks no further. -/
def State.seqFault (s : State) (f code : Nat) (faddr node : Word) (root : Bool) : State :=
  s.report f ⟨BitVec.ofNat 8 code, faddr, 0, node, 0, 0x7FF, root⟩
/-- A node fault: FADDR and NODE are the node pointer. -/
def State.nodeFault (s : State) (f : Nat) (p : Word) (root : Bool) : State := s.seqFault f 0x19 p p root
/-- A page request of a task: it waits, and repeats its read or its arm (`back` the tile count) when the page is filled. -/
def State.seqPage (s : State) (f t : Nat) (back : Option Nat) (page : Nat × Nat × Nat) : State :=
  match s.field? f with
  | none => s
  | some x => (s.modTask f t fun y => { y with st := .page back }).postPage x.tenant page (.walk f t)

/-- A task of a field that walks: the launch runs without a fault, and its tenant is not being stopped (R258, R265). -/
def State.walking (s : State) (f t : Nat) : Option (Field × Task) :=
  match s.field? f with
  | none => none
  | some x =>
    if x.stage ≠ .running ∨ x.fault.isSome = true ∨ (s.tenant x.tenant).stop ≠ .idle then none
    else (x.task? t).map fun y => (x, y)

/-! ### Records (R236-R239) -/

/-- Type code. -/
def nodeType (r : Nat) : Nat := bits r 3 0
/-- Bytes `lo..lo+n-1` of a record. -/
def nodeField (r lo n : Nat) : Nat := bits r (8 * (lo + n) - 1) (8 * lo)
/-- A signed 24-bit link at byte `lo` of the record at `p`: `none` when it names nothing, an error when OffsetAdd fails. -/
def nodeLink (p : Word) (r lo : Nat) : Except Unit (Option Word) :=
  let v := nodeField r lo 3
  if v = 0 then .ok none
  else match offsetAdd p (32 * sint 24 v) with
    | some q => .ok (some q)
    | none => .error ()
/-- The links of a record that name something. -/
def nodeLinks (r : Nat) : List Nat :=
  match nodeType r with
  | 2 | 3 | 4 | 6 => [1, 4]
  | 5 | 7 => [1, 4, 8]
  | _ => [1]
/-- Bytes that are reserved in a record of a type. -/
def nodeReserved (r : Nat) : List (Nat × Nat) :=
  match nodeType r with
  | 1 => [(7, 1), (28, 4)]
  | 2 | 3 | 4 => [(12, 20)]
  | 5 => [(7, 1), (11, 5), (24, 8)]
  | 6 => [(7, 9), (24, 8)]
  | 7 => [(7, 1), (11, 1), (14, 2), (24, 8)]
  | 8 => [(5, 3), (24, 8)]
  | 9 => [(9, 23)]
  | _ => [(1, 31)]
/-- Checks of a record of a node type that concern the record alone (R259). -/
def recordBad (p : Word) (r : Nat) : Bool :=
  let t := nodeType r
  let flags := bits r 7 4
  (nodeReserved r).any (fun (lo, n) => decide (nodeField r lo n ≠ 0))
    || (if t = 1 then decide (flags ≥ 8) else decide (flags ≠ 0))
    || (nodeLinks r).any (fun lo => match nodeLink p r lo with
      | .ok _ => false
      | .error _ => true)
    || (match t with
      | 1 =>
        if nbit r 4 then decide (nodeField r 16 8 % 8 ≠ 0)
        else decide (bits r 191 168 ≠ 0) || decide (nodeField r 24 4 ≠ 0)
      | 2 | 4 => decide (nodeField r 7 1 ≠ 0) || decide (nodeField r 4 3 = 0)
      | 3 => decide (nodeField r 7 1 = 0) || decide (nodeField r 7 1 > 15) || decide (nodeField r 4 3 = 0)
      | 6 => decide (nodeField r 4 3 = 0)
      | 7 => decide (nodeField r 4 3 = 0) || decide (nodeField r 12 2 = 0) || decide (nodeField r 12 2 > 1024)
      | 8 => decide (bits r 39 36 ≠ 0) || decide (bits r 34 32 < 2) || decide (bits r 34 32 > 5)
      | 9 => decide (bits r 71 68 ≠ 0) || rateBad (nodeField r 4 4)
      | _ => false)

/-- Read a node record: 32 aligned bytes, none of them poisoned. -/
def State.readNode (s : State) (c : Ctx) (p : Word) : SeqGot :=
  if p.toNat % 32 ≠ 0 then .bad s
  else match s.seqRead c p 32 with
    | .ok s l => if gotPoison l then .bad s else .ok s l
    | g => g

/-! ### Going on after a node (R240) -/

/-- The frames after the current node has finished, and whether the task is done: the next node of the list; at its end
the test of the WHILE, or the end of the node that held the list. -/
def walkFrames : List Frame → List Frame × Bool
  | [] => ([], true)
  | fr :: rest =>
    match fr.nxt with
    | some p => ({ fr with ptr := p, nxt := none } :: rest, false)
    | none =>
      if rest.isEmpty then ([], true)
      else if fr.body then ({ fr with ptr := 0, it := fr.it + 1 } :: rest, false)
      else walkFrames rest
/-- A task after its current node has finished. -/
def Task.walkOn (x : Task) : Task :=
  let r := walkFrames x.frames
  if r.2 then { x with st := .done } else { x with frames := r.1, st := .visit none }
/-- The current node of a task finishes. -/
def State.walkOn (s : State) (f t : Nat) : State := s.modTask f t Task.walkOn

/-- A task is the top-level list. -/
def Task.top (x : Task) : Bool := x.parent.isNone && decide (x.frames.length = 1)
/-- The node a task visits is ROOT at its first visit. -/
def Task.atRoot (x : Task) : Bool := x.top && x.frames.all fun fr => fr.record == 0

/-- Visit a node of one type: its record is read (FIELD_START has read ROOT), checked, and its NEXT link fixed. An event of
another type than the node's leaves the state as it is. -/
def visitNode (typ f t : Nat) (s : State) (k : State → Field → Task → Frame → Nat → Out) : Out :=
  match s.walking f t with
  | none => .next s
  | some (fd, x) => match x.st, x.frames with
    | .visit known, fr :: rest =>
      if fr.ptr = 0 ∧ fr.body = true then .next s
      else
        match (match known with
          | some r => SeqGot.ok s (putBytes 32 r.toNat false)
          | none => s.readNode (s.walkCtx fd t) fr.ptr) with
        | .wait s => .next s
        | .page s p => .next (s.seqPage f t none p)
        | .bad s => .next (s.nodeFault f fr.ptr x.atRoot)
        | .ok s' l =>
          let r := gotNat l
          let nxt := match nodeLink fr.ptr r 1 with
            | .ok q => q
            | .error _ => none
          if nodeType r ≠ typ then .next s
          else if recordBad fr.ptr r || (typ == 10 && !x.top) || (typ != 10 && x.top && nxt.isNone) then
            .next (s'.nodeFault f fr.ptr x.atRoot)
          else
            -- a controller's child ends with its one node
            let fr' := { fr with nxt := if x.parent.isSome && rest.isEmpty then none else nxt, record := BitVec.ofNat 256 r }
            let x' := { x with frames := fr' :: rest }
            k (s'.modTask f t fun _ => x') fd x' fr' r
    | _, _ => .next s

/-- Entering one more level of the walk stack (R240). -/
def Task.tooDeep (x : Task) : Bool := decide (x.base + x.frames.length > 16)
/-- Go on with what a read of a task gave: a failure is a node fault at `p`. -/
def seqThen (f t : Nat) (p : Word) (g : SeqGot) (k : State → Nat → Out) : Out :=
  match g with
  | .ok s l => k s (gotNat l)
  | .page s q => .next (s.seqPage f t none q)
  | .wait s => .next s
  | .bad s => .next (s.nodeFault f p false)
/-- Walk a list, or finish the node when the list is empty. -/
def State.enter (s : State) (f t : Nat) (p : Option Word) (it : Nat) (body : Bool) : State :=
  match p with
  | none => s.walkOn f t
  | some q => s.modTask f t fun x => { x with frames := ⟨q, it, none, body, 0⟩ :: x.frames, st := .visit none }

/-! ### Controllers (R246, R247) -/

/-- Child `j` may start its next iteration. -/
def CtrlState.permits (c : CtrlState) (j : Nat) : Bool :=
  let d (k : Nat) : Nat := c.done.getD k 0
  let m := c.children.length
  let i := d j
  decide (c.started.getD j 0 = i) && decide (i < c.count) &&
    (match c.kind with
     | .stream => true
     | .pipe => decide (i < d (m - 1) + c.depth) && (decide (j = 0) || decide (d (j - 1) > i))
     | .seq => if j = 0 then decide (i = 0) || decide (d (m - 1) ≥ i) else decide (d (j - 1) > i))
/-- The last iteration is done. -/
def CtrlState.finished (c : CtrlState) : Bool :=
  match c.kind with
  | .stream => c.done.all fun d => decide (d ≥ c.count)
  | _ => decide (c.done.getD (c.children.length - 1) 0 ≥ c.count)

/-- Grant every permit that is possible, by iteration, then by position in the child list (R243): each starts a task. -/
def Field.grant (f : Field) (t : Nat) : Field :=
  match f.task? t with
  | none => f
  | some x => match x.st with
    | .ctrl c =>
      let js := sortBy (fun j => c.done.getD j 0) ((List.range c.children.length).filter c.permits)
      let new (n : Nat) (j : Nat) : Task :=
        ⟨n, some (t, j, c.done.getD j 0), x.base + x.frames.length, [⟨c.children.getD j 0, c.done.getD j 0, none, false, 0⟩], .visit none⟩
      let c' := { c with started := js.foldl (fun l j => setAt l j (c.done.getD j 0 + 1)) c.started }
      let f := f.setTask { x with st := .ctrl c' }
      { f with tasks := f.tasks ++ js.zipIdx.map (fun (j, k) => new (f.nextTask + k) j), nextTask := f.nextTask + js.length }
    | _ => f

/-- What reading a child list gives. -/
inductive KidsGot
  | ok (s : State) (l : List Word)
  | page (s : State) (p : Nat × Nat × Nat)
  | wait (s : State)
  | bad (s : State) (p : Word)

/-- The children of a controller: the chain of NEXT links from FIRST on, read once at its start (R246). What a record holds
beside its link is checked when it is visited (R128, R259). The fuel covers every list of distinct records; a list that
comes back to itself is read for ever. -/
def State.readKids (s : State) (c : Ctx) : Nat → Option Word → KidsGot
  | _, none => .ok s []
  | 0, some _ => .wait s
  | n + 1, some p => match s.readNode c p with
    | .page s q => .page s q
    | .wait s => .wait s
    | .bad s => .bad s p
    | .ok s l =>
      let r := gotNat l
      match nodeLink p r 1 with
      | .error _ => .bad s p
      | .ok q => match State.readKids s c n q with
        | .ok s l => .ok s (p :: l)
        | g => g

/-- A controller starts: with COUNT 0 it is done at once. -/
def startCtrl (kind : CtrlKind) (typ f t : Nat) (s : State) : Out :=
  visitNode typ f t s fun s fd x fr r =>
    if x.tooDeep then .next (s.nodeFault f fr.ptr false)
    else if nodeField r 8 4 = 0 then .next (s.walkOn f t)
    else
      let first := match nodeLink fr.ptr r 4 with
        | .ok q => q
        | .error _ => none
      match s.readKids (s.walkCtx fd t) (2 ^ 59) first with
      | .page s q => .next (s.seqPage f t none q)
      | .wait s => .next s
      | .bad s p => .next (s.nodeFault f p false)
      | .ok s l =>
        let c : CtrlState := ⟨kind, l, nodeField r 8 4, nodeField r 7 1, l.map fun _ => 0, l.map fun _ => 0⟩
        let s := s.modTask f t fun y => { y with st := .ctrl c }
        match s.field? f with
        | some y => .next (s.setField (y.grant t))
        | none => .next s

def execNodeSeq (f t : Nat) (s : State) : Out := startCtrl .seq 2 f t s
def execNodePipe (f t : Nat) (s : State) : Out := startCtrl .pipe 3 f t s
def execNodeStream (f t : Nat) (s : State) : Out := startCtrl .stream 4 f t s

/-- CHILD_DONE: a child's iteration is done; its controller grants every permit this makes possible, or is done itself. A
tenant that is being stopped gets no permit (R265). -/
def execChildDone (f t : Nat) (s : State) : Out :=
  match s.field? f with
  | none => .next s
  | some fd => match fd.task? t with
    | none => .next s
    | some x => match x.st, x.parent with
      | .done, some (u, j, _) => match (fd.task? u).map Task.st with
        | some (.ctrl c) =>
          let c' := { c with done := setAt c.done j (c.done.getD j 0 + 1) }
          let fd := { fd with tasks := fd.tasks.filter fun y => y.id ≠ t }
          let fd := { fd with tasks := fd.tasks.map fun y => if y.id = u then { y with st := .ctrl c' } else y }
          let s := s.setField fd
          if c'.finished then .next (s.walkOn f u)
          else if (s.tenant fd.tenant).stop ≠ .idle ∨ fd.fault.isSome = true then .next s
          else .next (s.setField (fd.grant u))
        | _ => .next s
      | _, _ => .next s

/-! ### SECTION, conditions, WAITF, RATE and END -/

/-- SECTION: the plot and the tile count are read; a count of 0 finishes at once, else the node waits to be armed (R241). -/
def execNodeSection (f t : Nat) (s : State) : Out :=
  visitNode 1 f t s fun s fd _ fr r =>
    let plot := nodeField r 4 3
    let arm (s : State) (tiles : Nat) : Out :=
      if tiles = 0 then .next (s.walkOn f t) else .next (s.modTask f t fun x => { x with st := .arm tiles })
    if !plotValid (pktFw fd.packet) (pktFh fd.packet) plot then
      .next (s.seqFault f 0x15 (BitVec.ofNat 64 plot) fr.ptr false)
    else if nbit r 4 then
      let i := nodeField r 24 4 + if nbit r 5 then fr.it else 0
      match offsetAdd (BitVec.ofNat 64 (nodeField r 16 8)) ((8 * i : Nat) : Int) with
      | none => .next (s.nodeFault f fr.ptr false)
      | some q => seqThen f t fr.ptr (s.seqWord (s.walkCtx fd t) q) fun s e =>
        if bits e 63 40 ≠ 0 then .next (s.nodeFault f fr.ptr false) else arm s (bits e 39 0)
    else arm s (bits r 167 128)

/-- The pointer at bytes 16-23 of a record: CPTR or FPTR. -/
def nodePtr (r : Nat) : Word := BitVec.ofNat 64 (nodeField r 16 8)
/-- A link of a checked record. -/
def linkOf (p : Word) (r lo : Nat) : Option Word :=
  match nodeLink p r lo with
  | .ok q => q
  | .error _ => none

def execNodeCond (f t : Nat) (s : State) : Out :=
  visitNode 5 f t s fun s fd x fr r =>
    if x.tooDeep then .next (s.nodeFault f fr.ptr false)
    else seqThen f t fr.ptr (s.seqWord (s.walkCtx fd t) (nodePtr r)) fun s v =>
      .next (s.enter f t (linkOf fr.ptr r (if v ≠ 0 then 4 else 8)) fr.it false)

/-- The test of a WHILE that has walked its body: zero ends the node. -/
def whileAgain (f t : Nat) (s : State) : Out :=
  match s.walking f t with
  | none => .next s
  | some (fd, x) => match x.st, x.frames with
    | .visit _, fr :: w :: _ =>
      if fr.ptr = 0 ∧ fr.body = true then
        let r := w.record.toNat
        seqThen f t w.ptr (s.seqWord (s.walkCtx fd t) (nodePtr r)) fun s v =>
          let s := s.modTask f t fun y => { y with frames := y.frames.drop 1 }
          if v = 0 then .next (s.walkOn f t) else .next (s.enter f t (linkOf w.ptr r 4) fr.it true)
      else .next s
    | _, _ => .next s

def execNodeWhile (f t : Nat) (s : State) : Out :=
  match (s.walking f t).map fun q => q.2.frames with
  | some (fr :: _ :: _) =>
    if fr.ptr = 0 ∧ fr.body = true then whileAgain f t s
    else visitNode 6 f t s fun s fd x fr r =>
      if x.tooDeep then .next (s.nodeFault f fr.ptr false)
      else seqThen f t fr.ptr (s.seqWord (s.walkCtx fd t) (nodePtr r)) fun s v =>
        if v = 0 then .next (s.walkOn f t) else .next (s.enter f t (linkOf fr.ptr r 4) 0 true)
  | _ => visitNode 6 f t s fun s fd x fr r =>
    if x.tooDeep then .next (s.nodeFault f fr.ptr false)
    else seqThen f t fr.ptr (s.seqWord (s.walkCtx fd t) (nodePtr r)) fun s v =>
      if v = 0 then .next (s.walkOn f t) else .next (s.enter f t (linkOf fr.ptr r 4) 0 true)

def execNodeSwitch (f t : Nat) (s : State) : Out :=
  visitNode 7 f t s fun s fd x fr r =>
    let c := s.walkCtx fd t
    if x.tooDeep then .next (s.nodeFault f fr.ptr false)
    else seqThen f t fr.ptr (s.seqWord c (nodePtr r)) fun s v =>
      if v ≥ nodeField r 12 2 then .next (s.enter f t (linkOf fr.ptr r 8) fr.it false)
      else match (linkOf fr.ptr r 4).bind fun q => offsetAdd q ((4 * v : Nat) : Int) with
        | none => .next (s.nodeFault f fr.ptr false)
        | some q => match s.seqRead c q 4 with
          | .page s z => .next (s.seqPage f t none z)
          | .wait s => .next s
          | .bad s => .next (s.nodeFault f fr.ptr false)
          | .ok s l =>
            let e := gotNat l
            match nodeLink fr.ptr (e * 256) 1 with
            | .error _ => .next (s.nodeFault f fr.ptr false)
            | .ok z =>
              if gotPoison l || decide (bits e 31 24 ≠ 0) then .next (s.nodeFault f fr.ptr false)
              else .next (s.enter f t z fr.it false)

/-- Register a WAITF at its word's home: pending pairs of the word are applied and its present value is tested at once
(R250, R265). -/
def State.watchWord (s : State) (c : Ctx) (f t a : Nat) (val : Word) (ge : Bool) : State :=
  let s := (s.readWord c a).1.modTask f t fun x => { x with st := .waitf a val ge false true }
  ({ s with waiters := s.waiters ++ [⟨.walk f t, a, val, ge, false, 0⟩] } : State).serve a

def execNodeWaitf (f t : Nat) (s : State) : Out :=
  visitNode 8 f t s fun s fd _ fr r =>
    match s.seqAddr (s.walkCtx fd t) (nodePtr r) with
    | .error (.page s q) => .next (s.seqPage f t none q)
    | .error (.wait s) => .next s
    | .error (.bad s) => .next (s.nodeFault f fr.ptr false)
    | .error (.ok s _) => .next s
    | .ok (s, a) =>
      .next (s.watchWord (s.walkCtx fd t) f t a (BitVec.ofNat 64 (nodeField r 8 8)) (nbit r 35))

/-- The condition of a WAITF has been met: an acquire, and the list goes on. A poisoned flag is a node fault (R389). -/
def execWaitfSatisfied (f t : Nat) (s : State) : Out :=
  match s.walking f t with
  | none => .next s
  | some (fd, x) => match x.st, x.frames with
    | .waitf a _ _ true _, fr :: _ =>
      if (List.range 8).any fun k => s.mpoison.read (a + k) ≠ 0 then .next (s.nodeFault f fr.ptr false)
      else
        let c := s.walkCtx fd t
        let va := s.virtOf c (nodePtr fr.record.toNat)
        if s.acquireReady c.who c.tenant va then .next ((s.acquire c.who c.tenant va).walkOn f t)
        else .next (s.acquireWait c.who c.tenant va)
    | _, _ => .next s

/-- RATE: the field's requested rate and rate point, and a re-solve (R251). -/
def execNodeRate (f t : Nat) (s : State) : Out :=
  visitNode 9 f t s fun s fd _ _ r =>
    let s := match s.field? f with
      | some x => s.setField { x with rate := BitVec.ofNat 32 (nodeField r 4 4), rpn := bits r 67 64 }
      | none => s
    .next ((s.postSolve fd.tenant 2).walkOn f t)

/-- END: the launch ends with code 0x0000 once every section it armed has ended (R32). -/
def execNodeEnd (f t : Nat) (s : State) : Out :=
  if s.insts.any fun i => i.field == f then .next s
  else visitNode 10 f t s fun s _ _ _ _ => match s.field? f with
    | some x => .next (s.setField { x with stage := .ended, code := 0, tasks := [] })
    | none => .next s

/-- NOT_A_NODE_VISIT: a record of type 0x0 or 0xB-0xF is a node fault (R128). -/
def execNotANodeVisit (f t : Nat) (s : State) : Out :=
  match s.walking f t with
  | none => .next s
  | some (fd, x) => match x.st, x.frames with
    | .visit known, fr :: _ =>
      if fr.ptr = 0 ∧ fr.body = true then .next s
      else
        let got := match known with
          | some r => SeqGot.ok s (putBytes 32 r.toNat false)
          | none => s.readNode (s.walkCtx fd t) fr.ptr
        match got with
        | .wait s => .next s
        | .page s p => .next (s.seqPage f t none p)
        | .bad s => .next (s.nodeFault f fr.ptr x.atRoot)
        | .ok s' l =>
          let ty := nodeType (gotNat l)
          if 1 ≤ ty ∧ ty ≤ 10 then .next s else .next (s'.nodeFault f fr.ptr x.atRoot)
    | _, _ => .next s

/-- A field placed before this one for its tenant has not started yet: launches of one tenant start in queue order (R26). DESIGN
CHOICE (notes/assumptions/98.md), unsafe: where the earlier launch has the later STARTTICK, R26's order stands, and this one,
a gang's field too, is held past its own STARTTICK (R27, R28). -/
def State.startsLater (s : State) (x : Field) : Bool :=
  s.fields.any fun y => y.tenant == x.tenant && decide (y.id < x.id) && (y.stage == .placed || y.stage == .cleared)

/-- FIELD_START: a placed field starts at the first frame boundary at or after STARTTICK: its sequencer reads the node at
ROOT (R27). A gang field starts only past its deadline (R28). -/
def execFieldStart (f : Nat) (s : State) : Out :=
  match s.field? f with
  | none => .next s
  | some x =>
    let ok := if pktGang x.packet then decide (x.stage = .cleared) else decide (x.stage = .placed)
    if !ok || s.startsLater x || decide (s.dtime.toNat < pktStart x.packet) || decide ((s.tenant x.tenant).stop ≠ .idle) then .next s
    else
      let task (st : TaskState) : Task := ⟨0, none, 0, [⟨pktRoot x.packet, 0, none, false, 0⟩], st⟩
      let run (s : State) (st : TaskState) : State := s.setField { x with stage := .running, tasks := [task st] }
      match s.readNode (s.walkCtx x 0) (pktRoot x.packet) with
      | .ok s l => .next (run s (.visit (some (BitVec.ofNat 256 (gotNat l)))))
      | .wait s => .next (run s (.visit none))
      | .page s p => .next ((run s (.visit none)).seqPage f 0 none p)
      | .bad s => .next ((run s (.visit none)).nodeFault f (pktRoot x.packet) true)

end Sys2Proof.Machine
end

