-- ==== Sys2Proof/Machine/Paging.lean ====
section
/-! DEFINITION. The page-request queue (R317-R321) and the mailbox rings it shares with Clotus (R398). -/

namespace Sys2Proof.Machine

/-! ### Waking the waiters of a page (R320) -/

/-- The virtual address lies on the page of a fill. -/
def PageFill.covers (p : PageFill) (fa : Word) : Bool :=
  let lo := if p.psize = 0 then 16 else if p.psize = 1 then 21 else if p.psize = 2 then 29 else 33
  fa.toNat / 2 ^ lo == p.va / 2 ^ lo
/-- The firing of an actor that waits for the page of a fill, when the bay still holds it for the tenant: a firing that
came after a launch ended is none of an older entry's waiters (R321). -/
def State.pageFiring (s : State) (p : PageFill) (b a : Nat) : Option (Firing × Word × Word) :=
  match (s.bay b).firings.find? fun f => f.actor == a && (s.field? f.field).any fun x => x.tenant == p.tenant with
  | some f => match f.status with
    | .parked (.page epc fa) false => if p.covers fa then some (f, epc, fa) else none
    | _ => none
  | none => none

/-- The page-request fault of a firing whose page was not filled: it ends where its access stood (R152). -/
def State.pageFault (s : State) (b : Nat) (f : Firing) (epc fa : Word) : State :=
  let s := s.modBay b fun y => { y with firings := y.firings.filter fun z => z.actor ≠ f.actor }
  s.bayFault b f.field f.inst 0x0A epc fa

/-- Wake one waiter: a firing goes back to its checkpoint when it takes a slot, a walk repeats its read or its arm. With
`failed`, it takes the page-request fault or the node fault. A waiter whose bay has been saved is woken when it is restored
(R321). -/
def State.wakePage (s : State) (p : PageFill) : State :=
  let late (k : State) : State := if (s.tenant p.tenant).pre ≥ 2 then { s with fills := s.fills ++ [p] } else k
  match p.who with
  | .actor b a => match s.pageFiring p b a with
    | some (f, epc, fa) =>
      if p.failed then s.pageFault b f epc fa
      else s.modFiring b a fun y => { y with status := .parked (.page epc fa) true }
    | none => late s
  | .cmd _ _ => if p.failed then { s with fills := s.fills ++ [p] } else s
  | .walk f n => late <| match (s.field? f).bind fun x => x.task? n with
    | none => s
    | some x => match x.st with
      | .page back =>
        if p.failed then
          let at_ := match x.frames with
            | fr :: w :: _ => if fr.ptr = 0 then w.ptr else fr.ptr
            | fr :: _ => fr.ptr
            | [] => 0
          s.nodeFault f at_ x.atRoot
        else s.modTask f n fun y => { y with st := match back with
          | some tiles => .arm tiles
          | none => .visit none }
      | _ => s
  | _ => s
/-- Wake every waiter of a request. -/
def State.wakeAll (s : State) (q : PageReq) (failed : Bool) : State :=
  q.waiters.foldl (fun s w => s.wakePage ⟨q.tenant, w, failed, q.va, q.psize⟩) s

/-! ### The queue (R317-R319) -/

/-- The leaf of a request is filled already: V = 1 and FLASH = 0. -/
def State.leafReady (s : State) (q : PageReq) : Bool :=
  let e := leNat (s.mem.readList (s.ga q.leaf) 8)
  nbit e 0 && !nbit e 3
/-- HELD of a tenant as its entries stand. -/
def State.setHeld (s : State) (t : Nat) : State :=
  s.modTenant t fun x => { x with prqcfg := wset x.prqcfg 31 21 (s.prqHeld t) }

/-- PRQ_ENTRY_GRANT: a tenant's oldest waiting request takes an entry; its leaf is read again first. -/
def execPrqEntryGrant (t : BitVec 4) (s : State) : Out :=
  match findAt (fun q => q.tenant == t.toNat) s.prqWaiting with
  | none => .next s
  | some (k, q) =>
    let rest : State := { s with prqWaiting := dropAt s.prqWaiting k }
    if s.leafReady q then .next (rest.wakeAll q false)
    else match s.prqSlot t.toNat with
      | some i => .next (rest.prqTakeEntry i q)
      | none => .next s

/-- The 32 bytes of an entry. -/
def PageReq.bytes (q : PageReq) : List Byte :=
  natLe 8 q.va ++ natLe 1 q.tenant ++ natLe 1 q.psize ++ natLe 2 q.count ++ natLe 4 q.seq.toNat ++ natLe 8 q.leaf ++ natLe 8 q.postt

/-! ### Mailbox rings (R398) -/

/-- Write bytes of the mailbox window. -/
def State.mboxPut (s : State) (a : Nat) (l : List Byte) : State := { s with mbox := Memory.writeList s.mbox a l }
/-- Bytes of the mailbox window. -/
def State.mboxGet (s : State) (a n : Nat) : List Byte := Memory.readList s.mbox a n
/-- The Clotus-to-host ring has room. -/
def State.c2hRoom (s : State) : Bool := decide ((s.c2hprod - s.c2hcons).toNat < 64)
/-- Clotus sends a message of 64 bytes. -/
def State.c2hSend (s : State) (l : List Byte) : State :=
  let s := s.mboxPut (0x4000 + 64 * (s.c2hprod.toNat % 64)) l
  { s with c2hprod := s.c2hprod + 1 }
/-- Clotus sends a message once the ring has room; until then it waits behind those that wait already. -/
def State.c2hPost (s : State) (l : List Byte) : State :=
  if s.c2hRoom && s.c2hWait.isEmpty then s.c2hSend l else { s with c2hWait := s.c2hWait ++ [l] }
/-- Send waiting messages while the ring has room. -/
def State.c2hFlush (s : State) : List (List Byte) → State
  | [] => { s with c2hWait := [] }
  | l :: rest => if s.c2hRoom then State.c2hFlush (s.c2hSend l) rest else { s with c2hWait := l :: rest }
/-- Pad to a message. -/
def message (l : List Byte) : List Byte := (l ++ List.replicate 64 0).take 64

/-- The oldest entry not yet taken. -/
def State.oldestUntaken (s : State) : Option (Nat × PageReq) :=
  let l := s.prq.filter fun x => !x.2.taken
  let age (q : PageReq) : Nat := (s.prqSeq - q.seq).toNat
  let top := l.foldl (fun m x => Nat.max m (age x.2)) 0
  l.find? fun x => age x.2 == top

/-- A read of PRQTAKE: the oldest untaken entry is returned and marked taken, and Clotus passes it to the host driver, at
once or when the ring has room. -/
def State.takePage (s : State) : State × Word :=
  match s.oldestUntaken with
  | none => (s, 0x80000000)
  | some (i, q) =>
    (({ s with prq := tput i { q with taken := true } s.prq } : State).c2hPost (message (natLe 8 1 ++ q.bytes)),
      BitVec.ofNat 64 (q.seq.toNat * 2 ^ 32 + i))
/-- What a read returns is handed to the host. -/
def State.reply (r : State × Word) : State := { r.1 with hostReply := some (.data (natLe 8 r.2.toNat)) }
/-- PRQTAKE: a physical function reads the register, once its window is served (R399). -/
def execPrqtake (s : State) : Out := .next (if s.served then State.reply s.takePage else s)

/-- A write of PRQDONE: the entry is freed and its waiters wake; a write naming no live entry is ignored. -/
def State.prqDone (s : State) (seq : BitVec 32) (failed : Bool) : State :=
  match s.prq.find? fun x => x.2.seq == seq with
  | none => s
  | some (i, q) => ((({ s with prq := tdel i s.prq } : State).setHeld q.tenant).wakeAll q failed)
/-- A PRQDONE write of the physical function of a port is served: it passes the ordering point only after that function's
earlier writes have been acknowledged (R320, R396). -/
def State.pfSettled (s : State) (port : BitVec 1) : Bool := s.served && (s.pendingWrites ⟨port, 0⟩).isEmpty

def execPrqdoneFill (w : PrqWrite) (s : State) : Out :=
  .next (if s.pfSettled w.port then s.prqDone w.seq false else s)
def execPrqdoneFail (w : PrqWrite) (s : State) : Out :=
  .next (if s.pfSettled w.port then s.prqDone w.seq true else s)

/-- Discard a tenant's page requests (R321, R374). -/
def State.dropRequests (s : State) (t : Nat) : State :=
  ({ s with prq := s.prq.filter fun x => x.2.tenant ≠ t
            prqWaiting := s.prqWaiting.filter fun q => q.tenant ≠ t
            fills := s.fills.filter fun x => x.tenant ≠ t } : State).setHeld t

end Sys2Proof.Machine
end

