-- ==== Sys2Proof/Machine/Kreid.lean ====
section
/-! DEFINITION. The Kreid image (R142-R147): its header, its tables, and the check at arm. -/

namespace Sys2Proof.Machine

/-! ### Reading the bytes (R142) -/

/-- Bytes `lo..lo+n-1` of a record read as one number. -/
def byteField (x lo n : Nat) : Nat := bits x (8 * (lo + n) - 1) (8 * lo)

/-- Record sizes of the nine regions. -/
def recSizes : List Nat := [32, 32, 16, 16, 8, 32, 8, 16, 4]

/-- Offset and count of table `n` of a header. -/
def tableDesc (h n : Nat) : Nat × Nat := (byteField h (16 + 8 * n) 4, byteField h (20 + 8 * n) 2)
/-- The first and past-the-end bytes of the tables that hold a record. -/
def tableSpans (h : Nat) : List (Nat × Nat) :=
  (recSizes.zipIdx.map fun (z, n) => let d := tableDesc h n; (d.1, d.1 + z * d.2)).filter fun x => x.1 ≠ x.2
/-- Two of the spans meet. -/
def spansMeet : List (Nat × Nat) → Bool
  | [] => false
  | x :: l => l.any (fun y => decide (x.1 < y.2) && decide (y.1 < x.2)) || spansMeet l

/-- The header checks of R147 for a plot of exponents `lw`, `lh`. That SIZE is at least 96, that no table overlaps the header,
that OFF is a multiple of 32 and that it is 0 for an empty table (R143) is checked by choice: log entry 79. -/
def headerOk (h lw lh : Nat) : Bool :=
  decide (byteField h 0 4 = 0x3144524B) && decide (byteField h 4 1 = 1) && decide (byteField h 5 1 = lw)
    && decide (byteField h 6 1 = lh) && decide (byteField h 7 1 = 0) && decide (byteField h 8 4 % 32 = 0)
    && decide (byteField h 8 4 ≥ 96) && decide (byteField h 12 4 = 0) && decide (byteField h 88 8 = 0)
    && (List.range 9).all (fun n =>
      let d := tableDesc h n
      decide (byteField h (22 + 8 * n) 2 = 0) && decide (d.1 % 32 = 0) && (decide (d.2 ≠ 0) || decide (d.1 = 0)))
    && (tableSpans h).all (fun x => decide (x.2 ≤ byteField h 8 4))
    && !spansMeet ((0, 96) :: tableSpans h)

/-- The records of a table, as numbers. -/
def tableRecs (l : List Byte) (h n : Nat) : List Nat :=
  let d := tableDesc h n
  let z := recSizes.getD n 4
  (List.range d.2).map fun i => leNat ((l.drop (d.1 + z * i)).take z)

/-! ### Records (R144-R146): the fields, and whether a reserved bit is set -/

def actorRec (x : Nat) : ActorRec where
  cbase := byteField x 0 4
  clen := byteField x 4 4
  entry := byteField x 8 4
  bx := byteField x 12 1
  by_ := byteField x 13 1
  idx := bits x 115 112
  handler := nbit x 120
  cls := bits x 123 121
  bound := byteField x 16 2
  rep := byteField x 20 4
  order := byteField x 24 2
  pchan := byteField x 26 2
def actorReserved (x : Nat) : Bool :=
  decide (bits x 119 116 ≠ 0) || decide (bits x 127 124 ≠ 0) || decide (byteField x 18 2 ≠ 0) || decide (byteField x 28 4 ≠ 0)

def chanRec (x : Nat) : ChanRec where
  pact := byteField x 0 2
  cact := byteField x 2 2
  pport := byteField x 4 1
  cport := byteField x 5 1
  pn := bits x 59 48
  pe := bits x 79 60
  cn := bits x 91 80
  ce := bits x 111 92
  fmtp := bits x 115 112
  fmtc := bits x 123 120
  bxd := byteField x 16 1
  pvar := nbit x 136
  cvar := nbit x 137
  vch := bits x 139 138
  depth := byteField x 18 2
  scale := BitVec.ofNat 32 (byteField x 20 4)
  spix := byteField x 24 2
  route := byteField x 26 2
def chanReserved (x : Nat) : Bool :=
  decide (bits x 119 116 ≠ 0) || decide (bits x 127 124 ≠ 0) || decide (bits x 143 140 ≠ 0) || decide (byteField x 28 4 ≠ 0)

def routeRec (x : Nat) : RouteRec := ⟨byteField x 0 1, byteField x 1 1, byteField x 2 1, byteField x 4 2, byteField x 6 2⟩
def rateRec (x : Nat) : RateRec := ⟨byteField x 0 1, nbit x 8, byteField x 2 2, byteField x 4 4⟩
def edgeRec (x : Nat) : EdgeRec :=
  ⟨byteField x 0 1, byteField x 1 1, byteField x 2 1, bits x 26 24, byteField x 4 1, byteField x 5 1, byteField x 6 1⟩
def panelRec (x : Nat) : PanelRec :=
  ⟨BitVec.ofNat 64 (byteField x 0 8), BitVec.ofNat 64 (byteField x 8 8), byteField x 16 1, byteField x 17 1, byteField x 18 1⟩
def regionRec (x : Nat) : RegionRec := ⟨byteField x 0 2, byteField x 2 1⟩
def spillRec (x : Nat) : SpillRec := ⟨BitVec.ofNat 64 (byteField x 0 8), byteField x 8 4, byteField x 12 2⟩

/-! ### The checks of R147 -/

/-- No key stands twice in a list. -/
def distinct {α : Type} [BEq α] : List α → Bool
  | [] => true
  | a :: l => !l.contains a && distinct l

/-- Actors; that CBASE and CLEN are multiples of 4 (R144) is checked by choice: log entry 79. `pw`, `ph` the plot's size in bays, `words` the words of the code region. -/
def actorsOk (pw ph words : Nat) (l : List ActorRec) : Bool :=
  l.all (fun a => decide (a.bx < pw) && decide (a.by_ < ph) && decide (a.clen ≠ 0) && decide (a.clen % 4 = 0)
    && decide (a.cbase % 4 = 0) && decide (a.cbase + a.clen ≤ 4 * words) && decide (a.entry < a.clen)
    && decide (a.entry % 4 = 0) && decide (a.bound ≠ 0) && decide (a.rep ≠ 0) && (a.handler || decide (a.cls = 0)))
  && distinct (l.map fun a => (a.bx, a.by_, a.idx))

/-- The format pairs of R101. -/
def pairOk (p c : Nat) : Bool :=
  decide (p ≤ 12) && decide (c ≤ 12) && (p == c || [(4, 5), (4, 6), (5, 4), (6, 4), (4, 7), (4, 8), (5, 7), (5, 8),
    (7, 4), (7, 5), (8, 4), (8, 5), (4, 9), (9, 4), (1, 3), (4, 10), (5, 10), (7, 10)].contains (p, c))

/-- One end of a channel. That an ext end has DECL 0 and VAR 0 (R145) is checked by choice: log entry 79. -/
def endOk (actors : List ActorRec) (act n e : Nat) (var : Bool) : Bool :=
  if act = 0xFFFF then decide (n = 0) && decide (e = 0) && !var
  else (actors[act]?).any (fun a => !a.handler) && decide (n ≠ 0) && decide (e ≤ 256 * n) && (var || decide (e = 0))

/-- Channels, with the balance of two fixed actor ends. That ports are at most 15 and that ROUTE and SPIX name records is
checked by choice (R145): log entry 79. -/
def chansOk (actors : List ActorRec) (routes spills : Nat) (l : List ChanRec) : Bool :=
  l.all (fun c =>
    !(c.pact == 0xFFFF && c.cact == 0xFFFF) && decide (c.pport ≤ 15) && decide (c.cport ≤ 15)
      && endOk actors c.pact c.pn c.pe c.pvar && endOk actors c.cact c.cn c.ce c.cvar
      && pairOk c.fmtp c.fmtc && decide (1 ≤ c.bxd) && decide (c.bxd ≤ 15)
      && (decide (c.scale = 0) || (c.fmtp == 1 && c.fmtc == 3))
      && decide (c.depth ≠ 0) && decide (c.pn ≤ c.depth) && decide (c.cn ≤ c.depth)
      && (c.route == 0xFFFF || decide (c.route < routes)) && (c.spix == 0xFFFF || decide (c.spix < spills))
      && (c.pact == 0xFFFF || c.cact == 0xFFFF || c.pvar || c.cvar ||
        match actors[c.pact]?, actors[c.cact]? with
        | some p, some q => decide (p.rep * c.pn = c.k * q.rep * c.cn)
        | _, _ => false))
  -- a channel port belongs to its bay (R15): no two channels bind one, whichever actors they name
  && distinct (l.filterMap fun c => actors[c.pact]?.map fun a => (a.bx, a.by_, c.pport))
  && distinct (l.filterMap fun c => actors[c.cact]?.map fun a => (a.bx, a.by_, c.cport))

/-- Routes; that KIND, CLASS, VCH and the SRC of a class route hold the values R146 gives them is checked by choice: log
entry 79. -/
def routesOk (na : Nat) (l : List (Nat × RouteRec)) : Bool :=
  l.all fun (x, r) =>
    decide (r.kind ≤ 1) && decide (r.cls ≤ 7) && decide (r.vch ≤ 3) && decide (byteField x 3 1 = 0) && decide (byteField x 8 8 = 0)
      && (decide (r.kind ≠ 0) || decide (r.cls = 0)) && decide (r.dst < na)
      && (if r.kind = 1 then decide (r.src = 0xFFFF) else decide (r.src < na))
/-- Rate points; that RPN, END and CHAN lie in the ranges of R146 is checked by choice: log entry 79. -/
def ratesOk (nc : Nat) (l : List (Nat × RateRec)) : Bool :=
  l.all (fun (x, r) => decide (r.rpn ≤ 15) && decide (byteField x 1 1 ≤ 1) && decide (byteField x 8 8 = 0)
    && decide (r.chan < nc) && decide (r.toks ≠ 0)) && distinct (l.map fun (_, r) => r.rpn)
def edgesOk (pw ph : Nat) (l : List (Nat × EdgeRec)) : Bool :=
  l.all fun (x, e) =>
    decide (e.scope ≤ 5) && decide (bits x 31 27 = 0) && decide (byteField x 7 1 = 0)
      && decide (0x20 ≤ e.sel) && decide (e.sel ≤ 0x2C) && decide (0x20 ≤ e.del) && decide (e.del ≤ 0x2C)
      && decide (e.sbx < pw) && decide (e.dbx < pw) && decide (e.sby < ph) && decide (e.dby < ph)
def panelsOk (pw ph : Nat) (l : List (Nat × PanelRec)) : Bool :=
  l.all (fun (x, p) => decide (byteField x 19 13 = 0) && decide (p.bx < pw) && decide (p.by_ < ph))
    && distinct (l.map fun (_, p) => (p.bx, p.by_, p.slot))
def regionsOk (l : List (Nat × RegionRec)) : Bool :=
  l.all fun (x, r) => decide (byteField x 3 5 = 0) && decide (r.op ≤ 14) && decide (16 ≤ r.handle) && decide (r.handle ≤ 4095)
/-- Spill rings; that CHAN names a channel is checked by choice. An actor's PCHAN that names none is accepted and counts as
none: log entry 79. -/
def spillsOk (chans : List ChanRec) (l : List (Nat × SpillRec)) : Bool :=
  l.all (fun (x, r) => decide (byteField x 14 2 = 0) && (chans[r.chan]?).any (fun c => decide (r.size % fmtSize c.fmtc = 0))
    && decide (r.size ≠ 0) && decide (r.size % 32 = 0)) && distinct (l.map fun (_, r) => r.chan)

/-- A source actor exists (R241): no handler, and no input port bound to a channel whose producer is an actor. -/
def hasSource (actors : List ActorRec) (chans : List ChanRec) : Bool :=
  actors.zipIdx.any fun (a, n) => !a.handler && chans.all fun c => c.cact ≠ n || c.pact == 0xFFFF

/-- Parse an image and check it (R147), but for its region entries; `none` for the image fault, which a byte marked poisoned
takes too (R389). -/
def parseImage (l : List Byte) (q : List Bool) (lw lh pw ph : Nat) : Option Image :=
  let h := leNat (l.take 96)
  if !headerOk h lw lh || decide (l.length < byteField h 8 4) then none
  else
    let tab := tableRecs l h
    let actors := (tab 0).map actorRec
    let chans := (tab 1).map chanRec
    let routes := (tab 2).map fun x => (x, routeRec x)
    let rates := (tab 3).map fun x => (x, rateRec x)
    let edges := (tab 4).map fun x => (x, edgeRec x)
    let panels := (tab 5).map fun x => (x, panelRec x)
    let regions := (tab 6).map fun x => (x, regionRec x)
    let spills := (tab 7).map fun x => (x, spillRec x)
    let code := (tab 8).map fun x => (BitVec.ofNat 32 x : IWord)
    let codeOff := (tableDesc h 8).1
    if (tab 0).any actorReserved || (tab 1).any chanReserved || !actorsOk pw ph code.length actors
        || !chansOk actors routes.length spills.length chans || !routesOk actors.length routes || !ratesOk chans.length rates
        || !edgesOk pw ph edges || !panelsOk pw ph panels || !regionsOk regions || !spillsOk chans spills
        || !hasSource actors chans || (q.take (byteField h 8 4)).any id then none
    else some ⟨lw, lh, actors, chans, routes.map Prod.snd, rates.map Prod.snd, edges.map Prod.snd, panels.map Prod.snd,
      regions.map Prod.snd, spills.map Prod.snd, codeOff, code, []⟩

end Sys2Proof.Machine
end

