-- ==== Sys2Proof/Machine/Section.lean ====
section
/-! DEFINITION. The life of a section instance (R241-R245, R258): the arm, the end, and the end of every instance of a
field that has faulted. -/

namespace Sys2Proof.Machine

/-! ### The arm (R241) -/

/-- Module bays of a plot of a field, x fastest. -/
def State.plotBays (s : State) (f : Field) (plot : Nat) : List Nat :=
  let r := plotRect (pktFw f.packet) (pktFh f.packet) plot
  (List.range r.2.2.2).flatMap fun y => (List.range r.2.2.1).map fun x => s.fieldBay f (r.1 + x) (r.2.1 + y)
/-- Plot named by the SECTION record of a frame. -/
def framePlot (fr : Frame) : Nat := nodeField fr.record.toNat 4 3
/-- An instance of the field can be armed on a plot now: no live instance holds a bay of it, and fewer than 64 live (R241);
a bay serves one instance at a time (R21, R33). -/
def State.plotFree (s : State) (f : Field) (plot : Nat) : Bool :=
  let bays := s.plotBays f plot
  decide ((s.insts.filter fun x => x.field == f.id).length < 64)
    && bays.all fun b => (s.bay b).inst.isNone

/-- Positions of a task and of its controllers in their child lists, from ROOT. -/
def Field.positions (f : Field) : Nat → Nat → List Nat
  | 0, _ => []
  | n + 1, t => match f.task? t with
    | some x => match x.parent with
      | some (u, j, _) => Field.positions f n u ++ [j]
      | none => []
    | none => []
/-- The order of arms that are possible together: iteration index of the node, position in the child list, controller
(R243); the index in the body of a WHILE is the WHILE's (R246). -/
def Field.armKey (f : Field) (t : Nat) : List Nat :=
  match f.task? t with
  | none => []
  | some x =>
    let it := x.frames.head?.elim 0 Frame.it
    match x.parent with
    | some (u, j, _) => it :: j :: f.positions 16 u
    | none => [it]
/-- A walk that stands at a node arms a section in the same sequencer step: no word, loop-count entry, WAITF or done token, which
are events of their own, comes between (R243). `known` is the node's record when it has been read; the fuel bounds the walk. -/
def State.surelyArms (s : State) (f : Field) (c : Ctx) : Nat → Option (BitVec 256) → Word → Bool
  | 0, _, _ => false
  | n + 1, known, p =>
    let got : Option Nat := match known with
      | some r => some r.toNat
      | none => match s.readNode c p with
        | .ok _ l => some (gotNat l)
        | _ => none
    match got with
    | none => false
    | some r =>
      let on : Bool := match linkOf p r 1 with
        | some q => State.surelyArms s f c n none q
        | none => false
      match nodeType r with
      | 1 =>
        let plot := nodeField r 4 3
        if nbit r 4 || !plotValid (pktFw f.packet) (pktFh f.packet) plot then false
        else if bits r 167 128 = 0 then on else s.plotFree f plot
      | 2 | 3 => if nodeField r 8 4 = 0 then on else match linkOf p r 4 with
        | some q => State.surelyArms s f c n none q
        | none => false
      | 4 => if nodeField r 8 4 = 0 then on else match s.readKids c 4096 (linkOf p r 4) with
        | .ok _ l => l.any (State.surelyArms s f c n none)
        | _ => false
      | 9 => on
      | _ => false
/-- A task that arms in the same step: its walk does, or its plot is free. -/
def State.mayArm (s : State) (f : Field) (x : Task) : Bool :=
  match x.st with
  | .visit known => match x.frames with
    | fr :: _ => !(fr.ptr == 0 && fr.body) && s.surelyArms f (s.walkCtx f x.id) 256 known fr.ptr
    | [] => false
  | .arm _ => (x.frames.head?).any fun fr => s.plotFree f (framePlot fr)
  | _ => false
/-- No other task of the field goes first (R243). -/
def State.armFirst (s : State) (f : Field) (t : Nat) : Bool :=
  f.tasks.all fun y => y.id == t || !s.mayArm f y || decide (f.armKey t ≤ f.armKey y.id)

/-- What reading an image gives. -/
inductive ImageGot
  | ok (s : State) (i : Image)
  | page (s : State) (p : Nat × Nat × Nat)
  | wait (s : State)
  | bad (s : State)

/-- The bytes of an image: the cached copy, else read from memory and cached (R241, R262). -/
def State.imageBytes (s : State) (c : Ctx) (p : Word) : SeqGot :=
  let d := bayDie c.bay
  match s.images.find? fun x => x.die == d && x.tenant == c.tenant && x.ptr == p with
  | some x => .ok s x.bytes
  | none => match s.seqRead c p 96 with
    | .ok s h => match s.seqRead c p (Nat.max 96 (byteField (gotNat h) 8 4)) with
      | .ok s l => .ok { s with images := s.images ++ [⟨d, c.tenant, p, l⟩] } l
      | g => g
    | g => g
/-- The entries of an image's region records exist, and their operators agree (R147). -/
def State.regionsMatch (s : State) (c : Ctx) : List RegionRec → Option State
  | [] => some s
  | r :: l => match s.entry c r.handle with
    | some (s, e) => if e.op = r.op then State.regionsMatch s c l else none
    | none => none
/-- The image of a SECTION, checked. -/
def State.image (s : State) (f : Field) (c : Ctx) (p : Word) (plot : Nat) : ImageGot :=
  if p.toNat % 64 ≠ 0 then .bad s
  else match s.imageBytes c p with
    | .page s q => .page s q
    | .wait s => .wait s
    | .bad s => .bad s
    | .ok s l =>
      let r := plotRect (pktFw f.packet) (pktFh f.packet) plot
      match parseImage (l.map Prod.fst) (l.map Prod.snd) (plotLW plot) (plotLH plot) r.2.2.1 r.2.2.2 with
      | none => .bad s
      | some i => match s.regionsMatch c i.regions with
        | some s => .ok s i
        | none => .bad s

/-- Load the panels of an image in table order (R266): arrays of the bays of the plot, keyed by module bay. -/
def State.loadPanels (s : State) (f : Field) (x0 y0 : Nat) : List PanelRec → Table Flail → Except SeqGot (State × Table Flail)
  | [], t => .ok (s, t)
  | p :: l, t =>
    let b := s.fieldBay f (x0 + p.bx) (y0 + p.by_)
    let c := { s.walkCtx f 0 with who := .unit, bay := b, isBay := true }
    let read (s : State) (q : Word) (n : Nat) (k : State → List (Byte × Bool) → Except SeqGot (State × Table Flail)) :=
      match s.readRange c q n State.readOpen with
      | .ok s bs => k s bs
      | .wait s => .error (.wait s)
      | .flt e => match e.page with
        | some z => .error (.page (s.keeping e) z)
        | none => .error (.bad (s.keeping e))
    read s p.wptr 6144 fun s w => read s p.sptr 128 fun s sc =>
      State.loadPanels s f x0 y0 l (tmod b Flail.armed (fun a =>
        { a.putSlot p.slot p.wptr w with scales := tput p.slot (BitVec.ofNat 1024 (gotNat sc), gotPoison sc) a.scales }) t)

/-- The ranges that the spill rings of an instance keep: their bytes read as undefined to every party (R79, R226). -/
def State.ringVeils (s : State) (x : Inst) : List Veil :=
  x.image.chans.zipIdx.flatMap fun (r, k) => match x.image.spills[r.spix]? with
    | none => []
    | some p => match s.addressOf (s.ctxOf .unit (s.consBay x r) true x.field x.id) p.ptr p.size true with
      | .ok (_, l) => l.map fun y => ⟨y.addr, y.addr + y.len, x.field, x.id, k⟩
      | .error _ => []

/-- A bay about to be armed with an image: it goes on with the code that it has cached for that image, or caches it now (R41,
R262). -/
def Bay.cacheCode (y : Bay) (t : Nat) (p : Word) (i : Image) : List CachedCode × Option CachedCode :=
  match y.codes.find? fun x => x.tenant == t && x.ptr == p with
  | some x => (y.codes, some x)
  | none => (y.codes ++ [⟨t, p, i.codeOff, i.code, i.codePoison⟩], none)

/-- SECTION_ARM: the image is read and checked, its panels are loaded, and every bay of the plot is set (R241). -/
def execSectionArm (f t : Nat) (s : State) : Out :=
  match s.walking f t with
  | none => .next s
  | some (fd, x) => match x.st, x.frames with
    | .arm tiles, fr :: _ =>
      let plot := framePlot fr
      let ptr := BitVec.ofNat 64 (nodeField fr.record.toNat 8 8)
      let bad (s : State) : Out := .next (s.seqFault f 0x1A ptr fr.ptr false)
      if !s.plotFree fd plot || !s.armFirst fd t then .next s
      else match s.image fd (s.walkCtx fd t) ptr plot with
        | .page s q => .next (s.seqPage f t (some tiles) q)
        | .wait s => .next s
        | .bad s => bad s
        | .ok s img =>
          let r := plotRect (pktFw fd.packet) (pktFh fd.packet) plot
          match s.loadPanels fd r.1 r.2.1 img.panels [] with
          | .error (.page s q) => .next (s.seqPage f t (some tiles) q)
          | .error (.wait s) => .next s
          | .error (.bad s) => bad s
          | .error (.ok s _) => bad s
          | .ok (s, arrays) =>
            let ver := !nbit fr.record.toNat 6 && decide (wget (s.tenant fd.tenant).verq 19 0 ≠ 0)
            let id := fd.nextInst
            let inst : Inst := {
              field := f, id := id, task := t, node := fr.ptr, plot := BitVec.ofNat 24 plot, image := img, imgPtr := ptr
              tiles := tiles, chans := [], versioned := ver, overlay := [], measures := [], ends := [], solved := ⟨0, 1⟩, off := [], poisonLines := []
              poisonAddr := 0, poisonSent := false, sends := [], drops := 0, dropAddr := 0 }
            let bays := s.plotBays fd plot
            let s := bays.foldl (fun (s : State) (b : Nat) => s.modBay b fun y =>
              let c := y.cacheCode fd.tenant ptr img
              { Bay.idle with inst := some (f, id), halted := y.halted, hcache := y.hcache, codes := c.1, code := c.2
                              array := tgetD b Flail.armed arrays }) s
            let s : State := { s with insts := s.insts ++ [inst], snaps := s.snaps.filter fun y => !bays.contains y.1,
                                        samples := s.samples.filter fun y => !bays.contains y.1 }
            let s : State := { s with veils := s.veils ++ s.ringVeils inst }
            let s := match s.field? f with
              | some y => s.setField { y with nextInst := if id = 2 ^ 32 - 1 then 1 else id + 1 }
              | none => s
            .next ((s.modTask f t fun y => { y with st := .live id }).postSolve fd.tenant 1)
    | _, _ => .next s

/-! ### The end (R244, R245, R255) -/

/-- The bays of an instance. -/
def State.instBays (s : State) (x : Inst) : List Nat :=
  (s.bays.filter fun y => y.2.inst == some (x.field, x.id)).map Prod.fst
/-- The tokens left in a channel are those that R35 discards: it is closed, and they are fewer than its consumer's condition
needs. -/
def shortClosed (r : ChanRec) (c : Chan) : Bool :=
  c.closed && r.cact != 0xFFFF && decide (c.left < if r.cvar then 1 else r.cn)
/-- An actor that can never fire again: an input channel is closed and holds fewer tokens than its condition needs. -/
def neverFires (x : Inst) (n : Nat) : Bool :=
  x.image.chans.zipIdx.any fun (c, k) =>
    c.cact == n && shortClosed c (x.chan k)

/-- The quiescence tree's report for an instance (R33, R244): no actor firing or fireable, no command queued, no message
waiting at an unmasked class, no token in a channel but those that R35 discards. -/
def State.quiet (s : State) (x : Inst) : Bool :=
  (s.instBays x).all (fun b =>
    let y := s.bay b
    y.firings.isEmpty && (s.fireables b).isEmpty && y.queues.all (fun q => q.2.isEmpty) && !y.halted
      && y.msgs.all (fun m => y.cmask.getLsbD m.cls))
    && s.msgs.all (fun m => !(m.field == x.field && m.inst == x.id) || (s.bay m.bay).cmask.getLsbD m.msg.cls)
    && x.image.chans.zipIdx.all (fun (r, k) =>
      let c := x.chan k
      c.part.isEmpty && (decide (c.left = 0) || shortClosed r c))
    && (s.fir.status == .ended || !(s.fir.field == x.field && s.fir.inst == x.id))

/-- Every source actor has used its budget, or can never fire again. -/
def State.sourcesDone (s : State) (x : Inst) : Bool :=
  x.image.actors.zipIdx.all fun (a, n) =>
    !isSource x n || spent x n a (tgetD a.idx 0 (s.bay (s.actBay x n)).fired) || neverFires x n

/-- Add to the DISCARD counter of an actor of a bay, saturating (R338). -/
def Bay.discard (y : Bay) (idx n : Nat) : Bay :=
  { y with counters := tmod (32 * idx + 16) 0 (fun w =>
      BitVec.ofNat 32 (setBits w.toNat 31 16 (Nat.min (bits w.toNat 31 16 + n) 0xFFFF))) y.counters }
/-- Count what an ending instance discards: tokens left in channels, at their consumers, and messages at masked classes, at
the handlers they were for. -/
def State.countDiscards (s : State) (x : Inst) : State :=
  let s := x.image.chans.zipIdx.foldl (fun (s : State) (q : ChanRec × Nat) => match x.image.actors[q.1.cact]? with
    | some a =>
      let n := (x.chan q.2).left
      if n = 0 then s else s.modBay (s.actBay x q.1.cact) fun y => y.discard a.idx n
    | none => s) s
  x.image.actors.zipIdx.foldl (fun (s : State) (q : ActorRec × Nat) =>
    let b := s.actBay x q.2
    let n := ((s.bay b).msgs.filter fun m => m.cls == q.1.cls && !m.served.contains q.1.idx).length
    if !q.1.handler || decide (n = 0) then s else s.modBay b fun y => y.discard q.1.idx n) s

/-- Free the bays of an instance and drop it; what a bay caches and its counters stay. -/
def State.freeInst (s : State) (x : Inst) : State :=
  let mine (y : Bay) : Bool := y.inst == some (x.field, x.id)
  let bays := (s.bays.filter fun y => mine y.2).map Prod.fst
  let gone (w : Who) : Bool := match w with
    | .actor b _ => bays.contains b
    | .cmd b _ => bays.contains b
    | _ => false
  let held (k : Carrier) : Bool := match k with
    | .party w => gone w
    | .sem b _ | .edge b _ | .port b _ _ => bays.contains b
  { s with
    sentSets := s.sentSets.filter fun e => !held e.who
    bays := s.bays.map fun (b, y) => if mine y then
      (b, { Bay.idle with halted := y.halted, hcache := y.hcache, codes := y.codes, counters := y.counters, cause := y.cause, epc := y.epc
                          faddr := y.faddr }) else (b, y)
    insts := s.insts.filter fun y => !(y.field == x.field && y.id == x.id)
    veils := s.veils.filter fun v => !(v.field == x.field && v.inst == x.id)
    msgs := s.msgs.filter fun m => !(m.field == x.field && m.inst == x.id)
    rwq := s.rwq.filter fun u => !bays.contains u.bay
    waiters := s.waiters.filter fun w => !gone w.who
    routeWaits := s.routeWaits.filter fun w => !gone w.who }

/-- The TYPE 2 and TYPE 3 records of an instance (R387, R389, R361). -/
def State.instReports (s : State) (fd : Field) (x : Inst) : State :=
  let id := pkt fd.packet 335 320
  let s := if x.poisonLines = [] ∧ x.poisonSent = false then s
    else s.fltRecord fd.tenant ⟨2, 0, false, x.id, BitVec.ofNat 64 x.poisonAddr, 0, x.node, id, 0x7FF, x.poisonLines.length⟩
  if x.drops = 0 then s
  else s.fltRecord fd.tenant ⟨3, 0, false, x.id, BitVec.ofNat 64 x.dropAddr, 0, x.node, id, 0x7FF, x.drops⟩

/-- A party stands on a bay of an instance. -/
def State.ofInst (s : State) (x : Inst) (w : Who) : Bool := w.bay.any fun b => (s.bay b).inst == some (x.field, x.id)
/-- Serialise the pairs of an instance's parties, perform their held stores, and land the units on their way, as far as can
be (R245). -/
def State.settleInst (s : State) (x : Inst) : State :=
  let s := (s.instBays x).foldl (fun s b => s.performBay b fun _ => true) (s.drainIf fun p => s.ofInst x p.who)
  (s.drainIf fun p => s.ofInst x p.who).landAll
/-- A pair, a store or a register-window unit of an instance's parties is still on its way. -/
def State.instBusy (s : State) (x : Inst) : Bool :=
  s.pairs.any (fun p => s.ofInst x p.who) || s.rwq.any (fun u => s.ofInst x u.who)
    || (s.instBays x).any fun b => !(s.bay b).fwd.isEmpty

/-- SECTION_END: once every access of its parties is performed, the instance's version commits, it ends, and its done token
lets the walk go on. -/
def execSectionEnd (f i : Nat) (s : State) : Out :=
  match s.field? f, s.inst? f i with
  | some fd, some x =>
    if fd.fault.isSome ∨ (s.tenant fd.tenant).pre ≥ 2 ∨ s.quiet x = false ∨ s.sourcesDone x = false then .next s
    else
      let s := s.settleInst x
      if s.instBusy x then .next s else
      let s := match s.inst? f i with
        | some x => if x.versioned then s.commit x else s
        | none => s
      let x := (s.inst? f i).getD x
      let s := (s.countDiscards x).instReports fd x
      let s := s.freeInst x
      let s := match (s.field? f).bind fun y => y.task? x.task with
        | some t => if t.st == TaskState.live i then s.walkOn f x.task else s
        | none => s
      .next (s.postSolve fd.tenant 7)
  | _, _ => .next s

/-! ### Faults (R258) -/

/-- Stop every live instance of a field: nothing is saved, and versions still held are discarded. The stores that its
firings have issued are performed first, but for those that wait (log entry 3). -/
def State.stopInsts (s : State) (f : Nat) : State :=
  let mine := s.insts.filter fun x => x.field == f
  let s := mine.foldl (fun (s : State) (x : Inst) => match s.inst? f x.id with
    | some x =>
      let s := (s.instBays x).foldl (fun s b => s.performBay b fun _ => true) s
      (s.discardVersion ((s.inst? f x.id).getD x)).freeInst x
    | none => s) s
  { s with colls := s.colls.filter fun c => c.field ≠ f
           veils := s.veils.filter fun v => v.field ≠ f
           waiters := s.waiters.filter fun w => match w.who with
             | .walk g _ => decide (g ≠ f)
             | _ => true }

/-- SEQUENCER_FAULT: the field's launch ends with its first fault. -/
def execSequencerFault (f : Nat) (s : State) : Out :=
  match s.field? f with
  | none => .next s
  | some fd => match fd.fault with
    | none => .next s
    | some r =>
      if fd.stage ≠ .running ∨ (s.tenant fd.tenant).pre ≥ 2 then .next s
      else
        let live := s.insts.filter fun x => x.field == f
        let rec_ := live.all Inst.versioned
        let s := s.stopInsts f
        let s := match s.field? f with
          | some x => s.setField { x with stage := .ended, code := if r.root then 0x0003 else 0x0005, tasks := [], yards := [] }
          | none => s
        let s := s.fltRecord fd.tenant ⟨1, r.cause.toNat, rec_, r.inst, r.faddr, r.epc, r.node, pkt fd.packet 335 320, r.bay, fd.faults⟩
        .next (if live.isEmpty then s else s.postSolve fd.tenant 7)

end Sys2Proof.Machine
end

