-- ==== Sys2Proof/Machine/Solver.lean ====
section
/-! DEFINITION. The rate solver (R42, R325-R341): demands, the crossing pass, the power pass, changes of ratios and rails,
samples and power intervals. All arithmetic is exact. -/

namespace Sys2Proof.Machine

/-! ### Rationals -/

def Ratio.le (a b : Ratio) : Bool := decide (a.num * b.den ≤ b.num * a.den)
def Ratio.mul (a b : Ratio) : Ratio := ⟨a.num * b.num, a.den * b.den⟩
def Ratio.div (a b : Ratio) : Ratio := ⟨a.num * b.den, a.den * b.num⟩
def Ratio.add (a b : Ratio) : Ratio := ⟨a.num * b.den + b.num * a.den, a.den * b.den⟩
/-- Difference, not below 0. -/
def Ratio.sub (a b : Ratio) : Ratio := ⟨a.num * b.den - b.num * a.den, a.den * b.den⟩
def Ratio.max (a b : Ratio) : Ratio := if a.le b then b else a
def Ratio.min (a b : Ratio) : Ratio := if a.le b then a else b
/-- A whole number. -/
def Ratio.ofNat (n : Nat) : Ratio := ⟨n, 1⟩
/-- A nonnegative binary32 rate. -/
def rateOf (r : BitVec 32) : Ratio :=
  match F32.decode r.toNat with
  | .fin _ m e => if e ≥ 0 then ⟨m * 2 ^ e.toNat, 1⟩ else ⟨m, 2 ^ (-e).toNat⟩
  | _ => ⟨0, 1⟩

/-! ### Clocks (R325-R327) -/

/-- Fires(k, n). -/
def fires (k n : Nat) : Bool := decide (k ≠ 0) && decide ((n + 1) * k / 64 - n * k / 64 = 1)
/-- C(k1, k2): coincident edges per frame. -/
def coincident (k1 k2 : Nat) : Nat := ((List.range 64).filter fun n => fires k1 n && fires k2 n).length
/-- Lim(k1, k2): tokens a crossing channel moves per frame. -/
def lim (k1 k2 : Nat) : Nat := Nat.min (Nat.min k1 k2) (8 * coincident k1 k2)

/-! ### Inputs of a solve (R328, R340) -/

/-- The rate point of an instance at its field's RPN. -/
def State.ratePoint (s : State) (x : Inst) : Option (Nat × RateRec) :=
  match s.field? x.field with
  | none => none
  | some f => findAt (fun r => r.rpn == f.rpn) x.image.rates
/-- Requested rate of an instance's field. -/
def State.rateReq (s : State) (x : Inst) : BitVec 32 := ((s.field? x.field).map Field.rate).getD 0
/-- ρ, repetitions per µs; `none` for an instance whose islands are pinned at 64 (R329). -/
def State.rho (s : State) (x : Inst) : Option Ratio :=
  match s.ratePoint x with
  | none => none
  | some (_, r) => if s.rateReq x = 0 then none else some ((rateOf (s.rateReq x)).div (.ofNat r.toks))

/-- Tokens per firing at an end: measured, fixed, or expected. -/
def endCount (x : Inst) (k : Nat) (c : ChanRec) (cons : Bool) : Ratio :=
  match tget (2 * k + if cons then 1 else 0) x.ends with
  | some r => r
  | none =>
    if cons then (if c.cvar then ⟨c.ce, 256⟩ else .ofNat c.cn) else if c.pvar then ⟨c.pe, 256⟩ else .ofNat c.pn

/-- Rep(a) and Beff(a) as the solver holds them. -/
def Inst.measure (x : Inst) (n : Nat) : Measure :=
  match tget n x.measures with
  | some m => m
  | none => match x.image.actors[n]? with
    | some a => ⟨.ofNat a.rep, .ofNat a.bound⟩
    | none => ⟨⟨0, 1⟩, ⟨0, 1⟩⟩
def Inst.setMeasure (x : Inst) (n : Nat) (m : Measure) : Inst := { x with measures := tput n m x.measures }

/-- Recompute Rep along ORDER, once an end has been measured (R340). -/
def Inst.reps (x : Inst) : Inst :=
  if x.ends = [] then x
  else
    let order := sortBy (fun (a, _) => ActorRec.order a) x.image.actors.zipIdx
    order.foldl (fun (x : Inst) (q : ActorRec × Nat) => match x.image.chans[q.1.pchan]? with
      | none => x
      | some c =>
        let child := q.2
        let asCons := c.cact == child
        let parent := if asCons then c.pact else c.cact
        let rp := endCount x q.1.pchan c !asCons
        let rc := endCount x q.1.pchan c asCons
        let m := x.measure child
        let top := (x.measure parent).rep.mul rp
        let new := if asCons then top.div ((Ratio.ofNat c.k).mul rc) else ((Ratio.ofNat c.k).mul top).div rc
        if rc.num = 0 ∨ new.num = 0 then x else x.setMeasure child { m with rep := new }) x

/-- Demand of the actors of an instance on a bay, in cycles per µs. -/
def State.demandOn (s : State) (x : Inst) (rho : Ratio) (b : Nat) : Ratio :=
  x.image.actors.zipIdx.foldl (fun (d : Ratio) (q : ActorRec × Nat) =>
    if q.1.handler || s.actBay x q.2 != b then d
    else
      let m := x.measure q.2
      d.add ((rho.mul m.rep).mul m.beff)) ⟨0, 1⟩

/-! ### The solve (R329-R334) -/

/-- What a solve chooses for an island. -/
structure Choice where
  island : Nat
  k : Nat
  c : Nat
  floor : Bool
  deriving DecidableEq, Repr

/-- Bay cycles per µs that ratio `k` offers a demand: k * 3300/64 * 15/16. -/
def offer (k : Nat) : Ratio := ⟨k * 49500, 1024⟩
/-- The smallest ratio that meets a demand, and whether none does. -/
def ratioFor (d : Ratio) : Nat × Bool :=
  match ((List.range 64).map (· + 1)).find? fun k => d.le (offer k) with
  | some k => (k, false)
  | none => (64, true)

/-- Islands on which an instance has actors. -/
def State.instIslands (s : State) (x : Inst) : List Nat :=
  ((List.range x.image.actors.length).map fun n => bayIsland (s.actBay x n)).dedup
/-- Every island of an instance: those that hold bays of its plot. -/
def State.plotIslands (s : State) (x : Inst) : List Nat :=
  ((s.bays.filter fun y => y.2.inst == some (x.field, x.id)).map fun y => bayIsland y.1).dedup

/-- k(i) before the crossing pass, and whether it falls short. -/
def State.firstRatio (s : State) (l : List Inst) (i : Nat) : Nat × Bool :=
  let here := l.filter fun x => (s.instIslands x).contains i
  if here.isEmpty then (0, false)
  else if l.any fun x => (s.rho x).isNone && (s.plotIslands x).contains i then (64, false)
  else
    let d := (islandBays i).foldl (fun (m : Ratio) (b : Nat) =>
      m.max (here.foldl (fun (a : Ratio) (x : Inst) => a.add (s.demandOn x ((s.rho x).getD ⟨0, 1⟩) b)) ⟨0, 1⟩)) ⟨0, 1⟩
    ratioFor d

/-- The crossing channels of the instances with a rate: producer island, consumer island, consumer-end tokens per frame. -/
def State.crossings (s : State) (l : List Inst) : List (Nat × Nat × Ratio) :=
  l.flatMap fun x => match s.rho x with
    | none => []
    | some rho => x.image.chans.zipIdx.filterMap fun (c, k) =>
      if s.crossing x c then
        some (bayIsland (s.prodBay x c), bayIsland (s.consBay x c),
          ((rho.mul (x.measure c.cact).rep).mul (endCount x k c true)).mul ⟨64, 3300⟩)
      else none

/-- Ratio chosen for an island. -/
def ratioAt (l : List Choice) (i : Nat) : Nat := ((l.find? fun c => c.island == i).map Choice.k).getD 0
def setRatio (l : List Choice) (i k : Nat) : List Choice := l.map fun c => if c.island = i then { c with k := k } else c

/-- One pass over the crossing channels: the first that can be raised is raised; the flag says a channel stays over its
limit. -/
def crossOnce (l : List Choice) : List (Nat × Nat × Ratio) → Option (List Choice) × Bool
  | [] => (none, false)
  | (p, q, t) :: rest =>
    let kp := ratioAt l p
    let kc := ratioAt l q
    if t.le (.ofNat (lim kp kc)) then crossOnce l rest
    else if kp = 64 ∧ kc = 64 then ((crossOnce l rest).1, true)
    else if kc ≤ kp then (some (setRatio l q (kc + 1)), false) else (some (setRatio l p (kp + 1)), false)
/-- CrossingPass (R330): restarted after every raise. -/
def crossingPass (h : List (Nat × Nat × Ratio)) : Nat → List Choice → List Choice × Bool
  | 0, l => (l, false)
  | n + 1, l => match crossOnce l h with
    | (some l, _) => crossingPass h n l
    | (none, short) => (l, short)

/-- COSTT of a code. -/
def State.costOf (s : State) (c : Nat) : BitVec 32 := (tget c s.costt).getD (Config.costt c)
/-- Cost(i) at a ratio and a code (R332). -/
def State.cost (s : State) (k c : Nat) : Nat :=
  if k = 0 then 0
  else
    let w := (s.costOf c).toNat
    (bits w 15 0 * k + 63) / 64 + bits w 31 16
/-- Cost of a list of choices. -/
def State.costSum (s : State) (l : List Choice) : Nat := (l.map fun x => s.cost x.k x.c).foldl (· + ·) 0

/-- ReduceStep (R333): the costliest island not at its lowest point, lowest number on a tie; the flag says it was denied
at floor. -/
def State.reduceStep (s : State) (l : List Choice) : Option (List Choice × Bool) :=
  let can := l.filter fun x => decide (x.k ≠ 0) && !(x.k == 1 && x.c == Config.vmin x.island 1)
  let top := can.foldl (fun m x => Nat.max m (s.cost x.k x.c)) 0
  match (sortBy Choice.island can).find? fun x => s.cost x.k x.c == top with
  | none => none
  | some x =>
    let put (y : Choice) : List Choice := l.map fun z => if z.island = x.island then y else z
    if x.c > Config.vmin x.island 1 then
      let c := x.c - 1
      let k := ((List.range 65).filter fun k => decide (k ≥ 1) && decide (Config.vmin x.island k ≤ c)).foldl Nat.max 1
      some (put { x with c := c, k := k }, false)
    else some (put { x with k := Nat.max 1 (x.k - 1), floor := true }, true)
/-- PowerPass: reduction steps until the cost fits; counts the denials at floor. -/
def State.powerPass (s : State) (grant : Nat) : Nat → List Choice → Nat → List Choice × Nat
  | 0, l, n => (l, n)
  | fuel + 1, l, n =>
    if s.costSum l ≤ grant then (l, n)
    else match s.reduceStep l with
      | none => (l, n)
      | some (l, denied) => State.powerPass s grant fuel l (if denied then n + 1 else n)

/-- The largest rate an instance's bays and crossing channels meet at the ratios chosen (R341); it may exceed the rate
requested, and is that rate where nothing bounds it. -/
def State.metRate (s : State) (l : List Inst) (ch : List Choice) (x : Inst) : Ratio :=
  let want := rateOf (s.rateReq x)
  match s.rho x with
  | none => want
  | some rho =>
    let scale (cap need : Ratio) (r : Option Ratio) : Option Ratio :=
      if need.num = 0 then r else some (r.elim ((want.mul cap).div need) fun q => q.min ((want.mul cap).div need))
    let r := (s.instIslands x).foldl (fun (r : Option Ratio) (i : Nat) => (islandBays i).foldl (fun (r : Option Ratio) (b : Nat) =>
      let others := (l.filter fun y => !(y.field == x.field && y.id == x.id)).foldl (fun (a : Ratio) (y : Inst) =>
        match s.rho y with
        | some q => a.add (s.demandOn y q b)
        | none => a) ⟨0, 1⟩
      scale ((offer (ratioAt ch i)).sub others) (s.demandOn x rho b) r) r) none
    ((s.crossings [x]).foldl (fun (r : Option Ratio) (h : Nat × Nat × Ratio) =>
      scale (.ofNat (lim (ratioAt ch h.1) (ratioAt ch h.2.1))) h.2.2 r) r).getD want

/-- Change of a counter over the last complete sample, modulo 2^32. -/
def State.sampled (s : State) (b o : Nat) : Nat := (tgetD o 0 (tgetD b [] s.samples)).toNat

/-- Measurements of an instance over the last complete sample, as a solve takes them (R340). -/
def State.measureInst (s : State) (x : Inst) : Inst :=
  let x := x.image.actors.zipIdx.foldl (fun (x : Inst) (q : ActorRec × Nat) =>
    let b := s.actBay x q.2
    let n := s.sampled b (32 * q.1.idx)
    if n = 0 then x
    else
      let m := x.measure q.2
      x.setMeasure q.2 { m with beff := m.beff.max ⟨s.sampled b (32 * q.1.idx + 4), n⟩ }) x
  let one (act port : Nat) (key : Nat) (x : Inst) : Inst := match x.image.actors[act]? with
    | none => x
    | some a =>
      let b := s.actBay x act
      let n := s.sampled b (32 * a.idx)
      if n = 0 then x else { x with ends := tput key ⟨s.sampled b (512 + 4 * port), n⟩ x.ends }
  x.image.chans.zipIdx.foldl (fun (x : Inst) (q : ChanRec × Nat) =>
    let x := if q.1.pvar then one q.1.pact (16 + q.1.pport) (2 * q.2) x else x
    if q.1.cvar then one q.1.cact q.1.cport (2 * q.2 + 1) x else x) x

/-- EFFB: the effective bound as a whole number of cycles; how a fraction is rounded is left open. -/
def State.effb (s : State) (n : Nat) (r : Ratio) : BitVec 32 :=
  BitVec.ofNat 32 (r.num / Nat.max 1 r.den + if r.num % Nat.max 1 r.den = 0 then 0 else s.pick 15 n % 2)

/-- COMMIT: the cost of the tenant's islands as applied (R344). -/
def State.recommit (s : State) (t : Nat) : State :=
  let n := (((s.islandsOf t).filter (s.serves t)).map fun i => s.cost (s.island i).k (s.island i).vcode).foldl (· + ·) 0
  s.modTenant t fun x => { x with pwrgnt := wset x.pwrgnt 39 20 (Nat.min n 0xFFFFF) }
/-- A ratio or code of a tenant changes in this sample. -/
def State.noteChange (s : State) (t : Nat) : State := { s with changing := (t :: s.changing).dedup }

/-- STATE of an island whose rail is commanded to a code, with no ratio pending: it tells a rise from a fall. -/
def Island.railState (x : Island) (now code : Nat) : Nat :=
  if x.railPos now = 125 * code then 0 else if x.railPos now < 125 * code then 1 else 2
/-- Give an island its new targets (R335, R337): a fall or a rise waits for the frame boundary, a rail alone moves at once,
from where it stands. -/
def State.retarget (s : State) (x : Choice) : State :=
  let i := s.island x.island
  let i := { i with tgtk := x.k, tgtv := x.c, floor := x.floor }
  let now := s.dtime.toNat
  s.setIsland x.island (
    if x.k > i.k then { i with state := 1 }
    else if x.k < i.k then { i with state := 2 }
    else { i.command now x.c with state := i.railState now x.c })

/-- Solve(t). -/
def State.solveTenant (s : State) (t cause : Nat) : State :=
  let s : State := { s with insts := s.insts.map fun x => if (s.field? x.field).any fun f => f.tenant == t then (s.measureInst x).reps else x }
  let l := s.liveOf t
  let first := (s.islandsOf t).map fun i => (i, s.firstRatio l i)
  let start : List Choice := first.map fun (i, r) => ⟨i, r.1, 0, false⟩
  let crossed := crossingPass (s.crossings l) 40000 start
  let coded := crossed.1.map fun x => { x with c := if x.k = 0 then 0 else Config.vmin x.island x.k }
  let grant := wget (s.tenant t).pwrgnt 59 40
  let asked := s.costSum coded
  let short := crossed.2 || first.any fun x => x.2.2
  let part := decide (asked > grant)
  let out := if part then s.powerPass grant 70000 coded 0 else (coded, 0)
  let s := s.modTenant t fun x => { x with
    solvst := wset (wset (wset (wadd (wadd x.solvst 63 48 1) 47 32 out.2) 23 20 cause) 19 19 (if part then 1 else 0)) 18 18
      (if short then 1 else 0)
    asked := x.asked || decide (asked > wget x.pwrcfg 19 0) }
  let moved := out.1.any fun x => decide ((s.island x.island).k ≠ x.k) || decide ((s.island x.island).vcode ≠ x.c)
  let s := out.1.foldl State.retarget s
  let s := if moved then s.noteChange t else s
  let s : State := { s with insts := s.insts.map fun x => if (s.field? x.field).any fun f => f.tenant == t then
    { x with solved := if short || part then s.metRate l out.1 x else rateOf (s.rateReq x) } else x }
  let s := l.foldl (fun (s : State) (x : Inst) => x.image.actors.zipIdx.foldl (fun (s : State) (q : ActorRec × Nat) =>
    s.modBay (s.actBay x q.2) fun y => { y with
      counters := tput (32 * q.1.idx + 20) (s.effb q.2 (x.measure q.2).beff) y.counters }) s) s
  s.recommit t

/-- A tenant whose islands serve it now. -/
def State.onIslands (s : State) (t : Nat) : Bool := decide (t = 0) || ((s.tenant t).resident && decide ((s.tenant t).pre < 2))

/-- SOLVE: a solve that has been posted begins, with the rate and the measurements as they stand (R337). -/
def execSolve (t : BitVec 4) (s : State) : Out :=
  let n := t.toNat
  match (s.tenant n).solve with
  | none => .next s
  | some cause =>
    if !s.onIslands n then .next s
    else .next ((s.modTenant n fun x => { x with solve := none }).solveTenant n cause)

/-! ### Changing clocks (R335) -/

/-- Tenant of an island: the one whose resident partition holds it, else 0. -/
def State.islandTenant (s : State) (i : Nat) : Nat :=
  (((List.range 16).filter fun t => decide (t ≠ 0) && s.serves t i).head?).getD 0

/-- RATIO_APPLY: a frame boundary of an island. A lower ratio applies and the rail is commanded down; for a higher one the
rail is commanded up, and the ratio applies once the rail is sensed at its target. -/
def execRatioApply (i : Nat) (s : State) : Out :=
  let x := s.island i
  let t := s.islandTenant i
  let now := s.dtime.toNat
  let done (x : Island) : Out := .next (((s.setIsland i x).noteChange t).recommit t)
  let moved : Island := x.command now x.tgtv
  if x.tgtk < x.k ∨ (x.tgtk > x.k ∧ x.sense now ≥ x.tgtv) then
    done { moved with k := x.tgtk, state := x.railState now x.tgtv }
  else if x.tgtk > x.k ∧ x.vcode ≠ x.tgtv then done { moved with state := 1 }
  else .next s

/-- RAIL_SETTLED: the rail of an island stands at the code commanded, and no ratio is pending. -/
def execRailSettled (i : Nat) (s : State) : Out :=
  let x := s.island i
  if x.railPos s.dtime.toNat ≠ 125 * x.vcode ∨ x.k ≠ x.tgtk ∨ x.state = 0 then .next s
  else .next ((s.setIsland i { x with state := 0 }).noteChange (s.islandTenant i))

/-! ### Samples (R339-R341) -/

/-- A counter of a bay at the latest sample boundary. -/
def State.snap (s : State) (b o : Nat) : BitVec 32 := tgetD o 0 (tgetD b [] s.snaps)
/-- Change of a counter over the sample, modulo 2^32. -/
def State.delta (s : State) (b o : Nat) : Nat := (tgetD o 0 (s.bay b).counters - s.snap b o).toNat
/-- Key under which a bay's CYC is kept at a boundary. -/
def cycKey : Nat := 4096
/-- Bay cycles of the sample. -/
def State.deltaCyc (s : State) (b : Nat) : Nat := ((s.bay b).cyc.setWidth 32 - s.snap b cycKey).toNat

/-- The measured rate at a rate point, in tokens per µs; an ext end is counted at the actor end, scaled by K. -/
def State.measuredRate (s : State) (x : Inst) (r : RateRec) : Ratio :=
  match x.image.chans[r.chan]? with
  | none => ⟨0, 1⟩
  | some c =>
    let prod := s.delta (s.prodBay x c) (576 + 4 * c.pport)
    let cons := s.delta (s.consBay x c) (512 + 4 * c.cport)
    let n : Ratio :=
      if r.snk then (if c.cact = 0xFFFF then ⟨prod, c.k⟩ else ⟨cons, 1⟩)
      else if c.pact = 0xFFFF then ⟨c.k * cons, 1⟩ else ⟨prod, 1⟩
    ⟨n.num * 1000, n.den * Nat.max 1 (s.dtime.toNat - s.snapAt)⟩
/-- The measured rate differs from the solved rate by more than 1/16 of it. -/
def rateOff (m r : Ratio) : Bool :=
  let d := (m.sub r).add (r.sub m)
  !(d.mul ⟨16, 1⟩).le r

/-- A load element at the head of a port of a bay waits for room in a channel. -/
def State.loadWaits (s : State) (x : Inst) (k : Nat) (r : ChanRec) : Bool :=
  decide (r.pact = 0xFFFF) && decide (roomOf x r (x.chan k) = 0) &&
    [0x20, 0x21, 0x22, 0x23].any fun p => match (s.queue (s.consBay x r) p).head? with
      | some c => c.phase == .run && [0x01, 0x03, 0x10].contains (cOpc c.word) && cb c.word 19 13 == r.cport
      | none => false

/-- Cause 4 for an instance: a source actor blocked in every bay cycle, or a load element that waited throughout. -/
def State.stalls (s : State) (x : Inst) : Bool :=
  x.image.actors.zipIdx.any (fun (a, n) =>
      let b := s.actBay x n
      !a.handler && (x.image.chans.all fun c => c.cact ≠ n || c.pact == 0xFFFF)
        && decide (s.deltaCyc b ≠ 0) && decide (s.delta b (32 * a.idx + 12) = s.deltaCyc b))
    || x.image.chans.zipIdx.any fun (r, k) => s.loadWaits x k r && (x.chan k).waited == some (x.chan k).sent

/-- Counter blocks of the bays that serve an instance, with the bay cycles. -/
def State.blocks (s : State) : Table (Table (BitVec 32)) :=
  (s.bays.filter fun y => y.2.inst.isSome).map fun (b, y) => (b, tput cycKey (y.cyc.setWidth 32) y.counters)

/-- Count a sample toward cause 3: the new counts, and whether one has reached 3. -/
def State.countOff (s : State) (x : Inst) (changing : Bool) : Inst × Bool :=
  match s.ratePoint x with
  | none => (x, false)
  | some (k, r) =>
    if s.rateReq x = 0 then (x, false)
    else
      let n := if !changing && rateOff (s.measuredRate x r) x.solved then tgetD k 0 x.off + 1 else 0
      if n ≥ 3 then ({ x with off := tput k 0 x.off }, true) else ({ x with off := tput k n x.off }, false)

/-- A sample ends at this device tick: a multiple of 1,000 times the PERIOD in force, at which none has ended yet (R339). -/
def State.sampleDue (s : State) : Bool :=
  decide (s.dtime.toNat % (1000 * Nat.max 1 s.sampleLen) = 0) && decide (s.dtime.toNat ≠ s.snapAt)

/-- SAMPLE_BOUNDARY: the changes of the counters over the sample are taken, and causes 3 and 4 tested. -/
def execSampleBoundary (s : State) : Out :=
  if !s.sampleDue then .next s else
  let live := s.insts.filter fun x => (s.field? x.field).any fun f => s.onIslands f.tenant
  let step (s : State) (x : Inst) : State :=
    let t := ((s.field? x.field).map Field.tenant).getD 0
    let r := s.countOff x (s.changing.contains t)
    let y := { r.1 with chans := x.image.chans.zipIdx.foldl (fun (l : Table Chan) (q : ChanRec × Nat) =>
      tmod q.2 Chan.empty (fun c => { c with waited := if s.loadWaits x q.2 q.1 then some c.sent else none }) l) x.chans }
    let s := s.setInst y
    let s := if r.2 then s.postSolve t 3 else s
    if s.stalls x then s.postSolve t 4 else s
  let s' := live.foldl step s
  let moving := (List.range 16).filter fun t => (s.islandsOf t).any fun i => decide ((s.island i).state ≠ 0)
  .next { s' with
    snaps := s.blocks
    samples := s.blocks.map fun (b, l) => (b, l.map fun (o, w) => (o, w - s.snap b o))
    sampleLen := s.samplep.toNat
    snapAt := s.dtime.toNat
    changing := moving }

/-! ### Power intervals (R332, R401) -/

/-- A power interval ends at this device tick: a multiple of 100,000 at which none has ended yet. -/
def State.powerDue (s : State) : Bool := decide (s.dtime.toNat % 100000 = 0) && decide (s.dtime.toNat ≠ s.powerAt)

/-- POWER_INTERVAL_END: every tenant passes its spare tokens to the pool, and the pool is shared. -/
def execPowerIntervalEnd (s : State) : Out :=
  if !s.powerDue then .next s else
  let meas := Config.measuredPower s.draw
  let above := decide (meas.toNat > wget s.modpwr 15 0)
  let spare (t : Nat) : Nat := wget (s.tenant t).pwrcfg 19 0 - wget (s.tenant t).pwrgnt 39 20
  let pool := if above then 0 else ((List.range 16).map spare).foldl (· + ·) 0
  let weight (t : Nat) : Nat := if (s.tenant t).asked then wget (s.tenant t).pwrcfg 39 32 else 0
  let total := ((List.range 16).map weight).foldl (· + ·) 0
  let one (s : State) (t : Nat) : State :=
    let x := s.tenant t
    let grant := Nat.min (wget x.pwrcfg 19 0 + if total = 0 then 0 else pool * weight t / total) 0xFFFFF
    let s := s.modTenant t fun x => { x with
      pwrgnt := wset (wset x.pwrgnt 59 40 grant) 19 0 (spare t), asked := false }
    if wget x.pwrgnt 39 20 > grant then s.postSolve t 6 else s
  let s' := (List.range 16).foldl one s
  .next { s' with modpwr := wset s'.modpwr 63 48 meas.toNat, powerAt := s.dtime.toNat }

end Sys2Proof.Machine
end

