-- ==== Sys2Proof/Machine/Ladder.lean ====
section
/-! DEFINITION. Partitions and the pre-emption ladder (R373-R386): creating and removing a partition, stops and their
rungs, the save into the loft and the restore. -/

namespace Sys2Proof.Machine

/-! ### Partitions (R373, R374) -/

/-- Entries of a partition map. -/
def State.readMap (s : State) (pmap n : Nat) : List Nat :=
  (List.range n).map fun k => leNat (s.mem.readList (s.ga (pmap * 4096 + 2 * k)) 2)
/-- ISLST.TEN of islands. -/
def State.setOwner (s : State) (l : List Nat) (t : Nat) : State :=
  l.foldl (fun (s : State) (i : Nat) => s.setIsland i { s.island i with ten := t }) s
/-- Gate islands: their ratio is 0 and their rail is at code 0. -/
def State.gate (s : State) (l : List Nat) : State :=
  let now := s.dtime.toNat
  l.foldl (fun (s : State) (i : Nat) => s.setIsland i { (s.island i).command now 0 with
    k := 0, tgtk := 0, tgtv := 0, state := (s.island i).railState now 0 }) s
/-- COMMIT of a tenant and of tenant 0 once islands have passed between them (R344, R373). -/
def State.recommitBoth (s : State) (t : Nat) : State := (s.recommit t).recommit 0

/-- A write of PARTCFG that takes VALID from 0 to 1: the map is read once and checked; the partition is resident when no
resident partition holds one of its islands and no field of tenant 0 is placed on them (log entry 78). -/
def State.createPartition (s : State) (t : Nat) (v : Word) : State :=
  let vw := wget v 61 55
  let vh := wget v 54 49
  let l := s.readMap (wget v 46 12) (vw * vh / 4)
  if t = 0 || (s.tenant t).valid || decide (wget v 48 47 ≠ 0) || decide (wget v 11 0 ≠ 0) then s
  else if vw * vh > 2048 || vw = 0 || vh = 0 || vw % 2 = 1 || vh % 2 = 1 || l.any (fun e => decide (e > 511)) || !distinct l then s
  else
    let held := s.busyIslands
    let res := l.all fun i => !held.contains i
    let s := s.modTenant t fun x => { x with
      partcfg := wset (wset v 62 62 (if res then 1 else 0)) 63 63 1
      pmap := l, verq := wset x.verq 63 48 0, grncnt := 0, mcstat := 0, sliceAt := s.dtime.toNat }
    if res then ((s.setHalted false (l.flatMap islandBays)).setOwner l t).recommitBoth t else s

/-- An island is one of another partition whose tenant is stopped. -/
def State.stoppedBy (s : State) (t i : Nat) : Bool :=
  (List.range 16).any fun u => u ≠ t && (s.tenant u).valid && decide ((s.tenant u).pre = 2) && (s.tenant u).pmap.contains i
/-- A write of VALID = 0: the partition is removed. -/
def State.removePartition (s : State) (t : Nat) : State :=
  if t = 0 || !(s.tenant t).valid then s
  else
    let isles := (s.tenant t).pmap
    let was := (s.tenant t).resident
    let mine := s.fields.filter fun f => f.tenant == t
    let s := mine.foldl (fun (s : State) (f : Field) =>
      let s := s.stopInsts f.id
      let s := s.complete t f.packet (if f.stage = .ended then f.code else 0x0005) (s.fieldCtx f)
      s.dropField f.id) s
    let ctxOf (l : Loft) : Bool := match l with
      | .full n => (s.ctxs[n]?).any fun c => c.tenant == t
      | .restoring n => (s.ctxs[n]?).any fun c => c.tenant == t
      | .empty => false
    let s : State := { s with lofts := s.lofts.filter fun x => !ctxOf x.2 }
    let s := ((s.dropRequests t).dropHandles t true 0).dropImages t true 0
    let s := if was then (s.gate isles).setOwner isles 0 else s
    let s : State := { s with rwq := s.rwq.filter fun u => !(u.tenant == t && isles.contains (bayIsland u.bay)) }
    let free := isles.filter fun i => was || (!s.heldIslands.contains i && !s.stoppedBy t i)
    let s := s.setHalted false (free.flatMap islandBays)
    (s.modTenant t fun x => { x with
      partcfg := wset (wset x.partcfg 63 63 0) 62 62 0, pmap := [], launches := [], stop := .idle, solve := none
      prestat := wset x.prestat 1 0 0 }).recommitBoth t

/-- A write of PARTCFG. -/
def State.writePartcfg (s : State) (t : Nat) (v : Word) : State :=
  if t = 0 || decide (wget v 48 47 ≠ 0) || decide (wget v 11 0 ≠ 0) then s
  else if (s.tenant t).valid then (if v.getLsbD 63 then s else s.removePartition t)
  else if v.getLsbD 63 then s.createPartition t v
  else s.modTenant t fun x => { x with partcfg := wset v 62 62 0 }

def execPartitionCreate (t : BitVec 4) (v : Word) (s : State) : Out :=
  .next (if s.served then s.createPartition t.toNat (wset v 63 63 1) else s)
def execPartitionRemove (t : BitVec 4) (s : State) : Out := .next (if s.served then s.removePartition t.toNat else s)

/-! ### Stops (R376-R381) -/

/-- SLICEMIN as a slice (R377). -/
def sliceFloor : Nat := Config.slicemin.toNat
/-- The slice in force: a nonzero one below SLICEMIN acts as SLICEMIN. -/
def Tenant.slice (t : Tenant) : Nat :=
  let n := wget t.slicecfg 31 0
  if n = 0 then 0 else Nat.max n sliceFloor
/-- A write of SLICECFG: a DRAIN of 0 stores 1; a slice raised to the floor is counted. -/
def State.writeSlicecfg (s : State) (t : Nat) (v : Word) : State :=
  if t = 0 then s
  else
    let n := wget v 31 0
    s.modTenant t fun x => { x with
      slicecfg := if wget v 63 48 = 0 then wset v 63 48 1 else v
      prestat := if 0 < n ∧ n < sliceFloor then wadd x.prestat 15 8 1 else x.prestat }
def execSlicecfgWrite (t : BitVec 4) (v : Word) (s : State) : Out :=
  .next (if s.served then s.writeSlicecfg t.toNat v else s)

/-- Withdraw the WAITF registrations of a tenant's fields (R265). -/
def State.withdraw (s : State) (t : Nat) : State :=
  let mine (f : Nat) : Bool := (s.field? f).any fun x => x.tenant == t
  { s with
    waiters := s.waiters.filter fun w => match w.who with
      | .walk f _ => !mine f
      | _ => true
    fields := s.fields.map fun x => if x.tenant ≠ t then x else { x with tasks := x.tasks.map fun y => match y.st with
      | .waitf w v ge met _ => { y with st := .waitf w v ge met false }
      | _ => y } }
/-- A field of a tenant with no live instance has yielded (R265). -/
def State.fieldYielded (s : State) (f : Field) : Bool := s.insts.all fun i => i.field ≠ f.id
/-- Mark the fields of a tenant that meet a condition as stopped at a rung. -/
def State.markRung (s : State) (t rung : Nat) (p : Field → Bool) : State :=
  { s with fields := s.fields.map fun x => if x.tenant == t && decide (x.rung = 0) && p x then
      { x with rung := rung, yielded := true } else x }

/-- A stop begins at rung 1 (R378, R379). -/
def State.beginStop (s : State) (t : Nat) : State :=
  let s := (s.withdraw t).modTenant t fun x => { x with
    stop := .rung1, stopAt := s.dtime.toNat, prestat := wset x.prestat 1 0 1 }
  { s with fields := s.fields.map fun x => if x.tenant = t then { x with rung := 0, yielded := false } else x }
/-- A stop fits the tenant's STATE (R376). One with no partition has nothing to stop (log entry 96). -/
def State.stoppable (s : State) (t : Nat) : Bool := decide (t ≠ 0) && (s.tenant t).valid && decide ((s.tenant t).pre = 0)
/-- PRECMD CMD 1. -/
def State.stopCmd (s : State) (t : Nat) : State := if s.stoppable t then s.beginStop t else s
/-- PRECMD CMD 2: rung 3 at once, or a stop at rung 1 or 2 moves there. -/
def State.stopNow (s : State) (t : Nat) : State :=
  let s := s.stopCmd t
  if (s.tenant t).stop = .rung1 ∨ (s.tenant t).stop = .rung2 then s.modTenant t fun x => { x with stop := .rung3 } else s

def execPrecmdStop (t : BitVec 4) (s : State) : Out := .next (if s.served then s.stopCmd t.toNat else s)
def execPrecmdStopNow (t : BitVec 4) (s : State) : Out := .next (if s.served then s.stopNow t.toNat else s)
/-- SLICE_EXPIRE: the slice of a running tenant is over (R377). -/
def execSliceExpire (t : BitVec 4) (s : State) : Out :=
  let x := s.tenant t.toNat
  if x.slice = 0 ∨ s.dtime.toNat < x.sliceAt + x.slice then .next s else .next (s.stopCmd t.toNat)

/-- The cut of rows at rung 2 (R281): in a channel in which a router builds rows, the row that an LDS is to finish, else
the last row built carries CUT. -/
def State.cutChan (s : State) (x : Inst) (k : Nat) (r : ChanRec) : State :=
  if r.k ≠ 15 then s
  else if r.pact = 0xFFFF ∧ (x.chan k).part ≠ [] then s.modChan x.field x.id k fun c => { c with cut := true }
  else s.setCut x k r true
/-- The cut in every channel of an instance. -/
def State.cutRows (s : State) (x : Inst) : State :=
  x.image.chans.zipIdx.foldl (fun (s : State) (q : ChanRec × Nat) => s.cutChan x q.2 q.1) s

/-- GRACE_EXPIRE: rung 2 on the fields still live: source gating (R380). -/
def execGraceExpire (t : BitVec 4) (s : State) : Out :=
  let n := t.toNat
  let x := s.tenant n
  if x.stop ≠ .rung1 ∨ s.dtime.toNat < x.stopAt + 1000 * wget x.slicecfg 47 32 then .next s
  else
    let s := s.markRung n 1 s.fieldYielded
    let s := (s.liveOf n).foldl State.cutRows s
    .next (s.modTenant n fun y => { y with stop := .rung2, stopAt := s.dtime.toNat })

/-- A command that counts as quiescent (R232): it waits for done tokens, its semaphore, tokens or room, or is a stream that
source gating has stopped. One that waits for nothing is not. -/
def State.cmdQuiet (s : State) (x : Inst) (b p : Nat) (c : Cmd) : Bool :=
  let emptyPort (q : Nat) : Bool := match s.extOut b q with
    | some (_, k, _) => (x.chan k).left == 0
    | none => true
  let fullPort (q : Nat) : Bool := match s.extIn b q with
    | some (_, k, r) => !feedRoom x r (x.chan k) c.region
    | none => false
  match c.phase with
  | .tokens => (s.bay b).held.any (fun h => h.1 == p) || (s.inEdges x b p).any fun q => s.edgeCount b q.1 == 0
  | .sema => decide (cWthr c.word ≠ 0) && c.waiting
  | .finish => false
  | .run => match cOpc c.word with
    | 0x01 => true
    | 0x03 => true
    | 0x10 => true
    | 0x0F => !s.colls.any fun y => y.matched && (s.collOf y b).isSome
    | 0x02 => emptyPort (cb c.word 19 13)
    | 0x07 => emptyPort (cb c.word 19 13)
    | 0x08 => !gthDstm c && fullPort (cb c.word 6 0)
    | 0x09 => !c.word.getLsbD 71 && emptyPort (cb c.word 60 54)
    | 0x0B => !c.word.getLsbD 83 && emptyPort (cb c.word 72 66)
    | 0x0C => !c.word.getLsbD 83 && fullPort (cb c.word 72 66)
    | 0x0D => if c.pos < cb c.word 47 32 then !c.word.getLsbD 83 && emptyPort (cb c.word 72 66)
        else c.word.getLsbD 31 && !c.word.getLsbD 65 && fullPort (cb c.word 54 48)
    | _ => false
/-- The quiescence tree's report for a field at rung 2 (R380). -/
def State.fieldQuiet (s : State) (f : Field) : Bool :=
  (s.insts.filter fun x => x.field == f.id).all fun x =>
    x.image.chans.zipIdx.all (fun (_, k) => let c := x.chan k; decide (c.left = 0) && c.part.isEmpty)
      && (s.bays.filter fun y => y.2.inst == some (x.field, x.id)).all (fun (b, y) =>
        y.firings.isEmpty && y.fwd.isEmpty && y.msgs.isEmpty && y.queues.all (fun q => (q.2.take 1).all (s.cmdQuiet x b q.1)))
      && s.msgs.all (fun m => !(m.field == x.field && m.inst == x.id))
      && s.pairs.all (fun p => match p.who with
        | .actor b _ => (s.bay b).inst != some (x.field, x.id)
        | .cmd b _ => (s.bay b).inst != some (x.field, x.id)
        | _ => true)

/-- DRAIN_EXPIRE: rung 3 on the fields that are still not quiescent. -/
def execDrainExpire (t : BitVec 4) (s : State) : Out :=
  let n := t.toNat
  let x := s.tenant n
  if x.stop ≠ .rung2 ∨ s.dtime.toNat < x.stopAt + 1000 * wget x.slicecfg 63 48 then .next s
  else .next ((s.markRung n 2 s.fieldQuiet).modTenant n fun y => { y with stop := .rung3 })

/-- A firing as the stop wave freezes it (R154, R178): an open region goes back to its checkpoint with nothing staged; a
parked instruction that has not completed is issued again. -/
def Firing.freeze (f : Firing) : Firing :=
  let waits : Bool := match f.status with
    | .parked (.page _ _) false => true
    | _ => false
  match f.region with
  | some r =>
    if waits then { f with region := some { r with staged := [] } }
    else { f with regs := r.ckpt, region := some { r with staged := [] }, status := .parked (.page 0 0) true, slot := false }
  | .none => match f.status with
    | .parked (.sem _ _) false => { f with status := .parked .reissue false }
    | .parked (.yard _ _) false => { f with status := .parked .reissue false }
    | .parked (.acq _) false => { f with status := .parked .reissue false }
    | .parked (.waitv _ _ _ _) false => { f with status := .parked .reissue false }
    | .parked (.tokens _ _) false => { f with status := .parked .reissue false }
    | .parked (.room _ _) false => { f with status := .parked .reissue false }
    | .parked (.row _) false => { f with status := .parked .reissue false }
    | _ => f

/-- Freeze one bay: its regions' commands are cancelled, its firings and commands stop at a boundary, its registrations are
withdrawn. A gather keeps only what it has begun to deliver (R323), and an APNL that has not completed runs again from
its first byte (R283). -/
def State.freezeBay (s : State) (b : Nat) : State :=
  let open_ := (s.bay b).firings.filter fun f => f.region.isSome
  let s := open_.foldl (fun (s : State) (f : Firing) => s.cancelRegion b f.actor) s
  let s : State := { s with waiters := s.waiters.filter fun w => match w.who with
    | .actor c _ => decide (c ≠ b)
    | _ => true }
  s.modBay b fun y => { y with
    halted := true
    firings := y.firings.map Firing.freeze
    semWaiters := y.semWaiters.filter fun w => match w.who with
      | .actor _ _ => false
      | _ => true
    queues := y.queues.map fun (p, l) => (p, l.map fun c => if p = gleanerPort then { c with lines := s.gthKept b c }
      else if p = arrayPort ∧ cOpc c.word = 0x0A ∧ c.phase = .finish then { c with phase := .run } else c) }

/-- The latest token of a channel goes back to its producer, which has sent it last. -/
def Chan.takeBack (c : Chan) : Chan :=
  let less : Chan := { c with sent := c.sent - 1 }
  if c.part ≠ [] then { less with part := c.part.dropLast }
  else if c.flight ≠ [] then { less with flight := c.flight.dropLast, passed := Nat.min c.passed (c.flight.length - 1) }
  else if c.ringCount ≠ 0 then { less with ringCount := c.ringCount - 1, ringPoison := c.ringPoison.dropLast }
  else { less with fifo := c.fifo.dropLast }
/-- Without the last occurrence of a number. -/
def dropLastOf (k : Nat) (l : List Nat) : List Nat := (l.reverse.erase k).reverse
/-- An ADRN that has sent the first token of a row stops at a row boundary (R282): the second follows when it has room, and
otherwise the first goes back and the row is the command's next (notes/assumptions/80.md). A first token that completed a
row of a converting channel stays; the second then starts that channel's next row. -/
def State.finishRow (s : State) (b : Nat) : State :=
  match s.head b arrayPort with
  | some c => if c.phase = .run ∧ cOpc c.word = 0x0C ∧ c.word.getLsbD 83 = false ∧ c.pos % 2 = 1 then
      match s.extIn b (cb c.word 72 66) with
      | none => s
      | some (x, k, r) =>
        let seen (ch : Chan) : Chan := { ch with seen := ch.consumed }
        let s := s.modChan x.field x.id k seen
        let ch := seen (x.chan k)
        if feedRoom x r ch c.region then s.iterate b arrayPort false (adrnOne b)
        else if r.k = 15 ∧ ch.part = [] then s.iterate b arrayPort false (adrnHalf b true)
        else
          let flown := decide (ch.part = []) && decide (ch.flight ≠ [])
          let s := (s.modChan x.field x.id k Chan.takeBack).modInst x.field x.id fun y =>
            { y with sends := if flown then dropLastOf k y.sends else y.sends }
          s.modHead b arrayPort fun c => { c with pos := c.pos - 1 }
    else s
  | none => s

/-- STOP_WAVE_HALT: the wave has stopped every bay of the partition; what was in flight has been delivered. A bay whose
context move is under way finishes it first (R386). -/
def execStopWaveHalt (t : BitVec 4) (s : State) : Out :=
  let n := t.toNat
  if (s.tenant n).stop ≠ .rung3 then .next s
  else
    let bays := s.partBays n
    let mine (p : Pair) : Bool := p.who.bay.any bays.contains
    let s := bays.foldl (fun s b => s.performBay b fun _ => true) (s.drainIf mine)
    let s := (s.drainIf mine).landAll
    if bays.any s.storesWait then .next s else
    let s := bays.foldl State.freezeBay (bays.foldl State.finishRow s)
    .next (s.modTenant n fun x => { x with stop := .halted })

/-! ### The save (R378, R379, R384) -/

/-- Bytes of scratchpads and accumulator memories of an island's bays, and of the spill rings of some instances. -/
def State.savedRange (s : State) (i : Nat) (insts : List Inst) (a : Nat) : Bool :=
  (decide (gaMod a = s.own) && isWindow (gaLocal a) && (islandBays i).contains (windowBay (gaLocal a))
      && decide (windowOff (gaLocal a) < Config.regBase))
    || s.veils.any fun v => decide (v.lo ≤ a) && decide (a < v.hi) && insts.any fun x => x.field == v.field && x.id == v.inst

/-- The context of one island at a stop; an island that does not serve the tenant has nothing of it (log entry 96). -/
def State.contextOf (s : State) (t i rung : Nat) (seq : BitVec 32) : LoftCtx :=
  if !s.serves t i then
    { tenant := t, island := i, seq := seq, rung := rung, dtime := s.dtime.toNat
      bays := (islandBays i).map fun b => (b, Bay.idle), mem := [], mpoison := [], fields := [], insts := [] }
  else
  let fields := s.fields.filter fun f => f.tenant == t && bayIsland (s.fieldBay f 0 0) == i
  let insts := s.insts.filter fun x => fields.any fun f => f.id == x.field
  let keep := s.savedRange i insts
  { tenant := t, island := i, seq := seq, rung := rung, dtime := s.dtime.toNat
    bays := (islandBays i).map fun b => (b, { s.bay b with array := (s.bay b).array.saved })
    mem := s.mem.filter fun x => keep x.1, mpoison := s.mpoison.filter fun x => keep x.1
    fields := fields, insts := insts }

/-- Place a context in the loft of its island: the shares' bytes hold its index and a trailer. -/
def State.fillLoft (s : State) (c : LoftCtx) : State :=
  let n := s.ctxs.length
  let s : State := { s with ctxs := s.ctxs ++ [c] }
  let s := (List.range 4).foldl (fun (s : State) (j : Nat) =>
    s.rawWrite ((shareBytes n c j).zipIdx.map fun (b, k) => (s.shareAddr c.island j + k, b, false))) s
  s.setLoft c.island (.full n)

/-- The rung at which a stop is complete, if it is. -/
def State.stopRung (s : State) (t : Nat) : Option Nat :=
  let mine := s.fields.filter fun f => f.tenant == t
  let faulting := mine.any fun f => f.stage == .running && f.fault.isSome
  if faulting then none
  else match (s.tenant t).stop with
    | .rung1 => if mine.all s.fieldYielded then some 1 else none
    | .rung2 => if mine.all (fun f => s.fieldYielded f || s.fieldQuiet f) then some 2 else none
    | .halted => if (s.tenant t).pre = 1 then some 3 else none
    | _ => none

/-- STOP_COMPLETE: the context is in the loft of every island of the partition, its islands are gated, and the host is
told (R378). The lofts must be empty first (R375). -/
def execStopComplete (t : BitVec 4) (s : State) : Out :=
  let n := t.toNat
  match s.stopRung n with
  | none => .next s
  | some rung =>
    let isles := (s.tenant n).pmap
    if isles.any fun i => s.loft i != .empty then .next s
    else
      let bays := s.partBays n
      let s := s.landAll
      let s := s.markRung n rung fun _ => true
      let seq := (s.tenant n).stopSeq + 1
      let ctxs := isles.map fun i => s.contextOf n i rung seq
      let s := ctxs.foldl State.fillLoft s
      let s := bays.foldl (fun (s : State) (b : Nat) =>
        s.modBay b fun y => { Bay.idle with halted := true, hcache := y.hcache, codes := y.codes }) s
      let s := if (s.tenant n).resident then (s.gate isles).setOwner isles 0 else s
      let s := s.modTenant n fun x =>
        let p := wset (wset x.prestat 1 0 2) 3 2 rung
        { x with
          stop := .halted, stopSeq := seq, partcfg := wset x.partcfg 62 62 0
          prestat := if rung = 1 then wadd p 31 16 1 else if rung = 2 then wadd p 47 32 1 else wadd p 63 48 1 }
      .next ((s.recommitBoth n).interrupt 0 true)

/-! ### The restore (R382) -/

/-- The context in an island's loft. -/
def State.loftCtx (s : State) (i : Nat) : Option LoftCtx :=
  match s.loft i with
  | .full n => s.ctxs[n]?
  | _ => none
/-- The conditions of R382; an island under a placed field of tenant 0 is refused too (log entry 78). -/
def State.canResume (s : State) (t : Nat) : Bool :=
  let isles := (s.tenant t).pmap
  let ctxs := isles.map s.loftCtx
  let held := s.busyIslands
  let seqs := isles.flatMap fun i => (List.range 4).map (s.shareSeq i)
  !isles.isEmpty && ctxs.all (fun c => c.any fun c => c.tenant == t) && seqs.all (· == seqs.headD 0)
    && isles.all fun i => !held.contains i

/-- PRECMD CMD 3: a resume is accepted, or refused with ERR set. -/
def State.resumeCmd (s : State) (t : Nat) : State :=
  if t = 0 ∨ (s.tenant t).pre ≠ 2 then s
  else if !s.canResume t then s.modTenant t fun x => { x with prestat := wset x.prestat 7 7 1 }
  else
    let isles := (s.tenant t).pmap
    let s := s.modTenant t fun x => { x with
      prestat := wset (wset x.prestat 7 7 0) 1 0 3, partcfg := wset x.partcfg 62 62 1 }
    let s := ((s.setHalted true (isles.flatMap islandBays)).setOwner isles t).recommitBoth t
    isles.foldl (fun (s : State) (i : Nat) => match s.loft i with
      | .full n => s.setLoft i (.restoring n)
      | _ => s) s
def execPrecmdResume (t : BitVec 4) (s : State) : Out := .next (if s.served then s.resumeCmd t.toNat else s)

/-- Every register marked poisoned. -/
def Regs.poisoned (r : Regs) : Regs :=
  { r with gp := BitVec.allOnes 32, vp := r.vp.map fun _ => BitVec.allOnes 64, kp := BitVec.allOnes 8 }
/-- Mark the data of a bay poisoned (R389). -/
def Bay.poison (y : Bay) : Bay :=
  { y with
    firings := y.firings.map fun f => { f with
      regs := f.regs.poisoned, rows := f.rows.map fun r => { r with poison := BitVec.allOnes 128 }
      region := f.region.map fun r => { r with ckpt := r.ckpt.poisoned } }
    persist := y.persist.map fun (k, p) => (k, { p with gp := BitVec.allOnes 8, vp := p.vp.map fun _ => BitVec.allOnes 64 })
    array := { y.array with runPoison := true, scales := y.array.scales.map fun (k, x) => (k, (x.1, true)) }
    msgs := y.msgs.map fun m => { m with poison := BitVec.allOnes 8 } }

/-- Mark the tokens that rest on a bay poisoned (R389): those in the FIFO and ring of a channel it consumes, and those at the
routers of a channel it produces, a partly built row among them. -/
def State.poisonTokens (s : State) (x : Inst) (b : Nat) : State :=
  let bad (l : List Tok) : List Tok := l.map fun t => { t with poison := BitVec.allOnes 128 }
  x.image.chans.zipIdx.foldl (fun (s : State) (q : ChanRec × Nat) =>
    let s := if s.consBay x q.1 ≠ b then s else s.modChan x.field x.id q.2 fun c =>
      { c with fifo := bad c.fifo, ringPoison := c.ringPoison.map fun _ => BitVec.allOnes 128 }
    if s.prodBay x q.1 ≠ b then s else s.modChan x.field x.id q.2 fun c => { c with flight := bad c.flight, part := bad c.part }) s
/-- Bays of a context whose share holds an error. -/
def State.badBays (s : State) (c : LoftCtx) : List Nat :=
  ((List.range 4).filter fun j => s.mpoison.any fun x =>
    decide (s.shareAddr c.island j ≤ x.1) && decide (x.1 < s.shareAddr c.island j + Config.shareSize)).map (islandBay c.island)
/-- Put one island's context back: bays, bytes, fields and instances; versions stay as the home slices hold them, and
measurements as the solver holds them. A share
with a poisoned byte gives its bay's data marked poisoned. -/
def State.putContext (s : State) (c : LoftCtx) : State :=
  let bad (b : Nat) : Bool := (s.badBays c).contains b
  let keep := s.savedRange c.island c.insts
  let s : State := { s with mem := s.mem.filter fun x => !keep x.1, mpoison := s.mpoison.filter fun x => !keep x.1 }
  let s : State := { s with
    mem := c.mem.foldl (fun m x => Memory.write m x.1 x.2) s.mem
    mpoison := c.mpoison.foldl (fun m x => Memory.write m x.1 x.2) s.mpoison }
  let s := c.bays.foldl (fun (s : State) (q : Nat × Bay) =>
    let y : Bay := { q.2 with halted := false, hcache := (s.bay q.1).hcache, codes := (s.bay q.1).codes }
    let s := s.setBay q.1 (if bad q.1 then y.poison else y)
    if bad q.1 then { s with mpoison := (List.range Config.regBase).foldl (fun m k =>
      Memory.write m (s.ga (windowAddr q.1 k)) 1) s.mpoison } else s) s
  let over_ (x : Inst) : Inst := match s.inst? x.field x.id with
    | some y => { x with overlay := y.overlay, versioned := y.versioned, measures := y.measures, ends := y.ends }
    | none => { x with overlay := [], versioned := false }
  let uncut (x : Inst) : Inst := { x with chans := x.chans.map fun (k, c) => (k, { c with cut := false }) }
  -- counters do not advance while the tenant is stopped: a sample boundary met them as they were saved (R339, R382)
  let missed (b : Nat) : Bool := decide (c.dtime < s.snapAt) || (tget b s.snaps).isNone
  let s : State := { s with
    snaps := c.bays.foldl (fun (l : Table (Table (BitVec 32))) (q : Nat × Bay) =>
      if missed q.1 then tput q.1 (tput cycKey (q.2.cyc.setWidth 32) q.2.counters) l else l) s.snaps
    samples := s.samples.filter fun q => !(missed q.1 && c.bays.any fun z => z.1 == q.1) }
  { s with
    fields := s.fields.filter (fun f => !(c.fields.any fun g => g.id == f.id)) ++ c.fields
    insts := s.insts.filter (fun x => !(c.insts.any fun y => y.field == x.field && y.id == x.id)) ++ c.insts.map fun x => uncut (over_ x) }

/-- Reload the weight slots of the bays in order: a page posts its request and the reload waits; any other fault, and a
page that was not filled, is a fault of the instance at the first command queued on the array (R283). FADDR of a page that
was not filled is the virtual address at which the reload still meets it, else the page's. -/
def State.reloadAll (s : State) (t : Nat) : List Nat → Except State State
  | [] => .ok s
  | b :: l =>
    let who := Who.cmd b 0x29
    let mine (f : PageFill) : Bool := f.tenant == t && f.who == who
    let pc := ((s.queue b 0x29).head?.map Cmd.pc).getD 0
    let x := (s.bay b).inst.getD (0, 0)
    let got := s.reloadSlots b (s.bay b).array.slots
    if (s.bay b).inst.isNone then State.reloadAll s t l
    else match s.fills.find? fun f => mine f && f.failed with
      | some q =>
        let fa : Word := match got with
          | .flt f => if f.page.isSome && q.covers f.faddr then f.faddr else BitVec.ofNat 64 q.va
          | _ => BitVec.ofNat 64 q.va
        let s : State := { s with fills := s.fills.filter fun f => !mine f }
        State.reloadAll (s.bayFault b x.1 x.2 0x0A pc fa) t l
      | none => match got with
        | .ok s => State.reloadAll s t l
        | .wait s => .error s
        | .flt f => match f.page with
          | some p =>
            if s.prq.any (fun q => q.2.waiters.contains who) || s.prqWaiting.any (fun q => q.waiters.contains who) then .error s
            else .error (s.postPage t p who)
          | none => State.reloadAll (s.bayFault b x.1 x.2 f.code pc f.faddr) t l

/-- Register afresh every WAITF of a tenant that was withdrawn (R265). -/
def State.rewatch (s : State) (t : Nat) : State :=
  let l := (s.fields.filter fun f => f.tenant == t).flatMap fun f => f.tasks.filterMap fun x => match x.st with
    | .waitf w v ge false false => some (f.id, x.id, w, v, ge)
    | _ => none
  l.foldl (fun (s : State) (q : Nat × Nat × Nat × Word × Bool) => match s.field? q.1 with
    | some f => s.watchWord (s.walkCtx f q.2.1) q.1 q.2.1 q.2.2.1 q.2.2.2.1 q.2.2.2.2
    | none => s) s
/-- Grant the permits that a stop held back. -/
def State.regrant (s : State) (t : Nat) : State :=
  { s with fields := s.fields.map fun f => if f.tenant ≠ t then f else
      (f.tasks.map Task.id).foldl (fun (f : Field) (n : Nat) => f.grant n) { f with rung := 0, yielded := false } }

/-- RESTORE_COMPLETE: the context is back, the slots are reloaded, page fills that came meanwhile wake their firings, the
islands are solved with cause 5, and every field goes on. A reload that waits posts its request and changes nothing else. -/
def execRestoreComplete (t : BitVec 4) (s : State) : Out :=
  let n := t.toNat
  if (s.tenant n).pre ≠ 3 then .next s
  else
    let isles := (s.tenant n).pmap
    let ctxs := isles.filterMap fun i => match s.loft i with
      | .restoring k => s.ctxs[k]?
      | _ => none
    let back := ctxs.foldl State.putContext s
    let marked := (ctxs.flatMap s.badBays).foldl (fun (s : State) (b : Nat) =>
      (s.liveOf n).foldl (fun (s : State) (x : Inst) => s.poisonTokens x b) s) back
    match marked.reloadAll n (s.partBays n) with
    | .error w => .next { s with prq := w.prq, prqWaiting := w.prqWaiting, prqSeq := w.prqSeq, tenants := w.tenants
                                 routeWaits := w.routeWaits }
    | .ok s =>
      let s : State := { s with lofts := s.lofts.filter fun x => !isles.contains x.1 }
      let s := (s.modTenant n fun x => { x with solve := none }).solveTenant n 5
      let s := s.modTenant n fun x => { x with
        stop := .idle, sliceAt := s.dtime.toNat, prestat := wset x.prestat 1 0 0 }
      let mine := s.fills.filter fun f => f.tenant == n
      let s := mine.foldl State.wakePage { s with fills := s.fills.filter fun f => f.tenant ≠ n }
      let s := (s.partBays n).foldl State.serveQueues s
      .next ((s.rewatch n).regrant n)

end Sys2Proof.Machine
end

