-- ==== Sys2Proof/Machine/Hostif.lean ====
section
/-! DEFINITION. The host side (R20, R57, R359, R362, R363, R389-R401, R403): management registers, BAR2 accesses and the
ordering point, the mailbox, reset and boot, storage errors, and words no encoding matches. -/

namespace Sys2Proof.Machine

/-! ### Management registers (R393, R394) -/

/-- MODINFO (R20). -/
def State.modinfo (s : State) : Word :=
  BitVec.ofNat 64 (s.modnum.toNat * 2 ^ 55 + Config.pcdis * 2 ^ 32 + Config.spares * 2 ^ 23 + Config.rsdis.toNat * 2 ^ 16
    + 0x20 * 2 ^ 8 + Config.sirev.toNat)
/-- LNKST of a port (R362). -/
def Link.word (x : Link) : Word :=
  BitVec.ofNat 64 (x.peer.toNat * 2 ^ 55 + x.peerPort.toNat * 2 ^ 50 + x.crcerr.toNat * 2 ^ 32 + x.replay.toNat * 2 ^ 16
    + x.downs.toNat * 2 ^ 8 + x.lanes.toNat * 2 ^ 4 + if x.up then 1 else 0)
/-- ISLST of an island whose rail is sensed at a code (R343). -/
def Island.word (x : Island) (sense : Nat) : Word :=
  BitVec.ofNat 64 (x.ten * 2 ^ 52 + (if x.floor then 2 ^ 51 else 0) + x.state * 2 ^ 49 + sense * 2 ^ 42 + x.tgtv * 2 ^ 35
    + x.tgtk * 2 ^ 28 + x.vcode * 2 ^ 21 + x.k)
/-- ISLST of an island. -/
def State.islst (s : State) (i : Nat) : Word := (s.island i).word ((s.island i).sense s.dtime.toNat)
/-- A word of COSTT: as Clotus wrote it since, or at boot (R344). -/
def State.costWord (s : State) (c : Nat) : BitVec 32 := if c ≤ 64 then tgetD c (Config.costt c) s.costt else 0
/-- Eight bytes of a bay's counter block (R338): the counters of R338 stand at 4-byte offsets of the block. -/
def State.counterWord (s : State) (b o : Nat) : Word :=
  let at_ (k : Nat) : Nat := (tgetD k 0 (s.bay b).counters).toNat
  BitVec.ofNat 64 (at_ o + at_ (o + 4) * 2 ^ 32)
/-- A register of a tenant block (R393, R394). PRECMD is write-only; block 0 has no partition registers. -/
def State.blockReg (s : State) (t o : Nat) : Word :=
  let x := s.tenant t
  if o = 0x00 then x.htbase else if o = 0x08 then x.xroot else if o = 0x10 then x.apbase
  else if o = 0x18 then (if t = 0 then 0 else x.partcfg)
  else if o = 0x20 then x.verq else if o = 0x28 then x.grncnt else if o = 0x30 then x.prqcfg
  else if o = 0x38 then (if t = 0 then 0 else x.slicecfg)
  else if o = 0x48 then (if t = 0 then 0 else x.prestat)
  else if o = 0x50 then x.fltring else if o = 0x58 then x.fltptr else if o = 0x60 then x.solvst
  else if o = 0x68 then x.pwrcfg else if o = 0x70 then x.pwrgnt else if o = 0x78 then x.mcstat else 0

/-- The 8-byte management register at an aligned offset of the physical function's BAR0. A write-only register reads 0,
and so does PRQTAKE here: its read is an event of its own. -/
def State.readReg (s : State) (o : Nat) : Word :=
  if o = 0x00 then s.modinfo else if o = 0x08 then s.errstat else if o = 0x10 then s.domcfg
  else if o = 0x18 then s.bootst else if o = 0x20 then s.modpwr else if o = 0x28 then s.hosterr
  else if 0x100 ≤ o ∧ o < 0x190 then (s.link ((o - 0x100) / 8)).word
  else if 0x1000 ≤ o ∧ o < 0x1600 then
    let e := tgetD ((o - 0x1000) / 24) (0, 0, 0) s.art
    let j := (o - 0x1000) % 24
    if j = 0 then e.1 else if j = 8 then e.2.1 else e.2.2
  else if 0x3000 ≤ o ∧ o < 0x5000 then BitVec.ofNat 64 (leNat (s.mboxGet o 8))
  else if o = 0x5000 then s.h2cprod.setWidth 64 else if o = 0x5008 then s.h2ccons.setWidth 64
  else if o = 0x5010 then s.c2hprod.setWidth 64 else if o = 0x5018 then s.c2hcons.setWidth 64
  else if 0x10000 ≤ o ∧ o < 0x20000 then s.blockReg ((o - 0x10000) / 0x1000) (o % 0x1000)
  else if 0x20000 ≤ o ∧ o < 0x21000 then s.islst ((o - 0x20000) / 8)
  else if 0x30000 ≤ o ∧ o < 0x38000 then
    BitVec.ofNat 64 (leNat ((List.range 8).map fun k =>
      BitVec.ofNat 8 (Config.vmin ((o - 0x30000) / 64) (o % 64 + k + 1))))
  else if 0x40000 ≤ o ∧ o < 0x40108 then
    let c := (o - 0x40000) / 4
    BitVec.ofNat 64 ((s.costWord c).toNat + (s.costWord (c + 1)).toNat * 2 ^ 32)
  else if 0x100000 ≤ o ∧ o < 0x300000 then s.counterWord ((o - 0x100000) / 0x400) (o % 0x400)
  else 0

/-- A register window of a virtual function (R394). -/
def State.readVf (s : State) (t o : Nat) : Word :=
  let x := s.tenant t
  let isle (b : Nat) : Option Nat := if x.valid then x.pmap[b]? else none
  if o = 0x40 then BitVec.ofNat 64 x.free else if o = 0x48 then x.lqdisc
  else if 0x100 ≤ o ∧ o < 0x180 then s.blockReg t (o - 0x100)
  else if 0x1000 ≤ o ∧ o < 0x2000 then
    match isle ((o - 0x1000) / 8) with
    | some i => s.islst i
    | none => 0
  else if 0x4000 ≤ o ∧ o < 0x204000 then
    match isle ((o - 0x4000) / 0x1000) with
    | some i => s.counterWord (islandBay i ((o - 0x4000) % 0x1000 / 0x400)) (o % 0x400)
    | none => 0
  else 0

/-- A write sets one of the bits of a mask of reserved bits (R3). -/
def setsReserved (v : Word) (mask : Nat) : Bool := decide (v &&& BitVec.ofNat 64 mask ≠ 0)
/-- The mask of bits `[hi:lo]`. -/
def span (hi lo : Nat) : Nat := 2 ^ (hi + 1) - 2 ^ lo

/-- Every pending pair of the module is applied (before the home slices or the module's number change). -/
def State.applyAll (s : State) : State :=
  let s := s.drainIf fun _ => true
  (s.slices.map Prod.fst).foldl (fun (s : State) (k : Nat) => s.applyAt k fun _ => true) s

/-- A write of an ART register: Clotus alone, and only while no field is placed (R57). -/
def State.writeArt (s : State) (i j : Nat) (v : Word) : State :=
  let bad := if j = 0 then setsReserved v (span 62 47 + span 5 0)
    else if j = 8 then setsReserved v (span 63 47 + span 5 0) else setsReserved v (span 63 25)
  if bad || !s.fields.isEmpty then s
  else
    let s := s.applyAll
    let e := tgetD i (0, 0, 0) s.art
    { s with art := tput i (if j = 0 then (v, e.2.1, e.2.2) else if j = 8 then (e.1, v, e.2.2) else (e.1, e.2.1, v)) s.art }

/-- A write of a tenant block by the physical function or Clotus (R393, R403). -/
def State.writeBlock (s : State) (t o : Nat) (v : Word) : State :=
  if o = 0x00 then if setsReserved v (span 63 47 + span 16 0) then s else s.modTenant t fun x => { x with htbase := v }
  else if o = 0x08 then if setsReserved v (span 63 47 + span 12 0) then s else s.modTenant t fun x => { x with xroot := v }
  else if o = 0x10 then if setsReserved v (span 63 52 + span 15 0) then s else s.modTenant t fun x => { x with apbase := v }
  else if o = 0x18 then s.writePartcfg t v
  else if o = 0x20 then
    if setsReserved v (span 47 40) then s else s.modTenant t fun x => { x with verq := wset x.verq 19 0 (wget v 19 0) }
  else if o = 0x30 then
    if setsReserved v (span 20 11) then s
    else s.modTenant t fun x => { x with prqcfg := wset x.prqcfg 10 0 (Nat.min 1024 (Nat.max 8 (wget v 10 0))) }
  else if o = 0x38 then s.writeSlicecfg t v
  else if o = 0x40 then
    if setsReserved v (span 63 2) then s
    else if v = 1 then s.stopCmd t else if v = 2 then s.stopNow t else if v = 3 then s.resumeCmd t else s
  else if o = 0x50 then
    if setsReserved v (span 62 52 + span 11 0) then s else s.modTenant t fun x => { x with fltring := v }
  else if o = 0x58 then
    if setsReserved v (span 47 32) then s
    else s.modTenant t fun x => { x with fltptr := wset x.fltptr 15 0 (wget v 15 0) }
  else if o = 0x68 then
    if setsReserved v (span 63 40 + span 31 20) then s else s.modTenant t fun x => { x with pwrcfg := v }
  else s

/-- An 8-byte write of a management register. -/
def State.writeReg (s : State) (clotus : Bool) (o : Nat) (v : Word) : State :=
  if o = 0x10 then
    let n := wget v 13 0
    if setsReserved v (span 47 33 + span 31 14) || decide (n < 100) || decide (n > 10000) then s
    else { s with domcfg := wset s.domcfg 13 0 n }
  else if o = 0x20 then
    if setsReserved v (span 47 16) then s
    else { s with modpwr := wset s.modpwr 15 0 (Nat.min 7200 (Nat.max 1000 (wget v 15 0))) }
  else if 0x1000 ≤ o ∧ o < 0x1600 then
    if clotus then s.writeArt ((o - 0x1000) / 24) ((o - 0x1000) % 24) v else s
  else if o = 0x2008 then
    if setsReserved v (span 31 1) then s else s.prqDone (BitVec.ofNat 32 (wget v 63 32)) (v.getLsbD 0)
  else if 0x3000 ≤ o ∧ o < 0x4000 then if clotus then s else s.mboxPut o (natLe 8 v.toNat)
  else if 0x4000 ≤ o ∧ o < 0x5000 then if clotus then s.mboxPut o (natLe 8 v.toNat) else s
  else if o = 0x5000 then if clotus then s else { s with h2cprod := v.setWidth 16 }
  else if o = 0x5008 then if clotus then { s with h2ccons := v.setWidth 16 } else s
  else if o = 0x5010 then if clotus then { s with c2hprod := v.setWidth 16 } else s
  else if o = 0x5018 then
    if clotus then s else ({ s with c2hcons := v.setWidth 16 } : State).c2hFlush s.c2hWait
  else if 0x10000 ≤ o ∧ o < 0x20000 then s.writeBlock ((o - 0x10000) / 0x1000) (o % 0x1000) v
  else if 0x40000 ≤ o ∧ o < 0x40108 then
    if clotus then
      let c := (o - 0x40000) / 4
      let t := tput c (v.setWidth 32) s.costt
      { s with costt := if c = 64 then t else tput (c + 1) ((v >>> 32).setWidth 32) t }
    else s
  else s

/-- An access of a size at an offset is one that R393 serves. -/
def regAccess (size off : Nat) : Bool := (size == 8 && off % 8 == 0) || (size == 4 && off % 4 == 0)
/-- The 8-byte value of a write: a 4-byte write keeps the other half as the register reads. -/
def mergeHalf (size off : Nat) (old v : Word) : Word :=
  if size = 8 then v else if off % 8 = 0 then wset old 31 0 v.toNat else wset old 63 32 v.toNat

/-- REGISTER_WRITE: a write of a management register, by Clotus or through BAR0 of a function. A host write is served from
STAGE 3 on (R399); with Relaxed Ordering clear, and PRQDONE in any case, after every earlier write of its function has been
acknowledged (R396). -/
def execRegisterWrite (writer : RegWriter) (fn : HostFn) (off size : Nat) (v : Word) (s : State) : Out :=
  let clotus := writer == .clotus
  let o := off / 8 * 8
  let held := !(writer == .host true && !(fn.vf == 0 && o == 0x2008)) && !(s.pendingWrites fn).isEmpty
  if !clotus && (!s.served || held) then .next s
  else if clotus || fn.vf = 0 then
    if !regAccess size off then .next s else .next (s.writeReg clotus o (mergeHalf size off (s.readReg o) v))
  else
    let t := fn.vf.toNat
    if off < 0x40 then .next (s.modTenant t fun x => { x with lqdisc := wadd x.lqdisc 31 0 1 })
    else if !regAccess size off || o ≠ 0x158 then .next s
    else .next (s.writeBlock t 0x58 (mergeHalf size off (s.readVf t o) v))

/-- A read of a register through BAR0 of a function: before STAGE 3 of MODINFO and BOOTST alone (R399), after every earlier
write of the function has been acknowledged (R397); an access of another size or alignment completes with Unsupported
Request (R393). A read of PRQTAKE takes an entry. -/
def State.registerRead (s : State) (fn : HostFn) (off size : Nat) : State :=
  let o := off / 8 * 8
  if !(s.served || (fn.vf == 0 && (o == 0x00 || o == 0x18))) || !(s.pendingWrites fn).isEmpty then s
  else if !regAccess size off then { s with hostReply := some .unsupported }
  else
    let r := if fn.vf ≠ 0 then (s, s.readVf fn.vf.toNat o) else if o = 0x2000 then s.takePage else (s, s.readReg o)
    { r.1 with hostReply := some (.data (((natLe 8 r.2.toNat).drop (off % 8)).take size)) }

/-! ### BAR2 and the ordering point (R392, R396, R397) -/

/-- Context of a function. -/
def hostCtx (f : HostFn) : Ctx := ⟨.host f.port.toNat f.vf.toNat, f.vf.toNat, 0, false, 0, 0, 0, 0, 0, 0⟩
/-- The bytes of a BAR2 access, judged whole: `none` when any of them would fault. -/
def State.barSegs (s : State) (f : HostFn) (off n : Nat) (wr : Bool) : Option (State × List Seg) :=
  let t := f.vf.toNat
  if t = 0 then
    if off + n ≤ s.usable s.own ∧ off + n ≤ Config.hbmTop then some (s, [⟨s.ga off, n⟩]) else none
  else
    let va := (s.tenant t).apbase.toNat + off
    if off + n > 2 ^ 36 ∨ va + n > 2 ^ 52 then none
    else (s.transRange State.atHome (hostCtx f) 0 wr (n / 65536 + 2) va n).toOption
/-- Dies that serve a write: its routes (R396). Another module counts as one route. -/
def State.routesOf (s : State) (l : List (Nat × Nat)) : List Nat :=
  (l.flatMap fun x => (List.range ((x.1 % 64 + x.2 + 63) / 64)).map fun k =>
    let a := 64 * (x.1 / 64 + k)
    if gaMod a ≠ s.own then 32 + gaMod a
    else if isWindow (gaLocal a) then bayDie (windowBay (gaLocal a)) else s.sliceKey a / 32).dedup
/-- Number the next write sent to its route. -/
def nextSent (l : List HostWrite) : Nat := (l.map HostWrite.sent).foldl Nat.max 0 + 1

/-- HOST_BAR2_WRITE: the write is judged whole; a good one enters the ordering point, which sends it at once when Relaxed
Ordering is set or no earlier write of the function is left. -/
def execHostBar2Write (fn : HostFn) (off : Nat) (data : List (BitVec 8)) (ro : Bool) (s : State) : Out :=
  if !s.served then .next s
  else match s.barSegs fn off data.length true with
    | none => .next { s with hosterr := wadd s.hosterr 63 32 1 }
    | some (s, l) =>
      let old := s.pendingWrites fn
      let w : HostWrite := ⟨l.map fun x => (x.addr, x.len), data, ro, if ro || old.isEmpty then nextSent old else 0⟩
      .next { s with hostWrites := tput (fnKey fn) (old ++ [w]) s.hostWrites }

/-- HOST_BAR2_READ: waits until every earlier write of the function has been acknowledged. -/
def execHostBar2Read (fn : HostFn) (off len : Nat) (s : State) : Out :=
  if !s.served || !(s.pendingWrites fn).isEmpty then .next s
  else match s.barSegs fn off len false with
    | none => .next { s with hosterr := wadd s.hosterr 31 0 1, hostReply := some .unsupported }
    | some (s, l) =>
      let (s, bs) := s.readSegs (hostCtx fn) l
      .next { s with hostReply := some (.data (bs.map Prod.fst)) }

/-- The sent writes that may arrive next: no earlier sent write goes to one of their routes. -/
def State.arrivable (s : State) (l : List HostWrite) : List Nat :=
  let q := l.zipIdx.filter fun x => x.1.sent ≠ 0
  (q.filter fun (w, _) => q.all fun (z, _) => decide (w.sent ≤ z.sent)
    || (s.routesOf z.addr).all fun r => !(s.routesOf w.addr).contains r).map Prod.snd
/-- A held write at the head of the list is sent: every earlier write of the function has been acknowledged. -/
def sendHead : List HostWrite → List HostWrite
  | [] => []
  | w :: l => if w.sent = 0 then { w with sent := nextSent (w :: l) } :: l else w :: l

/-- HOST_WRITE_FORWARD: one write that was sent is serialised at its route and acknowledged; a held write is then sent
once every earlier write of its function has been acknowledged. -/
def execHostWriteForward (fn : HostFn) (s : State) : Out :=
  let l := s.pendingWrites fn
  let q := s.arrivable l
  match q[s.pick 16 0 % Nat.max 1 q.length]? with
  | none => .next s
  | some n => match l[n]? with
    | none => .next s
    | some w =>
      let s := s.writeSegs (hostCtx fn) (w.addr.map fun x => ⟨x.1, x.2⟩) (w.data.map fun b => (b, false))
      let rest := sendHead (dropAt l n)
      .next { s with hostWrites := if rest.isEmpty then tdel (fnKey fn) s.hostWrites else tput (fnKey fn) rest s.hostWrites }

/-! ### Mailbox requests (R398) -/

/-- The message at the head of the host-to-Clotus ring. -/
def State.h2cHead (s : State) : Option (List Byte) :=
  if s.h2cprod = s.h2ccons then none else some (s.mboxGet (0x3000 + 64 * (s.h2ccons.toNat % 64)) 64)
/-- A byte of a message. -/
def msgByte (l : List Byte) (k : Nat) : Nat := (l.getD k 0).toNat
/-- An invalidate message. -/
def isInvalidate (l : List Byte) : Bool := msgByte l 0 == 2 && decide (msgByte l 9 ≤ 2)
/-- Answer the head message and move past it. -/
def State.answer (s : State) (status : Nat) : State :=
  let slot := s.h2ccons.toNat % 64
  ({ s with h2ccons := s.h2ccons + 1 } : State).c2hSend
    (message (natLe 2 3 ++ natLe 2 slot ++ natLe 4 0 ++ natLe 1 status))

/-- MAILBOX_INVALIDATE: Clotus performs HINV, IMGINV or TLBI for the host and sends Done after it has retired. -/
def execMailboxInvalidate (s : State) : Out :=
  match s.h2cHead with
  | none => .next s
  | some l =>
    if !isInvalidate l || !s.c2hRoom then .next s
    else
      let t := msgByte l 8 % 16
      let all := decide (msgByte l 10 ≠ 0)
      let x := BitVec.ofNat 64 (leNat ((l.drop 16).take 8))
      let done (r : State × Pending) : State :=
        if r.1.outstanding r.2 then { r.1 with mboxInval := some r.2 } else ({ r.1 with mboxInval := none } : State).answer 0
      .next (match s.mboxInval with
        | some p => done (s, p)
        | none => match msgByte l 9 with
          | 0 => done (s.hinv t all (wget x 11 0))
          | 1 => (s.dropImages t all x).answer 0
          | _ => done (s.tlbi t all (wget x 51 0)))
/-- MAILBOX_UNKNOWN: any other message is ignored and answered with status 1. -/
def execMailboxUnknown (s : State) : Out :=
  match s.h2cHead with
  | none => .next s
  | some l => if isInvalidate l || !s.c2hRoom then .next s else .next (s.answer 1)

/-! ### Reset and boot (R359, R399, R400) -/

/-- The slot whose image verifies, 1 A or 2 B, and FAIL. -/
def bootSlot : Nat × Nat :=
  if Config.slotAVerifies then (1, 0) else if Config.slotBVerifies then (2, 1) else (0, 3)
/-- BOOTST after the boot ROM has looked at both slots. -/
def bootWord : Word :=
  let (slot, fail) := bootSlot
  let svn := if slot = 1 then Config.slotASvn.toNat else if slot = 2 then Config.slotBSvn.toNat else 0
  BitVec.ofNat 64 (svn * 2 ^ 32 + slot * 64 + fail * 16 + if slot = 0 then 1 else 2)

/-- RESET: every register takes its reset value and the boot ROM verifies the Clotus image from slot A, or B, and starts
Clotus; with both slots failed STAGE stays 1. The model's own schedule and its draws go on. -/
def execReset (s : State) : Out :=
  .next { State.reset with agenda := s.agenda, draw := s.draw, parkings := s.parkings, bootst := bootWord }
/-- BOOT_READY: Clotus has assigned the module number and finishes bring-up: STAGE becomes 3. -/
def execBootReady (s : State) : Out :=
  if wget s.bootst 1 0 ≠ 2 ∨ s.modnum = 0x1FF then .next s else .next { s with bootst := wset s.bootst 1 0 3 }

/-- Memory with the bytes of one module named under another. -/
def Memory.rekey (m : Memory) (a b : Nat) : Memory :=
  let mine := m.filter fun x => gaMod x.1 == a
  mine.foldl (fun m x => Memory.write m (b * 2 ^ 47 + gaLocal x.1) x.2) (m.filter fun x => !(gaMod x.1 == a))
/-- MODULE_NUMBER_ASSIGN: Clotus gives the module its number, unique in the domain, only while no field is placed. -/
def execModuleNumberAssign (n : BitVec 9) (s : State) : Out :=
  if n.toNat ≥ 320 ∨ s.fields.isEmpty = false ∨ s.members.contains n.toNat = true ∨ wget s.bootst 1 0 < 2 then .next s
  else
    let s := s.applyAll
    let r (m : Memory) : Memory := Memory.rekey m s.own n.toNat
    .next { s with modnum := n, mem := r s.mem, mpoison := r s.mpoison
                   ctxs := s.ctxs.map fun (c : LoftCtx) => { c with mem := r c.mem, mpoison := r c.mpoison } }

/-- HOST_PORT_TRAIN: a port trains at 128 GT/s x16 or at the lower rate or width the host offers. -/
def execHostPortTrain (port : BitVec 1) (rate width : Nat) (s : State) : Out :=
  .next { s with hostPorts := tput port.toNat (Nat.min 128 rate, Nat.min 16 width) s.hostPorts }

/-! ### Storage errors (R280, R303, R389, R390) -/

/-- Set the mark of `n` bytes from an address; a line in error stays one. -/
def State.markBytes (s : State) (a n : Nat) (v : Byte) : State :=
  { s with mpoison := (List.range n).foldl (fun m k =>
      if Memory.read m (a + k) = 2 then m else Memory.write m (a + k) v) s.mpoison }
/-- A gp register write with the mark set and no byte changed. -/
def poisonUnit (b o : Nat) : RwUnit := ⟨b, o / 8 * 8, 0, 0, true, .unit, 0, 0⟩
/-- Data that is the only copy is marked poisoned. -/
def State.poisonHeld (s : State) (a : Nat) : State :=
  let l := gaLocal a
  if gaMod a ≠ s.own then s
  else if isWindow l && isRegOff (windowOff l) then s.landUnit (poisonUnit (windowBay l) (windowOff l - Config.regBase))
  else s.markBytes (a / 64 * 64) 64 1
/-- Entries of a line are marked poisoned. -/
def poisonEntries (line : Nat) (l : List Entry) : List Entry :=
  l.map fun e => if lineOf e.pa = line then { e with poison := true } else e
/-- Bins, runs and the open batch of a line. -/
def Slice.poison (z : Slice) (line : Nat) : Slice :=
  { z with batch := z.batch.map fun p => if lineOf p.pa = line then { p with poison := true } else p
           bins := z.bins.map fun b => { b with entries := poisonEntries line b.entries }
           runs := z.runs.map fun r => { r with entries := poisonEntries line r.entries } }
/-- A cached handle entry comes from the line of an address. -/
def State.handleAt (s : State) (key a : Nat) : Bool :=
  lineOf (s.ga ((s.tenant (key / 4096 % 16)).htbase.toNat + 32 * (key % 4096))) == lineOf a

/-- Drop one of the copies in a list: which one is in error is left open. -/
def dropOne {α : Type} (l : List α) (p : α → Bool) (n : Nat) : List α :=
  let ks := (List.range l.length).filter fun k => (l[k]?).any p
  match ks[n % Nat.max 1 ks.length]? with
  | some k => dropAt l k
  | none => l
/-- Copies of handle entries that come from the line of an address: a bay's, or with `none` a sequencer's, by key. -/
def State.handleCopies (s : State) (a : Nat) : List (Option Nat × Nat) :=
  (s.bays.flatMap fun q => (q.2.hcache.filter fun e => s.handleAt e.1 a).map fun e => (some q.1, e.1))
    ++ (s.seqCache.filter fun e => s.handleAt (e.1 % 65536) a).map fun e => (none, e.1)
/-- One cached copy of a handle entry is dropped (R262, R389). -/
def State.dropHandleCopy (s : State) (a : Nat) : State :=
  let l := s.handleCopies a
  match l[s.pick 14 a % Nat.max 1 l.length]? with
  | some (some b, k) => s.modBay b fun y => { y with hcache := tdel k y.hcache }
  | some (none, k) => { s with seqCache := tdel k s.seqCache }
  | none => s

/-- One cached copy of an image at an address is dropped, a sequencer's or the code in a bay (R262, R389). -/
def State.dropImageCopy (s : State) (n : Nat) : State :=
  let l : List (Option Nat) := (s.images.filter fun x => x.ptr.toNat == n).map (fun _ => none) ++
    s.bays.filterMap fun q => if q.2.codes.any fun x => x.ptr.toNat == n then some (some q.1) else none
  match l[s.pick 14 n % Nat.max 1 l.length]? with
  | some (some b) => s.modBay b fun y => { y with codes := dropOne y.codes (fun x => x.ptr.toNat == n) (s.pick 18 n) }
  | some none => { s with images := dropOne s.images (fun x => x.ptr.toNat == n) (s.pick 18 n) }
  | none => s

/-- An error in a line: which copy of it holds the error, the committed bytes or what an instance's version has of it, is
left open (R253, R389); `base` is the state with the committed bytes marked. -/
def State.lineLost (s : State) (n : Nat) (base : State) : State :=
  let has (x : Inst) : Bool := x.overlay.any fun y => lineOf y.1 == lineOf n
  let l := s.insts.filter has
  match s.pick 14 n % (l.length + 1) with
  | 0 => base
  | k + 1 => match l[k]? with
    | some x => s.setInst { x with overlay := x.overlay.map fun y => if lineOf y.1 = lineOf n then (y.1, y.2.1, true) else y }
    | none => base
/-- The effect of an error that cannot be corrected. -/
def State.storageLost (s : State) (k : ErrKind) (n : Nat) : State :=
  match k with
  | .hbm => s.lineLost n (if gaMod n = s.own then s.markBytes (n / 64 * 64) 64 2 else s)
  | .cleanLine => s
  | .translation =>
    if s.pick 18 n % 2 = 1 then { s with walks := dropOne s.walks (fun _ => true) (s.pick 14 n) }
    else { s with tlb := dropOne s.tlb (fun x => decide (x.pa ≤ n) && decide (n < x.pa + x.size)) (s.pick 14 n) }
  | .handleEntry => s.dropHandleCopy n
  | .image => s.dropImageCopy n
  | .slot b =>
    -- the slot is marked poisoned until it is loaded again (R280), which its next use does (R389): log entry 77
    s.modArray b fun a => { a with slots := a.slots.map fun (q : Nat × Slot) =>
      if q.1 = n then (q.1, { q.2 with poison := true, stale := true }) else q }
  | .cells b => s.modArray b fun a => match a.resident with
    | some r => { a with slots := tput r { a.slot r with poison := true } a.slots, resident := none }
    | none => a
  | .held => s.lineLost n (s.poisonHeld n)
  | .entries => { s with slices := s.slices.map fun (q : Nat × Slice) => (q.1, q.2.poison (lineOf n)) }
  | .merge b => { s with bays := s.bays.map fun (q : Nat × Bay) => if bayDie q.1 ≠ bayDie b then q else (q.1, { q.2 with
      queues := tmod gleanerPort [] (fun l => l.map fun c => { c with lines := c.lines.map fun (q : Nat × (Byte × Bool)) =>
        (q.1, (q.2.1, true)) }) q.2.queues }) }
  | .scale b => s.modArray b fun a => { a with scales := tput n ((a.scale n).1, true) a.scales }
  | .running b => s.modArray b fun a => { a with runPoison := true }
  | .fifo f i c => s.modChan f i c fun ch =>
      let mark (k : Nat) (l : List Tok) : List Tok := l.zipIdx.map fun (t, j) =>
        if k + j = n then { t with poison := BitVec.allOnes 128 } else t
      let k := ch.fifo.length + ch.flight.length
      { ch with fifo := mark 0 ch.fifo, flight := mark ch.fifo.length ch.flight, part := mark k ch.part }
  | .code f i => match s.inst? f i with
    | none => s
    | some x => s.setInst { x with image := { x.image with codePoison := n :: x.image.codePoison } }
/-- The field of ERRSTAT that counts an error (R390). -/
def errField (k : ErrKind) (corrected : Bool) : Nat × Nat :=
  if k = .hbm then (if corrected then (31, 16) else (15, 0)) else if corrected then (63, 48) else (47, 32)
/-- STORAGE_ERROR: a correctable error is corrected and counted; otherwise the copy is dropped or the data is marked. -/
def execStorageError (k : ErrKind) (corrected : Bool) (addr : Nat) (s : State) : Out :=
  let f := errField k corrected
  let s : State := { s with errstat := wadd s.errstat f.1 f.2 1 }
  .next (if corrected then s else s.storageLost k addr)

/-! ### Words no encoding matches (R129) -/

/-- ILLEGAL_INSTRUCTION: the firing in the issue stage takes the illegal-instruction fault; FADDR is the word. -/
def execIllegalInstruction (w : BitVec 32) (s : State) : Out := takeFault 0x02 (w.setWidth 64) s

end Sys2Proof.Machine
end

