-- ==== Sys2Proof/Machine/Integer.lean ====
section
/-! DEFINITION. Majors 0x01-0x0A: integer and address arithmetic (R164-R166). Results wrap; no FLAGS (R84). A
poisoned operand poisons the result (R155). -/

namespace Sys2Proof.Machine

/-- A two-operand instruction. -/
def alu2 (f : Word → Word → Word) (d a b : R5) (s : State) : Out :=
  finish s fun r => r.wg d (f (r.rg a) (r.rg b)) (r.rgp a || r.rgp b)
/-- A one-operand instruction. -/
def alu1 (f : Word → Word) (d a : R5) (s : State) : Out :=
  finish s fun r => r.wg d (f (r.rg a)) (r.rgp a)
/-- OffsetAdd into a register, or the handle-carry fault with FADDR = G(a) (R165). -/
def aluOffset (d a : R5) (x : Int) (q : Bool) (s : State) : Out :=
  match offsetAdd (s.regs.rg a) x with
  | some p => finish s fun r => r.wg d p (r.rgp a || q)
  | none => takeFault 0x0F (s.regs.rg a) s

/-- DIV: toward zero, −1 for a zero divisor (R164). -/
def divS (a b : Word) : Word := if b = 0 then BitVec.allOnes 64 else a.sdiv b
/-- DIVU. -/
def divU (a b : Word) : Word := if b = 0 then BitVec.allOnes 64 else a / b
/-- REM. -/
def remS (a b : Word) : Word := if b = 0 then a else a.srem b
/-- REMU. -/
def remU (a b : Word) : Word := if b = 0 then a else a % b
/-- CLZ: 64 for 0. -/
def clz64 (a : Word) : Word := if a = 0 then 64 else BitVec.ofNat 64 (63 - a.toNat.log2)
/-- CTZ: 64 for 0. -/
def ctz64 (a : Word) : Word := if a = 0 then 64 else BitVec.ofNat 64 (a &&& -a).toNat.log2
/-- POPC. -/
def popc64 (a : Word) : Nat := (List.range 64).foldl (fun n i => n + (if a.getLsbD i then 1 else 0)) 0
/-- Sign-extend the low `w` bits. -/
def sext64 (w : Nat) (a : Word) : Word := (a.setWidth w).signExtend 64
/-- High half of the signed 128-bit product. -/
def mulHS (a b : Word) : Word := ((a.signExtend 128 * b.signExtend 128) >>> 64).setWidth 64
/-- High half of the unsigned 128-bit product. -/
def mulHU (a b : Word) : Word := ((a.setWidth 128 * b.setWidth 128) >>> 64).setWidth 64

def execAdd (d a b : R5) (s : State) : Out := alu2 (· + ·) d a b s
def execSub (d a b : R5) (s : State) : Out := alu2 (· - ·) d a b s
def execAnd (d a b : R5) (s : State) : Out := alu2 (· &&& ·) d a b s
def execOr (d a b : R5) (s : State) : Out := alu2 (· ||| ·) d a b s
def execXor (d a b : R5) (s : State) : Out := alu2 (· ^^^ ·) d a b s
def execAndn (d a b : R5) (s : State) : Out := alu2 (fun a b => a &&& ~~~b) d a b s
def execSll (d a b : R5) (s : State) : Out := alu2 (fun a b => a <<< (b.toNat % 64)) d a b s
def execSrl (d a b : R5) (s : State) : Out := alu2 (fun a b => a >>> (b.toNat % 64)) d a b s
def execSra (d a b : R5) (s : State) : Out := alu2 (fun a b => a.sshiftRight (b.toNat % 64)) d a b s
def execSlli (d a : R5) (sh : BitVec 6) (s : State) : Out := alu1 (· <<< sh.toNat) d a s
def execSrli (d a : R5) (sh : BitVec 6) (s : State) : Out := alu1 (· >>> sh.toNat) d a s
def execSrai (d a : R5) (sh : BitVec 6) (s : State) : Out := alu1 (·.sshiftRight sh.toNat) d a s
def execSlt (d a b : R5) (s : State) : Out := alu2 (fun a b => bit64 (a.slt b)) d a b s
def execSltu (d a b : R5) (s : State) : Out := alu2 (fun a b => bit64 (a.ult b)) d a b s
def execMin (d a b : R5) (s : State) : Out := alu2 (fun a b => if b.slt a then b else a) d a b s
def execMax (d a b : R5) (s : State) : Out := alu2 (fun a b => if a.slt b then b else a) d a b s
def execMinu (d a b : R5) (s : State) : Out := alu2 (fun a b => if b.ult a then b else a) d a b s
def execMaxu (d a b : R5) (s : State) : Out := alu2 (fun a b => if a.ult b then b else a) d a b s
def execMul (d a b : R5) (s : State) : Out := alu2 (· * ·) d a b s
def execMulh (d a b : R5) (s : State) : Out := alu2 mulHS d a b s
def execMulhu (d a b : R5) (s : State) : Out := alu2 mulHU d a b s
def execDiv (d a b : R5) (s : State) : Out := alu2 divS d a b s
def execDivu (d a b : R5) (s : State) : Out := alu2 divU d a b s
def execRem (d a b : R5) (s : State) : Out := alu2 remS d a b s
def execRemu (d a b : R5) (s : State) : Out := alu2 remU d a b s
def execClz (d a : R5) (s : State) : Out := alu1 clz64 d a s
def execCtz (d a : R5) (s : State) : Out := alu1 ctz64 d a s
def execPopc (d a : R5) (s : State) : Out := alu1 (fun a => BitVec.ofNat 64 (popc64 a)) d a s
def execSextb (d a : R5) (s : State) : Out := alu1 (sext64 8) d a s
def execSexth (d a : R5) (s : State) : Out := alu1 (sext64 16) d a s
def execSextw (d a : R5) (s : State) : Out := alu1 (sext64 32) d a s
def execAddw (d a b : R5) (s : State) : Out := alu2 (fun a b => sext64 32 (a + b)) d a b s
def execSubw (d a b : R5) (s : State) : Out := alu2 (fun a b => sext64 32 (a - b)) d a b s
/-- ADDH: OffsetAdd(a, b) (R164, R165). -/
def execAddh (d a b : R5) (s : State) : Out := aluOffset d a (s.regs.rg b).toInt (s.regs.rgp b) s

/-! ### Immediates (R166) -/

def execAddi (d a : R5) (imm : BitVec 16) (s : State) : Out := alu1 (· + imm.signExtend 64) d a s
def execAndi (d a : R5) (imm : BitVec 16) (s : State) : Out := alu1 (· &&& imm.setWidth 64) d a s
def execOri (d a : R5) (imm : BitVec 16) (s : State) : Out := alu1 (· ||| imm.setWidth 64) d a s
def execXori (d a : R5) (imm : BitVec 16) (s : State) : Out := alu1 (· ^^^ imm.setWidth 64) d a s
def execSlti (d a : R5) (imm : BitVec 16) (s : State) : Out := alu1 (fun a => bit64 (a.slt (imm.signExtend 64))) d a s
def execSltiu (d a : R5) (imm : BitVec 16) (s : State) : Out := alu1 (fun a => bit64 (a.ult (imm.signExtend 64))) d a s
/-- LUI: SignExtend(imm16 << 16, 32). -/
def execLui (d : R5) (imm : BitVec 16) (s : State) : Out :=
  finish s fun r => r.wg d ((imm.setWidth 32 <<< 16).signExtend 64) false
/-- LHI: the handle field is set, the offset kept. -/
def execLhi (d a : R5) (imm : BitVec 12) (s : State) : Out :=
  alu1 (fun a => (imm.setWidth 64 <<< 52) ||| (a &&& 0x000FFFFFFFFFFFFF)) d a s
/-- ADDIH: OffsetAdd(G(a), SignExtend(imm16, 16)). -/
def execAddih (d a : R5) (imm : BitVec 16) (s : State) : Out := aluOffset d a imm.toInt false s

end Sys2Proof.Machine
end

