-- ==== Sys2Proof/Machine/Vector.lean ====
section
/-! DEFINITION. Majors 0x20-0x22: vector integer and floating-point arithmetic, compares and mask operations
(R106, R181-R183, R187-R191). -/

namespace Sys2Proof.Machine

/-- Write the active elements of width `w` of v(d): element `j` takes `f j` and its flags; lanes where the mask is 0
keep their value, raise no flag and keep their poison (R106, R182). -/
def vWrite (w : Nat) (d : R5) (k : R3) (f : Nat → Nat × BitVec 5) (poison : Word) (s : State) : Out :=
  let r := s.regs
  let m := r.rm k
  let l := (List.range (2048 / w)).map fun j => if m.getLsbD (j * w / 32) then f j else (0, 0)
  finish s fun r => (r.wv d (mergeLanes m (ofElems w (l.map Prod.fst)) (r.rv d)) (mergeBits m poison (r.rvp d))).raise
    (l.foldl (fun a x => a ||| x.2) 0)

/-! ### Major 0x20 (R187) -/

/-- Two-operand integer operation on elements. -/
def vInt2 (t : EW) (g : Nat → Nat → Nat → Nat) (d a b : R5) (k : R3) (s : State) : Out :=
  let r := s.regs
  let w := ewBits t
  vWrite w d k (fun j => (g w (elem w (r.rv a) j) (elem w (r.rv b) j), 0)) (r.rvp a ||| r.rvp b) s
/-- The shift amount: the low log2 W bits. -/
def shAmt (w b : Nat) : Nat := b % w

def execVadd (t : EW) (d a b : R5) (k : R3) (s : State) : Out := vInt2 t (fun w a b => (a + b) % 2 ^ w) d a b k s
def execVsub (t : EW) (d a b : R5) (k : R3) (s : State) : Out := vInt2 t (fun w a b => (a + 2 ^ w - b) % 2 ^ w) d a b k s
def execVmul (t : EW) (d a b : R5) (k : R3) (s : State) : Out := vInt2 t (fun w a b => a * b % 2 ^ w) d a b k s
def execVmulh (t : EW) (d a b : R5) (k : R3) (s : State) : Out :=
  vInt2 t (fun w a b => ofInt w (sint w a * sint w b / 2 ^ w)) d a b k s
def execVand (t : EW) (d a b : R5) (k : R3) (s : State) : Out := vInt2 t (fun _ a b => a &&& b) d a b k s
def execVor (t : EW) (d a b : R5) (k : R3) (s : State) : Out := vInt2 t (fun _ a b => a ||| b) d a b k s
def execVxor (t : EW) (d a b : R5) (k : R3) (s : State) : Out := vInt2 t (fun _ a b => a ^^^ b) d a b k s
def execVsll (t : EW) (d a b : R5) (k : R3) (s : State) : Out :=
  vInt2 t (fun w a b => a * 2 ^ shAmt w b % 2 ^ w) d a b k s
def execVsrl (t : EW) (d a b : R5) (k : R3) (s : State) : Out := vInt2 t (fun w a b => a / 2 ^ shAmt w b) d a b k s
def execVsra (t : EW) (d a b : R5) (k : R3) (s : State) : Out :=
  vInt2 t (fun w a b => ofInt w (sint w a / 2 ^ shAmt w b)) d a b k s
def execVmin (t : EW) (d a b : R5) (k : R3) (s : State) : Out :=
  vInt2 t (fun w a b => if sint w b < sint w a then b else a) d a b k s
def execVmax (t : EW) (d a b : R5) (k : R3) (s : State) : Out :=
  vInt2 t (fun w a b => if sint w a < sint w b then b else a) d a b k s
def execVminu (t : EW) (d a b : R5) (k : R3) (s : State) : Out := vInt2 t (fun _ a b => Nat.min a b) d a b k s
def execVmaxu (t : EW) (d a b : R5) (k : R3) (s : State) : Out := vInt2 t (fun _ a b => Nat.max a b) d a b k s
def execVabs (t : EW) (d a : R5) (k : R3) (s : State) : Out :=
  vInt2 t (fun w a _ => ofInt w ((sint w a).natAbs : Int)) d a a k s
def execVadds (t : EW) (d a b : R5) (k : R3) (s : State) : Out :=
  vInt2 t (fun w a b => ofInt w (satInt w (sint w a + sint w b))) d a b k s

/-! ### Major 0x21 (R188, R189) -/

/-- A floating-point operation of the elements of va, vb and the old vd, with the poison of the registers it reads. -/
def vFp (t : FT) (g : Fmt → Nat → Nat → Nat → Nat → Nat × BitVec 5) (d a b : R5) (k : R3) (poison : Regs → Word)
    (s : State) : Out :=
  let r := s.regs
  let f := ftFmt t
  vWrite f.width d k (fun j => g f r.rmode.toNat (elem f.width (r.rv a) j) (elem f.width (r.rv b) j)
    (elem f.width (r.rv d) j)) (poison r) s
/-- Poison of two sources. -/
def poison2 (a b : R5) (r : Regs) : Word := r.rvp a ||| r.rvp b
/-- Poison of two sources and the destination. -/
def poison3 (a b d : R5) (r : Regs) : Word := r.rvp a ||| r.rvp b ||| r.rvp d
/-- Change the sign bit of a number; a NaN gives the canonical NaN (R188). -/
def signOp (f : Fmt) (g : Bool → Bool) (a : Nat) : Nat × BitVec 5 :=
  match f.decode a with
  | .nan sg => (f.nan, flagIf sg fNV)
  | _ => (a % 2 ^ (f.eb + f.fb) + f.sgn (g (a.testBit (f.eb + f.fb))), 0)

def execVfadd (t : FT) (d a b : R5) (k : R3) (s : State) : Out :=
  vFp t (fun f m a b _ => f.add m (f.decode a) (f.decode b)) d a b k (poison2 a b) s
def execVfsub (t : FT) (d a b : R5) (k : R3) (s : State) : Out :=
  vFp t (fun f m a b _ => f.add m (f.decode a) (f.decode b).negate) d a b k (poison2 a b) s
def execVfmul (t : FT) (d a b : R5) (k : R3) (s : State) : Out :=
  vFp t (fun f m a b _ => f.mul m (f.decode a) (f.decode b)) d a b k (poison2 a b) s
def execVfma (t : FT) (d a b : R5) (k : R3) (s : State) : Out :=
  vFp t (fun f m a b d => f.fma m (f.decode a) (f.decode b) (f.decode d)) d a b k (poison3 a b d) s
def execVfnma (t : FT) (d a b : R5) (k : R3) (s : State) : Out :=
  vFp t (fun f m a b d => f.fma m (f.decode a).negate (f.decode b) (f.decode d)) d a b k (poison3 a b d) s
def execVfmin (t : FT) (d a b : R5) (k : R3) (s : State) : Out :=
  vFp t (fun f _ a b _ => f.minmax false a b) d a b k (poison2 a b) s
def execVfmax (t : FT) (d a b : R5) (k : R3) (s : State) : Out :=
  vFp t (fun f _ a b _ => f.minmax true a b) d a b k (poison2 a b) s
def execVfabs (t : FT) (d a : R5) (k : R3) (s : State) : Out :=
  vFp t (fun f _ a _ _ => signOp f (fun _ => false) a) d a a k (poison2 a a) s
def execVfneg (t : FT) (d a : R5) (k : R3) (s : State) : Out :=
  vFp t (fun f _ a _ _ => signOp f (!·) a) d a a k (poison2 a a) s
def execVfrcp (t : FT) (d a : R5) (k : R3) (s : State) : Out :=
  vFp t (fun f m a _ _ => f.rcp m (f.decode a)) d a a k (poison2 a a) s
def execVfrsq (t : FT) (d a : R5) (k : R3) (s : State) : Out :=
  vFp t (fun f m a _ _ => f.rsq m (f.decode a)) d a a k (poison2 a a) s
def execVfexp2 (t : FT) (d a : R5) (k : R3) (s : State) : Out :=
  vFp t (fun f m a _ _ => f.exp2 m a) d a a k (poison2 a a) s
def execVflog2 (t : FT) (d a : R5) (k : R3) (s : State) : Out :=
  vFp t (fun f m a _ _ => f.log2 m a) d a a k (poison2 a a) s

/-! ### Major 0x22 (R190, R191) -/

/-- A compare: bit `i` is set when the relation holds for every element of lane `i`. Inactive lanes keep their bit and
raise no flag. m registers carry no poison. -/
def vCompare (w : Nat) (g : Nat → Nat → Bool × BitVec 5) (md : R3) (a b : R5) (k : R3) (s : State) : Out :=
  let r := s.regs
  let m := r.rm k
  let at_ (j : Nat) := g (elem w (r.rv a) j) (elem w (r.rv b) j)
  let els (i : Nat) := (List.range (32 / w)).map fun q => at_ (i * (32 / w) + q)
  let new := wordOfBits fun i => m.getLsbD i && (els i).all Prod.fst
  let fl := ((List.range 64).filter m.getLsbD).foldl (fun x i => (els i).foldl (fun y e => y ||| e.2) x) 0
  finish s fun r => (r.wm md (mergeBits m new (r.rm md))).raise fl
/-- An integer compare. -/
def vcInt (t : EW) (g : Nat → Nat → Nat → Bool) (md : R3) (a b : R5) (k : R3) (s : State) : Out :=
  vCompare (ewBits t) (fun x y => (g (ewBits t) x y, 0)) md a b k s
/-- A floating-point compare: `quiet` raises NV only for a signalling NaN. -/
def vcFp (t : FT) (quiet : Bool) (g : FVal → FVal → Bool) (md : R3) (a b : R5) (k : R3) (s : State) : Out :=
  let f := ftFmt t
  vCompare f.width (fun x y =>
    let p := f.decode x
    let q := f.decode y
    (g p q, flagIf (if quiet then p.isSig || q.isSig else p.isNan || q.isNan) fNV)) md a b k s

def execVceq (t : EW) (md : R3) (a b : R5) (k : R3) (s : State) : Out := vcInt t (fun _ a b => a == b) md a b k s
def execVcne (t : EW) (md : R3) (a b : R5) (k : R3) (s : State) : Out := vcInt t (fun _ a b => a != b) md a b k s
def execVclt (t : EW) (md : R3) (a b : R5) (k : R3) (s : State) : Out :=
  vcInt t (fun w a b => decide (sint w a < sint w b)) md a b k s
def execVcle (t : EW) (md : R3) (a b : R5) (k : R3) (s : State) : Out :=
  vcInt t (fun w a b => decide (sint w a ≤ sint w b)) md a b k s
def execVcltu (t : EW) (md : R3) (a b : R5) (k : R3) (s : State) : Out := vcInt t (fun _ a b => decide (a < b)) md a b k s
def execVcfeq (t : FT) (md : R3) (a b : R5) (k : R3) (s : State) : Out := vcFp t true (fun a b => (a.cmp b).2) md a b k s
def execVcflt (t : FT) (md : R3) (a b : R5) (k : R3) (s : State) : Out := vcFp t false (fun a b => (a.cmp b).1) md a b k s
def execVcfle (t : FT) (md : R3) (a b : R5) (k : R3) (s : State) : Out :=
  vcFp t false (fun a b => (a.cmp b).1 || (a.cmp b).2) md a b k s
def execVcfun (t : FT) (md : R3) (a b : R5) (k : R3) (s : State) : Out :=
  vcFp t true (fun a b => a.isNan || b.isNan) md a b k s

/-- A mask operation: a result bit is written only where mk is 1. -/
def maskOp (g : Word → Word → Word) (md ma mb k : R3) (s : State) : Out :=
  finish s fun r => r.wm md (mergeBits (r.rm k) (g (r.rm ma) (r.rm mb)) (r.rm md))
def execMand (md ma mb k : R3) (s : State) : Out := maskOp (· &&& ·) md ma mb k s
def execMor (md ma mb k : R3) (s : State) : Out := maskOp (· ||| ·) md ma mb k s
def execMxor (md ma mb k : R3) (s : State) : Out := maskOp (· ^^^ ·) md ma mb k s
def execMnot (md ma k : R3) (s : State) : Out := maskOp (fun a _ => ~~~a) md ma ma k s
def execMpopc (d : R5) (ma k : R3) (s : State) : Out :=
  finish s fun r => r.wg d (BitVec.ofNat 64 (popc64 (r.rm ma &&& r.rm k))) false
def execMfirst (d : R5) (ma k : R3) (s : State) : Out :=
  finish s fun r => r.wg d (ctz64 (r.rm ma &&& r.rm k)) false

end Sys2Proof.Machine
end

