-- ==== Sys2Proof/Machine/VectorData.lean ====
section
/-! DEFINITION. Majors 0x23-0x25, 0x27, 0x28: permutes, conversions, reductions, moves and T5 (R192-R195, R198,
R199). -/

namespace Sys2Proof.Machine

/-! ### Major 0x23: permutes (R192) -/

/-- Write the lanes of v(d) that `m` selects: lane `i` takes `f i` with poison `q i`. -/
def vLanes (d : R5) (m : Word) (f : Nat → Nat) (q : Nat → Bool) (s : State) : Out :=
  finish s fun r => r.wv d (mergeLanes m (ofElems 32 ((List.range 64).map f)) (r.rv d))
    (mergeBits m (wordOfBits q) (r.rvp d))

/-- Lanes taken from va by index; `none` gives 0. A poisoned lane, or `q i`, poisons the result. -/
def vPick (d a : R5) (m : Word) (ix : Nat → Option Nat) (q : Nat → Bool) (s : State) : Out :=
  let r := s.regs
  vLanes d m (fun i => (ix i).elim 0 (lane (r.rv a))) (fun i => q i || (ix i).elim false (r.rvp a).getLsbD) s

def execVperm (d a b : R5) (k : R3) (s : State) : Out :=
  let r := s.regs
  vPick d a (r.rm k) (fun i => some (lane (r.rv b) i % 64)) (r.rvp b).getLsbD s
def execVslideup (d a b : R5) (k : R3) (s : State) : Out :=
  let r := s.regs
  let n := (r.rg b).toNat
  vPick d a (r.rm k) (fun i => if n ≤ i then some (i - n) else none) (fun _ => r.rgp b) s
def execVslidedn (d a b : R5) (k : R3) (s : State) : Out :=
  let r := s.regs
  let n := (r.rg b).toNat
  vPick d a (r.rm k) (fun i => if i + n ≤ 63 then some (i + n) else none) (fun _ => r.rgp b) s
def execVbcast (d a b : R5) (k : R3) (s : State) : Out :=
  let r := s.regs
  vPick d a (r.rm k) (fun _ => some ((r.rg b).toNat % 64)) (fun _ => r.rgp b) s
/-- The lanes a mask makes active, lowest first. -/
def activeLanes (m : Word) : List Nat := (List.range 64).filter m.getLsbD
/-- VCOMPRESS writes all 64 lanes. -/
def execVcompress (d a : R5) (k : R3) (s : State) : Out :=
  let l := activeLanes (s.regs.rm k)
  vPick d a (BitVec.allOnes 64) (fun i => l[i]?) (fun _ => false) s
def execVexpand (d a : R5) (k : R3) (s : State) : Out :=
  let m := s.regs.rm k
  vPick d a m (fun i => some ((activeLanes m).filter (· < i)).length) (fun _ => false) s
/-- VSEL writes all 64 lanes. -/
def execVsel (d a b : R5) (k : R3) (s : State) : Out :=
  let r := s.regs
  let m := r.rm k
  finish s fun r => r.wv d (mergeLanes m (r.rv a) (r.rv b)) (mergeBits m (r.rvp a) (r.rvp b))

/-! ### Major 0x24: conversions (R193, R194) -/

/-- A conversion that keeps the lanes. -/
def vcvtLane (g : Nat → Nat → Nat × BitVec 5) (d a : R5) (k : R3) (s : State) : Out :=
  let r := s.regs
  vWrite 32 d k (fun j => g r.rmode.toNat (lane (r.rv a) j)) (r.rvp a) s

/-- A narrowing conversion to `w` bits: all 64 source lanes give elements 64h..64h+63 of vd; every other lane keeps
its value. -/
def vNarrow (w h : Nat) (g : Nat → Nat → Nat × BitVec 5) (d a : R5) (k : R3) (q : Bool) (s : State) : Out :=
  let r := s.regs
  let per := 32 / w
  let lo := 64 * h / per
  let n := 64 / per
  let inside := wordOfBits fun i => decide (lo ≤ i) && decide (i < lo + n)
  let m := r.rm k &&& inside
  let l := (List.range (2048 / w)).map fun j =>
    if m.getLsbD (j / per) then g r.rmode.toNat (lane (r.rv a) (j - 64 * h)) else (0, 0)
  let p := wordOfBits fun i => q || (List.range per).any fun x => (r.rvp a).getLsbD ((i - lo) * per + x)
  finish s fun r => (r.wv d (mergeLanes m (ofElems w (l.map Prod.fst)) (r.rv d)) (mergeBits m p (r.rvp d))).raise
    (l.foldl (fun x e => x ||| e.2) 0)

/-- A widening conversion: elements 64h..64h+63 of va into lanes 0..63. -/
def vWiden (w h : Nat) (g : Nat → Nat × BitVec 5) (d a : R5) (k : R3) (s : State) : Out :=
  let r := s.regs
  vWrite 32 d k (fun i => g (elem w (r.rv a) (64 * h + i)))
    (wordOfBits fun i => (r.rvp a).getLsbD ((64 * h + i) / (32 / w))) s

/-- A block encoder: two blocks of 32 lanes into half `h` of vd, the rest of each 64-byte part 0 (R193). A lane that
holds no byte of the block reads no source lane (R182). -/
def vBlockEnc (h : Nat) (enc : List FVal → List Nat × BitVec 5) (d a : R5) (k : R3) (q : Bool) (s : State) : Out :=
  let r := s.regs
  let blk (b : Nat) := enc ((List.range 32).map fun i => F32.decode (lane (r.rv a) (32 * b + i)))
  let blks := [blk 0, blk 1]
  let bytes := blks.flatMap fun x => x.1 ++ List.replicate (64 - x.1.length) 0
  let inside := wordOfBits fun i => i / 32 == h
  let m := r.rm k &&& inside
  let half (b : Nat) : Word := wordOfBits fun i => i / 16 == 2 * h + b
  let fl := (List.range 2).foldl (fun f b => if m &&& half b = 0 then f else f ||| (blks.map Prod.snd).getD b 0) 0
  let size (b : Nat) : Nat := (blks.getD b ([], 0)).1.length
  let p := wordOfBits fun i => decide (4 * (i % 16) < size (i / 16 % 2)) &&
    (q || (List.range 32).any fun x => (r.rvp a).getLsbD (32 * (i / 16 % 2) + x))
  let new : VReg := BitVec.ofNat 2048 (leNat (bytes.map (BitVec.ofNat 8)) * 2 ^ (1024 * h))
  finish s fun r => (r.wv d (mergeLanes m new (r.rv d)) (mergeBits m p (r.rvp d))).raise fl

/-- A block decoder: two blocks of `n` bytes of half `h` into lanes 0..63. `at_` is the byte of element `i`. -/
def vBlockDec (h n : Nat) (dec : List Nat → List FVal) (at_ : Nat → Nat) (d a : R5) (k : R3) (q : Bool) (s : State) : Out :=
  let r := s.regs
  let base (b : Nat) : Nat := 128 * h + 64 * b
  let blk (b : Nat) := (dec ((List.range n).map fun i => elem 8 (r.rv a) (base b + i))).map fun v => F32.ofVal 0 v
  let l := blk 0 ++ blk 1
  let pl (x : Nat) : Bool := (r.rvp a).getLsbD (x / 4)
  vWrite 32 d k (fun i => l.getD i (0, 0)) (wordOfBits fun i => q || pl (base (i / 32)) || pl (base (i / 32) + at_ (i % 32))) s

def execVcvtF32I32 (d a : R5) (k : R3) (s : State) : Out := vcvtLane (fun _ x => i2f (sint 32 x)) d a k s
def execVcvtI32F32 (d a : R5) (k : R3) (s : State) : Out := vcvtLane (fun m x => f2i 32 m (F32.decode x)) d a k s
def execVcvtBf16F32 (d a : R5) (h : BitVec 1) (k : R3) (s : State) : Out :=
  vNarrow 16 h.toNat (fun m x => BF16.ofVal m (F32.decode x)) d a k false s
def execVcvtF32Bf16 (d a : R5) (h : BitVec 1) (k : R3) (s : State) : Out :=
  vWiden 16 h.toNat (fun x => F32.ofVal 0 (BF16.decode x)) d a k s
def execVcvtF16F32 (d a : R5) (h : BitVec 1) (k : R3) (s : State) : Out :=
  vNarrow 16 h.toNat (fun m x => F16.ofVal m (F32.decode x)) d a k false s
def execVcvtF32F16 (d a : R5) (h : BitVec 1) (k : R3) (s : State) : Out :=
  vWiden 16 h.toNat (fun x => F32.ofVal 0 (F16.decode x)) d a k s
def execVcvtI8I32 (d a : R5) (h : BitVec 2) (k : R3) (s : State) : Out :=
  vNarrow 8 h.toNat (fun _ x => (ofInt 8 (satInt 8 (sint 32 x)), 0)) d a k false s
def execVcvtI32I8 (d a : R5) (h : BitVec 2) (k : R3) (s : State) : Out :=
  vWiden 8 h.toNat (fun x => (ofInt 32 (sint 8 x), 0)) d a k s
def execVcvtE2m1F32 (d a : R5) (h : BitVec 1) (k : R3) (s : State) : Out := vBlockEnc h.toNat e2m1Block d a k false s
def execVcvtF32E2m1 (d a : R5) (h : BitVec 1) (k : R3) (s : State) : Out :=
  vBlockDec h.toNat 17 e2m1Decode (fun i => 1 + i / 2) d a k false s
/-- VBXENC: h = G(b)[4], d = G(b)[3:0], where 0 means 6. -/
def execVbxenc (t : BXT) (d a b : R5) (k : R3) (s : State) : Out :=
  let g := s.regs.rg b
  let dd := if wget g 3 0 = 0 then 6 else wget g 3 0
  vBlockEnc (wget g 4 4) (bxEncode t dd) d a k (s.regs.rgp b) s
/-- VBXDEC: half G(b)[4]. An element past F32 rounds to infinity with OF and NX: DEDUCED, notes/assumptions/74.md. -/
def execVbxdec (t : BXT) (d a b : R5) (k : R3) (s : State) : Out :=
  vBlockDec (wget (s.regs.rg b) 4 4) (bxSize t) (bxDecode t)
    (fun i => match t with
      | .bx8 => 2 + i
      | .bx4 => 2 + i / 2) d a k (s.regs.rgp b) s
/-- VQNT: the scale is G(b)[31:0], the half G(b)[33:32] or G(b)[32]; the reciprocal is formed at every issue. -/
def execVqnt (t : QT) (d a b : R5) (k : R3) (s : State) : Out :=
  let g := s.regs.rg b
  let r := scaleRcp (wget g 31 0)
  match t with
  | .i8 => vNarrow 8 (wget g 33 32) (fun _ x => qnt 8 (F32.decode x) r) d a k (s.regs.rgp b) s
  | .i16 => vNarrow 16 (wget g 32 32) (fun _ x => qnt 16 (F32.decode x) r) d a k (s.regs.rgp b) s

/-! ### Major 0x25: reductions (R195) -/

/-- A reduction: lane 0 receives the result and every other lane 0; lane 0 is poisoned by any active source lane. -/
def vReduce (d k' : R5) (k : R3) (res : Nat × BitVec 5) (a : R5) (s : State) : Out :=
  let r := s.regs
  let p : Bool := decide ((r.rvp a ||| r.rvp k') &&& r.rm k ≠ 0)
  finish s fun r => (r.wv d (BitVec.ofNat 2048 (res.1 % 2 ^ 32)) (bit64 p)).raise res.2
/-- Active element numbers of width `w`. -/
def actives (w : Nat) (m : Word) : List Nat := (List.range (2048 / w)).filter fun j => m.getLsbD (j * w / 32)
/-- Active signed elements. -/
def activeInts (t : EW) (k : R3) (a : R5) (s : State) : List Int :=
  let r := s.regs
  (actives (ewBits t) (r.rm k)).map fun j => sint (ewBits t) (elem (ewBits t) (r.rv a) j)
/-- Active elements as exact values. -/
def activeVals (f : Fmt) (k : R3) (a : R5) (s : State) : List FVal :=
  let r := s.regs
  (actives f.width (r.rm k)).map fun j => f.decode (elem f.width (r.rv a) j)

def execVrsum (t : EW) (d a : R5) (k : R3) (s : State) : Out :=
  vReduce d a k (ofInt 32 ((activeInts t k a s).foldl (· + ·) 0), 0) a s
def execVfrsum (t : FT) (d a : R5) (k : R3) (s : State) : Out :=
  vReduce d a k (fsum s.regs.rmode.toNat false (s.pick 4) (activeVals (ftFmt t) k a s)) a s
def execVrmin (t : EW) (d a : R5) (k : R3) (s : State) : Out :=
  vReduce d a k (ofInt 32 ((activeInts t k a s).foldl min (2 ^ (ewBits t - 1) - 1)), 0) a s
def execVrmax (t : EW) (d a : R5) (k : R3) (s : State) : Out :=
  vReduce d a k (ofInt 32 ((activeInts t k a s).foldl max (-2 ^ (ewBits t - 1))), 0) a s
/-- VFRMIN and VFRMAX: quiet NaNs are skipped, a signalling one raises NV and is then quiet. -/
def fReduce (f : Fmt) (isMax : Bool) (l : List Nat) : Nat × BitVec 5 :=
  let nv := flagIf (l.any fun x => (f.decode x).isSig) fNV
  match l.filter fun x => !(f.decode x).isNan with
  | [] => if l = [] then (F32.inf isMax, 0) else (F32.nan, nv)
  | x :: t => ((F32.ofVal 0 (f.decode (t.foldl (fun a b => (f.minmax isMax a b).1) x))).1, nv)
/-- Active elements as bits. -/
def activeBits (f : Fmt) (k : R3) (a : R5) (s : State) : List Nat :=
  (actives f.width (s.regs.rm k)).map (elem f.width (s.regs.rv a))
def execVfrmin (t : FT) (d a : R5) (k : R3) (s : State) : Out :=
  vReduce d a k (fReduce (ftFmt t) false (activeBits (ftFmt t) k a s)) a s
def execVfrmax (t : FT) (d a : R5) (k : R3) (s : State) : Out :=
  vReduce d a k (fReduce (ftFmt t) true (activeBits (ftFmt t) k a s)) a s
def execVdot (t : EW) (d a b : R5) (k : R3) (s : State) : Out :=
  let ps := (activeInts t k a s).zip (activeInts t k b s)
  vReduce d b k (ofInt 32 (ps.foldl (fun x p => x + p.1 * p.2) 0), 0) a s
/-- VFDOT: exact products; partial sums of BF16 products neither overflow nor underflow (R90). -/
def execVfdot (t : FT) (d a b : R5) (k : R3) (s : State) : Out :=
  let ps := ((activeVals (ftFmt t) k a s).zip (activeVals (ftFmt t) k b s)).map fun p => p.1.mul p.2
  vReduce d b k (fsum s.regs.rmode.toNat (decide (t = .bf16)) (s.pick 4) ps) a s
/-- The first of the largest elements, with its number. -/
def argMax : List (Nat × Int) → Option (Nat × Int)
  | [] => none
  | x :: l => match argMax l with
    | none => some x
    | some y => if x.2 < y.2 then some y else some x
def execVargmax (t : EW) (d a : R5) (k : R3) (s : State) : Out :=
  let js := actives (ewBits t) (s.regs.rm k)
  vReduce d a k ((argMax (js.zip (activeInts t k a s))).elim 0xFFFFFFFF Prod.fst, 0) a s

/-! ### Major 0x27: moves (R198) -/

def execVmovg (d a : R5) (k : R3) (s : State) : Out :=
  let r := s.regs
  vLanes d (r.rm k) (fun _ => wget (r.rg a) 31 0) (fun _ => r.rgp a) s
/-- VGET ignores mk. -/
def execVget (d a b : R5) (_k : R3) (s : State) : Out :=
  let r := s.regs
  let i := (r.rg b).toNat % 64
  finish s fun g => g.wg d (BitVec.ofNat 64 (lane (r.rv a) i)) ((r.rvp a).getLsbD i || r.rgp b)
def execVput (d a b : R5) (k : R3) (s : State) : Out :=
  let r := s.regs
  let i := (r.rg b).toNat % 64
  vLanes d (r.rm k &&& wordOfBits (· == i)) (fun _ => wget (r.rg a) 31 0) (fun _ => r.rgp a || r.rgp b) s
def execViota (d a : R5) (k : R3) (s : State) : Out :=
  let r := s.regs
  vLanes d (r.rm k) (fun i => (wget (r.rg a) 31 0 + i) % 2 ^ 32) (fun _ => r.rgp a) s
def execVmov (d a : R5) (k : R3) (s : State) : Out := vPick d a (s.regs.rm k) some (fun _ => false) s

/-! ### Major 0x28: T5 (R199) -/

/-- Lanes 12h..12h+11 of group `h`. -/
def groupMask (h : Nat) : Word := wordOfBits fun i => i / 12 == h
def execT5pk (d a : R5) (h : BitVec 3) (k : R3) (s : State) : Out :=
  let r := s.regs
  let byte (j : Nat) : Nat := t5Pack ((List.range 5).map fun i => tritOf (elem 8 (r.rv a) (5 * j + i)))
  let l0 := 12 * h.toNat
  vLanes d (r.rm k &&& groupMask h.toNat)
    (fun i => leNat ((List.range 4).map fun q => BitVec.ofNat 8 (byte (4 * (i - l0) + q))))
    (fun i => (List.range 5).any fun q => (r.rvp a).getLsbD (5 * (i - l0) + q)) s
/-- The bytes of group `h` and the lowest that is no code. -/
def t5Bad (v : VReg) (h : Nat) : Option Nat := (List.range 48).find? fun j => decide (elem 8 v (48 * h + j) ≥ 243)
/-- The T5 code fault of a register (R199). -/
def t5Fault (h j : Nat) (s : State) : Out := takeFault 0x1B (BitVec.ofNat 64 ((48 * h + j) * 2 ^ 16 + 0xFF)) s
/-- Trits of a group. -/
def t5Trits (v : VReg) (h : Nat) : List Nat := (List.range 48).flatMap fun j => t5Digits (elem 8 v (48 * h + j))
def execT5upk (d a : R5) (h : BitVec 3) (k : R3) (s : State) : Out :=
  let r := s.regs
  match t5Bad (r.rv a) h.toNat with
  | some j => t5Fault h.toNat j s
  | none =>
    let ts := t5Trits (r.rv a) h.toNat
    vWrite 8 d k (fun e => (ofInt 8 (tritVal (ts.getD e 0)), 0))
      (wordOfBits fun i => (List.range 4).any fun q =>
        decide (4 * i + q < 240) && (r.rvp a).getLsbD ((48 * h.toNat + (4 * i + q) / 5) / 4)) s
def execT5cnt (d a : R5) (h : BitVec 3) (_k : R3) (s : State) : Out :=
  let r := s.regs
  match t5Bad (r.rv a) h.toNat with
  | some j => t5Fault h.toNat j s
  | none =>
    let ts := t5Trits (r.rv a) h.toNat
    finish s fun g => g.wg d (BitVec.ofNat 64 (ts.count 2 * 2 ^ 16 + ts.count 1))
      (decide (r.rvp a &&& groupMask h.toNat ≠ 0))

end Sys2Proof.Machine
end

