-- ==== Sys2Proof/Machine/VectorMem.lean ====
section
/-! DEFINITION. Majors 0x26 and 0x29: vector memory and tile predicates (R196, R197, R200). -/

namespace Sys2Proof.Machine

/-- Form and check the lane accesses, lowest lane first: bound, address formation, alignment (R196, R206). -/
def State.laneAddrs (s : State) (c : Ctx) (p : Word) (wr : Bool) (off : Nat → Int) :
    List Nat → Except Flt (State × List Seg)
  | [] => .ok (s, [])
  | i :: l => match offsetAdd p (off i) with
    | none => .error (s.flt c 0x08 p)
    | some q => match (if wr then s.storeAddr c q 4 else s.loadAddr c q 4) with
      | .error f => .error f
      | .ok (s, x) =>
        if (x.map Seg.addr).headD 0 % 4 ≠ 0 then .error (s.flt c 0x0D q)
        else match State.laneAddrs s c p wr off l with
          | .error f => .error f
          | .ok (s, xs) => .ok (s, x ++ xs)

/-- Lane `i` of a group of loaded bytes, for the lanes listed. -/
def laneOf (ls : List Nat) (bs : List (Byte × Bool)) (i : Nat) : List (Byte × Bool) :=
  match findAt (· == i) ls with
  | some (n, _) => (bs.drop (4 * n)).take 4
  | none => []

/-- A vector load: each active lane from its own address. -/
def vLoad (d gb : R5) (k : R3) (off4 : BitVec 4) (off : Nat → Int) (idxPoison : Word) (s : State) : Out :=
  let r := s.regs
  let m := r.rm k
  let ls := activeLanes' m
  match s.laneAddrs s.firCtx (r.rg gb) false (fun i => 256 * off4.toNat + off i) ls with
  | .error f => memFault true f s
  | .ok (s', x) => match s'.readVia s.firCtx x with
    | .flt f => memFault true f s
    | .wait s' => .next s'
    | .ok s' bs =>
      let at_ := laneOf ls bs
      finish s' fun r => r.wv d
        (mergeLanes m (ofElems 32 ((List.range 64).map fun i => gotNat (at_ i))) (r.rv d))
        (mergeBits m (wordOfBits fun i => gotPoison (at_ i) || r.rgp gb || idxPoison.getLsbD i) (r.rvp d))
where
  /-- Active lanes, lowest first. -/
  activeLanes' (m : Word) : List Nat := (List.range 64).filter m.getLsbD

/-- A vector store: lanes in ascending order. -/
def vStore (v gb : R5) (k : R3) (off4 : BitVec 4) (off : Nat → Int) (i : Instr) (s : State) : Out :=
  storeAllowed (s.regs.rg gb) i s fun s =>
    let r := s.regs
    let ls := (List.range 64).filter (r.rm k).getLsbD
    match s.laneAddrs s.firCtx (r.rg gb) true (fun i => 256 * off4.toNat + off i) ls with
    | .error f => memFault false f s
    | .ok (s', x) =>
      match s'.issueStore s.firCtx (ptrH (r.rg gb)) x (ls.flatMap fun i => putBytes 4 (lane (r.rv v) i) ((r.rvp v).getLsbD i)) with
      | .flt f => memFault false f s
      | .wait s' => .next s'
      | .ok s' => retire s'

/-- Off(i) of R196: consecutive lanes. -/
def offUnit (i : Nat) : Int := 4 * i
def execVld (d gb : R5) (k : R3) (off4 : BitVec 4) (s : State) : Out := vLoad d gb k off4 offUnit 0 s
def execVst (v gb : R5) (k : R3) (off4 : BitVec 4) (s : State) : Out :=
  vStore v gb k off4 offUnit (.vst v gb k off4) s
def execVlds (d gb gs : R5) (k : R3) (off4 : BitVec 4) (s : State) : Out :=
  vLoad d gb k off4 (fun i => i * (s.regs.rg gs).toInt) (allLanes (s.regs.rgp gs)) s
def execVldx (d gb vs : R5) (k : R3) (off4 : BitVec 4) (s : State) : Out :=
  vLoad d gb k off4 (fun i => lane (s.regs.rv vs) i) (s.regs.rvp vs) s
def execVstx (v gb vs : R5) (k : R3) (off4 : BitVec 4) (s : State) : Out :=
  vStore v gb k off4 (fun i => lane (s.regs.rv vs) i) (.vstx v gb vs k off4) s
/-- VLDB: one load, written to every active lane; none when no lane is active. -/
def execVldb (d gb : R5) (k : R3) (off4 : BitVec 4) (s : State) : Out :=
  let r := s.regs
  let m := r.rm k
  match s.laneAddrs s.firCtx (r.rg gb) false (fun _ => 256 * off4.toNat) (if m = 0 then [] else [0]) with
  | .error f => memFault true f s
  | .ok (s', x) => match s'.readVia s.firCtx x with
    | .flt f => memFault true f s
    | .wait s' => .next s'
    | .ok s' bs => finish s' fun r => r.wv d (mergeLanes m (ofElems 32 ((List.range 64).map fun _ => gotNat bs)) (r.rv d))
        (mergeBits m (allLanes (gotPoison bs || r.rgp gb)) (r.rvp d))

/-! ### Major 0x29 (R200) -/

def execZset (d : R4) (a : R5) (s : State) : Out := finish s fun r => r.wz d (r.rg a)
def execZclr (d : R4) (s : State) : Out := finish s fun r => r.wz d 0
def execZld (d : R4) (a : R5) (s : State) : Out :=
  let p := s.regs.rg a
  match s.loadAddr s.firCtx p 8 with
  | .error f => memFault true f s
  | .ok (s', x) =>
    if (x.map Seg.addr).headD 0 % 8 ≠ 0 then takeFault 0x0D p s'
    else match s'.readVia s.firCtx x with
      | .flt f => memFault true f s
      | .wait s' => .next s'
      | .ok s' bs => finish s' fun r => r.wz d (BitVec.ofNat 64 (gotNat bs))
def execZst (a : R5) (b : R4) (s : State) : Out :=
  let p := s.regs.rg a
  storeAllowed p (.zst a b) s fun s =>
    match s.storeAddr s.firCtx p 8 with
    | .error f => memFault false f s
    | .ok (s', x) =>
      if (x.map Seg.addr).headD 0 % 8 ≠ 0 then takeFault 0x0D p s'
      else match s'.writeVia s.firCtx x (putBytes 8 (s.regs.rz b).toNat false) with
        | .flt f => memFault false f s
        | .wait s' => .next s'
        | .ok s' => retire s'
def execZand (d a b : R4) (s : State) : Out := finish s fun r => r.wz d (r.rz a &&& r.rz b)
def execZor (d a b : R4) (s : State) : Out := finish s fun r => r.wz d (r.rz a ||| r.rz b)
def execZtest (d : R5) (a : R4) (b : R5) (s : State) : Out :=
  finish s fun r => r.wg d (bit64 ((r.rz a).getLsbD ((r.rg b).toNat % 64))) (r.rgp b)
def execZfromm (d : R4) (a : R3) (s : State) : Out := finish s fun r => r.wz d (r.rm a)

end Sys2Proof.Machine
end

