-- ==== Sys2Proof/Machine/Dispatch.lean ====
section
/-! DEFINITION. One arm per instruction, command, node and event: a direct call of its meaning. -/

namespace Sys2Proof.Machine

/-- What an instruction of the opcode table does. -/
def exec (i : Instr) (s : State) : Host.Outcome State Fault Refusal :=
  match i with
  | .launchPacketWrite fn off size data => Sys2Proof.Machine.execLaunchPacketWrite fn off size data s
  | .launchDistribute t => Sys2Proof.Machine.execLaunchDistribute t s
  | .fieldStart f => Sys2Proof.Machine.execFieldStart f s
  | .gangDeadline t placed n => Sys2Proof.Machine.execGangDeadline t placed n s
  | .launchComplete f => Sys2Proof.Machine.execLaunchComplete f s
  | .fireActor b => Sys2Proof.Machine.execFireActor b s
  | .firingResume b => Sys2Proof.Machine.execFiringResume b s
  | .nop => Sys2Proof.Machine.execNop s
  | .fend => Sys2Proof.Machine.execFend s
  | .trap a => Sys2Proof.Machine.execTrap a s
  | .brk => Sys2Proof.Machine.execBrk s
  | .mfc d c => Sys2Proof.Machine.execMfc d c s
  | .mtc c d => Sys2Proof.Machine.execMtc c d s
  | .jr a => Sys2Proof.Machine.execJr a s
  | .jalr d a => Sys2Proof.Machine.execJalr d a s
  | .fence sc => Sys2Proof.Machine.execFence sc s
  | .idmb => Sys2Proof.Machine.execIdmb s
  | .idme => Sys2Proof.Machine.execIdme s
  | .clmask a => Sys2Proof.Machine.execClmask a s
  | .clunmask a => Sys2Proof.Machine.execClunmask a s
  | .add d a b => Sys2Proof.Machine.execAdd d a b s
  | .sub d a b => Sys2Proof.Machine.execSub d a b s
  | .and d a b => Sys2Proof.Machine.execAnd d a b s
  | .or d a b => Sys2Proof.Machine.execOr d a b s
  | .xor d a b => Sys2Proof.Machine.execXor d a b s
  | .andn d a b => Sys2Proof.Machine.execAndn d a b s
  | .sll d a b => Sys2Proof.Machine.execSll d a b s
  | .srl d a b => Sys2Proof.Machine.execSrl d a b s
  | .sra d a b => Sys2Proof.Machine.execSra d a b s
  | .slli d a sh => Sys2Proof.Machine.execSlli d a sh s
  | .srli d a sh => Sys2Proof.Machine.execSrli d a sh s
  | .srai d a sh => Sys2Proof.Machine.execSrai d a sh s
  | .slt d a b => Sys2Proof.Machine.execSlt d a b s
  | .sltu d a b => Sys2Proof.Machine.execSltu d a b s
  | .min d a b => Sys2Proof.Machine.execMin d a b s
  | .max d a b => Sys2Proof.Machine.execMax d a b s
  | .minu d a b => Sys2Proof.Machine.execMinu d a b s
  | .maxu d a b => Sys2Proof.Machine.execMaxu d a b s
  | .mul d a b => Sys2Proof.Machine.execMul d a b s
  | .mulh d a b => Sys2Proof.Machine.execMulh d a b s
  | .mulhu d a b => Sys2Proof.Machine.execMulhu d a b s
  | .div d a b => Sys2Proof.Machine.execDiv d a b s
  | .divu d a b => Sys2Proof.Machine.execDivu d a b s
  | .rem d a b => Sys2Proof.Machine.execRem d a b s
  | .remu d a b => Sys2Proof.Machine.execRemu d a b s
  | .clz d a => Sys2Proof.Machine.execClz d a s
  | .ctz d a => Sys2Proof.Machine.execCtz d a s
  | .popc d a => Sys2Proof.Machine.execPopc d a s
  | .sextb d a => Sys2Proof.Machine.execSextb d a s
  | .sexth d a => Sys2Proof.Machine.execSexth d a s
  | .sextw d a => Sys2Proof.Machine.execSextw d a s
  | .addw d a b => Sys2Proof.Machine.execAddw d a b s
  | .subw d a b => Sys2Proof.Machine.execSubw d a b s
  | .addh d a b => Sys2Proof.Machine.execAddh d a b s
  | .addi d a imm => Sys2Proof.Machine.execAddi d a imm s
  | .andi d a imm => Sys2Proof.Machine.execAndi d a imm s
  | .ori d a imm => Sys2Proof.Machine.execOri d a imm s
  | .xori d a imm => Sys2Proof.Machine.execXori d a imm s
  | .slti d a imm => Sys2Proof.Machine.execSlti d a imm s
  | .sltiu d a imm => Sys2Proof.Machine.execSltiu d a imm s
  | .lui d imm => Sys2Proof.Machine.execLui d imm s
  | .lhi d a imm => Sys2Proof.Machine.execLhi d a imm s
  | .addih d a imm => Sys2Proof.Machine.execAddih d a imm s
  | .ld w t a off => Sys2Proof.Machine.execLd w t a off s
  | .ldx w t a off => Sys2Proof.Machine.execLdx w t a off s
  | .st w t a off => Sys2Proof.Machine.execSt w t a off s
  | .beq a b off => Sys2Proof.Machine.execBeq a b off s
  | .bne a b off => Sys2Proof.Machine.execBne a b off s
  | .blt a b off => Sys2Proof.Machine.execBlt a b off s
  | .bge a b off => Sys2Proof.Machine.execBge a b off s
  | .bltu a b off => Sys2Proof.Machine.execBltu a b off s
  | .bgeu a b off => Sys2Proof.Machine.execBgeu a b off s
  | .j off => Sys2Proof.Machine.execJ off s
  | .jal off => Sys2Proof.Machine.execJal off s
  | .loop a off => Sys2Proof.Machine.execLoop a off s
  | .lda sc t a off => Sys2Proof.Machine.execLda sc t a off s
  | .stl sc t a off => Sys2Proof.Machine.execStl sc t a off s
  | .semadd a b => Sys2Proof.Machine.execSemadd a b s
  | .semsub d a b => Sys2Proof.Machine.execSemsub d a b s
  | .semwait a b => Sys2Proof.Machine.execSemwait a b s
  | .semget d a => Sys2Proof.Machine.execSemget d a s
  | .rvinit a b => Sys2Proof.Machine.execRvinit a b s
  | .rvarr d a => Sys2Proof.Machine.execRvarr d a s
  | .rvwait a b => Sys2Proof.Machine.execRvwait a b s
  | .acq sc a => Sys2Proof.Machine.execAcq sc a s
  | .rel sc a => Sys2Proof.Machine.execRel sc a s
  | .syncadd sc d a b => Sys2Proof.Machine.execSyncadd sc d a b s
  | .synccas sc d a b => Sys2Proof.Machine.execSynccas sc d a b s
  | .waitv sc isAcq ge d a b => Sys2Proof.Machine.execWaitv sc isAcq ge d a b s
  | .msg c a => Sys2Proof.Machine.execMsg c a s
  | .upd a b => Sys2Proof.Machine.execUpd a b s
  | .updv d a b => Sys2Proof.Machine.execUpdv d a b s
  | .updfl => Sys2Proof.Machine.execUpdfl s
  | .vadd t d a b k => Sys2Proof.Machine.execVadd t d a b k s
  | .vsub t d a b k => Sys2Proof.Machine.execVsub t d a b k s
  | .vmul t d a b k => Sys2Proof.Machine.execVmul t d a b k s
  | .vmulh t d a b k => Sys2Proof.Machine.execVmulh t d a b k s
  | .vand t d a b k => Sys2Proof.Machine.execVand t d a b k s
  | .vor t d a b k => Sys2Proof.Machine.execVor t d a b k s
  | .vxor t d a b k => Sys2Proof.Machine.execVxor t d a b k s
  | .vsll t d a b k => Sys2Proof.Machine.execVsll t d a b k s
  | .vsrl t d a b k => Sys2Proof.Machine.execVsrl t d a b k s
  | .vsra t d a b k => Sys2Proof.Machine.execVsra t d a b k s
  | .vmin t d a b k => Sys2Proof.Machine.execVmin t d a b k s
  | .vmax t d a b k => Sys2Proof.Machine.execVmax t d a b k s
  | .vminu t d a b k => Sys2Proof.Machine.execVminu t d a b k s
  | .vmaxu t d a b k => Sys2Proof.Machine.execVmaxu t d a b k s
  | .vabs t d a k => Sys2Proof.Machine.execVabs t d a k s
  | .vadds t d a b k => Sys2Proof.Machine.execVadds t d a b k s
  | .vfadd t d a b k => Sys2Proof.Machine.execVfadd t d a b k s
  | .vfsub t d a b k => Sys2Proof.Machine.execVfsub t d a b k s
  | .vfmul t d a b k => Sys2Proof.Machine.execVfmul t d a b k s
  | .vfma t d a b k => Sys2Proof.Machine.execVfma t d a b k s
  | .vfnma t d a b k => Sys2Proof.Machine.execVfnma t d a b k s
  | .vfmin t d a b k => Sys2Proof.Machine.execVfmin t d a b k s
  | .vfmax t d a b k => Sys2Proof.Machine.execVfmax t d a b k s
  | .vfabs t d a k => Sys2Proof.Machine.execVfabs t d a k s
  | .vfneg t d a k => Sys2Proof.Machine.execVfneg t d a k s
  | .vfrcp t d a k => Sys2Proof.Machine.execVfrcp t d a k s
  | .vfrsq t d a k => Sys2Proof.Machine.execVfrsq t d a k s
  | .vfexp2 t d a k => Sys2Proof.Machine.execVfexp2 t d a k s
  | .vflog2 t d a k => Sys2Proof.Machine.execVflog2 t d a k s
  | .vceq t md a b k => Sys2Proof.Machine.execVceq t md a b k s
  | .vcne t md a b k => Sys2Proof.Machine.execVcne t md a b k s
  | .vclt t md a b k => Sys2Proof.Machine.execVclt t md a b k s
  | .vcle t md a b k => Sys2Proof.Machine.execVcle t md a b k s
  | .vcltu t md a b k => Sys2Proof.Machine.execVcltu t md a b k s
  | .vcfeq t md a b k => Sys2Proof.Machine.execVcfeq t md a b k s
  | .vcflt t md a b k => Sys2Proof.Machine.execVcflt t md a b k s
  | .vcfle t md a b k => Sys2Proof.Machine.execVcfle t md a b k s
  | .vcfun t md a b k => Sys2Proof.Machine.execVcfun t md a b k s
  | .mand md ma mb k => Sys2Proof.Machine.execMand md ma mb k s
  | .mor md ma mb k => Sys2Proof.Machine.execMor md ma mb k s
  | .mxor md ma mb k => Sys2Proof.Machine.execMxor md ma mb k s
  | .mnot md ma k => Sys2Proof.Machine.execMnot md ma k s
  | .mpopc d ma k => Sys2Proof.Machine.execMpopc d ma k s
  | .mfirst d ma k => Sys2Proof.Machine.execMfirst d ma k s
  | .vperm d a b k => Sys2Proof.Machine.execVperm d a b k s
  | .vslideup d a b k => Sys2Proof.Machine.execVslideup d a b k s
  | .vslidedn d a b k => Sys2Proof.Machine.execVslidedn d a b k s
  | .vbcast d a b k => Sys2Proof.Machine.execVbcast d a b k s
  | .vcompress d a k => Sys2Proof.Machine.execVcompress d a k s
  | .vexpand d a k => Sys2Proof.Machine.execVexpand d a k s
  | .vsel d a b k => Sys2Proof.Machine.execVsel d a b k s
  | .vcvtF32I32 d a k => Sys2Proof.Machine.execVcvtF32I32 d a k s
  | .vcvtI32F32 d a k => Sys2Proof.Machine.execVcvtI32F32 d a k s
  | .vcvtBf16F32 d a h k => Sys2Proof.Machine.execVcvtBf16F32 d a h k s
  | .vcvtF32Bf16 d a h k => Sys2Proof.Machine.execVcvtF32Bf16 d a h k s
  | .vcvtF16F32 d a h k => Sys2Proof.Machine.execVcvtF16F32 d a h k s
  | .vcvtF32F16 d a h k => Sys2Proof.Machine.execVcvtF32F16 d a h k s
  | .vcvtI8I32 d a h k => Sys2Proof.Machine.execVcvtI8I32 d a h k s
  | .vcvtI32I8 d a h k => Sys2Proof.Machine.execVcvtI32I8 d a h k s
  | .vcvtE2m1F32 d a h k => Sys2Proof.Machine.execVcvtE2m1F32 d a h k s
  | .vcvtF32E2m1 d a h k => Sys2Proof.Machine.execVcvtF32E2m1 d a h k s
  | .vbxenc t d a b k => Sys2Proof.Machine.execVbxenc t d a b k s
  | .vbxdec t d a b k => Sys2Proof.Machine.execVbxdec t d a b k s
  | .vqnt t d a b k => Sys2Proof.Machine.execVqnt t d a b k s
  | .vrsum t d a k => Sys2Proof.Machine.execVrsum t d a k s
  | .vfrsum t d a k => Sys2Proof.Machine.execVfrsum t d a k s
  | .vrmin t d a k => Sys2Proof.Machine.execVrmin t d a k s
  | .vrmax t d a k => Sys2Proof.Machine.execVrmax t d a k s
  | .vfrmin t d a k => Sys2Proof.Machine.execVfrmin t d a k s
  | .vfrmax t d a k => Sys2Proof.Machine.execVfrmax t d a k s
  | .vdot t d a b k => Sys2Proof.Machine.execVdot t d a b k s
  | .vfdot t d a b k => Sys2Proof.Machine.execVfdot t d a b k s
  | .vargmax t d a k => Sys2Proof.Machine.execVargmax t d a k s
  | .vld d gb k off4 => Sys2Proof.Machine.execVld d gb k off4 s
  | .vst sc gb k off4 => Sys2Proof.Machine.execVst sc gb k off4 s
  | .vlds d gb gs k off4 => Sys2Proof.Machine.execVlds d gb gs k off4 s
  | .vldx d gb vs k off4 => Sys2Proof.Machine.execVldx d gb vs k off4 s
  | .vstx sc gb vs k off4 => Sys2Proof.Machine.execVstx sc gb vs k off4 s
  | .vldb d gb k off4 => Sys2Proof.Machine.execVldb d gb k off4 s
  | .vmovg d a k => Sys2Proof.Machine.execVmovg d a k s
  | .vget d a b k => Sys2Proof.Machine.execVget d a b k s
  | .vput d a b k => Sys2Proof.Machine.execVput d a b k s
  | .viota d a k => Sys2Proof.Machine.execViota d a k s
  | .vmov d a k => Sys2Proof.Machine.execVmov d a k s
  | .t5pk d a h k => Sys2Proof.Machine.execT5pk d a h k s
  | .t5upk d a h k => Sys2Proof.Machine.execT5upk d a h k s
  | .t5cnt d a h k => Sys2Proof.Machine.execT5cnt d a h k s
  | .zset d a => Sys2Proof.Machine.execZset d a s
  | .zclr d => Sys2Proof.Machine.execZclr d s
  | .zld d a => Sys2Proof.Machine.execZld d a s
  | .zst a b => Sys2Proof.Machine.execZst a b s
  | .zand d a b => Sys2Proof.Machine.execZand d a b s
  | .zor d a b => Sys2Proof.Machine.execZor d a b s
  | .ztest d a b => Sys2Proof.Machine.execZtest d a b s
  | .zfromm d a => Sys2Proof.Machine.execZfromm d a s
  | .recv d p k => Sys2Proof.Machine.execRecv d p k s
  | .recvg d p k => Sys2Proof.Machine.execRecvg d p k s
  | .send sc p k => Sys2Proof.Machine.execSend sc p k s
  | .sendg sc p k => Sys2Proof.Machine.execSendg sc p k s
  | .peektag d p k => Sys2Proof.Machine.execPeektag d p k s
  | .sendtag sc p k => Sys2Proof.Machine.execSendtag sc p k s
  | .pcount d p k => Sys2Proof.Machine.execPcount d p k s
  | .kld n a => Sys2Proof.Machine.execKld n a s
  | .kst n a => Sys2Proof.Machine.execKst n a s
  | .kins n a h => Sys2Proof.Machine.execKins n a h s
  | .kclr n => Sys2Proof.Machine.execKclr n s
  | .kissue n p => Sys2Proof.Machine.execKissue n p s
  | .kwait p => Sys2Proof.Machine.execKwait p s
  | .hinv a b => Sys2Proof.Machine.execHinv a b s
  | .imginv a b => Sys2Proof.Machine.execImginv a b s
  | .tlbi a b => Sys2Proof.Machine.execTlbi a b s
  | .ctxsave d a b => Sys2Proof.Machine.execCtxsave d a b s
  | .ctxload d a b => Sys2Proof.Machine.execCtxload d a b s
  | .solvreq a b => Sys2Proof.Machine.execSolvreq a b s
  | .prqEntryGrant t => Sys2Proof.Machine.execPrqEntryGrant t s
  | .doneTokenTake b p => Sys2Proof.Machine.execDoneTokenTake b p s
  | .commandSemaphoreWait b p => Sys2Proof.Machine.execCommandSemaphoreWait b p s
  | .engineTokenPush b p => Sys2Proof.Machine.execEngineTokenPush b p s
  | .engineTokenTake b p => Sys2Proof.Machine.execEngineTokenTake b p s
  | .commandComplete b p => Sys2Proof.Machine.execCommandComplete b p s
  | .lds b p => Sys2Proof.Machine.execLds b p s
  | .sts b p => Sys2Proof.Machine.execSts b p s
  | .ldl b p => Sys2Proof.Machine.execLdl b p s
  | .cpy b => Sys2Proof.Machine.execCpy b s
  | .cpym b => Sys2Proof.Machine.execCpym b s
  | .fill b => Sys2Proof.Machine.execFill b s
  | .sct b p => Sys2Proof.Machine.execSct b p s
  | .sctGleaner b => Sys2Proof.Machine.execSctGleaner b s
  | .splrd b p => Sys2Proof.Machine.execSplrd b p s
  | .nopc b p => Sys2Proof.Machine.execNopc b p s
  | .spillRingRefill f idx c => Sys2Proof.Machine.execSpillRingRefill f idx c s
  | .registerWindowLand b => Sys2Proof.Machine.execRegisterWindowLand b s
  | .gth b => Sys2Proof.Machine.execGth b s
  | .gleanerLineReply b t l => Sys2Proof.Machine.execGleanerLineReply b t l s
  | .upds b p => Sys2Proof.Machine.execUpds b p s
  | .apnl b => Sys2Proof.Machine.execApnl b s
  | .arun b => Sys2Proof.Machine.execArun b s
  | .arunRowDispatch b => Sys2Proof.Machine.execArunRowDispatch b s
  | .adrn b => Sys2Proof.Machine.execAdrn b s
  | .asort b => Sys2Proof.Machine.execAsort b s
  | .acfg b => Sys2Proof.Machine.execAcfg b s
  | .coll b => Sys2Proof.Machine.execColl b s
  | .collectiveMatch n => Sys2Proof.Machine.execCollectiveMatch n s
  | .collectiveComplete n => Sys2Proof.Machine.execCollectiveComplete n s
  | .nodeSection f t => Sys2Proof.Machine.execNodeSection f t s
  | .sectionArm f t => Sys2Proof.Machine.execSectionArm f t s
  | .sectionEnd f idx => Sys2Proof.Machine.execSectionEnd f idx s
  | .nodeSeq f t => Sys2Proof.Machine.execNodeSeq f t s
  | .nodePipe f t => Sys2Proof.Machine.execNodePipe f t s
  | .nodeStream f t => Sys2Proof.Machine.execNodeStream f t s
  | .childDone f t => Sys2Proof.Machine.execChildDone f t s
  | .nodeCond f t => Sys2Proof.Machine.execNodeCond f t s
  | .nodeWhile f t => Sys2Proof.Machine.execNodeWhile f t s
  | .nodeSwitch f t => Sys2Proof.Machine.execNodeSwitch f t s
  | .nodeWaitf f t => Sys2Proof.Machine.execNodeWaitf f t s
  | .waitfSatisfied f t => Sys2Proof.Machine.execWaitfSatisfied f t s
  | .nodeRate f t => Sys2Proof.Machine.execNodeRate f t s
  | .nodeEnd f t => Sys2Proof.Machine.execNodeEnd f t s
  | .sequencerFault f => Sys2Proof.Machine.execSequencerFault f s
  | .messageDeliver n => Sys2Proof.Machine.execMessageDeliver n s
  | .pairArrive n => Sys2Proof.Machine.execPairArrive n s
  | .batchTimeout slice => Sys2Proof.Machine.execBatchTimeout slice s
  | .batchInsert slice => Sys2Proof.Machine.execBatchInsert slice s
  | .sweep slice word => Sys2Proof.Machine.execSweep slice word s
  | .multicastRequest b => Sys2Proof.Machine.execMulticastRequest b s
  | .solve t => Sys2Proof.Machine.execSolve t s
  | .ratioApply idx => Sys2Proof.Machine.execRatioApply idx s
  | .railSettled idx => Sys2Proof.Machine.execRailSettled idx s
  | .sampleBoundary => Sys2Proof.Machine.execSampleBoundary s
  | .powerIntervalEnd => Sys2Proof.Machine.execPowerIntervalEnd s
  | .partitionCreate t v => Sys2Proof.Machine.execPartitionCreate t v s
  | .partitionRemove t => Sys2Proof.Machine.execPartitionRemove t s
  | .slicecfgWrite t v => Sys2Proof.Machine.execSlicecfgWrite t v s
  | .precmdStop t => Sys2Proof.Machine.execPrecmdStop t s
  | .precmdStopNow t => Sys2Proof.Machine.execPrecmdStopNow t s
  | .precmdResume t => Sys2Proof.Machine.execPrecmdResume t s
  | .sliceExpire t => Sys2Proof.Machine.execSliceExpire t s
  | .graceExpire t => Sys2Proof.Machine.execGraceExpire t s
  | .drainExpire t => Sys2Proof.Machine.execDrainExpire t s
  | .stopWaveHalt t => Sys2Proof.Machine.execStopWaveHalt t s
  | .stopComplete t => Sys2Proof.Machine.execStopComplete t s
  | .restoreComplete t => Sys2Proof.Machine.execRestoreComplete t s
  | .prqtake => Sys2Proof.Machine.execPrqtake s
  | .prqdoneFill w => Sys2Proof.Machine.execPrqdoneFill w s
  | .prqdoneFail w => Sys2Proof.Machine.execPrqdoneFail w s
  | .mailboxInvalidate => Sys2Proof.Machine.execMailboxInvalidate s
  | .mailboxUnknown => Sys2Proof.Machine.execMailboxUnknown s
  | .hostBar2Write fn off data ro => Sys2Proof.Machine.execHostBar2Write fn off data ro s
  | .hostBar2Read fn off len => Sys2Proof.Machine.execHostBar2Read fn off len s
  | .hostWriteForward fn => Sys2Proof.Machine.execHostWriteForward fn s
  | .registerWrite writer fn off size v => Sys2Proof.Machine.execRegisterWrite writer fn off size v s
  | .reset => Sys2Proof.Machine.execReset s
  | .moduleNumberAssign n => Sys2Proof.Machine.execModuleNumberAssign n s
  | .linkCrcError port n => Sys2Proof.Machine.execLinkCrcError port n s
  | .linkAckTimeout port n => Sys2Proof.Machine.execLinkAckTimeout port n s
  | .linkRetrain port => Sys2Proof.Machine.execLinkRetrain port s
  | .linkDown port next => Sys2Proof.Machine.execLinkDown port next s
  | .linkRouteTimeout n => Sys2Proof.Machine.execLinkRouteTimeout n s
  | .deviceTimeAlign inBound ahead => Sys2Proof.Machine.execDeviceTimeAlign inBound ahead s
  | .storageError k corrected addr => Sys2Proof.Machine.execStorageError k corrected addr s
  | .illegalInstruction w => Sys2Proof.Machine.execIllegalInstruction w s
  | .notANodeVisit f t => Sys2Proof.Machine.execNotANodeVisit f t s
  | .routeReturn m port => Sys2Proof.Machine.execRouteReturn m port s
  | .channelTokenArrive f idx c => Sys2Proof.Machine.execChannelTokenArrive f idx c s
  | .coincidentEdge f idx c => Sys2Proof.Machine.execCoincidentEdge f idx c s
  | .bootReady => Sys2Proof.Machine.execBootReady s
  | .hostPortTrain port rate width => Sys2Proof.Machine.execHostPortTrain port rate width s

end Sys2Proof.Machine
end

