-- ==== Sys2Proof/Machine/Issue.lean ====
section
/-! DEFINITION. What the step uses around `exec`: which turns exist, the cycle an instruction takes (R346), and where a
single instruction word is placed so that the next step runs it. -/

namespace Sys2Proof.Machine

/-- An instruction word of the scalar stream: only a firing issues it. -/
def isScalar (i : Instr) : Bool := (encode i).isSome || match i with
  | .illegalInstruction _ => true
  | _ => false

/-- The instruction is one of those that retire in the bay cycle in which they issue (R346): MFC, FEND, majors 0x01..0x0A
and 0x10..0x17, and RECVG and SENDG, which park in that cycle when their condition is not met. -/
def oneCycle (w : IWord) : Bool :=
  let m := (fMajor w).toNat
  (1 ≤ m && m ≤ 10) || (16 ≤ m && m ≤ 23) || match decode w with
    | .ok (.mfc _ _) => true
    | .ok .fend => true
    | .ok (.recvg _ _ _) => true
    | .ok (.sendg _ _ _) => true
    | _ => false

/-- Whether the firing's next instruction takes one cycle. -/
def State.nextOneCycle (s : State) (f : Firing) : Bool :=
  match (s.load_ f).fetch with
  | .word w => oneCycle w
  | .bad => false

/-- The bay cycles that have passed since a state move the tokens of local LDS commands (R346). -/
def State.localLoads (s : State) (old : State) : State :=
  (s.bays.map Prod.fst).foldl (fun s b => [0x20, 0x21, 0x22, 0x23].foldl (fun s p =>
    if s.localHead b p then localCycles b p (Nat.min 8192 ((s.bay b).cyc - (old.bay b).cyc).toNat) s else s) s) s
/-- Time passes before a step, and with it the local LDS commands go on. -/
def State.advanceTime (s : State) (issue : Option (Nat × Bool)) : State := (s.pass issue).localLoads s

/-- The turn that is due: the head of the agenda; when the agenda is empty, the bay that issued last issues again, for the
unparked slot whose turn it is. -/
def State.turn (s : State) : Turn := s.agenda.headD (.issue s.fir.bay (((s.ready s.fir.bay).head?.map Firing.actor).getD s.fir.actor))

/-- A packet of tenant 0 for a field of one bay. -/
def onePacket : BitVec 512 := BitVec.ofNat 512 (2 ^ 296 + 2 ^ 304)
/-- An image of one actor whose code is one word. -/
def oneImage (w : IWord) : Image where
  lw := 0
  lh := 0
  actors := [{
    cbase := 0, clen := 4, entry := 0, bx := 0, by_ := 0, idx := 0, handler := false, cls := 0, bound := 1, rep := 1, order := 0
    pchan := 0xFFFF }]
  chans := []
  routes := []
  rates := []
  edges := []
  panels := []
  regions := []
  spills := []
  codeOff := 0
  code := [w]
  codePoison := []
/-- A live instance of that image. -/
def oneInst (f : Nat) (w : IWord) : Inst where
  field := f
  id := 1
  task := 0
  node := 0
  plot := 0xE00000
  image := oneImage w
  imgPtr := 0
  tiles := 1
  chans := []
  versioned := false
  overlay := []
  measures := []
  ends := []
  solved := ⟨0, 1⟩
  off := []
  poisonLines := []
  poisonAddr := 0
  poisonSent := false
  sends := []
  drops := 0
  dropAddr := 0
/-- A running field of tenant 0 on bay (0, 0). -/
def oneField (f : Nat) : Field where
  id := f
  tenant := 0
  packet := onePacket
  ox := 0
  oy := 0
  stage := .running
  code := 0
  tasks := []
  nextTask := 0
  yards := []
  rate := 0
  rpn := 0
  nextInst := 2
  fault := none
  faults := 0
  colls := []
  yielded := false
  rung := 0
/-- A firing of that instance at the first word of its code, with the registers a firing has at entry. -/
def oneFiring (f draw : Nat) : Firing where
  bay := 0
  actor := 0
  field := f
  inst := 1
  fidx := 0
  fx := 0
  fy := 0
  regs := entryRegs draw Persist.zero 0 none
  status := .ready
  slot := true
  fresh := true
  region := none
  moved := []
  rows := []
  cycles := 0
  since := 0

/-- A state in which bay (0, 0), alone in a running field of tenant 0, is about to issue the word `w`: the module has the
number 0 if it had none, and the bay's island runs at ratio 64. -/
def State.placeWord (s : State) (w : IWord) : State :=
  let f := s.nextField
  let s : State := { s with
    modnum := if s.modnum = 0x1FF then 0 else s.modnum
    fields := s.fields ++ [oneField f], insts := s.insts ++ [oneInst f w], nextField := f + 1
    agenda := [.issue 0 0] }
  let s := s.setIsland (bayIsland 0) { s.island (bayIsland 0) with k := 64, tgtk := 64 }
  s.setBay 0 { Bay.idle with inst := some (f, 1), firings := [oneFiring f s.draw] }

end Sys2Proof.Machine
end

