-- ==== Sys2Proof/Machine/Peer.lean ====
section
/-! DEFINITION. Accesses that arrive from member modules of the domain (R359): each is served under this module's map and
serialised at its home here, as an access of this module's own parties is. -/

namespace Sys2Proof.Machine

/-- A party of another module: no bay, field or version of this module is its own. -/
def peerCtx (t : Nat) : Ctx := ⟨.unit, t, 0, false, 0, 0, 0, 0, 0, 0⟩
/-- The runs of an arriving access that this module's map holds (R53), or nothing where some byte has no place. -/
def State.peerSegs (s : State) (l : List (Nat × Nat)) : Option (List Seg) :=
  if l.any fun x => (localBad (s.usable s.own) x.1 x.2).isSome then none
  else some (l.map fun x => ⟨s.ga x.1, x.2⟩)
/-- A local address of a sync word or a pair: in HBM4E and aligned (R56, R69, R184). -/
def State.peerWord (s : State) (a n : Nat) : Bool := decide (a + n ≤ s.usable s.own) && decide (a % n = 0) && !isWindow a

/-- Serve one access of tenant `t` from a member module. One that reaches a stopped bay's window, or a register that no slot
holds, is not served now. -/
def State.servePeer (s : State) (m t : Nat) (x : PeerAccess) : State :=
  let c := peerCtx t
  if !s.members.contains m || m = s.own then s else match x with
  | .read l => match s.peerSegs l with
    | none => s
    | some l => if s.frozenAt c l || !s.regSegsOk l then s else (s.readSegs c l).1
  | .write l bs => match s.peerSegs l with
    | none => s
    | some l => if s.frozenAt c l || !s.regSegsOk l then s else s.writeSegs c l bs
  | .pair h op sync va a v q =>
    if op = 0 || op ≥ 15 || !s.peerWord a (opSize op) then s
    else s.serialise ⟨t, farHandle m h, op, sync, va, s.ga a, v, q, 0, 0, 0, .unit⟩
  | .add a v q =>
    if !s.peerWord a 8 then s
    else
      let r := s.readWord c (s.ga a)
      r.1.writeWord c (s.ga a) (r.2.1 + v) (r.2.2 || q)
  | .cas a old new q =>
    if !s.peerWord a 8 then s
    else
      let r := s.readWord c (s.ga a)
      if r.2.1 = old then r.1.writeWord c (s.ga a) new q else r.1
  | .report va set => { s with syncSets := tmod (syncKey t va) 0 (· ||| set) s.syncSets }
  | .acquire va => { s with syncSets := tdel (syncKey t va) s.syncSets }
  | .sweep va => s.sweepSet (syncKey t va) (BitVec.ofNat 320 (2 ^ s.own)) []

end Sys2Proof.Machine
end

