-- ==== Sys2Proof/Machine/Step.lean ====
section
/-! DEFINITION. One step: the turn that is due takes place. -/

namespace Sys2Proof.Machine

/-- The state after the instruction of the issue stage: its firing goes back to its bay. -/
def after : Host.Outcome State Fault Refusal → Host.Outcome State Fault Refusal
  | .next s => .next s.unload
  | .fault f => .fault f
  | .refused r => .refused r

/-- The firing of the issue stage executes the word at its PC: the fetch fault, the instruction it decodes to, or the
illegal-instruction fault (R108, R129). -/
def State.runWord (s : State) : Host.Outcome State Fault Refusal :=
  match s.fetch with
  | .bad => after (takeFault 0x01 s.fir.regs.pc s)
  | .word w => match decode w with
    | .ok i => after (exec i s)
    | .error _ => after (execIllegalInstruction w s)

/-- A bay issues one instruction of an actor's firing; time passes first. A firing that cannot issue leaves only time. -/
def State.issue (s : State) (b a : Nat) : Host.Outcome State Fault Refusal :=
  match s.issuable b a with
  | none => .next (s.advanceTime none)
  | some f =>
    let t := s.advanceTime (some (b, s.nextOneCycle f))
    match t.issuable b a with
    | none => .next t
    | some f => (t.load_ f).runWord

/-- One step of the machine. -/
def step (s : State) : Host.Outcome State Fault Refusal :=
  let t : State := { s with agenda := s.agenda.tail }
  match s.turn with
  | .issue b a => t.issue b a
  | .perform b n => .next ((t.advanceTime none).perform b n)
  | .regRead fn off size => .next ((t.advanceTime none).registerRead fn off size)
  | .peer m u a => .next ((t.advanceTime none).servePeer m u a)
  | .event i => if isScalar i then .fault .badSchedule else exec i (t.advanceTime none)

/-- `s` with one instruction word placed where the next step fetches it. -/
def State.withFetchWord (s : State) (nbits w : Nat) : State := s.placeWord (BitVec.ofNat 32 (w % 2 ^ nbits))

end Sys2Proof.Machine
end

