-- ==== Sys2Proof/Safety.lean ====
section
/-! DEFINITION. What counts as a safe run. A fault that the spec describes is a next state; a run is safe while every step
answers one. -/

namespace Sys2Proof.Machine

/-- Some steps lead from one state to another. -/
inductive Reaches : State → State → Prop
  | here (s : State) : Reaches s s
  | step {s t u : State} (h : Machine.step s = .next t) (r : Reaches t u) : Reaches s u

/-- Every run from `s` can go on: no step stops. -/
def Safe (s : State) : Prop := ∀ t, Reaches s t → ∃ u, step t = .next u

/-- The agenda of a state names, as events, no instruction that only a firing issues. -/
def State.scheduled (s : State) : Prop := ∀ i, Turn.event i ∈ s.agenda → isScalar i = false

end Sys2Proof.Machine
end

