-- ==== Sys2Proof/Certificates/Slice0/Obligations.lean ====
section
/-! DEFINITION. The statements for the provers. First the words they are written with, then the statements, by family. -/

namespace Sys2Proof.Claims

open Sys2Proof.Machine

/-! ### Words of the statements -/

/-- The firing retires after `f` has changed its registers, and nothing else of the machine changes. -/
def retires (s : State) (f : Regs → Regs) : Out := .next (s.mapRegs fun r => (f r).endChecks r.pc)
/-- The firing retires after writing g(d) with a poison bit, and nothing else of the machine changes. -/
def wrote (s : State) (d : R5) (v : Word) (q : Bool) : Out := retires s fun r => r.wg d v q
/-- The instruction retires having written g(d) with a value that meets `P` and the poison bit `q`. -/
def Gives (i : Instr) (s : State) (d : R5) (q : Bool) (P : Word → Prop) : Prop :=
  ∃ v : Word, exec i s = wrote s d v q ∧ P v
/-- The firing takes a fault: a cause and its FADDR. -/
def faults (s : State) (code : Nat) (faddr : Word) : Out := .next (s.faultAt code faddr)
/-- The firing takes a fault whose FADDR is the instruction word. -/
def faultsWord (s : State) (code : Nat) (i : Instr) : Out :=
  faults s code (((encode i).getD 0).setWidth 64)
/-- A conditional branch: taken when `c` holds, to a target in the actor's code. -/
def branches (s : State) (off : BitVec 16) (c : Bool) : Out :=
  let t := s.regs.pc + BitVec.ofInt 64 (4 * off.toInt)
  if !c then retires s id
  else if s.inCode t then .next (s.mapRegs fun r => r.transfer t) else faults s 0x01 t
/-- Every byte of committed memory reads as it did, but those an address predicate names. -/
def memSame (s t : State) (but : Nat → Prop) : Prop := ∀ x, ¬ but x → t.mem.read x = s.mem.read x
/-- Every general register but one holds what it held. -/
def gSame (s t : State) (d : R5) : Prop := ∀ j, j ≠ d → t.regs.rg j = s.regs.rg j ∧ t.regs.rgp j = s.regs.rgp j
/-- Every vector register but one holds what it held. -/
def vSame (s t : State) (d : R5) : Prop := ∀ j, j ≠ d → t.regs.rv j = s.regs.rv j ∧ t.regs.rvp j = s.regs.rvp j
/-- The files of a firing other than g and v hold what they held; `fl` says whether the flags do too. -/
def otherFiles (s t : State) (fl : Bool) : Prop :=
  t.regs.m = s.regs.m ∧ t.regs.z = s.regs.z ∧ t.regs.k = s.regs.k ∧ t.regs.kp = s.regs.kp ∧ t.regs.rmode = s.regs.rmode
    ∧ (fl = true → t.regs.flags = s.regs.flags)
/-- Nothing of the machine but the registers of the firing in the issue stage has changed. -/
def onlyRegs (s t : State) : Prop := t = { s with fir := { s.fir with regs := t.fir.regs } }
/-- No update pair is pending anywhere, no party waits on a word, and the firing's instance holds no version: a store then
writes the bytes it names and nothing else. -/
def quietMem (s : State) : Prop :=
  s.slices = [] ∧ s.pairs = [] ∧ s.waiters = [] ∧ ∀ x, s.inst? s.fir.field s.fir.inst = some x → x.versioned = false
/-- The bytes of an access may be read or written now: nothing on the bay's scoreboard overlaps them, they lie in no frozen
bay's window, and every module they touch is this one or has a route. -/
def opens (t : State) (c : Ctx) (l : List Seg) : Prop :=
  t.sbBlocks c l = false ∧ ∀ x ∈ l, t.noRoute c.who x.addr = false
/-- The same for an access that no scoreboard holds back. -/
def reaches (t : State) (c : Ctx) (l : List Seg) : Prop :=
  t.frozenAt c l = false ∧ ∀ x ∈ l, t.noRoute c.who x.addr = false
/-- The module of a sync word is this one or has a route from the firing in the issue stage, and no store of its actor to the
word is held. -/
def routed (t : State) (a : Nat) : Prop :=
  t.noRoute t.firCtx.who a = false ∧ t.heldBlocks t.firCtx [⟨a, 8⟩] = false
/-- The state once the held stores of the firing's actor are performed and its pairs serialised, as far as they can be. -/
def flushed (t : State) : State := t.flush t.firCtx.who
/-- No pair or store of the firing in the issue stage waits for its home: a release of it does not wait. -/
def sent (t : State) : Prop := (flushed t).pairsHeld t.firCtx.who = false
/-- The firing in the issue stage has no pair on its way, and its bay holds no store. -/
def nothingSent (t : State) : Prop := (∀ p ∈ t.pairs, p.who ≠ t.firCtx.who) ∧ (t.bay t.fir.bay).fwd = []
/-- The forwarding table of the firing's bay has a free entry. -/
def roomy (t : State) : Prop := (t.bay t.fir.bay).fwd.length < 8
/-- The store `i` of the firing is held in its bay's forwarding table and retires: the runs and bytes of the new entry. -/
def held (i : Instr) (s z : State) (l : List Seg) (bs : List (Byte × Bool)) : Prop :=
  ∃ e : HeldStore, exec i s = retires (z.modBay s.fir.bay fun x => { x with fwd := x.fwd ++ [e] }) id
    ∧ e.actor = s.fir.actor ∧ e.fidx = s.fir.fidx ∧ asSegs e.segs = l ∧ e.bytes = bs
/-- The firing takes a fault that an access has found: what the access has cached stays. -/
def memFaults (s : State) (f : Flt) : Out := faults (s.keeping f) f.code f.faddr
/-- The instruction retires having acquired the sync object at `va` and changed registers; while a module of the object's set
has no route, it is parked instead, complete but for the sweeps. -/
def acquired (u : State) (va : Nat) (f : Regs → Regs) : Out :=
  let w := u.firCtx.who
  let n := u.firCtx.tenant
  if u.acquireReady w n va then .next ((u.acquire w n va).mapRegs fun r => (f r).endChecks r.pc)
  else .next (((u.acquireWait w n va).mapRegs f).park (.sweep va) true)
/-- A pointer moved by a signed offset stays within its 52-bit field. -/
def fits (p : Word) (x : Int) : Prop := 0 ≤ ((p.toNat % 2 ^ 52 : Nat) : Int) + x ∧ ((p.toNat % 2 ^ 52 : Nat) : Int) + x < 2 ^ 52
/-- The pointer so moved. -/
def moved (p : Word) (x : Int) : Word := p + BitVec.ofInt 64 x
/-- The signed value of the low `w` bits. -/
def sg (w x : Nat) : Int := (BitVec.ofNat w x).toInt
/-- The lane of element `j` of width `w` is active under mask m(k). -/
def active (s : State) (k : R3) (w j : Nat) : Bool := (s.regs.rm k).getLsbD (j * w / 32)
/-- The instruction retires having written v(d): active elements meet `P`, the others and their poison are as they were,
active lanes take the poison of `q`, and no flag is raised. -/
def VGives (i : Instr) (s : State) (w : Nat) (d : R5) (k : R3) (q : Word) (P : Nat → Nat → Prop) : Prop :=
  ∃ v p, exec i s = retires s (fun r => r.wv d v p) ∧
    (∀ j, j < 2048 / w → if active s k w j then P j (elem w v j) else elem w v j = elem w (s.regs.rv d) j)
    ∧ ∀ n, n < 64 → p.getLsbD n = if (s.regs.rm k).getLsbD n then q.getLsbD n else (s.regs.rvp d).getLsbD n
/-- The same for an instruction whose element `j` comes with flags: the flags of the active elements are raised. -/
def FGives (i : Instr) (s : State) (w : Nat) (d : R5) (k : R3) (q : Word) (g : Nat → Nat × BitVec 5) : Prop :=
  ∃ v p fl, exec i s = retires s (fun r => (r.wv d v p).raise fl) ∧
    (∀ j, j < 2048 / w → elem w v j = if active s k w j then (g j).1 % 2 ^ w else elem w (s.regs.rv d) j)
    ∧ (∀ n, n < 64 → p.getLsbD n = if (s.regs.rm k).getLsbD n then q.getLsbD n else (s.regs.rvp d).getLsbD n)
    ∧ ∀ n, n < 5 → (fl.getLsbD n = true ↔ ∃ j, j < 2048 / w ∧ active s k w j = true ∧ (g j).2.getLsbD n = true)
/-- What registers an instruction that touches no memory may write. -/
structure Writes where
  g : Option R5 := none
  v : Option R5 := none
  m : Option R3 := none
  z : Option R4 := none
  k : Option R3 := none
  fl : Bool := false
/-- The registers written by each instruction that writes registers alone: a general, vector, mask, tile-predicate or
command register, and whether FLAGS may rise. -/
def regWrites : Instr → Option Writes
  | .nop | .beq _ _ _ | .bne _ _ _ | .blt _ _ _ | .bge _ _ _ | .bltu _ _ _ | .bgeu _ _ _ | .j _ | .jr _ => some {}
  | .jal _ => some { g := some 31 }
  | .mfc d _ | .jalr d _ | .add d _ _ | .sub d _ _ | .and d _ _ | .or d _ _ | .xor d _ _ | .andn d _ _ | .sll d _ _
  | .srl d _ _ | .sra d _ _ | .slli d _ _ | .srli d _ _ | .srai d _ _ | .slt d _ _ | .sltu d _ _ | .min d _ _ | .max d _ _
  | .minu d _ _ | .maxu d _ _ | .mul d _ _ | .mulh d _ _ | .mulhu d _ _ | .div d _ _ | .divu d _ _ | .rem d _ _ | .remu d _ _
  | .clz d _ | .ctz d _ | .popc d _ | .sextb d _ | .sexth d _ | .sextw d _ | .addw d _ _ | .subw d _ _ | .addh d _ _
  | .addi d _ _ | .andi d _ _ | .ori d _ _ | .xori d _ _ | .slti d _ _ | .sltiu d _ _ | .lui d _ | .lhi d _ _ | .addih d _ _
  | .semget d _ | .mpopc d _ _ | .mfirst d _ _ | .vget d _ _ _ | .t5cnt d _ _ _ | .ztest d _ _ => some { g := some d }
  | .vadd _ d _ _ _ | .vsub _ d _ _ _ | .vmul _ d _ _ _ | .vmulh _ d _ _ _ | .vand _ d _ _ _ | .vor _ d _ _ _
  | .vxor _ d _ _ _ | .vsll _ d _ _ _ | .vsrl _ d _ _ _ | .vsra _ d _ _ _ | .vmin _ d _ _ _ | .vmax _ d _ _ _
  | .vminu _ d _ _ _ | .vmaxu _ d _ _ _ | .vabs _ d _ _ | .vadds _ d _ _ _ | .vperm d _ _ _ | .vslideup d _ _ _
  | .vslidedn d _ _ _ | .vbcast d _ _ _ | .vcompress d _ _ | .vexpand d _ _ | .vsel d _ _ _ | .vmovg d _ _ | .vput d _ _ _
  | .viota d _ _ | .vmov d _ _ | .t5pk d _ _ _ | .t5upk d _ _ _ | .vcvtI8I32 d _ _ _ | .vcvtI32I8 d _ _ _ | .vrsum _ d _ _
  | .vrmin _ d _ _ | .vrmax _ d _ _ | .vdot _ d _ _ _ | .vargmax _ d _ _ => some { v := some d }
  | .vfadd _ d _ _ _ | .vfsub _ d _ _ _ | .vfmul _ d _ _ _ | .vfma _ d _ _ _ | .vfnma _ d _ _ _ | .vfmin _ d _ _ _
  | .vfmax _ d _ _ _ | .vfabs _ d _ _ | .vfneg _ d _ _ | .vfrcp _ d _ _ | .vfrsq _ d _ _ | .vfexp2 _ d _ _
  | .vflog2 _ d _ _ | .vcvtF32I32 d _ _ | .vcvtI32F32 d _ _ | .vcvtBf16F32 d _ _ _ | .vcvtF32Bf16 d _ _ _
  | .vcvtF16F32 d _ _ _ | .vcvtF32F16 d _ _ _ | .vcvtE2m1F32 d _ _ _ | .vcvtF32E2m1 d _ _ _ | .vbxenc _ d _ _ _
  | .vbxdec _ d _ _ _ | .vqnt _ d _ _ _ | .vfrsum _ d _ _ | .vfrmin _ d _ _ | .vfrmax _ d _ _ | .vfdot _ d _ _ _ =>
    some { v := some d, fl := true }
  | .vceq _ d _ _ _ | .vcne _ d _ _ _ | .vclt _ d _ _ _ | .vcle _ d _ _ _ | .vcltu _ d _ _ _ | .mand d _ _ _
  | .mor d _ _ _ | .mxor d _ _ _ | .mnot d _ _ => some { m := some d }
  | .vcfeq _ d _ _ _ | .vcflt _ d _ _ _ | .vcfle _ d _ _ _ | .vcfun _ d _ _ _ => some { m := some d, fl := true }
  | .zset d _ | .zclr d | .zand d _ _ | .zor d _ _ | .zfromm d _ => some { z := some d }
  | .kins n _ _ | .kclr n => some { k := some n }
  | _ => none
/-- The general register, vector register or tile predicate that a load writes. -/
def loadWrites : Instr → Option Writes
  | .ld _ d _ _ | .ldx _ d _ _ => some { g := some d }
  | .vld d _ _ _ | .vlds d _ _ _ _ | .vldx d _ _ _ _ | .vldb d _ _ _ => some { v := some d }
  | .zld d _ => some { z := some d }
  | .kld n _ => some { k := some n }
  | _ => none
/-- Every register but those named holds what it held; FLAGS may change only where they are named, and RMODE does not. -/
def keeps (r t : Regs) (w : Writes) : Prop :=
  (∀ j, w.g ≠ some j → t.rg j = r.rg j ∧ t.rgp j = r.rgp j) ∧ (∀ j, w.v ≠ some j → t.rv j = r.rv j ∧ t.rvp j = r.rvp j)
    ∧ (∀ j, w.m ≠ some j → t.rm j = r.rm j) ∧ (∀ j, w.z ≠ some j → t.rz j = r.rz j)
    ∧ (∀ j, w.k ≠ some j → t.rk j = r.rk j ∧ t.rkp j = r.rkp j) ∧ t.rmode = r.rmode ∧ (w.fl = false → t.flags = r.flags)
/-- The bytes a store of the scalar stream names, with the state its address formation leaves: the same functions the
meanings use, applied to the state before the instruction. -/
def storesTo : Instr → State → Option (State × List Seg)
  | .st w _ a off, s => match movePtr (s.regs.rg a) off.toInt with
    | .ok q => (s.storeAddr s.firCtx q (widthBytes w)).toOption
    | .error _ => none
  | .vst _ gb k off4, s =>
    (s.laneAddrs s.firCtx (s.regs.rg gb) true (fun i => 256 * off4.toNat + offUnit i) ((List.range 64).filter (s.regs.rm k).getLsbD)).toOption
  | .vstx _ gb vs k off4, s => (s.laneAddrs s.firCtx (s.regs.rg gb) true (fun i => 256 * off4.toNat + (lane (s.regs.rv vs) i : Int))
      ((List.range 64).filter (s.regs.rm k).getLsbD)).toOption
  | .zst a _, s => (s.storeAddr s.firCtx (s.regs.rg a) 8).toOption
  | .kst _ a, s => (s.storeAddr s.firCtx (s.regs.rg a) 16).toOption
  | _, _ => none
/-- The bytes such a store brings, in the order of `storesTo`. -/
def storeBytes : Instr → State → List (Byte × Bool)
  | .st w t _ _, s => putBytes (widthBytes w) (s.regs.rg t).toNat (s.regs.rgp t)
  | .vst v _ k _, s | .vstx v _ _ k _, s => ((List.range 64).filter (s.regs.rm k).getLsbD).flatMap fun i =>
      putBytes 4 (lane (s.regs.rv v) i) ((s.regs.rvp v).getLsbD i)
  | .zst _ b, s => putBytes 8 (s.regs.rz b).toNat false
  | .kst n _, s => putBytes 16 (s.regs.rk n).toNat (s.regs.rkp n)
  | _, _ => []
/-- The instruction is one of those stores. -/
def isStore : Instr → Bool
  | .st _ _ _ _ | .vst _ _ _ _ | .vstx _ _ _ _ _ | .zst _ _ | .kst _ _ => true
  | _ => false
/-- The command at the head of a port of a bay executes and has an operation code. -/
def running (s : State) (b p opc : Nat) (c : Cmd) : Prop := s.head b p = some c ∧ c.phase = .run ∧ cOpc c.word = opc
/-- The head command of a port has done its accesses. -/
def ends (s : State) (b p : Nat) : State := s.modHead b p fun c => { c with phase := .finish }
/-- The head command of a port moves on by one. -/
def steps (s : State) (b p : Nat) : State := s.modHead b p fun c => { c with pos := c.pos + 1 }
/-- A read of element `n` of a gather gives `l` and leaves `u`: zero bytes for a null index, else the element at its stride, with
what the merge buffer holds of index and element; a KV page record is good. -/
def Gathers (s u : State) (b : Nat) (c : Cmd) (n : Nat) (l : List (Byte × Bool)) : Prop :=
  ∃ q t w, offsetAdd (cPtr c.word) ((gthIsz c * n : Nat) : Int) = some q ∧ s.load (s.cmdCtx b 0x2B) q (gthIsz c) = .ok t w ∧
    let i := gthIndex c (gotNat (fromBuffer c (indexKey n) w))
    ((i = none ∧ u = t ∧ l = List.replicate (gthEsz c) (0, false))
      ∨ ∃ v p m, i = some v ∧ offsetAdd (ePtr c.ext) ((v * gthStride c : Nat) : Int) = some p
        ∧ t.load (t.cmdCtx b 0x2B) p (gthEsz c) = .ok u m ∧ l = fromBuffer c (elemKey c n) m ∧ (gthKv c = true → kvBad l = false))
/-- A read of element `n` of a gather from byte `lo` on puts its index and what the merge buffer has room for, at least `k`
bytes of it, into the buffer, and leaves `u`; a KV page record is good. -/
def Fills (s u : State) (b : Nat) (c : Cmd) (n lo k : Nat) : Prop :=
  ∃ q t w, offsetAdd (cPtr c.word) ((gthIsz c * n : Nat) : Int) = some q ∧ s.load (s.cmdCtx b 0x2B) q (gthIsz c) = .ok t w ∧
    let w' := fromBuffer c (indexKey n) w
    let i := gthIndex c (gotNat w')
    let holds (o : State) (m : Table (Byte × Bool)) : State :=
      o.modHead b 0x2B fun z => { z with lines := bufferPut (indexKey n) w' m }
    ((i = none ∧ u = holds t (bufferPut (elemKey c n) (List.replicate (gthEsz c) (0, false)) c.lines))
      ∨ ∃ v p t' segs o got, i = some v ∧ offsetAdd (ePtr c.ext) ((v * gthStride c : Nat) : Int) = some p
        ∧ t.loadAddr (t.cmdCtx b 0x2B) p (gthEsz c) = .ok (t', segs) ∧
        let y := t'.yieldLines b
        let at_ := segBytes segs
        let ls := (((at_.drop lo).map lineOf).dedup).take (y.gthShare b)
        let hi := lo + ((at_.drop lo).takeWhile fun a => ls.contains (lineOf a)).length
        let kv := gthKv c && decide (lo = 0)
        let miss := (List.range (hi - lo)).map (lo + ·) |>.filter fun j => (tget (elemKey c n j) c.lines).isNone
        let m := fillLines c n lo hi at_ (miss.zip got)
        lo + (if kv then max k 1024 else k) ≤ hi
        ∧ y.readVia (y.cmdCtx b 0x2B) (addrRuns (miss.map fun j => at_.getD j 0)) = .ok o got
        ∧ (kv = true → kvBad ((List.range 1024).map fun j => tgetD (elemKey c n j) (0, false) (bufferPut (indexKey n) w' m)) = false)
        ∧ u = holds o m)
/-- The contributions of a collective's participants, read by rank, and the state the reads leave. -/
def collGets (s : State) : List (Nat × List Seg) → State × List (List (Byte × Bool))
  | [] => (s, [])
  | (b, l) :: r =>
    let g := s.collRead b l
    let z := collGets g.1 r
    (z.1, g.2 :: z.2)
/-- The results of a collective's participants, written by rank; `res` gives that of a rank. -/
def collPuts (res : State → Nat → List (Byte × Bool)) (s : State) : Nat → List (Nat × List Seg) → State
  | _, [] => s
  | k, (b, l) :: r => collPuts res (s.collWrite b l (((segBytes l).zip (res s k)).map Prod.snd)) (k + 1) r
/-- A task walks and visits the node of its first frame, whose record `r` is known or has just been read, which left `u`. -/
def Reads (s u : State) (f t : Nat) (fd : Field) (x : Task) (fr : Frame) (rest : List Frame) (r : Nat) : Prop :=
  s.walking f t = some (fd, x) ∧ x.frames = fr :: rest ∧ (fr.ptr = 0 → fr.body = false)
    ∧ ((∃ w : BitVec 256, x.st = .visit (some w) ∧ r = w.toNat ∧ u = s)
      ∨ (x.st = .visit none ∧ ∃ l, s.readNode (s.walkCtx fd t) fr.ptr = .ok u l ∧ r = gotNat l))
/-- The record is of a type, well formed, and stands where a node of its type may stand. -/
def Visits (s u : State) (f t typ : Nat) (fd : Field) (x : Task) (fr : Frame) (rest : List Frame) (r : Nat) : Prop :=
  Reads s u f t fd x fr rest r ∧ nodeType r = typ ∧ recordBad fr.ptr r = false
    ∧ (if typ = 10 then x.top = true else x.top = true → (linkOf fr.ptr r 1).isSome = true)
/-- The task holds the record and the NEXT link of the node it visits. -/
def visited (u : State) (f t : Nat) (x : Task) (fr : Frame) (rest : List Frame) (r : Nat) : State :=
  u.modTask f t fun _ => { x with frames := { fr with
    nxt := if x.parent.isSome && rest.isEmpty then none else linkOf fr.ptr r 1, record := BitVec.ofNat 256 r } :: rest }
/-- An event is the visit of a node of a type code, END apart. -/
def nodeOf (f t typ : Nat) (i : Instr) : Prop :=
  typ = 1 ∧ i = .nodeSection f t ∨ typ = 2 ∧ i = .nodeSeq f t ∨ typ = 3 ∧ i = .nodePipe f t ∨ typ = 4 ∧ i = .nodeStream f t
    ∨ typ = 5 ∧ i = .nodeCond f t ∨ typ = 6 ∧ i = .nodeWhile f t ∨ typ = 7 ∧ i = .nodeSwitch f t ∨ typ = 8 ∧ i = .nodeWaitf f t
    ∨ typ = 9 ∧ i = .nodeRate f t
/-- The kind of a controller, by type code. -/
def ctrlOf (typ : Nat) (k : CtrlKind) : Prop := typ = 2 ∧ k = .seq ∨ typ = 3 ∧ k = .pipe ∨ typ = 4 ∧ k = .stream
/-- The contexts that the islands of a tenant are restoring. -/
def restored (s : State) (n : Nat) : List LoftCtx :=
  (s.tenant n).pmap.filterMap fun i => match s.loft i with
    | .restoring k => s.ctxs[k]?
    | _ => none

end Sys2Proof.Claims

open Sys2Proof Sys2Proof.Machine Sys2Proof.Claims

/-! ### Decoding and the step -/

/-- Every well-formed instruction that has an encoding decodes back from it, with every operand (R108-R122). -/
def Obligations.DecodeEncode : Prop :=
  ∀ (i : Instr) (w : IWord), i.wf = true → encode i = some w → decode w = .ok i

/-- A word that decodes is the one encoding of what it decodes to: no bit of it is ignored (R129). -/
def Obligations.EncodeDecode : Prop :=
  ∀ (i : Instr) (w : IWord), decode w = .ok i → encode i = some w ∧ i.wf = true

/-- Words that the spec writes out decode to the instructions it writes beside them (R156, R162, R163, R200). -/
def Obligations.DecodeExampleWords : Prop :=
  decode 0x00000001 = .ok .fend ∧ decode 0x00040002 = .ok (.trap 4) ∧ decode 0x00A05804 = .ok (.mfc 5 .cyc)
    ∧ decode 0x03E90007 = .ok (.jalr 31 9) ∧ decode 0x00000088 = .ok (.fence .fld)
    ∧ decode 0x40A0FFFE = .ok (.beq 5 0 0xFFFE) ∧ decode 0x48A60003 = .ok (.blt 5 6 3) ∧ decode 0x5BFFFFFC = .ok (.j 0x3FFFFFC)
    ∧ decode 0x60C00003 = .ok (.loop 6 3) ∧ decode 0xA4221806 = .ok (.ztest 1 2 3) ∧ decode 0xA4220007 = .ok (.zfromm 1 2)
    ∧ decode 0xFC000000 = .error .unassignedMajor

/-- A step whose turn is an issue runs the instruction that the word at the firing's PC decodes to, after time has passed
(the model's own R346 reading, notes/assumptions/24.md), and puts the firing back on its bay; a PC outside the code or a word
that decodes to nothing takes its fault. A step whose turn is an event runs that event; one whose turn is a held store, a
register read or an access from another module performs it. -/
def Obligations.StepRunsDecoded : Prop :=
  ∀ (s : State), let s0 : State := { s with agenda := s.agenda.tail }
    (∀ b a f f', s.turn = .issue b a → s0.issuable b a = some f →
      let t := s0.advanceTime (some (b, s0.nextOneCycle f))
      t.issuable b a = some f' →
        (∀ w i, (t.load_ f').fetch = .word w → decode w = .ok i → step s = after (exec i (t.load_ f')))
        ∧ (∀ w e, (t.load_ f').fetch = .word w → decode w = .error e →
            step s = after (faults (t.load_ f') 0x02 (w.setWidth 64)))
        ∧ ((t.load_ f').fetch = .bad → step s = after (faults (t.load_ f') 0x01 f'.regs.pc)))
    ∧ (∀ i, s.turn = .event i → isScalar i = false → step s = exec i (s0.advanceTime none))
    ∧ (∀ b n, s.turn = .perform b n → step s = .next ((s0.advanceTime none).perform b n))
    ∧ (∀ fn off n, s.turn = .regRead fn off n → step s = .next ((s0.advanceTime none).registerRead fn off n))
    ∧ (∀ m u x, s.turn = .peer m u x → step s = .next ((s0.advanceTime none).servePeer m u x))

/-! ### Reset and what every step keeps -/

/-- The registers whose reset value the spec states hold it after reset. -/
def Obligations.ResetRegisters : Prop :=
  State.reset.modnum = 0x1FF ∧ State.reset.samplep = 10 ∧ State.reset.errstat = 0 ∧ State.reset.domcfg = 10000
    ∧ State.reset.bootst = 0 ∧ State.reset.modpwr = 7200 ∧ State.reset.prq = [] ∧ State.reset.prqSeq = 1
    ∧ (∀ n, tgetD n (0, 0, 0) State.reset.art = (0, 0, 0))
    ∧ (∀ n, (State.reset.link n).peer = 0x1FF ∧ (State.reset.link n).up = false ∧ (State.reset.link n).lanes = 0)
    ∧ (∀ i, State.reset.islst i = 0)
    ∧ (∀ t, let x := State.reset.tenant t
      x.htbase = 0 ∧ x.xroot = 0 ∧ x.apbase = 0 ∧ x.partcfg = 0 ∧ x.verq = 0 ∧ x.grncnt = 0 ∧ x.prestat = 0 ∧ x.fltring = 0
        ∧ x.fltptr = 0 ∧ x.solvst = 0 ∧ x.mcstat = 0 ∧ wget x.prqcfg 10 0 = 8 ∧ wget x.slicecfg 63 48 = 50
        ∧ wget x.slicecfg 47 32 = 100 ∧ wget x.slicecfg 31 0 = 0 ∧ wget x.pwrcfg 39 32 = 1 ∧ wget x.pwrcfg 19 0 = 0xFFFFF
        ∧ wget x.pwrgnt 59 40 = 0xFFFFF)

/-- At reset both memories and the mailbox window are in canonical form.
Rests on the model's own choices of notes/assumptions/2.md. -/
def Obligations.ResetMemoryForm : Prop :=
  State.reset.mem.wf = true ∧ State.reset.mpoison.wf = true ∧ Memory.wf State.reset.mbox = true

/-- Every step keeps both memories and the mailbox window in canonical form: addresses rise strictly and no entry is listed
with the value an unlisted address reads as. -/
def Obligations.StepKeepsMemoryForm : Prop :=
  ∀ s t : State, s.mem.wf = true → s.mpoison.wf = true → Memory.wf s.mbox = true → step s = .next t →
    t.mem.wf = true ∧ t.mpoison.wf = true ∧ Memory.wf t.mbox = true

/-- Every step keeps SAMPLEP.PERIOD within 1..10000 (a PERIOD outside it is ignored) and MODINFO.MODNUM a module number
0..319 or 0x1FF.
Rests on the model's own choices of notes/assumptions/19.md. -/
def Obligations.StepKeepsLegalRegisters : Prop :=
  ∀ s t : State, (s.samplep ≠ 0 ∧ s.samplep.toNat ≤ 10000) → (s.modnum = 0x1FF ∨ s.modnum.toNat < 320) → step s = .next t →
    (t.samplep ≠ 0 ∧ t.samplep.toNat ≤ 10000) ∧ (t.modnum = 0x1FF ∨ t.modnum.toNat < 320)

/-! ### Integer and address arithmetic -/

/-- ADD, SUB, MUL, MULH, MULHU, ADDW, SUBW, ADDI and the sign extensions, by whole numbers: results wrap, the product's
halves are exact, and the word forms sign-extend 32 bits. Only g(d) and the pc change. -/
def Obligations.IntegerArithmetic : Prop :=
  ∀ (s : State) (d a b : R5) (imm : BitVec 16),
    let x := s.regs.rg a
    let y := s.regs.rg b
    let p := s.regs.rgp a
    let q := p || s.regs.rgp b
    Gives (.add d a b) s d q (fun v => v.toNat = (x.toNat + y.toNat) % 2 ^ 64)
    ∧ Gives (.sub d a b) s d q (fun v => v.toNat = (x.toNat + (2 ^ 64 - y.toNat)) % 2 ^ 64)
    ∧ Gives (.mul d a b) s d q (fun v => v.toNat = x.toNat * y.toNat % 2 ^ 64)
    ∧ Gives (.mulh d a b) s d q (fun v => v.toInt = x.toInt * y.toInt / 2 ^ 64)
    ∧ Gives (.mulhu d a b) s d q (fun v => v.toNat = x.toNat * y.toNat / 2 ^ 64)
    ∧ Gives (.addw d a b) s d q (fun v => v.toInt = (x.toInt + y.toInt).bmod (2 ^ 32))
    ∧ Gives (.subw d a b) s d q (fun v => v.toInt = (x.toInt - y.toInt).bmod (2 ^ 32))
    ∧ Gives (.addi d a imm) s d p (fun v => v.toInt = (x.toInt + imm.toInt).bmod (2 ^ 64))
    ∧ Gives (.sextb d a) s d p (fun v => v.toInt = x.toInt.bmod (2 ^ 8))
    ∧ Gives (.sexth d a) s d p (fun v => v.toInt = x.toInt.bmod (2 ^ 16))
    ∧ Gives (.sextw d a) s d p (fun v => v.toInt = x.toInt.bmod (2 ^ 32))

/-- DIV, DIVU, REM and REMU: the quotient goes toward zero and the remainder has the dividend's sign; a zero divisor gives
all ones and the dividend; the one overflow gives the dividend and 0. -/
def Obligations.IntegerDivision : Prop :=
  ∀ (s : State) (d a b : R5),
    let x := s.regs.rg a
    let y := s.regs.rg b
    let q := s.regs.rgp a || s.regs.rgp b
    Gives (.div d a b) s d q (fun v => if y = 0 then v = BitVec.allOnes 64 else v.toInt = (x.toInt.tdiv y.toInt).bmod (2 ^ 64))
    ∧ Gives (.divu d a b) s d q (fun v => if y = 0 then v = BitVec.allOnes 64 else v.toNat = x.toNat / y.toNat)
    ∧ Gives (.rem d a b) s d q (fun v => if y = 0 then v = x else v.toInt = x.toInt.tmod y.toInt)
    ∧ Gives (.remu d a b) s d q (fun v => if y = 0 then v = x else v.toNat = x.toNat % y.toNat)

/-- The bitwise instructions bit by bit, the shifts by powers of two (the amount is the low 6 bits), LUI and LHI. -/
def Obligations.LogicAndShifts : Prop :=
  ∀ (s : State) (d a b : R5) (imm : BitVec 16) (h : BitVec 12) (sh : BitVec 6),
    let x := s.regs.rg a
    let y := s.regs.rg b
    let p := s.regs.rgp a
    let q := p || s.regs.rgp b
    let n := y.toNat % 64
    Gives (.and d a b) s d q (fun v => ∀ i, i < 64 → v.getLsbD i = (x.getLsbD i && y.getLsbD i))
    ∧ Gives (.or d a b) s d q (fun v => ∀ i, i < 64 → v.getLsbD i = (x.getLsbD i || y.getLsbD i))
    ∧ Gives (.xor d a b) s d q (fun v => ∀ i, i < 64 → v.getLsbD i = (x.getLsbD i != y.getLsbD i))
    ∧ Gives (.andn d a b) s d q (fun v => ∀ i, i < 64 → v.getLsbD i = (x.getLsbD i && !y.getLsbD i))
    ∧ Gives (.sll d a b) s d q (fun v => v.toNat = x.toNat * 2 ^ n % 2 ^ 64)
    ∧ Gives (.srl d a b) s d q (fun v => v.toNat = x.toNat / 2 ^ n)
    ∧ Gives (.sra d a b) s d q (fun v => v.toInt = x.toInt / 2 ^ n)
    ∧ Gives (.slli d a sh) s d p (fun v => v.toNat = x.toNat * 2 ^ sh.toNat % 2 ^ 64)
    ∧ Gives (.srli d a sh) s d p (fun v => v.toNat = x.toNat / 2 ^ sh.toNat)
    ∧ Gives (.srai d a sh) s d p (fun v => v.toInt = x.toInt / 2 ^ sh.toNat)
    ∧ Gives (.andi d a imm) s d p (fun v => ∀ i, i < 64 → v.getLsbD i = (x.getLsbD i && imm.getLsbD i))
    ∧ Gives (.ori d a imm) s d p (fun v => ∀ i, i < 64 → v.getLsbD i = (x.getLsbD i || imm.getLsbD i))
    ∧ Gives (.xori d a imm) s d p (fun v => ∀ i, i < 64 → v.getLsbD i = (x.getLsbD i != imm.getLsbD i))
    ∧ Gives (.lui d imm) s d false (fun v => v.toInt = imm.toInt * 2 ^ 16)
    ∧ Gives (.lhi d a h) s d p (fun v => v.toNat = h.toNat * 2 ^ 52 + x.toNat % 2 ^ 52)

/-- The comparisons and the choices of a lesser or greater operand, signed and unsigned. -/
def Obligations.IntegerComparisons : Prop :=
  ∀ (s : State) (d a b : R5) (imm : BitVec 16),
    let x := s.regs.rg a
    let y := s.regs.rg b
    let p := s.regs.rgp a
    let q := p || s.regs.rgp b
    Gives (.slt d a b) s d q (fun v => v.toNat = if x.toInt < y.toInt then 1 else 0)
    ∧ Gives (.sltu d a b) s d q (fun v => v.toNat = if x.toNat < y.toNat then 1 else 0)
    ∧ Gives (.slti d a imm) s d p (fun v => v.toNat = if x.toInt < imm.toInt then 1 else 0)
    ∧ Gives (.sltiu d a imm) s d p (fun v => v.toNat = if x.toNat < (imm.signExtend 64).toNat then 1 else 0)
    ∧ Gives (.min d a b) s d q (fun v => v.toInt = min x.toInt y.toInt)
    ∧ Gives (.max d a b) s d q (fun v => v.toInt = max x.toInt y.toInt)
    ∧ Gives (.minu d a b) s d q (fun v => v.toNat = min x.toNat y.toNat)
    ∧ Gives (.maxu d a b) s d q (fun v => v.toNat = max x.toNat y.toNat)

/-- CLZ and CTZ count the zeros above the highest and below the lowest one, 64 for 0; POPC counts the ones. -/
def Obligations.BitCounts : Prop :=
  ∀ (s : State) (d a : R5),
    let x := s.regs.rg a
    let p := s.regs.rgp a
    Gives (.clz d a) s d p (fun v => v.toNat ≤ 64 ∧ (∀ i, i < v.toNat → x.getLsbD (63 - i) = false)
      ∧ (v.toNat < 64 → x.getLsbD (63 - v.toNat) = true))
    ∧ Gives (.ctz d a) s d p (fun v => v.toNat ≤ 64 ∧ (∀ i, i < v.toNat → x.getLsbD i = false)
      ∧ (v.toNat < 64 → x.getLsbD v.toNat = true))
    ∧ Gives (.popc d a) s d p (fun v => v.toNat = ((List.range 64).filter fun i => x.getLsbD i).length)

/-- ADDH and ADDIH move a pointer's offset and leave its handle; an offset that would leave 0..2^52-1 takes the handle-carry
fault with FADDR the pointer, and writes nothing. -/
def Obligations.PointerArithmetic : Prop :=
  ∀ (s : State) (d a b : R5) (imm : BitVec 16),
    let p := s.regs.rg a
    let moved (x : Int) : Int := (p.toNat % 2 ^ 52 : Nat) + x
    let fits (x : Int) : Prop := 0 ≤ moved x ∧ moved x < 2 ^ 52
    let result (x : Int) (v : Word) : Prop := v.toNat / 2 ^ 52 = p.toNat / 2 ^ 52 ∧ ((v.toNat % 2 ^ 52 : Nat) : Int) = moved x
    (fits (s.regs.rg b).toInt → Gives (.addh d a b) s d (s.regs.rgp a || s.regs.rgp b) (result (s.regs.rg b).toInt))
    ∧ (¬ fits (s.regs.rg b).toInt → exec (.addh d a b) s = faults s 0x0F p)
    ∧ (fits imm.toInt → Gives (.addih d a imm) s d (s.regs.rgp a) (result imm.toInt))
    ∧ (¬ fits imm.toInt → exec (.addih d a imm) s = faults s 0x0F p)

/-! ### Transfers of control -/

/-- The conditional branches: when each is taken, where it goes, and the fetch fault of a taken branch that leaves the code. -/
def Obligations.ConditionalBranches : Prop :=
  ∀ (s : State) (a b : R5) (off : BitVec 16),
    let x := s.regs.rg a
    let y := s.regs.rg b
    exec (.beq a b off) s = branches s off (decide (x = y)) ∧ exec (.bne a b off) s = branches s off (decide (x ≠ y))
    ∧ exec (.blt a b off) s = branches s off (decide (x.toInt < y.toInt))
    ∧ exec (.bge a b off) s = branches s off (decide (y.toInt ≤ x.toInt))
    ∧ exec (.bltu a b off) s = branches s off (decide (x.toNat < y.toNat))
    ∧ exec (.bgeu a b off) s = branches s off (decide (y.toNat ≤ x.toNat))

/-- J, JAL, JR and JALR: the target, the link, the checks of a register target, the fetch fault with FADDR the target. JALR
reads its target before it writes g(d). -/
def Obligations.Jumps : Prop :=
  ∀ (s : State) (d a : R5) (off : BitVec 26),
    let t := s.regs.pc + BitVec.ofInt 64 (4 * off.toInt)
    let r := s.regs.rg a
    let good : Bool := decide (r.toNat / 2 ^ 52 = s.regs.pc.toNat / 2 ^ 52) && decide (r.toNat % 4 = 0) && s.inCode r
    exec (.j off) s = (if s.inCode t then .next (s.mapRegs fun g => g.transfer t) else faults s 0x01 t)
    ∧ exec (.jal off) s =
      (if s.inCode t then .next (s.mapRegs fun g => (g.wg 31 (g.pc + 4) false).transfer t) else faults s 0x01 t)
    ∧ exec (.jr a) s = (if good then .next (s.mapRegs fun g => g.transfer r) else faults s 0x01 r)
    ∧ exec (.jalr d a) s =
      (if good then .next (s.mapRegs fun g => (g.wg d (g.pc + 4) (g.rgp a)).transfer r) else faults s 0x01 r)

/-- A taken transfer sets the pc and ends each active loop whose body does not hold the target, with every loop inside it. -/
def Obligations.TransferEndsLoops : Prop :=
  ∀ (r : Regs) (t : Word), r.depth ≤ 2 →
    let inBody (lo hi : Word) : Prop := lo.toNat ≤ t.toNat ∧ t.toNat ≤ hi.toNat
    (r.transfer t).pc = t
    ∧ (r.depth = 0 → (r.transfer t).depth = 0)
    ∧ (1 ≤ r.depth → ¬ inBody r.ls0 r.le0 → (r.transfer t).depth = 0)
    ∧ (1 ≤ r.depth → inBody r.ls0 r.le0 → (r.depth = 1 ∨ ¬ inBody r.ls1 r.le1) → (r.transfer t).depth = 1)
    ∧ (r.depth = 2 → inBody r.ls0 r.le0 → inBody r.ls1 r.le1 → (r.transfer t).depth = 2)

/-- LOOP: a new body of n passes at the next free level, a body skipped when n is 0, and the loop and fetch faults. A skip
does not retire as a transfer does: one to E + 4 outside an outer body leaves that loop active.
Rests on the model's own reading of notes/assumptions/83.md (DEDUCED). -/
def Obligations.LoopInstruction : Prop :=
  ∀ (s : State) (a : R5) (off : BitVec 16),
    let e := s.regs.pc + BitVec.ofInt 64 (4 * off.toInt)
    let n := s.regs.rg a
    (off.toInt < 1 → exec (.loop a off) s = faults s 0x10 e)
    ∧ (1 ≤ off.toInt → s.inCode e = false → exec (.loop a off) s = faults s 0x01 e)
    ∧ (1 ≤ off.toInt → s.inCode e = true → n = 0 → exec (.loop a off) s = .next (s.mapRegs fun r => r.endChecks e))
    ∧ (1 ≤ off.toInt → s.inCode e = true → n ≠ 0 → s.regs.depth = 2 → exec (.loop a off) s = faults s 0x10 e)
    ∧ (1 ≤ off.toInt → s.inCode e = true → n ≠ 0 → s.regs.depth = 1 → s.regs.le0.toNat < e.toNat →
        exec (.loop a off) s = faults s 0x10 e)
    ∧ (1 ≤ off.toInt → s.inCode e = true → n ≠ 0 → s.regs.depth = 0 → exec (.loop a off) s =
        retires s fun r => { r with ls0 := r.pc + 4, le0 := e, lc0 := n, depth := 1 })
    ∧ (1 ≤ off.toInt → s.inCode e = true → n ≠ 0 → s.regs.depth = 1 → e.toNat ≤ s.regs.le0.toNat → exec (.loop a off) s =
        retires s fun r => { r with ls1 := r.pc + 4, le1 := e, lc1 := n, depth := 2 })

/-- The end of a body: with passes left the count falls and the pc goes back to the start; with none left the loop ends and
the outer loop's end is tested; elsewhere the pc moves on by 4. -/
def Obligations.LoopEndChecks : Prop :=
  ∀ (r : Regs) (p : Word),
    (r.depth = 0 → r.endChecks p = { r with pc := p + 4 })
    ∧ (r.depth = 1 → p ≠ r.le0 → r.endChecks p = { r with pc := p + 4 })
    ∧ (r.depth = 1 → p = r.le0 → 1 < r.lc0.toNat → r.endChecks p = { r with lc0 := r.lc0 - 1, pc := r.ls0 })
    ∧ (r.depth = 1 → p = r.le0 → r.lc0.toNat ≤ 1 → r.endChecks p = { r with lc0 := 0, depth := 0, pc := p + 4 })
    ∧ (r.depth = 2 → p ≠ r.le1 → r.endChecks p = { r with pc := p + 4 })
    ∧ (r.depth = 2 → p = r.le1 → 1 < r.lc1.toNat → r.endChecks p = { r with lc1 := r.lc1 - 1, pc := r.ls1 })
    ∧ (r.depth = 2 → p = r.le1 → r.lc1.toNat ≤ 1 → r.endChecks p = ({ r with lc1 := 0, depth := 1 } : Regs).endChecks p)

/-! ### Faults and control -/

/-- Taking a fault: CAUSE, EPC and FADDR of the bay, the end of the firing with its PC where it was, no further firing on
the bay, and the first fault kept for the field's sequencer, later ones counted. Nothing else changes: the whole state is said.
A fault that an access has found leaves, besides, what the access has cached (R48, R51), and nothing else. -/
def Obligations.TakingAFault : Prop :=
  (∀ (s : State) (code : Nat) (fa : Word),
    let t := s.faultAt code fa
    let b := s.fir.bay
    t = { s with
      fir := { s.fir with status := .ended, slot := false, region := none }
      bays := tput b { s.bay b with cause := BitVec.ofNat 8 code, epc := s.regs.pc, faddr := fa, faulted := true } s.bays
      fields := t.fields }
    ∧ (t.bay b).cause = BitVec.ofNat 8 code ∧ (t.bay b).epc = s.regs.pc ∧ (t.bay b).faddr = fa ∧ (t.bay b).faulted = true
    ∧ t.regs = s.regs ∧ t.fir.status = .ended ∧ (∀ c, c ≠ b → t.bay c = s.bay c)
    ∧ (∀ g, g ≠ s.fir.field → t.field? g = s.field? g)
    ∧ (s.field? s.fir.field = none → t.fields = s.fields)
    ∧ (∀ f, s.field? s.fir.field = some f → f.fault = none → ∃ r, t.field? s.fir.field = some { f with fault := some r }
        ∧ r.cause = BitVec.ofNat 8 code ∧ r.faddr = fa ∧ r.epc = s.regs.pc ∧ r.inst = s.fir.inst ∧ r.bay = b ∧ r.root = false
        ∧ ∀ x, s.inst? s.fir.field s.fir.inst = some x → r.node = x.node)
    ∧ (∀ f r, s.field? s.fir.field = some f → f.fault = some r →
        t.field? s.fir.field = some { f with faults := f.faults + 1 })
    ∧ t.fireables b = [])
  ∧ ∀ (s : State) (g : Flt), let t := s.keeping g
    t = { s with bays := t.bays, seqCache := t.seqCache, tlb := t.tlb, walks := t.walks }
    ∧ ∀ b, t.bay b = { s.bay b with hcache := (t.bay b).hcache }

/-- TRAP and BRK are faults: cause Trap with FADDR = G(a), cause Breakpoint with FADDR 0; so is a word no encoding matches,
with FADDR the word. The pc stays. -/
def Obligations.TrapAndBreak : Prop :=
  ∀ (s : State) (a : R5) (w : BitVec 32),
    exec (.trap a) s = faults s 0x17 (s.regs.rg a) ∧ exec .brk s = faults s 0x18 0
    ∧ exec (.illegalInstruction w) s = faults s 0x02 (w.setWidth 64)
    ∧ (s.faultAt 0x17 (s.regs.rg a)).regs.pc = s.regs.pc ∧ ((s.faultAt 0x18 0).bay s.fir.bay).cause = 0x18

/-- NOP only retires. FENCE performs the firing's held stores, serialises its pairs and retires, and waits while one cannot
reach its home. IDMB opens a region with a checkpoint one word on.
IDME sends the staged pairs in order and closes the region. CLMASK and CLUNMASK set and clear bits of the bay's mask.
Rests on the model's own choices of notes/assumptions/3.md and notes/assumptions/32.md. -/
def Obligations.PlainControl : Prop :=
  ∀ (s : State) (a : R5) (sc : Scope),
    exec .nop s = retires s id
    ∧ (sent s → exec (.fence sc) s = retires ((flushed s).drain s.firCtx.who) id)
    ∧ (¬ sent s → exec (.fence sc) s = .next (flushed s))
    ∧ (nothingSent s → exec (.fence sc) s = retires s id)
    ∧ (s.fir.region = none → exec .idmb s = retires
        { s with fir := { s.fir with region := some ⟨{ s.regs with pc := s.regs.pc + 4 }, []⟩ } } id)
    ∧ (s.fir.region.isSome = true → exec .idmb s = faultsWord s 0x11 .idmb)
    ∧ (s.fir.region = none → exec .idme s = faultsWord s 0x11 .idme)
    ∧ (∀ r, s.fir.region = some r → s.regionBusy = false →
        let t := (r.staged.foldl State.sendPair s).clearPend s.fir.bay s.fir.actor
        exec .idme s = retires { t with fir := { t.fir with region := none } } id)
    ∧ exec (.clmask a) s = retires (s.modBay s.fir.bay fun b => { b with cmask := b.cmask ||| (s.regs.rg a).setWidth 8 }) id
    ∧ exec (.clunmask a) s = retires (s.modBay s.fir.bay fun b =>
        { b with cmask := b.cmask &&& ~~~((s.regs.rg a).setWidth 8) }) id

/-- FEND with its rates met ends the firing and stores g16..g23 and v24..v31 as the persistent set; a short port takes the
rate violation, an open region the idempotent fault.
Rests on the model's own choices of notes/assumptions/20.md. -/
def Obligations.FiringEnd : Prop :=
  ∀ (s : State),
    (s.fir.region = none → s.fendShort = none → ∃ t, exec .fend s = .next t ∧ t.fir.status = .ended ∧ t.fir.slot = false
      ∧ t.fir.regs.depth = 0 ∧ tget s.fir.actor (t.bay s.fir.bay).persist = some s.regs.persist ∧ t.mem = s.mem
      ∧ (t.bay s.fir.bay).queues = (s.bay s.fir.bay).queues ∧ ∀ c, c ≠ s.fir.bay → t.bay c = s.bay c)
    ∧ (∀ p, s.fir.region = none → s.fendShort = some p → exec .fend s = faults s 0x05 (BitVec.ofNat 64 p))
    ∧ (s.fir.region.isSome = true → exec .fend s = faultsWord s 0x11 .fend)
    ∧ (∀ i : Fin 8, s.regs.persist.g[i] = s.regs.g[16 + i.val] ∧ s.regs.persist.v[i] = s.regs.v[24 + i.val]
        ∧ s.regs.persist.gp.getLsbD i.val = s.regs.gp.getLsbD (16 + i.val))

/-- MFC reads every control register, MTC writes those that are not read-only; the faults of a read-only register and of
SAMPLEP written by another tenant than 0. -/
def Obligations.ControlRegisters : Prop :=
  ∀ (s : State) (d : R5),
    let b := s.bay s.fir.bay
    exec (.mfc d .cause) s = wrote s d (b.cause.setWidth 64) false ∧ exec (.mfc d .epc) s = wrote s d b.epc false
    ∧ exec (.mfc d .faddr) s = wrote s d b.faddr false ∧ exec (.mfc d .cyc) s = wrote s d b.cyc false
    ∧ exec (.mfc d .dtime) s = wrote s d s.dtime false ∧ exec (.mfc d .rmode) s = wrote s d (s.regs.rmode.setWidth 64) false
    ∧ exec (.mfc d .flags) s = wrote s d (s.regs.flags.setWidth 64) false ∧ exec (.mfc d .lc0) s = wrote s d s.regs.lc0 false
    ∧ exec (.mfc d .lc1) s = wrote s d s.regs.lc1 false ∧ exec (.mfc d .samplep) s = wrote s d (s.samplep.setWidth 64) false
    ∧ exec (.mfc d .tenant) s = wrote s d (BitVec.ofNat 64 s.firCtx.tenant) false
    ∧ exec (.mfc d .fire) s = wrote s d (BitVec.ofNat 64 (s.fir.actor * 2 ^ 32 + s.fir.fidx.toNat)) false
    ∧ exec (.mfc d .bayxy) s = wrote s d (BitVec.ofNat 64 (s.fir.fy * 256 + s.fir.fx)) false
    ∧ (∀ c, exec (.mfc d c) s = wrote s d (s.ctl c) false)
    ∧ exec (.mtc .rmode d) s = retires s (fun r => { r with rmode := (s.regs.rg d).setWidth 2 })
    ∧ exec (.mtc .flags d) s = retires s (fun r => { r with flags := (s.regs.rg d).setWidth 5 })
    ∧ exec (.mtc .lc0 d) s = retires s (fun r => { r with lc0 := s.regs.rg d })
    ∧ exec (.mtc .lc1 d) s = retires s (fun r => { r with lc1 := s.regs.rg d })
    ∧ (s.firCtx.tenant = 0 → 1 ≤ (s.regs.rg d).toNat % 16384 → (s.regs.rg d).toNat % 16384 ≤ 10000 →
        exec (.mtc .samplep d) s = retires { s with samplep := (s.regs.rg d).setWidth 14 } id)
    ∧ (s.firCtx.tenant ≠ 0 → exec (.mtc .samplep d) s = faultsWord s 0x03 (.mtc .samplep d))
    ∧ (∀ c, c.writable = false → exec (.mtc c d) s = faultsWord s 0x02 (.mtc c d))


/-! ### Frames of the scalar stream -/

/-- An instruction that touches no memory changes, of the whole machine, only the registers it names and the pc and loop
registers, or it takes a fault. -/
def Obligations.RegisterFrame : Prop :=
  ∀ (i : Instr) (s t : State) (w : Writes), regWrites i = some w → exec i s = .next t →
    (onlyRegs s t ∧ keeps s.regs t.regs w) ∨ ∃ code fa, t = s.faultAt code fa

/-- A load that finds no pair to apply changes one register at most (none when it waits, faults or parks on a page), and no
byte of memory.
Rests on the model's own choices of notes/assumptions/3.md. -/
def Obligations.LoadFrame : Prop :=
  ∀ (i : Instr) (s t : State) (w : Writes), loadWrites i = some w → s.slices = [] → s.pairs = [] → exec i s = .next t →
    keeps s.regs t.regs w ∧ memSame s t (fun _ => False) ∧ t.mpoison = s.mpoison ∧ t.samplep = s.samplep
      ∧ t.modnum = s.modnum ∧ t.islands = s.islands

/-- A store changes no register but the pc and loop registers, and no byte of memory but those its own address formation
names; a store whose address formation fails changes none.
Rests on the model's own choices of notes/assumptions/3.md. -/
def Obligations.StoreFrame : Prop :=
  ∀ (i : Instr) (s t : State), isStore i = true → quietMem s → s.mem.wf = true → exec i s = .next t →
    keeps s.regs t.regs {} ∧ (∀ u l, storesTo i s = some (u, l) → memSame s t (fun a => a ∈ segBytes l))
      ∧ (storesTo i s = none → memSame s t (fun _ => False))

/-! ### Addresses, loads and stores -/

/-- Address formation: the handle, rights and bound faults in that order; the bytes of each space, and the window, translation,
permission, page-request and address faults of each. An own window, a field window, a physical and a global address give the
bytes the rules give; a virtual range goes page by page, and the first page that is no good decides. What an access has cached
up to its fault stays.
Rests on the model's own choices of notes/assumptions/15.md, notes/assumptions/16.md, notes/assumptions/22.md and
notes/assumptions/87.md. -/
def Obligations.AddressFormation : Prop :=
  ∀ (s : State) (c : Ctx) (p : Word) (n : Nat) (wr : Bool), c.bay < 2048 → 0 < n → n ≤ 2 ^ 20 →
    let o := ptrOff p
    (s.entry c (ptrH p) = none → s.addressOf c p n wr = .error ((s.touch c (ptrH p)).flt c 0x06 p))
    ∧ (∀ u e, s.entry c (ptrH p) = some (u, e) → (if wr then e.wr else e.rd) = false →
        s.addressOf c p n wr = .error (u.flt c 0x07 p))
    ∧ (∀ u e, s.entry c (ptrH p) = some (u, e) → (if wr then e.wr else e.rd) = true → e.bound < o + n →
        s.addressOf c p n wr = .error (u.flt c 0x08 p))
    -- the windows a bay supplies itself
    ∧ (c.isBay = true → ptrH p = 0 → s.addressOf c p n wr =
        if o + n ≤ 2 ^ 20 then .ok (s, [⟨s.ga (windowAddr c.bay o), n⟩]) else .error (s.flt c 0x08 p))
    ∧ (c.isBay = true → ptrH p = 1 → s.addressOf c p n wr =
        if o + n ≤ 2 ^ 18 then .ok (s, [⟨s.ga (windowAddr c.bay (0x100000 + o)), n⟩]) else .error (s.flt c 0x08 p))
    ∧ (c.isBay = true → ptrH p = 2 → s.addressOf c p n wr =
        if o + n ≤ 2 ^ 18 then .ok (s, [⟨s.ga (windowAddr c.bay (0x140000 + o)), n⟩]) else .error (s.flt c 0x08 p))
    ∧ (c.isBay = true → ptrH p = 3 → c.tenant = 0 → s.addressOf c p n wr =
        if o + n ≤ 0x160000 then .ok (s, [⟨s.ga (windowAddr c.bay (0x180000 + o)), n⟩]) else .error (s.flt c 0x08 p))
    ∧ (c.isBay = true → ptrH p = 3 → c.tenant ≠ 0 → s.addressOf c p n wr = .error (s.flt c 0x06 p))
    ∧ (c.isBay = false → ptrH p ≤ 3 → s.addressOf c p n wr = .error (s.flt c 0x06 p))
    ∧ (4 ≤ ptrH p → ptrH p ≤ 15 → c.tenant ≠ 0 → s.addressOf c p n wr = .error (s.flt c 0x06 p))
    -- the spaces of an entry
    ∧ (∀ u e, s.entry c (ptrH p) = some (u, e) → (if wr then e.wr else e.rd) = true → o + n ≤ e.bound →
        let a := e.base + o
        let b := a / 0x400000
        let w := a % 0x400000
        let bay := u.moduleBay c.tenant (c.ox + b % c.fw) (c.oy + b / c.fw)
        let g := a / 2 ^ 47 % 32 * 2 ^ 47 + a % 2 ^ 47
        let r := u.translate State.atHome c.walker c.tenant a
        (e.space = 1 → (c.fw * c.fh ≤ b ∨ 0x180000 < w + n) → s.addressOf c p n wr = .error (u.flt c 0x0B p))
        ∧ (e.space = 1 → b < c.fw * c.fh → w + n ≤ 0x180000 → bay < 2048 →
            s.addressOf c p n wr = .ok (u, [⟨u.ga (windowAddr bay w), n⟩]))
        ∧ (e.space = 2 → 2 ^ 47 ≤ a → s.addressOf c p n wr = .error (u.flt c 0x0C (BitVec.ofNat 64 a)))
        ∧ (e.space = 2 → a < 2 ^ 47 → u.checkSegs false [⟨u.ga a, n⟩] = none → s.addressOf c p n wr = .ok (u, [⟨u.ga a, n⟩]))
        ∧ (∀ z, e.space = 2 → a < 2 ^ 47 → u.checkSegs false [⟨u.ga a, n⟩] = some z →
            s.addressOf c p n wr = .error (u.flt c 0x0C z))
        ∧ (e.space = 3 → u.checkSegs false [⟨g, n⟩] = none → s.addressOf c p n wr = .ok (u, [⟨g, n⟩]))
        ∧ (∀ z, e.space = 3 → u.checkSegs false [⟨g, n⟩] = some z → s.addressOf c p n wr = .error (u.flt c 0x0C z))
        ∧ (∀ v, e.space = 0 → r = (v, .bad) → s.addressOf c p n wr = .error (v.flt c 0x09 (BitVec.ofNat 64 a)))
        ∧ (∀ v pa z x fl, e.space = 0 → r = (v, .leaf pa z x fl) →
            let k := min n (z - a % z)
            let y : Seg := ⟨pa + a % z, k⟩
            (wr = true → x = false → s.addressOf c p n wr = .error (v.flt c 0x07 p))
            ∧ ((wr = false ∨ x = true) → (∀ q, fl = some q →
                s.addressOf c p n wr = .error { v.flt c 0x0A (BitVec.ofNat 64 a) with page := some q }))
            ∧ ((wr = false ∨ x = true) → fl = none → ∀ q, v.checkSegs (c.tenant ≠ 0) [y] = some q →
                s.addressOf c p n wr = .error (v.flt c 0x0C q))
            ∧ ((wr = false ∨ x = true) → fl = none → v.checkSegs (c.tenant ≠ 0) [y] = none → n ≤ z - a % z →
                s.addressOf c p n wr = .ok (v, [y]))
            ∧ ((wr = false ∨ x = true) → fl = none → v.checkSegs (c.tenant ≠ 0) [y] = none → z - a % z < n →
                s.addressOf c p n wr = (v.transRange State.atHome c p wr (n / 65536 + 1) (a + k) (n - k)).map fun q =>
                  (q.1, y :: q.2))))

/-- LD zero-extends and LDX sign-extends the little-endian bytes at the pointer moved by the offset; a moved pointer that
leaves its field takes the bound fault, and every fault of address formation is taken as it was found, but for a page request
in an open region. With no pair pending the bytes are those the firing's field sees.
A byte that the firing has stored and its bay's forwarding table still holds comes from there, from the youngest such store.
Rests on the model's own choices of notes/assumptions/3.md. -/
def Obligations.ScalarLoads : Prop :=
  ∀ (s t : State) (w : Width) (d a : R5) (off : BitVec 14) (l : List Seg),
    let p := s.regs.rg a
    let q := moved p off.toInt
    let r := t.readSegs s.firCtx l
    let bad := gotPoison r.2 || r.1.regs.rgp a
    (fits p off.toInt → s.loadAddr s.firCtx q (widthBytes w) = .ok (t, l) → opens t s.firCtx l →
      (∃ v, exec (.ld w d a off) s = wrote r.1 d v bad ∧ v.toNat = gotNat r.2 % 2 ^ 64)
      ∧ ∃ v, exec (.ldx w d a off) s = wrote r.1 d v bad ∧ v.toInt = (gotNat r.2 : Int).bmod (2 ^ (8 * widthBytes w)))
    ∧ (¬ fits p off.toInt → exec (.ld w d a off) s = faults s 0x08 p ∧ exec (.ldx w d a off) s = faults s 0x08 p)
    ∧ (∀ f, fits p off.toInt → s.loadAddr s.firCtx q (widthBytes w) = .error f → (f.code ≠ 0x0A ∨ s.fir.region = none) →
        exec (.ld w d a off) s = memFaults s f ∧ exec (.ldx w d a off) s = memFaults s f)
    ∧ (fits p off.toInt → s.loadAddr s.firCtx q (widthBytes w) = .ok (t, l) →
        (∀ x ∈ segBytes l, (heldByte (t.ownHeld s.firCtx) x).isSome = true) → segBytes l ≠ [] →
        let h := (segBytes l).map fun x => (heldByte (t.ownHeld s.firCtx) x).getD (0, false)
        ∃ v, exec (.ld w d a off) s = wrote t d v (gotPoison h || t.regs.rgp a) ∧ v.toNat = gotNat h % 2 ^ 64)
    ∧ (∀ (h : List HeldStore) e x, heldByte (h ++ [e]) x =
        (((segBytes (asSegs e.segs)).zip e.bytes).lookup x).orElse fun _ => heldByte h x)
    ∧ (∀ f, fits p off.toInt → s.loadAddr s.firCtx q (widthBytes w) = .error f → f.code = 0x0A → s.fir.region.isSome = true →
        exec (.ld w d a off) s = .next (s.regionPage f) ∧ exec (.ldx w d a off) s = .next (s.regionPage f))
    ∧ (t.slices = [] → t.pairs = [] → r = (t, (segBytes l).map (t.readByte s.firCtx)))
    ∧ (∀ c x, isWindow (gaLocal x) = false → t.veils = [] → (∀ y ∈ t.insts, y.versioned = false) →
        t.readByte c x = (t.mem.read x, decide (t.mpoison.read x ≠ 0)))

/-- ST writes the low bytes of g(t), little-endian, at the pointer moved by the offset, with the register's poison, and
nothing else; out of the pointer's field it takes the bound fault; in an open region a handle over 1 takes the idempotent
fault. A store that cannot be performed yet is held in the forwarding table of 8 entries and performed later; with the table
full it waits.
Rests on the model's own choices of notes/assumptions/3.md. -/
def Obligations.ScalarStore : Prop :=
  ∀ (s u : State) (w : Width) (d a : R5) (off : BitVec 14) (l : List Seg),
    let p := s.regs.rg a
    let q := moved p off.toInt
    let n := widthBytes w
    (fits p off.toInt → (s.fir.region = none ∨ ptrH p ≤ 1) → s.storeAddr s.firCtx q n = .ok (u, l) → opens u s.firCtx l → roomy u →
      exec (.st w d a off) s = retires (u.writeSegs s.firCtx l (putBytes n (s.regs.rg d).toNat (s.regs.rgp d))) id
      ∧ (quietMem s → s.mem.wf = true → s.mpoison.wf = true → (segBytes l).Nodup → (segBytes l).length = n →
          ∃ t, exec (.st w d a off) s = .next t ∧ memSame s t (fun x => x ∈ segBytes l)
            ∧ ∀ k x, (segBytes l)[k]? = some x → (t.mem.read x).toNat = (s.regs.rg d).toNat / 2 ^ (8 * k) % 2 ^ 8))
    ∧ (¬ fits p off.toInt → (s.fir.region = none ∨ ptrH p ≤ 1) → exec (.st w d a off) s = faults s 0x08 p)
    ∧ (∀ f, fits p off.toInt → (s.fir.region = none ∨ ptrH p ≤ 1) → s.storeAddr s.firCtx q n = .error f →
        exec (.st w d a off) s = memFaults s f)
    ∧ (fits p off.toInt → (s.fir.region = none ∨ ptrH p ≤ 1) → s.storeAddr s.firCtx q n = .ok (u, l) → ¬ roomy u →
        exec (.st w d a off) s = .next u)
    ∧ (fits p off.toInt → (s.fir.region = none ∨ ptrH p ≤ 1) → s.storeAddr s.firCtx q n = .ok (u, l) → roomy u →
        let bs := putBytes n (s.regs.rg d).toNat (s.regs.rgp d)
        (u.sbBlocks s.firCtx l = true → held (.st w d a off) s u l bs)
        ∧ ∀ z, u.sbBlocks s.firCtx l = false → u.writeOpen s.firCtx l bs = .wait z → held (.st w d a off) s z l bs)
    ∧ (∀ b k e, (u.bay b).fwd[k]? = some e → u.performable b k e = true → reaches u (u.heldCtx b e) (asSegs e.segs) →
        u.perform b k = (u.writeSegs (u.heldCtx b e) (asSegs e.segs) e.bytes).modBay b fun x =>
          { x with fwd := dropAt x.fwd k })
    ∧ (∀ b k e, (u.bay b).fwd[k]? = some e → u.performable b k e = false → u.perform b k = u)
    ∧ (s.fir.region.isSome = true → 1 < ptrH p → exec (.st w d a off) s = faultsWord s 0x11 (.st w d a off))

/-! ### Synchronisation -/

/-- LDA, STL, ACQ, REL, SYNCADD, SYNCCAS and WAITV on a sync word: the word they read, the word they write, what they release
and acquire, and when they park or take the sync-object fault.
Rests on the model's own choices of notes/assumptions/3.md and notes/assumptions/25.md. -/
def Obligations.SyncWords : Prop :=
  ∀ (s t : State) (sc : Scope) (d a b : R5) (off : BitVec 13) (x : Nat),
    let c := s.firCtx
    let p := s.regs.rg a
    let q := moved p off.toInt
    let clear := s.fir.region = none
    let tag : Word := t.ownerTag
    -- LDA reads, then acquires; STL releases, then writes
    (fits p off.toInt → s.syncAddr c q false = .ok (t, x) → routed t x →
      let r := t.readWord t.firCtx x
      exec (.lda sc d a off) s = acquired r.1 (t.virtOf t.firCtx q) fun g => g.wg d r.2.1 (r.2.2 || g.rgp a))
    ∧ (clear → fits p off.toInt → s.syncAddr c q true = .ok (t, x) → routed t x → sent t →
      let z := flushed t
      let u := z.release z.firCtx (scopeNat sc) (some (z.virtOf z.firCtx q))
      exec (.stl sc d a off) s = retires (u.writeWord u.firCtx x (u.regs.rg d) (u.regs.rgp d)) id)
    -- ACQ: 0 takes the word, the own tag is a fault, another value waits
    ∧ (clear → s.syncAddr c p true = .ok (t, x) → routed t x →
      let r := t.readWord t.firCtx x
      (r.2.1 = 0 → t.ownerTag ≠ 0 → exec (.acq sc a) s =
        acquired (r.1.writeWord t.firCtx x tag false) (t.virtOf t.firCtx p) id)
      ∧ (r.2.1 = tag → exec (.acq sc a) s = .next (t.faultAt 0x0E p))
      ∧ (r.2.1 ≠ 0 → r.2.1 ≠ tag → exec (.acq sc a) s =
          .next ((r.1.waitWord ⟨t.firCtx.who, x, 0, false, true, tag⟩).park (.acq (t.virtOf t.firCtx p)) false)))
    -- REL: the own tag gives the word up, another value is a fault
    ∧ (clear → s.syncAddr c p true = .ok (t, x) → routed t x → sent t →
      let z := flushed t
      let u := z.release z.firCtx (scopeNat sc) (some (z.virtOf z.firCtx p))
      let r := u.readWord u.firCtx x
      (r.2.1 = u.ownerTag → exec (.rel sc a) s = retires (r.1.writeWord u.firCtx x 0 false) id)
      ∧ (r.2.1 ≠ u.ownerTag → exec (.rel sc a) s = .next (r.1.faultAt 0x0E p)))
    -- SYNCADD and SYNCCAS answer the old word
    ∧ (clear → s.syncAddr c p true = .ok (t, x) → routed t x → sent t →
      let z := flushed t
      let r := (z.release z.firCtx (scopeNat sc) (some (z.virtOf z.firCtx p))).readWord z.firCtx x
      exec (.syncadd sc d a b) s =
        acquired (r.1.writeWord z.firCtx x (r.2.1 + z.regs.rg b) (r.2.2 || z.regs.rgp b)) (z.virtOf z.firCtx p)
          fun g => g.wg d r.2.1 (r.2.2 || g.rgp a || g.rgp b))
    ∧ (clear → s.syncAddr c p true = .ok (t, x) → routed t x →
      let va := t.virtOf t.firCtx p
      let r := t.readWord t.firCtx x
      let old (g : Regs) : Regs := g.wg d r.2.1 (r.2.2 || g.rgp a || g.rgp b || g.rgp d)
      let z := r.1.flush t.firCtx.who
      (r.2.1 = t.regs.rg d → z.pairsHeld t.firCtx.who = false → exec (.synccas sc d a b) s =
        acquired ((z.release t.firCtx (scopeNat sc) (some va)).writeWord t.firCtx x (t.regs.rg b) (t.regs.rgp b)) va old)
      ∧ (r.2.1 = t.regs.rg d → z.pairsHeld t.firCtx.who = true → exec (.synccas sc d a b) s = .next z)
      ∧ (r.2.1 ≠ t.regs.rg d → exec (.synccas sc d a b) s = acquired r.1 va old))
    -- a release waits while a pair or a store of the firing cannot reach its home, and an access of a word behind a held
    -- store of its actor to that word
    ∧ (clear → s.syncAddr c p true = .ok (t, x) → routed t x → ¬ sent t →
      exec (.rel sc a) s = .next (flushed t) ∧ exec (.syncadd sc d a b) s = .next (flushed t))
    ∧ (clear → fits p off.toInt → s.syncAddr c q true = .ok (t, x) → routed t x → ¬ sent t →
      exec (.stl sc d a off) s = .next (flushed t))
    ∧ (clear → s.syncAddr c p true = .ok (t, x) → t.heldBlocks t.firCtx [⟨x, 8⟩] = true →
      exec (.acq sc a) s = .next (flushed t) ∧ exec (.rel sc a) s = .next (flushed t)
        ∧ exec (.syncadd sc d a b) s = .next (flushed t) ∧ exec (.synccas sc d a b) s = .next (flushed t))
    -- WAITV completes on a word that meets its condition, else it registers and parks
    ∧ (∀ isAcq ge, s.syncAddr c p false = .ok (t, x) → routed t x →
      let va := t.virtOf t.firCtx p
      let r := t.readWord t.firCtx x
      let v := t.regs.rg b
      let meets : Prop := if ge then v.toNat ≤ r.2.1.toNat else r.2.1 = v
      let old (g : Regs) : Regs := g.wg d r.2.1 (r.2.2 || g.rgp a || g.rgp b)
      (meets → isAcq = true → exec (.waitv sc isAcq ge d a b) s = acquired r.1 va old)
      ∧ (meets → isAcq = false → exec (.waitv sc isAcq ge d a b) s = retires r.1 old)
      ∧ (¬ meets → exec (.waitv sc isAcq ge d a b) s = .next ((r.1.waitWord ⟨t.firCtx.who, x, v, ge, false, 0⟩).park
          (.waitv va d isAcq (t.regs.rgp a || t.regs.rgp b)) false)))
    -- what a write of a word leaves, and the checks of the address
    ∧ (∀ v e, t.slices = [] → t.pairs = [] → t.waiters = [] → t.mem.wf = true →
        (t.ownHbm x = true ∨ ∀ y, t.inst? c.field c.inst = some y → y.versioned = false) →
        let u := t.writeWord c x v e
        u.mem.readList x 8 = natLe 8 v.toNat ∧ memSame t u (fun y => x ≤ y ∧ y < x + 8))
    ∧ (∀ l, s.addressOf c p 8 true = .ok (t, l) → (l.map Seg.addr).headD 0 % 8 ≠ 0 → s.syncAddr c p true = .error (t.flt c 0x0D p))
    ∧ (∀ l, s.addressOf c p 8 true = .ok (t, l) → (l.map Seg.addr).headD 0 % 8 = 0 → isWindow (gaLocal ((l.map Seg.addr).headD 0)) = true →
        s.syncAddr c p true = .error (t.flt c 0x0B p))
    ∧ (∀ f, clear → s.syncAddr c p true = .error f → exec (.acq sc a) s = memFaults s f ∧ exec (.rel sc a) s = memFaults s f
        ∧ exec (.syncadd sc d a b) s = memFaults s f ∧ exec (.synccas sc d a b) s = memFaults s f)
    ∧ (s.fir.region.isSome = true → exec (.acq sc a) s = faultsWord s 0x11 (.acq sc a)
        ∧ exec (.rel sc a) s = faultsWord s 0x11 (.rel sc a) ∧ exec (.syncadd sc d a b) s = faultsWord s 0x11 (.syncadd sc d a b)
        ∧ exec (.synccas sc d a b) s = faultsWord s 0x11 (.synccas sc d a b) ∧ exec (.stl sc d a off) s = faultsWord s 0x11 (.stl sc d a off))

/-- Semaphores: SEMADD saturates at 0xFFFF, SEMSUB takes at most the count and answers what it took, SEMGET answers the count,
SEMWAIT takes its threshold when the count meets it, else parks; the waiters of a changed count are served oldest first, and
one passed over 64 times blocks the younger ones. -/
def Obligations.Semaphores : Prop :=
  (∀ (s : State) (d a b : R5),
    let k := s.fir.bay
    let n := (s.regs.rg a).toNat % 256
    let v := (s.regs.rg b).toNat % 65536
    let closed := s.fir.region = none
    exec (.semget d a) s = wrote s d (BitVec.ofNat 64 (s.sem k n)) (s.regs.rgp a)
    ∧ (closed → (s.bay k).semWaiters = [] → nothingSent s →
        ∃ t, exec (.semadd a b) s = .next t ∧ t.sem k n = min (s.sem k n + v) 0xFFFF ∧ (∀ m, m ≠ n → t.sem k m = s.sem k m)
          ∧ t.regs = s.regs.endChecks s.regs.pc ∧ t.mem = s.mem)
    ∧ (closed → (s.bay k).semWaiters = [] → ∃ t, exec (.semsub d a b) s = .next t ∧ t.sem k n = s.sem k n - min (s.sem k n) v
        ∧ (∀ m, m ≠ n → t.sem k m = s.sem k m) ∧ t.mem = s.mem
        ∧ (d ≠ 0 → (t.regs.rg d).toNat = min (s.sem k n) v) ∧ keeps s.regs t.regs { g := some d })
    ∧ (closed → v = 0 → exec (.semwait a b) s = retires s id)
    ∧ (closed → v ≠ 0 → (s.bay k).semWaiters = [] → v ≤ s.sem k n → ∃ t, exec (.semwait a b) s = .next t
        ∧ t.sem k n = s.sem k n - v ∧ (t.bay k).semWaiters = [] ∧ t.regs = s.regs.endChecks s.regs.pc)
    ∧ (closed → v ≠ 0 → (s.bay k).semWaiters = [] → s.sem k n < v → ∃ t, exec (.semwait a b) s = .next t
        ∧ t.sem k n = s.sem k n ∧ (t.bay k).semWaiters = [⟨n, v, .actor k s.fir.actor, 0⟩]
        ∧ t.fir.status = .parked (.sem n v) false ∧ t.fir.slot = false ∧ t.regs = s.regs))
  ∧ (∀ (n v : Nat) (w : SemWaiter) (l : List SemWaiter),
    (w.sem = n → w.thr ≤ v → semServe n v (w :: l) =
      ((semServe n (v - w.thr) l).1, (semServe n (v - w.thr) l).2.1, w.who :: (semServe n (v - w.thr) l).2.2))
    ∧ (w.sem = n → v < w.thr → 64 ≤ w.passed → semServe n v (w :: l) = (v, w :: l, []))
    ∧ (semServe n v l).1 ≤ v
    ∧ (∀ y, w.sem = n → y.sem = n → v < w.thr → w.passed < 64 → y.thr ≤ v → semServe n v (w :: y :: l) =
        let r := semServe n (v - y.thr) ({ w with passed := w.passed + 1 } :: l)
        (r.1, r.2.1, y.who :: r.2.2))
    ∧ ((∀ y ∈ l, y.sem = n → y.passed + l.length ≤ 64) → ∀ y ∈ (semServe n v l).2.1, y.sem = n → (semServe n v l).1 < y.thr))

/-- Yards: RVINIT sets a yard up once and then only agrees with it, RVARR counts an arrival, flips the phase with the last one
and answers the phase before it, RVWAIT goes on when the phase differs from its operand and else parks; the yard fault. -/
def Obligations.Yards : Prop :=
  ∀ (s : State) (d a b : R5) (f : Field), s.fir.region = none → s.field? s.fir.field = some f →
    let y := s.regs.rg a
    let v := s.regs.rg b
    let n := v.toNat % 65536
    let plot := v.toNat / 65536 % 2 ^ 24
    let ok := y.toNat ≤ 23
    (23 < y.toNat → exec (.rvinit a b) s = faults s 0x13 y ∧ exec (.rvarr d a) s = faults s 0x13 y
      ∧ exec (.rvwait a b) s = faults s 0x13 y)
    ∧ (ok → n = 0 → exec (.rvinit a b) s = faults s 0x13 y)
    ∧ (ok → n ≠ 0 → plotValid (pktFw f.packet) (pktFh f.packet) plot = false → exec (.rvinit a b) s = faults s 0x15 (BitVec.ofNat 64 plot))
    ∧ (ok → n ≠ 0 → plotValid (pktFw f.packet) (pktFh f.packet) plot = true → tget y.toNat f.yards = none →
        exec (.rvinit a b) s = retires (s.setField { f with yards := tput y.toNat ⟨n, BitVec.ofNat 24 plot, 0, 0⟩ f.yards }) id)
    ∧ (∀ q, ok → n ≠ 0 → plotValid (pktFw f.packet) (pktFh f.packet) plot = true → tget y.toNat f.yards = some q →
        exec (.rvinit a b) s = if q.n = n ∧ q.plot.toNat = plot then retires s id else faults s 0x13 y)
    ∧ (ok → tget y.toNat f.yards = none → exec (.rvarr d a) s = faults s 0x13 y ∧ exec (.rvwait a b) s = faults s 0x13 y)
    ∧ (∀ q, ok → tget y.toNat f.yards = some q → inPlot s.firCtx.fw s.firCtx.fh q.plot.toNat s.fir.fx s.fir.fy = false →
        exec (.rvarr d a) s = faults s 0x13 y)
    ∧ (∀ q, ok → tget y.toNat f.yards = some q → inPlot s.firCtx.fw s.firCtx.fh q.plot.toNat s.fir.fx s.fir.fy = true →
        nothingSent s → q.count + 1 ≠ q.n →
        exec (.rvarr d a) s = wrote (s.setField { f with yards := tput y.toNat { q with count := q.count + 1 } f.yards }) d
          (q.phase.setWidth 64) (s.regs.rgp a))
    ∧ (∀ q, ok → tget y.toNat f.yards = some q → inPlot s.firCtx.fw s.firCtx.fh q.plot.toNat s.fir.fx s.fir.fy = true →
        nothingSent s → q.count + 1 = q.n →
        exec (.rvarr d a) s = wrote ((s.setField { f with yards := tput y.toNat { q with count := 0, phase := 1 - q.phase } f.yards }).flipYard
          f.id y.toNat (1 - q.phase)) d (q.phase.setWidth 64) (s.regs.rgp a))
    ∧ (∀ q, ok → tget y.toNat f.yards = some q → q.phase ≠ v.setWidth 1 → exec (.rvwait a b) s = retires s id)
    ∧ (∀ q, ok → tget y.toNat f.yards = some q → q.phase = v.setWidth 1 →
        exec (.rvwait a b) s = .next (s.park (.yard y.toNat (v.setWidth 1)) false))

/-- MSG reads 64 bytes and sends them to every handler bay of its class; UPD, UPDV and UPDFL: the pairs sent, staged in an
open region, or the stage overflow; the window fault of an update into a register window; UPDFL parks while a pair of the actor is on its way, and else retires.
Rests on the model's own choices of notes/assumptions/21.md and notes/assumptions/38.md. -/
def Obligations.MessagesAndUpdates : Prop :=
  ∀ (s t : State) (cl : R3) (d a b : R5),
    let c := s.firCtx
    let p := s.regs.rg a
    (∀ l, s.fir.region = none → s.loadAddr c p 64 = .ok (t, l) → p.toNat % 8 = 0 → s.classRoute cl.toNat = true → opens t c l →
      let r := t.readSegs c l
      (s.routeAccepts s.fir.field (s.handlerBays cl.toNat) = true → ∃ u, exec (.msg cl a) s = .next u
        ∧ (u.msgs = r.1.msgs ++ (s.handlerBays cl.toNat).map fun b => ⟨s.fir.field, s.fir.inst, b, ⟨cl.toNat, s.ctl .bayxy,
            BitVec.ofNat 512 (gotNat r.2), BitVec.ofNat 8 ((List.range 8).foldl (fun x k =>
              if gotPoison ((r.2.drop (8 * k)).take 8) then x + 2 ^ k else x) 0), []⟩, c.who⟩)
        ∧ u.mem = r.1.mem ∧ u.regs = r.1.regs.endChecks r.1.regs.pc)
      ∧ (s.routeAccepts s.fir.field (s.handlerBays cl.toNat) = false → exec (.msg cl a) s = .next (s.park .route false)))
    ∧ (∀ l, s.fir.region = none → s.loadAddr c p 64 = .ok (t, l) → p.toNat % 8 ≠ 0 → exec (.msg cl a) s = faults t 0x0D p)
    ∧ (∀ l, s.fir.region = none → s.loadAddr c p 64 = .ok (t, l) → p.toNat % 8 = 0 → s.classRoute cl.toNat = false →
        exec (.msg cl a) s = faults t 0x14 (cl.setWidth 64))
    ∧ (∀ f, s.fir.region = none → s.loadAddr c p 64 = .error f → exec (.msg cl a) s = memFaults s f)
    ∧ (s.fir.region.isSome = true → exec (.msg cl a) s = faultsWord s 0x11 (.msg cl a))
    ∧ (∀ x, s.fir.region = none → s.pairOf c p (updVal (s.regs.rg b).toNat) (s.regs.rgp b) = .ok (t, x) →
        exec (.upd a b) s = retires ((t.sendPair x).notePoisonSent s.fir.field s.fir.inst x.poison) id)
    ∧ (∀ x g, s.fir.region = some g → g.staged.length < Config.stageSize →
        s.pairOf c p (updVal (s.regs.rg b).toNat) (s.regs.rgp b) = .ok (t, x) →
        exec (.upd a b) s = retires { t with fir := { t.fir with region := some { g with staged := g.staged ++ [x] } } } id)
    ∧ (∀ x g, s.fir.region = some g → Config.stageSize ≤ g.staged.length →
        s.pairOf c p (updVal (s.regs.rg b).toNat) (s.regs.rgp b) = .ok (t, x) → exec (.upd a b) s = faults t 0x12 p)
    ∧ (∀ f, s.pairOf c p (updVal (s.regs.rg b).toNat) (s.regs.rgp b) = .error f → exec (.upd a b) s = memFaults s f)
    ∧ (∀ xs, s.fir.region = none →
        s.updvPairs c (s.regs.rg d) (s.regs.rv a) (s.regs.rv b) (s.regs.rvp b) (List.range 64) = .ok (t, xs) →
        exec (.updv d a b) s = retires (((xs.map Prod.snd).foldl State.sendPair t).notePoisonSent s.fir.field s.fir.inst
          (xs.any fun x => x.2.poison)) id)
    ∧ (∀ xs g, s.fir.region = some g → g.staged.length + xs.length ≤ Config.stageSize →
        s.updvPairs c (s.regs.rg d) (s.regs.rv a) (s.regs.rv b) (s.regs.rvp b) (List.range 64) = .ok (t, xs) →
        exec (.updv d a b) s =
          retires { t with fir := { t.fir with region := some { g with staged := g.staged ++ xs.map Prod.snd } } } id)
    ∧ (∀ xs g, s.fir.region = some g → Config.stageSize < g.staged.length + xs.length →
        s.updvPairs c (s.regs.rg d) (s.regs.rv a) (s.regs.rv b) (s.regs.rvp b) (List.range 64) = .ok (t, xs) →
        exec (.updv d a b) s = faults t 0x12 ((xs.map Prod.fst).getD (Config.stageSize - g.staged.length) 0))
    ∧ (∀ f, s.updvPairs c (s.regs.rg d) (s.regs.rv a) (s.regs.rv b) (s.regs.rvp b) (List.range 64) = .error f →
        exec (.updv d a b) s = memFaults s f)
    ∧ (s.fir.region = none → (∀ q ∈ s.pairs, q.who ≠ c.who) → exec .updfl s = retires s id)
    ∧ (s.fir.region = none → (∃ q ∈ s.pairs, q.who = c.who) → exec .updfl s = .next (s.park .pairs false))
    ∧ (∀ x, (t.sendPair x).pairs = t.pairs ++ [if (t.inst? x.field x.tag).any Inst.versioned then x else { x with tag := 0 }])
    -- a pair is not formed for an address in a register window
    ∧ (∀ u e l v q, s.entry c (ptrH p) = some (u, e) → u.addressOf c p (opSize e.op) true = .ok (t, l) → segsTouchReg l = true →
        s.pairOf c p v q = .error (t.flt c 0x0B p))

/-! ### Vectors -/

/-- Major 0x20, for every element width: each active element takes the value of the rule, whole numbers modulo the width,
two's-complement where the operation is signed. -/
def Obligations.VectorInteger : Prop :=
  ∀ (s : State) (t : EW) (d a b : R5) (k : R3),
    let w := ewBits t
    let x := fun j => elem w (s.regs.rv a) j
    let y := fun j => elem w (s.regs.rv b) j
    let q := s.regs.rvp a ||| s.regs.rvp b
    let n := fun j => y j % w
    VGives (.vadd t d a b k) s w d k q (fun j v => v = (x j + y j) % 2 ^ w)
    ∧ VGives (.vsub t d a b k) s w d k q (fun j v => (v : Int) = ((x j : Int) - y j) % 2 ^ w)
    ∧ VGives (.vmul t d a b k) s w d k q (fun j v => v = x j * y j % 2 ^ w)
    ∧ VGives (.vmulh t d a b k) s w d k q (fun j v => sg w v = sg w (x j) * sg w (y j) / 2 ^ w)
    ∧ VGives (.vand t d a b k) s w d k q (fun j v => ∀ i, i < w → v.testBit i = ((x j).testBit i && (y j).testBit i))
    ∧ VGives (.vor t d a b k) s w d k q (fun j v => ∀ i, i < w → v.testBit i = ((x j).testBit i || (y j).testBit i))
    ∧ VGives (.vxor t d a b k) s w d k q (fun j v => ∀ i, i < w → v.testBit i = ((x j).testBit i != (y j).testBit i))
    ∧ VGives (.vsll t d a b k) s w d k q (fun j v => v = x j * 2 ^ n j % 2 ^ w)
    ∧ VGives (.vsrl t d a b k) s w d k q (fun j v => v = x j / 2 ^ n j)
    ∧ VGives (.vsra t d a b k) s w d k q (fun j v => sg w v = sg w (x j) / 2 ^ n j)
    ∧ VGives (.vmin t d a b k) s w d k q (fun j v => sg w v = min (sg w (x j)) (sg w (y j)))
    ∧ VGives (.vmax t d a b k) s w d k q (fun j v => sg w v = max (sg w (x j)) (sg w (y j)))
    ∧ VGives (.vminu t d a b k) s w d k q (fun j v => v = min (x j) (y j))
    ∧ VGives (.vmaxu t d a b k) s w d k q (fun j v => v = max (x j) (y j))
    ∧ VGives (.vabs t d a k) s w d k (s.regs.rvp a) (fun j v => v = (sg w (x j)).natAbs)
    ∧ VGives (.vadds t d a b k) s w d k q (fun j v =>
        sg w v = max (-(2 : Int) ^ (w - 1)) (min ((2 : Int) ^ (w - 1) - 1) (sg w (x j) + sg w (y j))))

/-- Major 0x21, for every element type: each active element is the rounded result of its operation on the exact values of the
elements, in the firing's rounding mode, with the flags of the active elements; VFABS and VFNEG change the sign bit alone and
make every NaN the canonical one.
Rests on the model's own choices of notes/assumptions/9.md. -/
def Obligations.VectorFloat : Prop :=
  ∀ (s : State) (t : FT) (d a b : R5) (k : R3),
    let f := ftFmt t
    let w := f.width
    let m := s.regs.rmode.toNat
    let bx := fun j => elem w (s.regs.rv a) j
    let x := fun j => f.decode (bx j)
    let y := fun j => f.decode (elem w (s.regs.rv b) j)
    let z := fun j => f.decode (elem w (s.regs.rv d) j)
    let q1 := s.regs.rvp a
    let q2 := q1 ||| s.regs.rvp b
    let q3 := q2 ||| s.regs.rvp d
    FGives (.vfadd t d a b k) s w d k q2 (fun j => f.add m (x j) (y j))
    ∧ FGives (.vfsub t d a b k) s w d k q2 (fun j => f.add m (x j) (y j).negate)
    ∧ FGives (.vfmul t d a b k) s w d k q2 (fun j => f.mul m (x j) (y j))
    ∧ FGives (.vfma t d a b k) s w d k q3 (fun j => f.fma m (x j) (y j) (z j))
    ∧ FGives (.vfnma t d a b k) s w d k q3 (fun j => f.fma m (x j).negate (y j) (z j))
    ∧ FGives (.vfmin t d a b k) s w d k q2 (fun j => f.minmax false (bx j) (elem w (s.regs.rv b) j))
    ∧ FGives (.vfmax t d a b k) s w d k q2 (fun j => f.minmax true (bx j) (elem w (s.regs.rv b) j))
    ∧ FGives (.vfabs t d a k) s w d k q1 (fun j => if (x j).isNan then (f.nan, flagIf (x j).isSig fNV) else (bx j % 2 ^ (w - 1), 0))
    ∧ FGives (.vfneg t d a k) s w d k q1 (fun j => if (x j).isNan then (f.nan, flagIf (x j).isSig fNV)
        else (if (bx j).testBit (w - 1) then bx j - 2 ^ (w - 1) else bx j + 2 ^ (w - 1), 0))
    ∧ FGives (.vfrcp t d a k) s w d k q1 (fun j => f.rcp m (x j))
    ∧ FGives (.vfrsq t d a k) s w d k q1 (fun j => f.rsq m (x j))
    ∧ FGives (.vfexp2 t d a k) s w d k q1 (fun j => f.exp2 m (bx j))
    ∧ FGives (.vflog2 t d a k) s w d k q1 (fun j => f.log2 m (bx j))

/-- Compares set the bit of a lane when the relation holds for every element of the lane, under the mask; a floating-point
compare raises NV for a signalling NaN, and LT and LE for any NaN. Mask operations work bit by bit under mk, MPOPC counts and
MFIRST finds the first (64 when there is none). -/
def Obligations.VectorComparesAndMasks : Prop :=
  ∀ (s : State) (t : EW) (ft : FT) (md ma mb k : R3) (d a b : R5),
    let mk := s.regs.rm k
    let old := s.regs.rm md
    let cmp (i : Instr) (w : Nat) (rel : Nat → Nat → Bool) (nv : Nat → Nat → Bool) : Prop :=
      ∃ v fl, exec i s = retires s (fun r => (r.wm md v).raise fl) ∧
        (∀ n, n < 64 → v.getLsbD n = if mk.getLsbD n then
          decide (∀ j, j < 32 / w → rel (elem w (s.regs.rv a) (n * (32 / w) + j)) (elem w (s.regs.rv b) (n * (32 / w) + j)) = true)
          else old.getLsbD n)
        ∧ (fl = fNV ∨ fl = 0)
        ∧ (fl = fNV ↔ ∃ n j, n < 64 ∧ mk.getLsbD n = true ∧ j < 32 / w ∧
            nv (elem w (s.regs.rv a) (n * (32 / w) + j)) (elem w (s.regs.rv b) (n * (32 / w) + j)) = true)
    let w := ewBits t
    let f := ftFmt ft
    let none2 := fun (_ _ : Nat) => false
    let anySig := fun x y => (f.decode x).isSig || (f.decode y).isSig
    let anyNan := fun x y => (f.decode x).isNan || (f.decode y).isNan
    let mask (i : Instr) (g : Bool → Bool → Bool) : Prop := ∃ v, exec i s = retires s (fun r => r.wm md v) ∧
      ∀ n, n < 64 → v.getLsbD n = if mk.getLsbD n then g ((s.regs.rm ma).getLsbD n) ((s.regs.rm mb).getLsbD n) else old.getLsbD n
    cmp (.vceq t md a b k) w (fun x y => decide (x = y)) none2 ∧ cmp (.vcne t md a b k) w (fun x y => decide (x ≠ y)) none2
    ∧ cmp (.vclt t md a b k) w (fun x y => decide (sg w x < sg w y)) none2
    ∧ cmp (.vcle t md a b k) w (fun x y => decide (sg w x ≤ sg w y)) none2
    ∧ cmp (.vcltu t md a b k) w (fun x y => decide (x < y)) none2
    ∧ cmp (.vcfeq ft md a b k) f.width (fun x y => ((f.decode x).cmp (f.decode y)).2) anySig
    ∧ cmp (.vcflt ft md a b k) f.width (fun x y => ((f.decode x).cmp (f.decode y)).1) anyNan
    ∧ cmp (.vcfle ft md a b k) f.width (fun x y => ((f.decode x).cmp (f.decode y)).1 || ((f.decode x).cmp (f.decode y)).2) anyNan
    ∧ cmp (.vcfun ft md a b k) f.width anyNan anySig
    ∧ mask (.mand md ma mb k) (fun x y => x && y) ∧ mask (.mor md ma mb k) (fun x y => x || y)
    ∧ mask (.mxor md ma mb k) (fun x y => x != y) ∧ mask (.mnot md ma k) (fun x _ => !x)
    ∧ exec (.mpopc d ma k) s = wrote s d
        (BitVec.ofNat 64 ((List.range 64).filter fun n => (s.regs.rm ma).getLsbD n && mk.getLsbD n).length) false
    ∧ (∃ v : Word, exec (.mfirst d ma k) s = wrote s d v false ∧ v.toNat ≤ 64
        ∧ (∀ n, n < v.toNat → ((s.regs.rm ma).getLsbD n && mk.getLsbD n) = false)
        ∧ (v.toNat < 64 → ((s.regs.rm ma).getLsbD v.toNat && mk.getLsbD v.toNat) = true))

/-- Permutes and moves: where each active lane of the result comes from, and 0 for lanes that no lane feeds. VCOMPRESS and VSEL
write all 64 lanes; VGET ignores its mask. -/
def Obligations.PermutesAndMoves : Prop :=
  ∀ (s : State) (d a b : R5) (k : R3),
    let mk := s.regs.rm k
    let x := fun i => lane (s.regs.rv a) i
    let xp := fun i => (s.regs.rvp a).getLsbD i
    let n := (s.regs.rg b).toNat
    let g := (s.regs.rg a).toNat % 2 ^ 32
    let gives (i : Instr) (on : Nat → Bool) (v : Nat → Nat) (q : Nat → Bool) : Prop :=
      ∃ r p, exec i s = retires s (fun z => z.wv d r p) ∧ ∀ i, i < 64 →
        lane r i = (if on i then v i else lane (s.regs.rv d) i)
        ∧ p.getLsbD i = (if on i then q i else (s.regs.rvp d).getLsbD i)
    let before (i : Nat) : Nat := ((List.range 64).filter fun j => mk.getLsbD j && decide (j < i)).length
    let act := (List.range 64).filter fun j => mk.getLsbD j
    gives (.vperm d a b k) mk.getLsbD (fun i => x (lane (s.regs.rv b) i % 64))
      (fun i => (s.regs.rvp b).getLsbD i || xp (lane (s.regs.rv b) i % 64))
    ∧ gives (.vslideup d a b k) mk.getLsbD (fun i => if n ≤ i then x (i - n) else 0)
        (fun i => s.regs.rgp b || (decide (n ≤ i) && xp (i - n)))
    ∧ gives (.vslidedn d a b k) mk.getLsbD (fun i => if i + n ≤ 63 then x (i + n) else 0)
        (fun i => s.regs.rgp b || (decide (i + n ≤ 63) && xp (i + n)))
    ∧ gives (.vbcast d a b k) mk.getLsbD (fun _ => x (n % 64)) (fun _ => s.regs.rgp b || xp (n % 64))
    ∧ gives (.vcompress d a k) (fun _ => true) (fun i => (act[i]?).elim 0 x) (fun i => (act[i]?).elim false xp)
    ∧ gives (.vexpand d a k) mk.getLsbD (fun i => x (before i)) (fun i => xp (before i))
    ∧ gives (.vsel d a b k) (fun _ => true) (fun i => if mk.getLsbD i then x i else lane (s.regs.rv b) i)
        (fun i => if mk.getLsbD i then xp i else (s.regs.rvp b).getLsbD i)
    ∧ gives (.vmovg d a k) mk.getLsbD (fun _ => g) (fun _ => s.regs.rgp a)
    ∧ exec (.vget d a b k) s = wrote s d (BitVec.ofNat 64 (x (n % 64))) (xp (n % 64) || s.regs.rgp b)
    ∧ gives (.vput d a b k) (fun i => mk.getLsbD i && decide (i = n % 64)) (fun _ => g) (fun _ => s.regs.rgp a || s.regs.rgp b)
    ∧ gives (.viota d a k) mk.getLsbD (fun i => (g + i) % 2 ^ 32) (fun _ => s.regs.rgp a)
    ∧ gives (.vmov d a k) mk.getLsbD x xp

/-- Conversions: the lane forms, the narrowing forms (64 source lanes into one part of the destination), the widening forms
(one part into the 64 lanes), the block encoders and decoders, and VQNT by the reciprocal of the scale in G(b). The flags and the poison of the encoders are
left free here.
Rests on the model's own choices of notes/assumptions/11.md, notes/assumptions/12.md (the flags of a signalling NaN that is
converted exactly), notes/assumptions/14.md and notes/assumptions/74.md. -/
def Obligations.Conversions : Prop :=
  ∀ (s : State) (d a b : R5) (h : BitVec 1) (h2 : BitVec 2) (bt : BXT) (k : R3),
    let m := s.regs.rmode.toNat
    let mk := s.regs.rm k
    let x := fun i => lane (s.regs.rv a) i
    let q := s.regs.rvp a
    let g := s.regs.rg b
    let narrow (i : Instr) (w h : Nat) (c : Nat → Nat × BitVec 5) : Prop :=
      ∃ v p fl, exec i s = retires s (fun r => (r.wv d v p).raise fl)
        ∧ (∀ j, j < 2048 / w → elem w v j =
            if mk.getLsbD (j * w / 32) ∧ 64 * h ≤ j ∧ j < 64 * h + 64 then (c (x (j - 64 * h))).1 % 2 ^ w
            else elem w (s.regs.rv d) j)
        ∧ ∀ n, n < 5 → (fl.getLsbD n = true ↔ ∃ j, j < 64 ∧ mk.getLsbD ((64 * h + j) * w / 32) = true ∧ (c (x j)).2.getLsbD n = true)
    let wide (i : Instr) (w h : Nat) (c : Nat → Nat × BitVec 5) : Prop :=
      ∃ q', FGives i s 32 d k q' (fun j => c (elem w (s.regs.rv a) (64 * h + j)))
    let enc (i : Instr) (h : Nat) (blk : List FVal → List Nat × BitVec 5) : Prop :=
      ∃ v p fl, exec i s = retires s (fun r => (r.wv d v p).raise fl) ∧ ∀ o, o < 256 → elem 8 v o =
        if mk.getLsbD (o / 4) ∧ o / 128 = h then
          ((blk ((List.range 32).map fun l => F32.decode (x (32 * (o / 64 % 2) + l)))).1.getD (o % 64) 0) % 256
        else elem 8 (s.regs.rv d) o
    let dec (i : Instr) (h n : Nat) (blk : List Nat → List FVal) : Prop := ∃ q', FGives i s 32 d k q' (fun j =>
      ((blk ((List.range n).map fun o => elem 8 (s.regs.rv a) (128 * h + 64 * (j / 32) + o))).map fun v => F32.ofVal 0 v).getD (j % 32) (0, 0))
    FGives (.vcvtF32I32 d a k) s 32 d k q (fun j => i2f (sg 32 (x j)))
    ∧ FGives (.vcvtI32F32 d a k) s 32 d k q (fun j => f2i 32 m (F32.decode (x j)))
    ∧ narrow (.vcvtBf16F32 d a h k) 16 h.toNat (fun v => BF16.ofVal m (F32.decode v))
    ∧ wide (.vcvtF32Bf16 d a h k) 16 h.toNat (fun v => F32.ofVal 0 (BF16.decode v))
    ∧ narrow (.vcvtF16F32 d a h k) 16 h.toNat (fun v => F16.ofVal m (F32.decode v))
    ∧ wide (.vcvtF32F16 d a h k) 16 h.toNat (fun v => F32.ofVal 0 (F16.decode v))
    ∧ narrow (.vcvtI8I32 d a h2 k) 8 h2.toNat (fun v => (ofInt 8 (max (-128) (min 127 (sg 32 v))), 0))
    ∧ wide (.vcvtI32I8 d a h2 k) 8 h2.toNat (fun v => (ofInt 32 (sg 8 v), 0))
    ∧ enc (.vcvtE2m1F32 d a h k) h.toNat e2m1Block
    ∧ dec (.vcvtF32E2m1 d a h k) h.toNat 17 e2m1Decode
    ∧ enc (.vbxenc bt d a b k) (wget g 4 4) (bxEncode bt (if wget g 3 0 = 0 then 6 else wget g 3 0))
    ∧ dec (.vbxdec bt d a b k) (wget g 4 4) (bxSize bt) (bxDecode bt)
    ∧ narrow (.vqnt .i8 d a b k) 8 (wget g 33 32) (fun v => qnt 8 (F32.decode v) (scaleRcp (wget g 31 0)))
    ∧ narrow (.vqnt .i16 d a b k) 16 (wget g 32 32) (fun v => qnt 16 (F32.decode v) (scaleRcp (wget g 31 0)))

/-- Reductions: lane 0 takes the result over the active elements, every other lane 0. Sums and dot products of integers wrap
to 32 bits; a minimum or maximum is one of the active elements and bounds them all; VARGMAX answers the first of the largest,
all ones when none is active. A floating-point sum is the one the free order of R103 gives (notes/assumptions/5.md). -/
def Obligations.Reductions : Prop :=
  ∀ (s : State) (t : EW) (f : FT) (d a b : R5) (k : R3),
    let w := ewBits t
    let js := (List.range (2048 / w)).filter fun j => active s k w j
    let fm := ftFmt f
    let fs := (List.range (2048 / fm.width)).filter fun j => active s k fm.width j
    let x := fun j => sg w (elem w (s.regs.rv a) j)
    let y := fun j => sg w (elem w (s.regs.rv b) j)
    let vx := fun j => fm.decode (elem fm.width (s.regs.rv a) j)
    let vy := fun j => fm.decode (elem fm.width (s.regs.rv b) j)
    let red (i : Instr) (q : Word) (P : Nat → Prop) (fl : BitVec 5) : Prop :=
      ∃ v : Nat, v < 2 ^ 32 ∧ exec i s = retires s (fun r => (r.wv d (BitVec.ofNat 2048 v)
        (if q &&& s.regs.rm k = 0 then 0 else 1)).raise fl) ∧ P v
    let qa := s.regs.rvp a
    let qb := s.regs.rvp a ||| s.regs.rvp b
    red (.vrsum t d a k) qa (fun v => (v : Int) = (js.map x).sum % 2 ^ 32) 0
    ∧ red (.vdot t d a b k) qb (fun v => (v : Int) = (js.map fun j => x j * y j).sum % 2 ^ 32) 0
    ∧ red (.vrmin t d a k) qa (fun v => (∀ j ∈ js, sg 32 v ≤ x j) ∧ ((∃ j ∈ js, x j = sg 32 v) ∨ (js = [] ∧ sg 32 v = 2 ^ (w - 1) - 1))) 0
    ∧ red (.vrmax t d a k) qa (fun v => (∀ j ∈ js, x j ≤ sg 32 v) ∧ ((∃ j ∈ js, x j = sg 32 v) ∨ (js = [] ∧ sg 32 v = -2 ^ (w - 1)))) 0
    ∧ red (.vargmax t d a k) qa (fun v => (js = [] → v = 2 ^ 32 - 1)
        ∧ (js ≠ [] → v ∈ js ∧ (∀ j ∈ js, x j ≤ x v) ∧ ∀ j ∈ js, x j = x v → v ≤ j)) 0
    ∧ (let r := fsum s.regs.rmode.toNat false (s.pick 4) (fs.map vx)
       red (.vfrsum f d a k) qa (fun v => v = r.1 % 2 ^ 32) r.2)
    ∧ (let r := fsum s.regs.rmode.toNat (decide (f = .bf16)) (s.pick 4) (fs.map fun j => (vx j).mul (vy j))
       red (.vfdot f d a b k) qb (fun v => v = r.1 % 2 ^ 32) r.2)
    ∧ (let r := fReduce fm false (fs.map fun j => elem fm.width (s.regs.rv a) j)
       red (.vfrmin f d a k) qa (fun v => v = r.1 % 2 ^ 32) r.2)
    ∧ (let r := fReduce fm true (fs.map fun j => elem fm.width (s.regs.rv a) j)
       red (.vfrmax f d a k) qa (fun v => v = r.1 % 2 ^ 32) r.2)

/-- Vector loads and stores: the lane addresses of each form, checked lowest lane first, the value and the poison of each
active lane, lanes the mask leaves alone, VLDB's one access for all lanes and none without an active lane, the faults of every
form, and a store that the forwarding table holds.
Rests on the model's own choices of notes/assumptions/3.md. -/
def Obligations.VectorMemory : Prop :=
  ∀ (s t : State) (d b c : R5) (k : R3) (o : BitVec 4) (l : List Seg),
    let mk := s.regs.rm k
    let p := s.regs.rg b
    let act := (List.range 64).filter fun i => mk.getLsbD i
    let base : Int := 256 * (o.toNat : Int)
    let r := t.readSegs s.firCtx l
    -- bytes of the n-th active lane
    let nth (i : Nat) : List (Byte × Bool) := (r.2.drop (4 * ((List.range i).filter fun j => mk.getLsbD j).length)).take 4
    let loads (i : Instr) (off : Nat → Int) (ix : Nat → Bool) : Prop :=
      s.laneAddrs s.firCtx p false (fun n => base + off n) act = .ok (t, l) → opens t s.firCtx l →
        ∃ v q, exec i s = retires r.1 (fun z => z.wv d v q) ∧ ∀ n, n < 64 →
          lane v n = (if mk.getLsbD n then gotNat (nth n) % 2 ^ 32 else lane (r.1.regs.rv d) n)
          ∧ q.getLsbD n = (if mk.getLsbD n then gotPoison (nth n) || r.1.regs.rgp b || ix n else (r.1.regs.rvp d).getLsbD n)
    let stores (i : Instr) (off : Nat → Int) : Prop :=
      (s.fir.region = none ∨ ptrH p ≤ 1) →
        let bs := act.flatMap fun n => putBytes 4 (lane (s.regs.rv d) n) ((s.regs.rvp d).getLsbD n)
        let formed := s.laneAddrs s.firCtx p true (fun n => base + off n) act
        (formed = .ok (t, l) → opens t s.firCtx l → roomy t → exec i s = retires (t.writeSegs s.firCtx l bs) id)
        ∧ (formed = .ok (t, l) → roomy t → t.sbBlocks s.firCtx l = true → held i s t l bs)
        ∧ (formed = .ok (t, l) → ¬ roomy t → exec i s = .next t)
        ∧ ∀ f, formed = .error f → exec i s = memFaults s f
    -- the faults of a load: a page request in an open region is resolved
    let loadFaults (i : Instr) (off : Nat → Int) (ls : List Nat) : Prop :=
      ∀ f, s.laneAddrs s.firCtx p false (fun n => base + off n) ls = .error f →
        exec i s = if f.code = 0x0A ∧ s.fir.region.isSome then .next (s.regionPage f) else memFaults s f
    -- the checks of one lane: bound, address formation, alignment
    let one (wr : Bool) (off : Nat → Int) : Prop := ∀ i : Nat,
      (¬ fits p (base + off i) → s.laneAddrs s.firCtx p wr (fun n => base + off n) [i] = .error (s.flt s.firCtx 0x08 p))
      ∧ (fits p (base + off i) → (∀ f, (if wr then s.storeAddr s.firCtx (moved p (base + off i)) 4
            else s.loadAddr s.firCtx (moved p (base + off i)) 4) = .error f →
          s.laneAddrs s.firCtx p wr (fun n => base + off n) [i] = .error f)
        ∧ ∀ u x, (if wr then s.storeAddr s.firCtx (moved p (base + off i)) 4
            else s.loadAddr s.firCtx (moved p (base + off i)) 4) = .ok (u, x) →
          s.laneAddrs s.firCtx p wr (fun n => base + off n) [i] =
            if (x.map Seg.addr).headD 0 % 4 ≠ 0 then .error (u.flt s.firCtx 0x0D (moved p (base + off i))) else .ok (u, x))
    let idx := fun (n : Nat) => (lane (s.regs.rv c) n : Int)
    loads (.vld d b k o) (fun n => 4 * (n : Int)) (fun _ => false)
    ∧ loads (.vlds d b c k o) (fun n => (n : Int) * (s.regs.rg c).toInt) (fun _ => s.regs.rgp c)
    ∧ loads (.vldx d b c k o) idx (fun n => (s.regs.rvp c).getLsbD n)
    ∧ stores (.vst d b k o) (fun n => 4 * (n : Int)) ∧ stores (.vstx d b c k o) idx
    ∧ (mk ≠ 0 → s.laneAddrs s.firCtx p false (fun _ => base) [0] = .ok (t, l) → opens t s.firCtx l →
        ∃ v q, exec (.vldb d b k o) s = retires r.1 (fun z => z.wv d v q) ∧ ∀ n, n < 64 →
          lane v n = (if mk.getLsbD n then gotNat r.2 % 2 ^ 32 else lane (r.1.regs.rv d) n)
          ∧ q.getLsbD n = (if mk.getLsbD n then gotPoison r.2 || r.1.regs.rgp b else (r.1.regs.rvp d).getLsbD n))
    ∧ (mk = 0 → s.slices = [] → s.pairs = [] → exec (.vldb d b k o) s = retires s id)
    ∧ (mk ≠ 0 → loadFaults (.vldb d b k o) (fun _ => 0) [0])
    ∧ loadFaults (.vld d b k o) (fun n => 4 * (n : Int)) act
    ∧ loadFaults (.vlds d b c k o) (fun n => (n : Int) * (s.regs.rg c).toInt) act
    ∧ loadFaults (.vldx d b c k o) idx act
    ∧ (s.fir.region.isSome = true → 1 < ptrH p → exec (.vst d b k o) s = faultsWord s 0x11 (.vst d b k o)
        ∧ exec (.vstx d b c k o) s = faultsWord s 0x11 (.vstx d b c k o))
    -- lanes in order: the lowest lane that fails decides
    ∧ (∀ wr, one wr (fun n => 4 * (n : Int)) ∧ one wr (fun n => (n : Int) * (s.regs.rg c).toInt) ∧ one wr idx)
    ∧ (∀ wr off i ls, s.laneAddrs s.firCtx p wr off (i :: ls) = match s.laneAddrs s.firCtx p wr off [i] with
        | .error f => .error f
        | .ok (u, x) => (u.laneAddrs s.firCtx p wr off ls).map fun r => (r.1, x ++ r.2))

/-- T5 packs five trits a byte, base 3, least significant first, and unpacks and counts them; a byte over 242 takes the T5 code
fault with FADDR naming its byte; elements 240 to 255 of T5UPK are 0. Tile predicates: the rules of major 0x29, with the
address and alignment faults of ZLD and ZST and the idempotent fault of ZST. -/
def Obligations.TernaryAndTiles : Prop :=
  ∀ (s t : State) (d a : R5) (h : BitVec 3) (k : R3) (zd za zb : R4) (m : R3) (l : List Seg),
    let v := s.regs.rv a
    let mk := s.regs.rm k
    let good : Prop := ∀ j, j < 48 → elem 8 v (48 * h.toNat + j) < 243
    let trit (e : Nat) : Nat := elem 8 v (48 * h.toNat + e / 5) / 3 ^ (e % 5) % 3
    let val (t : Nat) : Int := if t = 1 then 1 else if t = 2 then -1 else 0
    let code (e : Nat) : Nat := if e = 0 then 0 else if e < 128 then 1 else 2
    let p := s.regs.rg a
    let free := s.fir.region = none ∨ ptrH p ≤ 1
    (∃ r q, exec (.t5pk d a h k) s = retires s (fun z => z.wv d r q) ∧ ∀ o, o < 256 → elem 8 r o =
        if mk.getLsbD (o / 4) ∧ o / 48 = h.toNat then
          code (elem 8 v (5 * (o % 48))) + 3 * code (elem 8 v (5 * (o % 48) + 1)) + 9 * code (elem 8 v (5 * (o % 48) + 2))
            + 27 * code (elem 8 v (5 * (o % 48) + 3)) + 81 * code (elem 8 v (5 * (o % 48) + 4))
        else elem 8 (s.regs.rv d) o)
    ∧ (good → h.toNat < 5 → ∃ r q, exec (.t5upk d a h k) s = retires s (fun z => z.wv d r q) ∧ ∀ e, e < 256 →
        if active s k 8 e then sg 8 (elem 8 r e) = (if e < 240 then val (trit e) else 0) else elem 8 r e = elem 8 (s.regs.rv d) e)
    ∧ (good → ∃ q, exec (.t5cnt d a h k) s = wrote s d (BitVec.ofNat 64 (((List.range 240).filter fun e => trit e = 2).length * 2 ^ 16
        + ((List.range 240).filter fun e => trit e = 1).length)) q)
    ∧ (∀ j, j < 48 → 243 ≤ elem 8 v (48 * h.toNat + j) → (∀ i, i < j → elem 8 v (48 * h.toNat + i) < 243) →
        exec (.t5upk d a h k) s = faults s 0x1B (BitVec.ofNat 64 ((48 * h.toNat + j) * 2 ^ 16 + 0xFF))
        ∧ exec (.t5cnt d a h k) s = faults s 0x1B (BitVec.ofNat 64 ((48 * h.toNat + j) * 2 ^ 16 + 0xFF)))
    ∧ exec (.zset zd a) s = retires s (fun r => r.wz zd p) ∧ exec (.zclr zd) s = retires s (fun r => r.wz zd 0)
    ∧ exec (.zand zd za zb) s = retires s (fun r => r.wz zd (s.regs.rz za &&& s.regs.rz zb))
    ∧ exec (.zor zd za zb) s = retires s (fun r => r.wz zd (s.regs.rz za ||| s.regs.rz zb))
    ∧ exec (.ztest d za a) s = wrote s d (if (s.regs.rz za).getLsbD (p.toNat % 64) then 1 else 0) (s.regs.rgp a)
    ∧ exec (.zfromm zd m) s = retires s (fun r => r.wz zd (s.regs.rm m))
    ∧ (s.loadAddr s.firCtx p 8 = .ok (t, l) → opens t s.firCtx l → (l.map Seg.addr).headD 0 % 8 = 0 →
        exec (.zld zd a) s = retires (t.readSegs s.firCtx l).1 (fun r => r.wz zd (BitVec.ofNat 64 (gotNat (t.readSegs s.firCtx l).2))))
    ∧ (s.loadAddr s.firCtx p 8 = .ok (t, l) → (l.map Seg.addr).headD 0 % 8 ≠ 0 → exec (.zld zd a) s = faults t 0x0D p)
    ∧ (∀ f, s.loadAddr s.firCtx p 8 = .error f →
        exec (.zld zd a) s = if f.code = 0x0A ∧ s.fir.region.isSome then .next (s.regionPage f) else memFaults s f)
    ∧ (free → ∀ f, s.storeAddr s.firCtx p 8 = .error f → exec (.zst a zb) s = memFaults s f)
    ∧ (s.fir.region.isSome = true → 1 < ptrH p → exec (.zst a zb) s = faultsWord s 0x11 (.zst a zb))
    ∧ (free → s.storeAddr s.firCtx p 8 = .ok (t, l) → opens t s.firCtx l →
        (l.map Seg.addr).headD 0 % 8 = 0 →
        exec (.zst a zb) s = retires (t.writeSegs s.firCtx l (putBytes 8 (s.regs.rz zb).toNat false)) id)
    ∧ (free → s.storeAddr s.firCtx p 8 = .ok (t, l) → (l.map Seg.addr).headD 0 % 8 ≠ 0 →
        exec (.zst a zb) s = faults t 0x0D p)

/-! ### Ports, commands and privileged instructions -/

/-- The port instructions: the port fault of a port that is not bound or has the wrong format, the rate violation of a token
over the declared count and of a stream that has ended, the tokens taken and sent, the waits, PEEKTAG, PCOUNT, the parts of a
row and the idempotent fault in an open region. -/
def Obligations.Ports : Prop :=
  ∀ (s : State) (d : R5) (p : Port) (k : R3),
    let no := p.toNat
    let actor := s.actorNo s.fir.bay s.fir.actor
    let bound (c : Nat) (x : Inst) (r : ChanRec) : Prop := ∃ n a, actor = some (x, n, a) ∧
      (if no < 16 then inChan x n no else outChan x n no) = some (c, r)
    let closed := s.fir.region = none
    let m := s.regs.rm k
    let done (x : Inst) (c n : Nat) (r : ChanRec) : State := (s.takeToks x c r n).countMoved no n
    (32 ≤ no → exec (.recv d p k) s = faults s 0x04 (p.setWidth 64) ∧ exec (.recvg d p k) s = faults s 0x04 (p.setWidth 64)
      ∧ exec (.send d p k) s = faults s 0x04 (p.setWidth 64) ∧ exec (.sendg d p k) s = faults s 0x04 (p.setWidth 64)
      ∧ exec (.peektag d p k) s = faults s 0x04 (p.setWidth 64) ∧ exec (.sendtag d p k) s = faults s 0x04 (p.setWidth 64))
    ∧ (actor = none → exec (.recv d p k) s = faults s 0x04 (p.setWidth 64) ∧ exec (.send d p k) s = faults s 0x04 (p.setWidth 64)
      ∧ exec (.pcount d p k) s = faults s 0x04 (p.setWidth 64))
    ∧ (∀ c x r, no < 16 → bound c x r →
      let ch := x.chan c
      let seen := ch.seenToks
      let act := activeSlots r.fmtc m
      let had := tgetD no 0 s.fir.moved
      -- RECVG
      (r.fmtc ≠ 0 → exec (.recvg d p k) s = faults s 0x04 (p.setWidth 64))
      ∧ (r.fmtc = 0 → closed → r.cn < had + 1 → exec (.recvg d p k) s = faults s 0x05 (p.setWidth 64))
      ∧ (∀ t l, r.fmtc = 0 → closed → had + 1 ≤ r.cn → seen = t :: l →
          exec (.recvg d p k) s = wrote (done x c 1 r) d (t.data.setWidth 64) (decide (t.poison ≠ 0)))
      ∧ (r.fmtc = 0 → closed → had + 1 ≤ r.cn → seen = [] → ch.closed = false →
          exec (.recvg d p k) s = .next (s.park (.tokens p 1) false))
      ∧ (r.fmtc = 0 → closed → had + 1 ≤ r.cn → seen = [] → ch.closed = true → ch.left = 0 →
          exec (.recvg d p k) s = faults s 0x05 (p.setWidth 64))
      ∧ (r.fmtc = 0 → closed → had + 1 ≤ r.cn → seen = [] → ch.closed = true → ch.left ≠ 0 →
          exec (.recvg d p k) s = .next (s.park (.tokens p 1) false))
      ∧ (r.fmtc = 0 → ¬ closed → exec (.recvg d p k) s = faultsWord s 0x11 (.recvg d p k))
      -- RECV of whole tokens, one for each active slot
      ∧ (r.fmtc ≠ 10 → closed → r.cn < had + act.length → exec (.recv d p k) s = faults s 0x05 (p.setWidth 64))
      ∧ (r.fmtc ≠ 10 → closed → had + act.length ≤ r.cn → seen.length < act.length → ch.closed = true → ch.left < act.length →
          exec (.recv d p k) s = faults s 0x05 (p.setWidth 64))
      ∧ (r.fmtc ≠ 10 → closed → had + act.length ≤ r.cn → seen.length < act.length → ch.closed = true → act.length ≤ ch.left →
          exec (.recv d p k) s = .next (s.park (.tokens p act.length) false))
      ∧ (r.fmtc ≠ 10 → closed → had + act.length ≤ r.cn → act.length ≤ seen.length →
          let v := layIn r.fmtc act (seen.take act.length)
          let w := m &&& slotLanes (slotsOf r.fmtc).1 act
          exec (.recv d p k) s = retires (done x c act.length r) fun g => g.wv d
            (mergeLanes w (BitVec.ofNat 2048 v.1) (g.rv d)) (mergeBits w (BitVec.ofNat 64 v.2) (g.rvp d)))
      ∧ (r.fmtc ≠ 10 → closed → had + act.length ≤ r.cn → seen.length < act.length → ch.closed = false →
          exec (.recv d p k) s = .next (s.park (.tokens p act.length) false))
      -- the two parts of a row
      ∧ (r.fmtc = 10 → closed → (s.rowPart p).p = 0 → r.cn < had + 1 → exec (.recv d p k) s = faults s 0x05 (p.setWidth 64))
      ∧ (r.fmtc = 10 → closed → ((s.rowPart p).p = 0 → had + 1 ≤ r.cn) → seen = [] → exec (.recv d p k) s =
          if ch.closed = true ∧ ch.left = 0 then faults s 0x05 (p.setWidth 64) else .next (s.park (.row p) false))
      ∧ (∀ t l, r.fmtc = 10 → closed → (s.rowPart p).p = 0 → had + 1 ≤ r.cn → seen = t :: l →
          exec (.recv d p k) s = retires (s.setRow { s.rowPart p with p := 1 }) fun g => g.wv d
            (mergeLanes m (BitVec.ofNat 2048 (t.data.toNat % 2 ^ 2048)) (g.rv d))
            (mergeBits m (BitVec.ofNat 64 (t.poison.toNat % 2 ^ 64)) (g.rvp d)))
      ∧ (∀ t l, r.fmtc = 10 → closed → (s.rowPart p).p ≠ 0 → seen = t :: l → exec (.recv d p k) s =
          retires (((s.setRow { s.rowPart p with p := 0 }).takeToks x c r 1).countMoved no 1) fun g => g.wv d
            (mergeLanes m (BitVec.ofNat 2048 (bits t.data.toNat 3839 2048)) (g.rv d))
            (mergeBits m (BitVec.ofNat 64 (bits t.poison.toNat 119 64)) (g.rvp d)))
      -- PEEKTAG and PCOUNT
      ∧ (r.fmtc ≠ 10 → exec (.peektag d p k) s = faults s 0x04 (p.setWidth 64))
      ∧ (∀ t l, r.fmtc = 10 → seen = t :: l → exec (.peektag d p k) s = retires s fun g => g.wv d
          (mergeLanes (m &&& 3) (BitVec.ofNat 2048 (bits t.data.toNat 3903 3840)) (g.rv d))
          (mergeBits (m &&& 3) (BitVec.ofNat 64 (bits t.poison.toNat 121 120)) (g.rvp d)))
      ∧ (r.fmtc = 10 → seen = [] → ch.closed = true → ch.left = 0 → exec (.peektag d p k) s = retires s fun g => g.wv d
          (mergeLanes (m &&& 3) (BitVec.ofNat 2048 (2 ^ 64 - 1)) (g.rv d)) (mergeBits (m &&& 3) 0 (g.rvp d)))
      ∧ (r.fmtc = 10 → seen = [] → (ch.closed = false ∨ ch.left ≠ 0) →
          exec (.peektag d p k) s = .next (s.park (.row p) false))
      ∧ exec (.pcount d p k) s = wrote s d (BitVec.ofNat 64 (seen.length + if ch.closed then 2 ^ 63 else 0)) false)
    ∧ (∀ c x r, 16 ≤ no → no < 32 → bound c x r →
      let room := roomOf x r (x.chan c)
      let had := tgetD no 0 s.fir.moved
      let toks := layOut r.fmtp m (s.regs.rv d) (s.regs.rvp d)
      let sent (l : List Tok) : State := (l.foldl (fun s t => s.pushTok x.field x.id c t) (s.countMoved no l.length)).notePoisonSent
        x.field x.id (l.any fun t => t.poison != 0)
      (r.fmtp ≠ 0 → exec (.sendg d p k) s = faults s 0x04 (p.setWidth 64))
      ∧ (r.fmtp = 0 → closed → r.pn < had + 1 → exec (.sendg d p k) s = faults s 0x05 (p.setWidth 64))
      ∧ (r.fmtp = 0 → closed → had + 1 ≤ r.pn → room = 0 → exec (.sendg d p k) s = .next (s.park (.room p 1) false))
      ∧ (r.fmtp = 0 → closed → had + 1 ≤ r.pn → 0 < room → exec (.sendg d p k) s =
          retires (sent [⟨(s.regs.rg d).setWidth 3904, if s.regs.rgp d then 3 else 0, none⟩]) id)
      ∧ (r.fmtp = 0 → ¬ closed → exec (.sendg d p k) s = faultsWord s 0x11 (.sendg d p k))
      ∧ (¬ closed → (r.fmtp = 10 → (s.rowPart p).p ≠ 2) → exec (.send d p k) s = faultsWord s 0x11 (.send d p k))
      ∧ (r.fmtp ≠ 10 → closed → r.pn < had + toks.length → exec (.send d p k) s = faults s 0x05 (p.setWidth 64))
      ∧ (r.fmtp = 10 → closed → (s.rowPart p).p = 0 → r.pn < had + 1 → exec (.send d p k) s = faults s 0x05 (p.setWidth 64))
      ∧ (r.fmtp = 10 → closed → (s.rowPart p).p = 0 → had + 1 ≤ r.pn → room = 0 →
          exec (.send d p k) s = .next (s.park (.room p 1) false))
      ∧ (r.fmtp ≠ 10 → closed → had + toks.length ≤ r.pn → toks.length ≤ room → exec (.send d p k) s = retires (sent toks) id)
      ∧ (r.fmtp ≠ 10 → closed → had + toks.length ≤ r.pn → room < toks.length →
          exec (.send d p k) s = .next (s.park (.room p toks.length) false))
      -- a row: two SENDs, then SENDTAG with the tag in lanes 0 and 1
      ∧ (r.fmtp = 10 → closed → (s.rowPart p).p = 0 → had + 1 ≤ r.pn → 0 < room → exec (.send d p k) s =
          retires ((s.setRow ⟨no, 1, BitVec.ofNat 3904 (mergeLanes m (s.regs.rv d) 0).toNat, (s.regs.rvp d &&& m).setWidth 128⟩).modChan
            x.field x.id c fun ch => { ch with sent := ch.sent + 1 }) id)
      ∧ (r.fmtp = 10 → closed → (s.rowPart p).p = 1 → exec (.send d p k) s = retires (s.setRow ⟨no, 2,
          (s.rowPart p).buf ||| BitVec.ofNat 3904 ((mergeLanes m (s.regs.rv d) 0).toNat % 2 ^ 1792 * 2 ^ 2048),
          (s.rowPart p).poison ||| ((s.regs.rvp d &&& m).setWidth 128 &&& BitVec.ofNat 128 (2 ^ 56 - 1)) <<< 64⟩) id)
      ∧ (r.fmtp = 10 → (s.rowPart p).p = 2 → exec (.send d p k) s = faults s 0x04 (p.setWidth 64))
      ∧ (let tag := (s.regs.rv d).toNat % 2 ^ 64
         (r.fmtp ≠ 10 ∨ (s.rowPart p).p ≠ 2 ∨ bits tag 47 43 ≠ 0 → exec (.sendtag d p k) s = faults s 0x04 (p.setWidth 64))
         ∧ (r.fmtp = 10 → (s.rowPart p).p = 2 → bits tag 47 43 = 0 → ¬ closed →
            exec (.sendtag d p k) s = faultsWord s 0x11 (.sendtag d p k))
         ∧ (r.fmtp = 10 → (s.rowPart p).p = 2 → bits tag 47 43 = 0 → closed →
            let q : BitVec 128 := (s.rowPart p).poison ||| (s.regs.rvp d &&& 3).setWidth 128 <<< 120
            exec (.sendtag d p k) s = retires (((((s.setRow ⟨no, 0, 0, 0⟩).modChan x.field x.id c
              fun ch => { ch with sent := ch.sent - 1 }).pushTok x.field x.id c ⟨(s.rowPart p).buf ||| BitVec.ofNat 3904 (tag * 2 ^ 3840),
                q, none⟩).countMoved no 1).notePoisonSent x.field x.id (q != 0)) id))
      ∧ exec (.pcount d p k) s = wrote s d (BitVec.ofNat 64 room) false)
    ∧ (s.fir.region.isSome = true → ∀ c x r, no < 16 → bound c x r → exec (.recv d p k) s = faultsWord s 0x11 (.recv d p k))

/-- KLD, KST, KINS and KCLR; KISSUE queues a command that passes every check, parks when the queue is full, and takes the port,
command or idempotent fault; KWAIT retires when no command of the firing is left at the port and else parks. -/
def Obligations.CommandRegisters : Prop :=
  ∀ (s t : State) (n : R3) (a : R5) (h : BitVec 1) (p : Port) (l : List Seg),
    let g := s.regs.rg a
    let w := s.regs.rk n
    let r := t.readSegs s.firCtx l
    let e : KWord := if cX w then s.regs.rk (n + 1) else 0
    let b := s.fir.bay
    let ctx := s.firCtx
    let no := p.toNat
    let bad : Prop := exec (.kissue n p) s = faults s 0x16 (BitVec.ofNat 64 (cOpc w * 256 + no))
    let isPort : Prop := 0x20 ≤ no ∧ no ≤ 0x2C
    let clean : Prop := (cX w = true → n.toNat % 2 = 0) ∧ s.regs.rkp n = false ∧ (cX w = true → s.regs.rkp (n + 1) = false)
    let legal : Prop := headerBad no w = false ∧ s.payloadBad b no ctx.fw ctx.fh w e = false
    let z : Word := if cOpc w = 0x0B ∧ w.getLsbD 19 then s.regs.rz (BitVec.ofNat 4 (cb w 18 15))
      else if cOpc w = 0x0C ∧ w.getLsbD 14 then s.regs.rz (BitVec.ofNat 4 (cb w 13 10)) else 0
    let cmd : Cmd :=
      ⟨s.nextCmd, w, e, s.fir.actor, s.fir.fidx, s.regs.pc, z, .tokens, 0, cPtr w, s.fir.region.isSome, false, [], 0, 0, 0, 0, 0, 0⟩
    -- the bay's held stores to its own window come before the command
    let next (z : State) : State := { z with nextCmd := s.nextCmd + 1 }
    let u : State := (next s).followStores b s.fir.actor s.fir.fidx s.nextCmd
    let full : Prop := Config.queueDepth ≤ (s.queue b no).length
    (s.loadAddr ctx g 16 = .ok (t, l) → (l.map Seg.addr).headD 0 % 16 = 0 → opens t ctx l →
      exec (.kld n a) s = retires r.1 fun x => x.wk n (BitVec.ofNat 128 (gotNat r.2)) (gotPoison r.2))
    ∧ (s.loadAddr ctx g 16 = .ok (t, l) → (l.map Seg.addr).headD 0 % 16 ≠ 0 → exec (.kld n a) s = memFaults s (t.flt ctx 0x0D g))
    ∧ (∀ f, s.loadAddr ctx g 16 = .error f → (f.code ≠ 0x0A ∨ s.fir.region = none) → exec (.kld n a) s = memFaults s f)
    ∧ ((s.fir.region = none ∨ ptrH g ≤ 1) → ∀ f, s.storeAddr ctx g 16 = .error f → exec (.kst n a) s = memFaults s f)
    ∧ ((s.fir.region = none ∨ ptrH g ≤ 1) → s.storeAddr ctx g 16 = .ok (t, l) → (l.map Seg.addr).headD 0 % 16 ≠ 0 →
      exec (.kst n a) s = memFaults s (t.flt ctx 0x0D g))
    ∧ (s.fir.region.isSome = true → 1 < ptrH g → exec (.kst n a) s = faultsWord s 0x11 (.kst n a))
    ∧ ((s.fir.region = none ∨ ptrH g ≤ 1) → s.storeAddr ctx g 16 = .ok (t, l) → (l.map Seg.addr).headD 0 % 16 = 0 → opens t ctx l →
      exec (.kst n a) s = retires (t.writeSegs ctx l (putBytes 16 w.toNat (s.regs.rkp n))) id)
    ∧ (∃ v, exec (.kins n a h) s = retires s (fun x => x.wk n v (s.regs.rkp n || s.regs.rgp a)) ∧ ∀ i, i < 128 →
        v.getLsbD i = if i / 64 = h.toNat then g.getLsbD (i % 64) else w.getLsbD i)
    ∧ exec (.kclr n) s = retires s (fun x => x.wk n 0 false)
    ∧ (¬ isPort → exec (.kissue n p) s = faults s 0x04 (p.setWidth 64) ∧ exec (.kwait p) s = faults s 0x04 (p.setWidth 64))
    ∧ (isPort → ¬ clean → bad) ∧ (isPort → clean → ¬ legal → bad)
    ∧ (isPort → clean → legal → s.fir.region.isSome = true → s.regionAllows ctx w e = false →
        exec (.kissue n p) s = faultsWord s 0x11 (.kissue n p))
    ∧ (isPort → clean → legal → (s.fir.region = none ∨ s.regionAllows ctx w e = true) → cOpc w ≠ 0x0F →
        (s.ownRange ctx w e = none → ¬ full → exec (.kissue n p) s = retires (u.enqueue b no cmd) id)
        ∧ (s.ownRange ctx w e = none → full → exec (.kissue n p) s = .next (u.park (.queue p cmd none) false))
        ∧ (∀ g, s.ownRange ctx w e = some g → s.sbFree b = true → ¬ full →
          exec (.kissue n p) s = retires ((u.sbTake b no b cmd.id g).enqueue b no cmd) id)
        ∧ (∀ g, s.ownRange ctx w e = some g → s.sbFree b = true → full →
          exec (.kissue n p) s = .next ((u.sbTake b no b cmd.id g).park (.queue p cmd none) false))
        ∧ (∀ g, s.ownRange ctx w e = some g → s.sbFree b = false →
          exec (.kissue n p) s = .next ((u.sbWait b cmd.id).park (.queue p cmd (some g)) false)))
    ∧ (isPort → clean → legal → s.fir.region = none → cOpc w = 0x0F → ¬ full →
        exec (.kissue n p) s = retires (((next (s.collSeq w e).1).followStores b s.fir.actor s.fir.fidx s.nextCmd).enqueue b no
          { cmd with seq := (s.collSeq w e).2 }) id)
    ∧ (isPort → clean → legal → s.fir.region = none → cOpc w = 0x0F → full → exec (.kissue n p) s =
        .next (((next (s.collSeq w e).1).followStores b s.fir.actor s.fir.fidx s.nextCmd).park
          (.queue p { cmd with seq := (s.collSeq w e).2 } none) false))
    ∧ (∀ f a id, ((s.followStores b a f id).bay b).fwd = (s.bay b).fwd.map fun e =>
        if e.actor = a ∧ e.fidx = f ∧ s.inWindow b (asSegs e.segs) = true then { e with cmds := e.cmds ++ [id] } else e)
    ∧ (∀ x, (s.enqueue b no x).queue b no = s.queue b no ++ [x])
    ∧ (isPort → (∀ c ∈ s.queue b no, ¬ (c.actor = s.fir.actor ∧ c.fidx = s.fir.fidx)) → exec (.kwait p) s =
        retires (s.takeCompletions b s.fir.actor no) id)
    ∧ (isPort → (∃ c ∈ s.queue b no, c.actor = s.fir.actor ∧ c.fidx = s.fir.fidx) →
        exec (.kwait p) s = .next (s.park (.cmds p) false))

/-- The privileged instructions of a firing of tenant 0: what HINV, IMGINV and TLBI drop and what holds HINV and TLBI back, the four status numbers of CTXSAVE
and CTXLOAD and the moves of a loft, the solve that SOLVREQ posts; a firing of another tenant takes the privilege fault with
FADDR the instruction word, and nothing else happens.
Rests on the model's own choices of notes/assumptions/31.md. -/
def Obligations.Privileged : Prop :=
  ∀ (s t : State) (d a b : R5) (l : List Seg),
    let x := s.regs.rg a
    let y := s.regs.rg b
    let tn := x.toNat % 16
    let all := x.getLsbD 4
    let i := x.toNat % 512
    let c := s.firCtx
    let moved (u : State) (n : Word) : Out := wrote u d n (u.regs.rgp a || u.regs.rgp b)
    (c.tenant ≠ 0 → exec (.hinv a b) s = faultsWord s 0x03 (.hinv a b) ∧ exec (.imginv a b) s = faultsWord s 0x03 (.imginv a b)
      ∧ exec (.tlbi a b) s = faultsWord s 0x03 (.tlbi a b) ∧ exec (.ctxsave d a b) s = faultsWord s 0x03 (.ctxsave d a b)
      ∧ exec (.ctxload d a b) s = faultsWord s 0x03 (.ctxload d a b) ∧ exec (.solvreq a b) s = faultsWord s 0x03 (.solvreq a b))
    ∧ (c.tenant = 0 →
      (let u := s.hinv tn all (y.toNat % 4096)
       exec (.hinv a b) s = if u.1.outstanding u.2 then .next (u.1.park (.inval u.2) true) else retires u.1 id)
      ∧ exec (.imginv a b) s = retires (s.dropImages tn all y) id
      ∧ (let u := s.tlbi tn all (y.toNat % 2 ^ 52)
         exec (.tlbi a b) s = if u.1.outstanding u.2 then .next (u.1.park (.inval u.2) true) else retires u.1 id)
      ∧ (∀ e ∈ (s.dropImages tn all y).images, e.tenant = tn → all = false ∧ e.ptr ≠ y)
      ∧ (∀ e ∈ (s.dropTlb tn all (y.toNat % 2 ^ 52)).tlb, e.tenant = tn → all = false ∧
          ¬ (e.va ≤ y.toNat % 2 ^ 52 ∧ y.toNat % 2 ^ 52 < e.va + e.size))
      ∧ (∀ e ∈ (s.dropTlb tn all (y.toNat % 2 ^ 52)).walks, e.tenant = tn → all = false ∧ e.page ≠ y.toNat % 2 ^ 52 / 2 ^ e.lo)
      ∧ (∀ n k e, (k, e) ∈ ((s.dropHandles tn all (y.toNat % 4096)).bay n).hcache → k / 4096 = tn → all = false ∧ k % 4096 ≠ y.toNat % 4096)
      ∧ (y.toNat % 64 ≠ 0 → exec (.ctxsave d a b) s = faults s 0x0D y ∧ exec (.ctxload d a b) s = faults s 0x0D y)
      ∧ (∀ f, y.toNat % 64 = 0 → s.storeAddr c y saveArea = .error f → exec (.ctxsave d a b) s = memFaults s f)
      ∧ (∀ f, y.toNat % 64 = 0 → s.loadAddr c y saveArea = .error f → (f.code ≠ 0x0A ∨ s.fir.region = none) →
          exec (.ctxload d a b) s = memFaults s f)
      ∧ (y.toNat % 64 = 0 → s.storeAddr c y saveArea = .ok (t, l) →
        (512 ≤ i → exec (.ctxsave d a b) s = moved t 5)
        ∧ (i < 512 → t.loft i = .empty → exec (.ctxsave d a b) s = moved t 1)
        ∧ (∀ n, i < 512 → t.loft i = .restoring n → exec (.ctxsave d a b) s = moved t 2)
        ∧ (∀ n, i < 512 → t.loft i = .full n → opens t c l →
            exec (.ctxsave d a b) s = moved ((t.writeSegs c l (t.loftBytes i)).setLoft i .empty) 0))
      ∧ (y.toNat % 64 = 0 → s.loadAddr c y saveArea = .ok (t, l) →
        let r := t.readSegs c l
        (512 ≤ i → exec (.ctxload d a b) s = moved t 5)
        ∧ (i < 512 → t.loft i ≠ .empty → exec (.ctxload d a b) s = moved t 4)
        ∧ (i < 512 → t.loft i = .empty → opens t c l → r.1.savedCtx i r.2 = none → exec (.ctxload d a b) s = moved r.1 3)
        ∧ (∀ u n, i < 512 → t.loft i = .empty → opens t c l → r.1.savedCtx i r.2 = some (u, n) →
            exec (.ctxload d a b) s = moved ((u.putLoft i r.2).setLoft i (.full n)) 0))
      ∧ (let u := if y.getLsbD 0 then s.dropMeasures tn else s
         (u.liveOf tn ≠ [] → exec (.solvreq a b) s = retires (u.postSolve tn 5) id)
         ∧ (u.liveOf tn = [] → exec (.solvreq a b) s = retires u id)))

/-! ### Firings -/

/-- The ports of a bay complete what waits at them first. A free slot goes to the actor that has been fireable longest, when no
parked firing is ready: its firing begins with the persistent set, no flags, RNE, no loops and the PC at its entry. A firing parked earliest of the ready ones takes a slot before
that: a completed instruction is retired, a region goes back to its checkpoint, any other is issued again.
Rests on the model's own readings of notes/assumptions/25.md (the sweeps of an acquire granted here) and
notes/assumptions/91.md (which of the two comes first, and when a firing's next instruction may issue). -/
def Obligations.FiringScheduling : Prop :=
  (∀ (s : State) (b i n : Nat) (cy : Word) (x : Inst) (a : ActorRec),
    s.bayRuns b = true → s.slots b < 4 → s.nextReady b = none →
    ((s.refresh b).bay b).fireOrder.head? = some (i, cy) → (s.refresh b).bayInst b = some x →
    ((s.refresh b).bayActors x b).find? (fun q => q.2.idx == i) = some (n, a) →
    ∃ t f, exec (.fireActor b) s = .next t ∧ f ∈ (t.bay b).firings ∧ f.actor = a.idx ∧ f.status = .ready ∧ f.slot = true
      ∧ f.regs.pc = BitVec.ofNat 64 ((codeRange x a).1 + a.entry) ∧ f.regs.flags = 0 ∧ f.regs.rmode = 0 ∧ f.regs.depth = 0
      ∧ f.region = none ∧ f.moved = [] ∧ f.regs.rg 0 = 0 ∧ f.regs.rm 0 = BitVec.allOnes 64
      ∧ (∀ k : Fin 8, f.regs.g[16 + k.val] = (tgetD a.idx Persist.zero (s.bay b).persist).g[k]
          ∧ f.regs.v[24 + k.val] = (tgetD a.idx Persist.zero (s.bay b).persist).v[k])
      ∧ tgetD a.idx 0 (t.bay b).fired = tgetD a.idx 0 (s.bay b).fired + 1 ∧ t.mem = s.mem)
  ∧ (∀ (s : State) (b : Nat) (f : Firing), let u := s.portsDone b
    s.bayRuns b = true → u.slots b < 4 → u.nextReady b = some f →
    exec (.firingResume b) s = .next (((u.resumeAcquire f).modFiring b f.actor Firing.resume).modBay b fun y =>
      { y with firings := (y.firings.filter fun z => z.actor ≠ f.actor) ++ y.firings.filter fun z => z.actor == f.actor }))
  ∧ (∀ (s : State) (b : Nat) (f : Firing), s.nextReady b = some f → exec (.fireActor b) s = .next s)
  ∧ (∀ (s : State) (b : Nat), (s.bayRuns b = false → exec (.firingResume b) s = .next s)
    ∧ (s.bayRuns b = true → 4 ≤ (s.portsDone b).slots b → exec (.firingResume b) s = .next (s.portsDone b))
    ∧ ((s.bayRuns b = false ∨ 4 ≤ s.slots b) → exec (.fireActor b) s = .next s))
  ∧ (∀ (s : State) (b : Nat), let u := s.portsDone b
    s.bayRuns b = true → u.slots b < 4 → u.nextReady b = none → exec (.firingResume b) s = .next (u.noteSweeps b))
  -- an instruction that waits at a port and can go on is executed there and is marked retired
  ∧ (∀ (s : State) (b : Nat), (∀ f ∈ (s.bay b).firings, f.atPort = false ∨ s.parkReady f = false) → s.portsDone b = s)
  ∧ (∀ (s : State) (b : Nat) (f : Firing), (s.bay b).firings = [f] → f.atPort = true → s.parkReady f = true →
    s.portsDone b = s.atPortDone f)
  ∧ (∀ (s t : State) (f : Firing) (w : Park) (i : Instr) (x : IWord), f.status = .parked w false → f.atPort = true →
    let u := s.load_ { f with status := .ready }
    u.fetch = .word x → decode x = .ok i →
    ((∃ d p k, i = .recv d p k) ∨ (∃ d p k, i = .send d p k) ∨ (∃ d p k, i = .recvg d p k) ∨ (∃ d p k, i = .sendg d p k)
      ∨ ∃ d p k, i = .peektag d p k) → exec i u = .next t → t.fir.status = .ready →
    s.atPortDone f = { ({ t with fir := { t.fir with
        status := .parked w true
        regs := { t.fir.regs with pc := f.regs.pc, depth := f.regs.depth, lc0 := f.regs.lc0, lc1 := f.regs.lc1 } } } : State).unload
      with fir := s.fir })
  ∧ (∀ (f : Firing) (p : Park), f.status = .parked p true → (∀ e a, p ≠ .page e a) →
    f.resume.regs = f.regs.endChecks f.regs.pc ∧ f.resume.status = .ready ∧ f.resume.slot = true)
  ∧ (∀ (f : Firing) (p : Park), f.status = .parked p false → (∀ e a, p ≠ .page e a) →
    f.resume.regs = f.regs ∧ f.resume.status = .ready ∧ f.resume.slot = true)
  ∧ (∀ (f : Firing) (e a : Word) (q : Bool) (r : Region), f.status = .parked (.page e a) q → f.region = some r →
    f.resume.regs = r.ckpt ∧ f.resume.region = some { r with staged := [] } ∧ f.resume.status = .ready ∧ f.resume.slot = true)
  ∧ (∀ (s : State) (b n : Nat) (x : Inst) (a : ActorRec), a.handler = false → s.fireable b x n a = true →
    s.inFiring b a.idx = false ∧ (∀ c k, (c, k) ∈ x.image.chans.zipIdx → c.cact = n →
        (if c.cvar then 1 else c.cn) ≤ (x.chan k).seenToks.length)
      ∧ ∀ c k, (c, k) ∈ x.image.chans.zipIdx → c.pact = n → c.pn ≤ roomOf x c (x.chan k))
  -- slots issue in turn: a firing that has issued does not issue again before one that has waited since
  ∧ (∀ (s : State) (b a : Nat) (f g : Firing) (rest : List Firing), s.ready b = g :: rest → s.issuable b a = some f →
    s.bayRuns b = true ∧ f ∈ s.ready b ∧ f.actor = a ∧ (f.fresh = true ∨ g.actor = a))

/-- The steps of every stream command: step 1 takes a done token of each incoming edge or waits, step 2 waits on WSEM, NOPC
makes no access, step 4 waits until the command's accesses are performed and its tokens have arrived, then releases, signals
and frees the queue entry. A command at another step, or behind a faulted one, does not move. -/
def Obligations.CommandSteps : Prop :=
  ∀ (s : State) (b : Nat) (p : Port) (c : Cmd),
    let no := p.toNat
    (s.head b no = none → exec (.doneTokenTake b p) s = .next s ∧ exec (.commandSemaphoreWait b p) s = .next s
      ∧ exec (.commandComplete b p) s = .next s ∧ exec (.nopc b p) s = .next s)
    ∧ (no ∈ (s.bay b).stuck → s.head b no = none)
    ∧ (s.head b no = some c →
      (c.phase ≠ .tokens → exec (.doneTokenTake b p) s = .next s)
      ∧ (∀ x, c.phase = .tokens → s.bayInst b = some x → (∀ h ∈ (s.bay b).held, h.1 ≠ no) →
          (∀ e ∈ s.inEdges x b no, 0 < s.edgeCount b e.1) → exec (.doneTokenTake b p) s =
            .next (((s.inEdges x b no).foldl (fun s q => s.takeDone x b no q.1 q.2) s).modHead b no fun c => { c with phase := .sema }))
      ∧ (∀ x e, c.phase = .tokens → s.bayInst b = some x → e ∈ s.inEdges x b no → s.edgeCount b e.1 = 0 →
          exec (.doneTokenTake b p) s = .next s)
      ∧ (c.phase = .sema → cWthr c.word = 0 →
          exec (.commandSemaphoreWait b p) s = .next (s.modHead b no fun c => { c with phase := .run, started := s.draw }))
      ∧ (c.phase = .sema → cWthr c.word ≠ 0 → c.waiting = true → exec (.commandSemaphoreWait b p) s = .next s)
      ∧ (c.phase = .sema → cWthr c.word ≠ 0 → c.waiting = false → exec (.commandSemaphoreWait b p) s =
          .next (((s.modHead b no fun c => { c with waiting := true }).modBay b fun x =>
            { x with semWaiters := x.semWaiters ++ [⟨cWsem c.word, cWthr c.word, .cmd b no, 0⟩] }).setSem b (cWsem c.word)
              (s.sem b (cWsem c.word))))
      ∧ (c.phase = .sema → cWthr c.word ≠ 0 → c.waiting = false → (s.bay b).semWaiters = [] →
          cWthr c.word ≤ s.sem b (cWsem c.word) → ∃ t, exec (.commandSemaphoreWait b p) s = .next t
            ∧ t.sem b (cWsem c.word) = s.sem b (cWsem c.word) - cWthr c.word
            ∧ (t.queue b no).head? = some { c with phase := .run, waiting := false, started := s.draw })
      ∧ (c.phase = .run → cOpc c.word = 0x12 → exec (.nopc b p) s = .next (ends s b no))
      ∧ (c.phase = .finish → s.cmdSettled b no c = true → exec (.commandComplete b p) s = .next (s.completeCmd b no c))
      ∧ (c.phase = .finish → s.cmdSettled b no c = false → exec (.commandComplete b p) s = .next s)
      ∧ (s.cmdSettled b no c = true ↔ (∀ u ∈ s.rwq, u.who ≠ .cmd b no) ∧ s.pairsHeld (.cmd b no) = false
          ∧ (c.fed = 0 ∨ ∀ x, s.bayInst b = some x → c.last ≤ (x.chan (c.fed - 1)).sent - (x.chan (c.fed - 1)).part.length))
      ∧ (∀ x, c.phase = .finish → s.cmdSettled b no c = true → s.bayInst b = some x → s.outEdges x b no = [] →
          cScope c.word < 3 → cSinc c.word = 0 → (∀ z ∈ s.sentSets, z.who ≠ .party (.cmd b no)) →
          (∀ q ∈ s.pairs, q.who ≠ .cmd b no) → exec (.commandComplete b p) s =
            .next ((s.modBay b fun y => { y with queues := tmod no [] (fun l => l.drop 1) y.queues }).serveQueues b))
      ∧ (c.phase ≠ .finish → exec (.commandComplete b p) s = .next s))
    ∧ (∀ x n e, s.edgeCount (s.plotBay x e.dbx e.dby) n < 0xFFFF →
        (s.sendDone x b no n e).edgeCount (s.plotBay x e.dbx e.dby) n = s.edgeCount (s.plotBay x e.dbx e.dby) n + 1)
    ∧ (∀ x n e, 0xFFFF ≤ s.edgeCount (s.plotBay x e.dbx e.dby) n →
        (s.sendDone x b no n e) = s.modBay b fun y => { y with held := y.held ++ [(no, n)] })

/-- The commands that move tokens, one token or the end in an event: LDS, LDL, SPLRD push a token once there is room, STS, SCT
and UPDS take the token whose store or pair has been made, UPDS also pairs of the scratchpad; the count, the end with end of
stream, the wait for room or a token, and the fault of an access, which ends the command and leaves the token. A granule that
several tokens cover is read once and stored once: what an LDS has read of it, and an STS has taken, stands in the command.
Tokens of an LDS from the bay's own scratchpad move one a bay cycle. The two single-token events do the same as the command's own.
Rests on the model's own choices of notes/assumptions/24.md, notes/assumptions/30.md and notes/assumptions/99.md. -/
def Obligations.StreamTokens : Prop :=
  ∀ (s t : State) (b : Nat) (p : Port) (c : Cmd) (x : Inst) (k : Nat) (r : ChanRec) (q : Word) (l : List (Byte × Bool)),
    let no := p.toNat
    let ctx := s.cmdCtx b no
    let feed := s.extIn b (cb c.word 19 13) = some (x, k, r)
    let free := s.feedGated x r (x.chan k) = false
    let room := feedRoom x r (x.chan k) c.region
    let closes (s : State) : State := if cEos c.word then s.closeChan x.field x.id k else s
    let sz := fmtSize r.fmtp
    let reads := s.readAhead ctx State.readVia q sz c.held (tokensFollow c (cb c.word 12 0) sz q)
    -- a read of `n` bytes that takes a granule whole
    (∀ read n hold more segs, s.loadAddr ctx q n = .ok (t, segs) →
      let e := granuleRest segs
      (n ≤ hold.length → s.readAhead ctx read q n hold more = .ok t (hold.take n) (hold.drop n))
      ∧ (∀ u bs, hold.length < n → (e = 0 ∨ more e = false) → read t ctx (dropRuns hold.length segs) = .ok u bs →
          s.readAhead ctx read q n hold more = .ok u ((hold ++ bs).take n) ((hold ++ bs).drop n))
      ∧ ∀ u w segs' bs, hold.length < n → e ≠ 0 → more e = true → s.loadAddr ctx q (n + e) = .ok (w, segs') →
          read w ctx (dropRuns hold.length segs') = .ok u bs →
          s.readAhead ctx read q n hold more = .ok u ((hold ++ bs).take n) ((hold ++ bs).drop n))
    ∧ (∀ (l : List Seg) a k, 0 < k → let e := granuleRest (l ++ [⟨a, k⟩])
        e < 32 ∧ (e ≠ 0 → (a + k + e) % 32 = 0 ∧ a ≤ (a + k) / 32 * 32 ∧ (a + k) % 32 ≠ 0))
    -- LDS
    ∧ (running s b no 0x01 c → feed → cb c.word 12 0 ≤ c.pos → exec (.lds b p) s = .next (ends (closes s) b no)
        ∧ exec (.engineTokenPush b p) s = .next (ends (closes s) b no))
    ∧ (∀ rest, running s b no 0x01 c → feed → c.pos < cb c.word 12 0 → free → tokenPtr c c.pos sz = some q →
        reads = .ok t l rest →
        let u := (steps (t.feedTok b no x k (tokFrom b c l)) b no).modHead b no (Cmd.hold rest)
        (room = true → s.localHead b no = false → exec (.lds b p) s = .next u ∧ exec (.engineTokenPush b p) s = .next u)
        ∧ (room = true → s.localHead b no = true → localCycles b no 1 s = u)
        ∧ (room = false → exec (.lds b p) s = .next s ∧ exec (.engineTokenPush b p) s = .next s))
    ∧ (s.localHead b no = true → exec (.lds b p) s = .next s ∧ exec (.engineTokenPush b p) s = .next s)
    ∧ (running s b no 0x01 c → feed → c.pos < cb c.word 12 0 → free → tokenPtr c c.pos sz = none →
        exec (.lds b p) s = .next (s.cmdFlt b no c (.mk0 0x08 (cPtr c.word)) true))
    ∧ (∀ f, running s b no 0x01 c → feed → c.pos < cb c.word 12 0 → free → tokenPtr c c.pos sz = some q → reads = .flt f → exec (.lds b p) s = .next (s.cmdFlt b no c f true))
    -- LDL: the next pointer is read from the node
    ∧ (running s b no 0x03 c → feed → (ptrOff c.ptr = 0 ∨ (cb c.word 6 0 ≠ 0 ∧ cb c.word 6 0 ≤ c.pos)) →
        exec (.ldl b p) s = .next (ends (closes s) b no))
    ∧ (running s b no 0x03 c → feed → ptrOff c.ptr ≠ 0 → (cb c.word 6 0 = 0 ∨ c.pos < cb c.word 6 0) → free →
        s.load ctx c.ptr (fmtSize r.fmtp) = .ok t l → room = true → exec (.ldl b p) s =
          .next ((t.feedTok b no x k (tokFrom b c l)).modHead b no fun z =>
            { z with pos := z.pos + 1, ptr := mkPtr (ptrH (cPtr z.word)) (gotNat ((l.drop (8 * cb c.word 12 7)).take 8)) }))
    -- SPLRD
    ∧ (∀ z tk, running s b no 0x10 c → feed → c.pos < cb c.word 12 0 → free → x.image.chans[cb c.word 83 68]? = some z →
        (x.chan (cb c.word 83 68)).ringCount ≠ 0 → room = true → s.ringPop x (cb c.word 83 68) z = some (t, tk) →
        exec (.splrd b p) s = .next (steps ((t.modChan x.field x.id (cb c.word 83 68) fun ch =>
            { ch with consumed := ch.consumed + z.k
                      seen := if t.crossing x z then ch.seen else ch.consumed + z.k }).feedTok b no x k tk) b no))
    ∧ (running s b no 0x10 c → feed → cb c.word 12 0 ≤ c.pos → exec (.splrd b p) s = .next (ends (closes s) b no))
    -- STS and SCT: the store is made, then the token is gone
    ∧ (running s b no 0x02 c → cb c.word 12 0 ≤ c.pos → exec (.sts b p) s = .next (ends s b no))
    -- what waits for the rest of its granule stands before the token
    ∧ (∀ tk segs u v z q0 keep, running s b no 0x02 c → c.pos < cb c.word 12 0 →
        s.drainHead b (cb c.word 19 13) = some (x, k, r, tk) → tokenPtr c c.pos (fmtSize r.fmtc) = some q →
        s.storeAddr ctx q (fmtSize r.fmtc) = .ok v → offsetAdd q (-(c.held.length : Int)) = some q0 →
        let all := c.held ++ tokOut (fmtSize r.fmtc) tk
        s.storeAddr ctx q0 all.length = .ok (u, segs) →
        let e := granuleRest segs
        let follow := tokensFollow c (cb c.word 12 0) (fmtSize r.fmtc) q e
        (keep = 32 - e ∧ e ≠ 0 ∧ follow = true ∧ s.storeAddr ctx q0 (all.length + e) = .ok z
          ∨ keep = 0 ∧ (e = 0 ∨ follow = false ∨ ∃ f, s.storeAddr ctx q0 (all.length + e) = .error f)) →
        let now := all.length - keep
        let at_ := cutRuns (segs.map fun y => (y.addr, y.len)) 0 now
        let goes (u : State) : Out := .next ((steps (u.takeToks x k r 1) b no).modHead b no (Cmd.hold (all.drop now)))
        (now = 0 → exec (.sts b p) s = goes u)
        ∧ (now ≠ 0 → opens u ctx at_ → exec (.sts b p) s = goes (u.writeSegs ctx at_ (all.take now))))
    ∧ (∀ tk f, running s b no 0x02 c → c.pos < cb c.word 12 0 → s.drainHead b (cb c.word 19 13) = some (x, k, r, tk) →
        tokenPtr c c.pos (fmtSize r.fmtc) = some q → s.storeAddr ctx q (fmtSize r.fmtc) = .error f →
        (c.held = [] → exec (.sts b p) s = .next (s.cmdFail b no c f))
        ∧ ∀ q0 u segs, c.held ≠ [] → offsetAdd q (-(c.held.length : Int)) = some q0 →
            s.storeAddr ctx q0 c.held.length = .ok (u, segs) → opens u ctx segs →
            exec (.sts b p) s = .next (((u.writeSegs ctx segs c.held).modHead b no (Cmd.hold [])).cmdFail b no c f))
    ∧ (running s b no 0x02 c → c.pos < cb c.word 12 0 → s.drainHead b (cb c.word 19 13) = none → c.held = [] →
        exec (.sts b p) s = .next s)
    ∧ (∀ q0 u segs, running s b no 0x02 c → c.pos < cb c.word 12 0 → s.extOut b (cb c.word 19 13) = some (x, k, r) →
        (x.chan k).seenToks = [] → (x.chan k).closed = true → (x.chan k).left = 0 → c.held ≠ [] →
        tokenPtr c c.pos (fmtSize r.fmtc) = some q → offsetAdd q (-(c.held.length : Int)) = some q0 →
        s.storeAddr ctx q0 c.held.length = .ok (u, segs) → opens u ctx segs →
        exec (.sts b p) s = .next ((u.writeSegs ctx segs c.held).modHead b no (Cmd.hold [])))
    ∧ (∀ tk segs u, running s b no 0x07 c → c.pos < cb c.word 10 0 → s.drainHead b (cb c.word 19 13) = some (x, k, r, tk) →
        offsetAdd (cPtr c.word) ((bits tk.data.toNat 51 0 : Nat) : Int) = some q →
        let d := ((tokOut 16 tk).drop 8).take (2 ^ cb c.word 12 11)
        s.storeAddr ctx q d.length = .ok (u, segs) → opens u ctx segs →
        (no ≠ 0x2B → exec (.sct b p) s = .next (steps ((u.writeSegs ctx segs d).takeToks x k r 1) b no))
        ∧ (no = 0x2B → exec (.sctGleaner b) s = .next (steps ((u.writeSegs ctx segs d).takeToks x k r 1) b no)))
    ∧ (running s b no 0x07 c → cb c.word 10 0 ≤ c.pos → (no ≠ 0x2B → exec (.sct b p) s = .next (ends s b no))
        ∧ (no = 0x2B → exec (.sctGleaner b) s = .next (ends s b no)))
    -- UPDS: from tokens, and from the scratchpad
    ∧ (∀ tk pr, running s b no 0x09 c → c.pos < cb c.word 15 0 → c.word.getLsbD 71 = false →
        s.drainHead b (cb c.word 60 54) = some (x, k, r, tk) →
        let bad := decide (bits tk.poison.toNat 3 2 ≠ 0)
        s.pairOf ctx (mkPtr (cb c.word 83 72) (bits tk.data.toNat 63 0)) (updVal (bits tk.data.toNat 127 64)) bad = .ok (t, pr) →
        let i := (t.bay b).inst.getD (0, 0)
        exec (.upds b p) s = .next (steps (((t.sendPair pr).notePoisonSent i.1 i.2 bad).takeToks x k r 1) b no))
    ∧ (∀ pr, running s b no 0x09 c → c.pos < cb c.word 15 0 → c.word.getLsbD 71 = true →
        let at_ : List Seg := [⟨s.ga (windowAddr b (8 * cb c.word 70 54 + 16 * c.pos)), 16⟩]
        opens s ctx at_ →
        let u := s.readSegs ctx at_
        let bad := gotPoison (u.2.drop 8)
        u.1.pairOf (u.1.cmdCtx b no) (mkPtr (cb c.word 83 72) (gotNat (u.2.take 8))) (updVal (gotNat (u.2.drop 8))) bad
          = .ok (t, pr) →
        let i := (t.bay b).inst.getD (0, 0)
        exec (.upds b p) s = .next (steps ((t.sendPair pr).notePoisonSent i.1 i.2 bad) b no))
    ∧ (running s b no 0x09 c → cb c.word 15 0 ≤ c.pos → exec (.upds b p) s = .next (ends s b no))
    ∧ (running s b no 0x09 c → c.pos < cb c.word 15 0 → c.word.getLsbD 71 = false → s.drainHead b (cb c.word 60 54) = none →
        exec (.upds b p) s = .next s)
    -- the single-token events
    ∧ (running s b no 0x02 c → exec (.engineTokenTake b p) s = exec (.sts b p) s)
    ∧ (running s b no 0x07 c → no ≠ 0x2B → exec (.engineTokenTake b p) s = exec (.sct b p) s)
    ∧ (running s b no 0x09 c → exec (.engineTokenTake b p) s = exec (.upds b p) s)
    ∧ (running s b no 0x03 c → exec (.engineTokenPush b p) s = exec (.ldl b p) s)
    ∧ (running s b no 0x10 c → exec (.engineTokenPush b p) s = exec (.splrd b p) s)

/-- The copies: the destination range tested before the first byte, the scoreboard entry taken there; one piece of a CPY or
FILL, which writes what it read (free values where the ranges overlap) and moves on by its length, and the least piece where a
whole one would fault; the end of a CPY, FILL or CPYM; the stream a CPYM opens or joins, and the fault of a CPYM whose source or
receivers cannot be formed.
Rests on the model's own choices of notes/assumptions/39.md, notes/assumptions/40.md, notes/assumptions/88.md (the source of a
CPYM is formed whole before its request, and an empty mask or length makes none) and notes/assumptions/89.md (the test of a
destination that lies partly in a window). -/
def Obligations.Copies : Prop :=
  ∀ (s t u v : State) (b : Nat) (c : Cmd),
    let ctx := s.cmdCtx b 0x28
    let len := cb c.word 19 0
    let flen := 32 * cb c.word 19 8
    let cw := s.cpyRange b 0x28 c
    let fw := s.formed ctx true (cPtr c.word) 34 0 flen
    let from_ := (s.formed ctx false (cPtr c.word) 34 0 (cpyLen c)).2
    -- the state from which the piece at hand moves, for a command whose destination range is `w`
    let starts (w : State × List Seg) (f : Option Flt) (z : State) : Prop :=
      (c.pos ≠ 0 ∧ z = s) ∨ (c.pos = 0 ∧ f = none ∧ w.1.takeInbound b 0x28 c w.2 = (z, true))
    let far (z : State) (l : List Seg) : Prop := reaches z (z.cmdCtx b 0x28) l
    let cf := spanFlt (!cX c.word) (ePtr c.ext) cw.2 (if cX c.word then s.rangeOut ctx c (ePtr c.ext) (cpyLen c) else none)
    let ff := spanFlt false (cPtr c.word) fw.2 (s.rangeOut ctx c (cPtr c.word) flen)
    -- `l` is written at `segs` and the command moves on, with `rest` read past it; a register-window unit keeps the handle
    let put (z : State) (segs : List Seg) (l rest : List (Byte × Bool)) : State :=
      ((z.writeSegs (z.cmdCtx b 0x28) segs l).unitsThrough z (((z.queue b 0x28).head?.map copyHandle).getD 0)).modHead b 0x28
        fun y => { Cmd.hold rest y with pos := y.pos + l.length }
    let reads (z : State) (q : Word) (n : Nat) : Ahead :=
      z.readAhead ctx State.readOpen q n c.held fun e => decide (c.pos + n + e ≤ cpyLen c)
    -- the piece of `n` bytes at hand moves and leaves `o`, or faults with `f` in `o`
    let moves (z : State) (q : Word) (n : Nat) (o : State) : Prop := ∃ t l rest u segs, reads z q n = .ok t l rest
      ∧ t.cpyDest b 0x28 c c.pos n = .ok (u, segs) ∧ far u segs ∧ o = put u segs (u.cpySource from_ cw.2 (segBytes segs) l) rest
    let fails (z : State) (q : Word) (n : Nat) (o : State) (f : Flt) : Prop := reads z q n = .flt f ∧ o = z
      ∨ ∃ l rest, reads z q n = .ok o l rest ∧ o.cpyDest b 0x28 c c.pos n = .error f
    (running s b 0x28 0x04 c → cpyLen c ≤ c.pos → exec (.cpy b) s = .next (ends (s.sbDropAll c.id) b 0x28))
    ∧ (running s b 0x28 0x06 c → flen ≤ c.pos → exec (.fill b) s = .next (ends (s.sbDropAll c.id) b 0x28))
    -- before the first byte
    ∧ (∀ f, running s b 0x28 0x04 c → c.pos = 0 → 0 < cpyLen c → cf = some f →
        exec (.cpy b) s = .next (cw.1.cmdFlt b 0x28 c f true))
    ∧ (∀ f, running s b 0x28 0x06 c → c.pos = 0 → 0 < flen → ff = some f →
        exec (.fill b) s = .next (fw.1.cmdFlt b 0x28 c f false))
    ∧ (∀ loc dst l k f, spanFault l = none → k ≠ 0 → f.code = 0x0B →
        spanFlt loc dst l (some (k, f)) = some { f with faddr := dst })
    ∧ (running s b 0x28 0x04 c → c.pos = 0 → 0 < cpyLen c → cf = none →
        cw.1.takeInbound b 0x28 c cw.2 = (t, false) → exec (.cpy b) s = .next t)
    -- one piece of a copy
    ∧ (running s b 0x28 0x04 c → c.pos < cpyLen c → starts cw cf v → offsetAdd (cPtr c.word) (c.pos : Int) = none →
        exec (.cpy b) s = .next (v.cmdFlt b 0x28 c (.mk0 0x08 (cPtr c.word)) true))
    ∧ (∀ q, running s b 0x28 0x04 c → c.pos < cpyLen c → starts cw cf v → offsetAdd (cPtr c.word) (c.pos : Int) = some q →
        (∀ f, v.loadAddr ctx q 1 = .error f → exec (.cpy b) s = .next (v.cmdFlt b 0x28 c f true))
        ∧ ∀ l, v.loadAddr ctx q 1 = .ok (t, l) →
          (∀ f, t.cpyDest b 0x28 c c.pos 1 = .error f → exec (.cpy b) s = .next (t.cmdFlt b 0x28 c f true))
          ∧ ∀ z d o w w' f f', t.cpyDest b 0x28 c c.pos 1 = .ok (z, d) →
            let n := pieceLen ((d.map Seg.addr).headD 0) (cpyLen c - c.pos)
            let m := unitLen ((d.map Seg.addr).headD 0) (cpyLen c - c.pos)
            (moves z q n o → exec (.cpy b) s = .next o)
            ∧ (fails z q n w f → moves z q m o → exec (.cpy b) s = .next o)
            ∧ (fails z q n w f → fails z q m w' f' → exec (.cpy b) s = .next (w'.cmdFlt b 0x28 c f' true)))
    ∧ (∀ (src dst : List Seg) a l, (∀ x ∈ src, ∀ y ∈ dst, x.addr + x.len ≤ y.addr ∨ y.addr + y.len ≤ x.addr) →
        s.cpySource src dst a l = l)
    -- one piece of a fill
    ∧ (∀ q d w, running s b 0x28 0x06 c → c.pos < flen → starts fw ff v →
        offsetAdd (cPtr c.word) (c.pos : Int) = some q → v.copyAddr ctx q 1 = .ok (t, d) →
        let n := pieceLen ((d.map Seg.addr).headD 0) (flen - c.pos)
        let m := unitLen ((d.map Seg.addr).headD 0) (flen - c.pos)
        let fills (n : Nat) : List (Byte × Bool) := List.replicate n (BitVec.ofNat 8 (cb c.word 7 0), false)
        (t.copyAddr ctx q n = .ok (u, w) → far u w → exec (.fill b) s = .next (put u w (fills n) []))
        ∧ ∀ f, t.copyAddr ctx q n = .error f →
          (t.copyAddr ctx q m = .ok (u, w) → far u w → exec (.fill b) s = .next (put u w (fills m) []))
          ∧ ∀ f', t.copyAddr ctx q m = .error f' → exec (.fill b) s = .next (t.cmdFlt b 0x28 c f' false))
    ∧ (∀ a left, 0 < left → 0 < unitLen a left ∧ unitLen a left ≤ pieceLen a left)
    ∧ (∀ a left, 0 < left → 0 < pieceLen a left ∧ pieceLen a left ≤ left ∧ pieceLen a left ≤ 32
        ∧ a / 32 = (a + pieceLen a left - 1) / 32)
    -- CPYM
    ∧ (s.cpymEnd b c = { ends (s.sbDropAll c.id) b 0x28 with
        streams := (ends (s.sbDropAll c.id) b 0x28).streams.filter fun m =>
          decide (m.id ≠ c.stream) || (ends (s.sbDropAll c.id) b 0x28).streamLive m.id })
    ∧ (running s b 0x28 0x05 c → (cb c.ext 127 64 = 0 ∨ len = 0) →
        exec (.cpym b) s = .next (s.cpymEnd b c) ∧ exec (.multicastRequest b) s = .next s)
    ∧ (∀ m, running s b 0x28 0x05 c → cb c.ext 127 64 ≠ 0 → len ≠ 0 → s.streams.find? (fun m => m.id == c.stream) = some m →
        (m.len + c.joined ≤ m.read → exec (.cpym b) s = .next (s.cpymEnd b c))
        ∧ (m.read < m.len + c.joined → exec (.cpym b) s = .next (cpymGranule b s m)))
    ∧ (running s b 0x28 0x05 c → cb c.ext 127 64 ≠ 0 → len ≠ 0 → s.streams.find? (fun m => m.id == c.stream) = none →
        (∀ f, s.cpymSource b c = .error f → exec (.cpym b) s = .next (s.cmdFail b 0x28 c f))
        ∧ (∀ x, s.cpymSource b c = .ok x → exec (.cpym b) s = .next s))
    ∧ (running s b 0x28 0x05 c → c.stream ≠ 0 → exec (.multicastRequest b) s = .next s)
    ∧ (∀ f, running s b 0x28 0x05 c → s.cpymSource b c = .error f → exec (.multicastRequest b) s = .next s)
    ∧ (∀ l, running s b 0x28 0x05 c → cb c.ext 127 64 ≠ 0 → len ≠ 0 → c.stream = 0 → s.cpymSource b c = .ok (t, l) →
        (t.routeFor (t.cmdCtx b 0x28) l = (u, some false) → exec (.multicastRequest b) s = .next u)
        ∧ (t.routeFor (t.cmdCtx b 0x28) l = (u, some true) → exec (.multicastRequest b) s = .next
          ({ u.modHead b 0x28 (fun c => { c with stream := u.nextStream, joined := 0 }) with
              streams := u.streams ++ [⟨u.nextStream, (t.cmdCtx b 0x28).tenant, l.map fun x => (x.addr, x.len), len, 0, false, 0, 0, true⟩]
              nextStream := u.nextStream + 1 })))
    ∧ (∀ l, running s b 0x28 0x05 c → cb c.ext 127 64 ≠ 0 → len ≠ 0 → c.stream = 0 → s.cpymSource b c = .ok (t, l) →
        (∀ x ∈ l, t.noRoute (t.cmdCtx b 0x28).who x.addr = false) →
        let tn := (t.cmdCtx b 0x28).tenant
        let src := l.map fun x => (x.addr, x.len)
        (t.streams.find? (t.joinable tn len src) = none → exec (.multicastRequest b) s = .next
          (({ t.modHead b 0x28 (fun c => { c with stream := t.nextStream, joined := 0 }) with
              streams := t.streams ++ [⟨t.nextStream, tn, src, len, 0, false, 0, 0, false⟩], nextStream := t.nextStream + 1 } : State).modTenant
            tn fun x => { x with mcstat := wadd x.mcstat 63 48 1 }))
        ∧ (∀ m, t.streams.find? (t.joinable tn len src) = some m → exec (.multicastRequest b) s = .next
          (({ t.modHead b 0x28 (fun c => { c with stream := m.id, joined := m.read }) with
              streams := t.streams.map fun y => if y.id = m.id then
                { y with joins := y.joins + 1, replayTo := Nat.max y.replayTo m.read } else y } : State).modTenant
            tn fun x => { x with mcstat := wadd x.mcstat 47 32 1 })))
    -- a stream that takes a joiner: same tenant, source and length, begun and not read to its end, unwritten, under 4 joiners
    ∧ (∀ tn n src m, s.joinable tn n src m = true → m.tenant = tn ∧ m.src = src ∧ m.len = n ∧ 0 < m.read ∧ m.read < n
        ∧ m.written = false ∧ m.joins < 4 ∧ m.lost = false)

/-- GTH into the scratchpad and into a port: the elements in index order, a null index giving zero bytes, the index and the
element read with the lines the merge buffer holds, the KV check, the wait for room, the end, the faults; a line read early
waits in the merge buffer with its index; the lines of a die are shared out by age, at most 256 a command and 1,024 in all, and
the oldest command's ready element goes first; a register-window unit lands between instructions, not at a frozen bay; the head
of a spill ring moves into the FIFO when that has room.
Rests on the model's own choices of notes/assumptions/47.md. -/
def Obligations.GatherAndLanding : Prop :=
  ∀ (s t u : State) (b : Nat) (c : Cmd) (l : List (Byte × Bool)),
    let scr := c.word.getLsbD 16
    let turn := s.olderReady b c = false
    let run := running s b 0x2B 0x08 c
    -- the lines of a scratchpad element are held, or there is a buffer line for them
    let inBuffer : Bool := (List.range ((s.gthLines b c c.pos).getD []).length).all fun k => (tget (lineKey c.pos k) c.lines).isSome
    -- the end
    (run → s.olderReady b c = true → exec (.gth b) s = .next s)
    ∧ (run → turn → scr = true → gthN c ≤ c.pos → exec (.gth b) s = .next (ends (s.sbDropAll c.id) b 0x2B))
    ∧ (∀ x k r, run → turn → scr = false → s.extIn b (cb c.word 6 0) = some (x, k, r) → gthN c ≤ c.pos / gthPer c r →
        exec (.gth b) s = .next (ends s b 0x2B))
    -- an element to its scratchpad slot
    ∧ (run → turn → scr = true → c.pos < gthN c → inBuffer = false → (s.yieldLines b).gthShare b = 0 →
        exec (.gth b) s = .next (s.yieldLines b))
    ∧ (run → turn → scr = true → c.pos < gthN c → (inBuffer = true ∨ (s.yieldLines b).gthShare b ≠ 0) → Gathers s u b c c.pos l →
        let dst : List Seg := [⟨u.ga (windowAddr b (16 * cb c.word 15 0 + gthEsz c * c.pos)), gthEsz c⟩]
        reaches u (u.cmdCtx b 0x2B) dst →
        exec (.gth b) s = .next ((u.writeSegs (u.cmdCtx b 0x2B) dst l).modHead b 0x2B
          fun z => { z with pos := z.pos + 1, lines := dropLines z (z.pos + 1) }))
    -- the tokens of an element, from the buffer
    ∧ (∀ x k r z, run → turn → scr = false → s.extIn b (cb c.word 6 0) = some (x, k, r) → c.pos / gthPer c r < gthN c →
        let n := c.pos / gthPer c r
        let j := c.pos % gthPer c r
        let sz := fmtSize r.fmtp
        let there : Prop := ∀ i, i < sz → (tget (elemKey c n (sz * j + i)) c.lines).isSome = true
        let pushes (u : State) (z : Cmd) : State :=
          (u.feedTok b 0x2B x k (tokFrom b z ((List.range sz).map fun i => tgetD (elemKey c n (sz * j + i)) (0, false) z.lines))).modHead
            b 0x2B fun z => { z with pos := z.pos + 1, lines := if gthPer c r ≤ j + 1 then dropLines z (n + 1) else z.lines }
        (j ≠ 0 → there → exec (.gth b) s = .next (if feedRoom x r (x.chan k) c.region then pushes s c else s))
        ∧ ((j = 0 ∨ ¬ there) → Fills s u b c n (sz * j) sz → u.head b 0x2B = some z → z.word = c.word → z.ext = c.ext →
            z.region = c.region → exec (.gth b) s = .next (if feedRoom x r (x.chan k) c.region then pushes u z else u)))
    ∧ (run → exec (.engineTokenPush b 0x2B) s = exec (.gth b) s)
    -- faults of element n, when it is read
    ∧ (∀ f n, run → turn → n < gthN c →
        (scr = true ∧ c.pos = n ∧ (inBuffer = true ∨ (s.yieldLines b).gthShare b ≠ 0)
          ∨ scr = false ∧ ∃ x k r, s.extIn b (cb c.word 6 0) = some (x, k, r) ∧ c.pos = n * gthPer c r) →
        (∀ q, offsetAdd (cPtr c.word) ((gthIsz c * n : Nat) : Int) = some q → s.load (s.cmdCtx b 0x2B) q (gthIsz c) = .flt f →
          exec (.gth b) s = .next (s.cmdFlt b 0x2B c f true))
        ∧ (∀ q w v p, offsetAdd (cPtr c.word) ((gthIsz c * n : Nat) : Int) = some q → s.load (s.cmdCtx b 0x2B) q (gthIsz c) = .ok t w →
          gthIndex c (gotNat (fromBuffer c (indexKey n) w)) = some v → offsetAdd (ePtr c.ext) ((v * gthStride c : Nat) : Int) = some p →
          (t.loadAddr (t.cmdCtx b 0x2B) p (gthEsz c) = .error f → exec (.gth b) s = .next (t.cmdFlt b 0x2B c f true))
          ∧ (scr = true → t.load (t.cmdCtx b 0x2B) p (gthEsz c) = .ok u l → gthKv c = true →
            kvBad (fromBuffer c (elemKey c n) l) = true → exec (.gth b) s = .next (t.cmdFlt b 0x2B c (.mk0 0x16 p) true))))
    -- the KV check
    ∧ (kvBad l = true ↔ gotNat (l.take 4) ≠ 0x3147564B ∨ 128 < gotNat ((l.drop 4).take 1) ∨ gotNat ((l.drop 5).take 251) ≠ 0
        ∨ gotNat ((l.drop 768).take 256) ≠ 0)
    -- lines read early
    ∧ (∀ n k, run → (n < s.gthNext b c ∨ gthN c ≤ n ∨ (tget (lineKey n k) c.lines).isSome = true
        ∨ s.gthAhead b c n = none ∨ s.gthBytes b c n = none) → exec (.gleanerLineReply b n k) s = .next s)
    ∧ (s.gthShare b ≤ 256 ∨ ∃ z, (b, z) ∈ s.gathers (bayDie b) ∧ s.gthShare b = heldLines z)
    ∧ (∀ tenant capped need (z : List (Nat × Cmd)), ((giveLines tenant capped need [] z).map Prod.snd).sum ≤
        max 1024 (z.map fun q => heldLines q.2).sum)
    ∧ (∀ n k m w bytes ln, run → s.gthNext b c ≤ n → n < gthN c → tget (lineKey n k) c.lines = none →
        s.gthAhead b c n = some m → s.gthBytes b c n = some (t, w, bytes) → (bytes.map lineOf).dedup[k]? = some ln →
        let y := t.yieldLines b
        let ks := (List.range bytes.length).filter fun i => lineOf (bytes.getD i 0) == ln
        let parts : List Seg := ks.map fun i => ⟨bytes.getD i 0, 1⟩
        let r := y.readSegs (y.cmdCtx b 0x2B) parts
        (y.gthShare b ≤ m + k → exec (.gleanerLineReply b n k) s = .next y)
        ∧ (m + k < y.gthShare b → opens y (y.cmdCtx b 0x2B) parts → exec (.gleanerLineReply b n k) s = .next (r.1.modHead b 0x2B fun z =>
          { z with lines := tput (lineKey n k) (0, false) (bufferPut (indexKey n) w
              ((ks.zip r.2).foldl (fun m y => if (tget (elemKey z n y.1) m).isSome then m else tput (elemKey z n y.1) y.2 m) z.lines)) })))
    -- landing and refill
    ∧ ((s.bay b).halted = true → exec (.registerWindowLand b) s = .next s)
    ∧ ((∀ z ∈ s.rwq, z.bay ≠ b ∨ s.unitLands z = false) → exec (.registerWindowLand b) s = .next s)
    ∧ (∀ z, s.unitLands z = true ↔ (s.bay z.bay).halted = false ∧ (z.tenant = 0 ∨ s.serves z.tenant (bayIsland z.bay) = true))
    ∧ (∀ k x, findAt (fun z => z.bay == b && s.unitLands z) s.rwq = some (k, x) →
        exec (.registerWindowLand b) s = .next (({ s with rwq := dropAt s.rwq k } : State).landUnit x))
    ∧ (∀ f i n, (s.inst? f i = none ∨ (∃ x r, s.inst? f i = some x ∧ x.image.chans[n]? = some r ∧ (s.bayRuns (s.consBay x r) = false
          ∨ r.depth ≤ (x.chan n).fifo.length ∨ (x.chan n).ringCount = 0))) → exec (.spillRingRefill f i n) s = .next s)
    ∧ (∀ f i n x r tk, s.inst? f i = some x → x.image.chans[n]? = some r → (x.chan n).fifo.length < r.depth →
        s.bayRuns (s.consBay x r) = true → s.ringPop x n r = some (t, tk) →
        exec (.spillRingRefill f i n) s = .next (t.modChan x.field x.id n fun ch => { ch with fifo := ch.fifo ++ [tk] }))

/-- The array: APNL loads a slot or a scale entry from 6,144 or 128 bytes, a failed load leaves a slot invalid and a scale entry
a mixture of old and new bytes; ARUN takes a row, writes its partial sums and tag, skips a row that is off, waits for a row,
ends after its rows, and faults in Winnow mode, on an invalid slot, an illegal byte or a bad tag; one dispatch takes up to 8 rows
that need no cell and one that does; ADRN converts a row's records to the scratchpad or into a port; ASORT takes keys into the
running set and emits it; ACFG sets the mode, and empties the running set.
Rests on the model's own choices of notes/assumptions/41.md and notes/assumptions/66.md. -/
def Obligations.ArrayCommands : Prop :=
  ∀ (s t : State) (b : Nat) (c : Cmd),
    let ctx := s.cmdCtx b 0x29
    let a := (s.bay b).array
    let sl := cb c.word 19 12
    (∀ l, running s b 0x29 0x0A c → c.word.getLsbD 11 = false → s.readRange ctx (cPtr c.word) 6144 State.readVia = .ok t l →
      exec (.apnl b) s = .next (ends (t.modArray b fun a => a.putSlot sl (cPtr c.word) l) b 0x29))
    ∧ (∀ l, running s b 0x29 0x0A c → c.word.getLsbD 11 = true → s.readRange ctx (cPtr c.word) 128 State.readVia = .ok t l →
      exec (.apnl b) s = .next (ends (t.modArray b fun a => a.putScale sl l) b 0x29))
    ∧ (∀ f, running s b 0x29 0x0A c → c.word.getLsbD 11 = false → s.readRange ctx (cPtr c.word) 6144 State.readVia = .flt f →
      exec (.apnl b) s = .next ((s.modArray b fun a => a.dropSlot sl).cmdFail b 0x29 c f))
    ∧ (∀ f, running s b 0x29 0x0A c → c.word.getLsbD 11 = true → s.readRange ctx (cPtr c.word) 128 State.readVia = .flt f →
      ∃ l, exec (.apnl b) s = .next ((s.modArray b fun a => a.putScale sl l).cmdFail b 0x29 c f) ∧ l.length = 128
        ∧ ∀ (k : Nat) y, l[k]? = some y → y.1 = byteOf (a.scale sl).1 k ∨ ∃ z, s.tryByte ctx (cPtr c.word) k = some z ∧ y.1 = z.1)
    ∧ (running s b 0x29 0x0A c → s.readRange ctx (cPtr c.word) (if c.word.getLsbD 11 then 128 else 6144) State.readVia = .wait t →
      exec (.apnl b) s = .next t)
    ∧ (∀ (a : Flail) n p l, ((a.putSlot n p l).slot n).valid = true ∧ ((a.dropSlot n).slot n).valid = false
        ∧ (a.putSlot n p l).resident ≠ some n ∧ (a.dropSlot n).resident ≠ some n)
    -- ARUN
    ∧ (let n := cb c.word 65 58
       let run := running s b 0x29 0x0B c
       let more := c.pos < cb c.word 32 21
       -- the slot's bytes are legal and stand in the cells
       let v := s.modArray b fun a => { a with resident := some n }
       let ready := a.winnow = false ∧ (a.slot n).valid = true
         ∧ (a.resident = some n ∨ (a.slot n).stale = false ∧ ∀ y ∈ (a.slot n).bytes, y.2.toNat < 243)
       (run → cb c.word 32 21 ≤ c.pos → exec (.arun b) s = .next (ends s b 0x29))
       ∧ (run → more → a.winnow = true → exec (.arun b) s = .next (s.cmdFail b 0x29 c (.mk0 0x16 (cmdFaddr 0x0B 0x29))))
       ∧ (run → more → a.winnow = false → (a.slot n).valid = false →
          exec (.arun b) s = .next (s.cmdFail b 0x29 c (.mk0 0x1B (BitVec.ofNat 64 (0x1FFF * 2 ^ 16 + n)))))
       ∧ (∀ k z, run → more → a.winnow = false → (a.slot n).valid = true → (a.slot n).stale = false → a.resident ≠ some n →
          (a.slot n).bytes.find? (fun x => x.2.toNat ≥ 243) = some (k, z) →
          exec (.arun b) s = .next ((s.modArray b fun a =>
            { a with slots := tput n { a.slot n with valid := false } a.slots, resident := none }).cmdFail b 0x29 c
              (.mk0 0x1B (BitVec.ofNat 64 (k * 2 ^ 16 + n)))))
       ∧ (run → more → ready → v.arunNext b c = .absent → exec (.arun b) s = .next v)
       ∧ (run → more → ready → v.arunNext b c = .ended → exec (.arun b) s = .next (ends v b 0x29))
       ∧ (∀ tk from_, run → more → ready → v.arunNext b c = .row tk from_ →
          let tag := rowTag tk.data
          let taken (z : State) : State :=
            let z := steps (match from_ with
              | some (x, k, r) => z.takeToks x k r 1
              | none => z) b 0x29
            if c.word.getLsbD 20 && nbit tag 41 then ends z b 0x29 else z
          (bits tag 47 43 ≠ 0 → exec (.arun b) s = .next (v.cmdFail b 0x29 c (.mk0 0x16 (cmdFaddr 0x0B 0x29))))
          ∧ (bits tag 47 43 = 0 → arunOff c = true → exec (.arun b) s = .next (taken v))
          ∧ (bits tag 47 43 = 0 → arunOff c = false →
            let q := decide (tk.poison ≠ 0) || (a.slot n).poison
            let sums := if nbit tag 40 then List.replicate 64 0 else partials (a.slot n) tk.data
            let cv := v.cmdCtx b 0x29
            let at_ (o len : Nat) : List Seg := [⟨v.ga (windowAddr b (Config.accBase + o)), len⟩]
            let s1 := at_ (256 * (cb c.word 57 48 + c.pos)) 256
            let s2 := at_ (8 * (cb c.word 47 33 + c.pos)) 8
            let z := v.writeSegs cv s1 (sums.flatMap fun x => putBytes 4 x q)
            opens v cv s1 → opens z cv s2 → exec (.arun b) s = .next (taken (z.writeSegs cv s2 (putBytes 8 tag q)))))
       -- the dispatcher
       ∧ (run → s.arunSkips b c = false → exec (.arunRowDispatch b) s = exec (.arun b) s)
       ∧ (run → s.arunSkips b c = true → exec (.arun b) s = .next t → exec (.arunRowDispatch b) s = .next (arunCycle b 7 t))
       ∧ (run → s.arunSkips b c = true → arunCycle b 0 s = s)
       ∧ (run → s.arunSkips b c = false → exec (.arun b) s = .next (arunCycle b 0 s)))
    ∧ (∀ (w : Slot) row col, col < 64 → sg 32 ((partials w row).getD col 0) =
        (((List.range 480).map fun k => w.weight col k * sg 8 (bits row.toNat (8 * k + 7) (8 * k))).sum).bmod (2 ^ 32))
    -- ADRN
    ∧ (let run := running s b 0x29 0x0C c
       let scr := c.word.getLsbD 83
       let row := if scr then c.pos else c.pos / 2
       let half := if scr then 0 else c.pos % 2
       let more := row < cb c.word 32 21
       let off := rowOff (c.word.getLsbD 14) c.zcap (cb c.word 9 4) row
       let ofmt := cb c.word 16 15
       let w := if ofmt = 0 then 4 else 2
       let fs := cb c.word 65 58
       let moved (z : State) (n : Nat) : State := z.modHead b 0x29 fun c => { c with pos := c.pos + n }
       (run → ¬ more → scr = true → exec (.adrn b) s = .next (ends s b 0x29))
       ∧ (∀ x k r, run → ¬ more → scr = false → s.extIn b (cb c.word 72 66) = some (x, k, r) →
          exec (.adrn b) s = .next (ends (if cEos c.word then s.closeChan x.field x.id k else s) b 0x29))
       ∧ (run → more → off = true → exec (.adrn b) s = .next (moved s (if scr then 1 else 2)))
       ∧ (run → more → off = false → s.adrnRecs b c row (cb c.word 20 17 + 1) = .error t → exec (.adrn b) s = .next t)
       ∧ (∀ recs, run → more → off = false → s.adrnRecs b c row (cb c.word 20 17 + 1) = .ok (t, recs) →
          ((∃ y ∈ recs, bits (gotNat y.2) 47 43 ≠ 0) →
            exec (.adrn b) s = .next (t.cmdFail b 0x29 c (.mk0 0x16 (cmdFaddr 0x0C 0x29))))
          ∧ ((∀ y ∈ recs, bits (gotNat y.2) 47 43 = 0) →
            let f := (t.bay b).array
            let q := recs.zipIdx.any fun y => gotPoison y.1.1 || gotPoison y.1.2 || (f.scale (fs + y.2)).2
            let cols := (List.range 64).map fun col => adrnCol t ofmt (row * 64 + col) (recs.zipIdx.map fun y =>
              adrnTerm (gotNat ((y.1.1.drop (4 * col)).take 4)) (bits (f.scale (fs + y.2)).1.toNat (16 * col + 15) (16 * col))
                (bits (gotNat y.1.2) 63 48))
            let bytes (l : List Nat) : List (Byte × Bool) := l.flatMap fun v => putBytes w v q
            let dst : List Seg := [⟨t.ga (windowAddr b (8 * cb c.word 82 66 + 64 * w * row)), 64 * w⟩]
            (scr = true → opens t (t.cmdCtx b 0x29) dst →
              exec (.adrn b) s = .next (moved (t.writeSegs (t.cmdCtx b 0x29) dst (bytes cols)) 1))
            ∧ (∀ x k r, scr = false → t.extIn b (cb c.word 72 66) = some (x, k, r) → exec (.adrn b) s = .next
              (if feedRoom x r (x.chan k) c.region then
                moved (t.feedTok b 0x29 x k (tokFrom b c (bytes ((cols.drop (32 * half)).take 32)))) 1 else t))))
       ∧ (running s b 0x29 0x0C c → exec (.engineTokenPush b 0x29) s = exec (.adrn b) s))
    ∧ (∀ (p k r : Nat), adrnTerm p k r = F32.decode (F32.ofVal 0 ((F32.decode (F32.ofVal 0
        ((FVal.fin (decide (sg 32 p < 0)) (sg 32 p).natAbs 0).mul (BF16.decode k))).1).mul (BF16.decode r))).1)
    -- ASORT
    ∧ (let run := running s b 0x29 0x0D c
       let n := cb c.word 47 32
       let emit := c.word.getLsbD 31
       let dstm := c.word.getLsbD 65
       let bad : Flt := .mk0 0x16 (cmdFaddr 0x0D 0x29)
       let big := emit = true ∧ dstm = true ∧ scratchSize < 8 * cb c.word 64 48 + 16 * a.ksel
       let fits := c.pos ≠ 0 ∨ ¬ big
       let illegal (x : BitVec 128) : Prop := bits x.toNat 127 96 ≠ 0 ∨ bits x.toNat 63 0 / 2 ^ (8 * a.len) ≠ 0
       let cleared (z : State) : State := z.modArray b fun a => { a with running := [], runPoison := false }
       (run → a.winnow = false → exec (.asort b) s = .next (s.cmdFail b 0x29 c bad))
       ∧ (run → a.winnow = true → c.pos = 0 → big → exec (.asort b) s = .next (s.cmdFail b 0x29 c bad))
       ∧ (run → a.winnow = true → fits → c.pos < n → c.word.getLsbD 83 = true →
          let at_ : List Seg := [⟨s.ga (windowAddr b (16 * (cb c.word 82 66 / 2) + 16 * c.pos)), 16⟩]
          opens s ctx at_ →
          let r := s.readSegs ctx at_
          let x := BitVec.ofNat 128 (gotNat r.2)
          (illegal x → exec (.asort b) s = .next (r.1.cmdFail b 0x29 c bad))
          ∧ (¬ illegal x → exec (.asort b) s = .next (steps (r.1.modArray b fun a => a.takeKey x (gotPoison r.2)) b 0x29)))
       ∧ (run → a.winnow = true → fits → c.pos < n → c.word.getLsbD 83 = false →
          (s.drainHead b (cb c.word 72 66) = none → exec (.asort b) s = .next s)
          ∧ ∀ x k r tk, s.drainHead b (cb c.word 72 66) = some (x, k, r, tk) →
            (illegal (tk.data.setWidth 128) → exec (.asort b) s = .next (s.cmdFail b 0x29 c bad))
            ∧ (¬ illegal (tk.data.setWidth 128) → exec (.asort b) s = .next (steps
              ((s.modArray b fun a => a.takeKey (tk.data.setWidth 128) (decide (tk.poison ≠ 0))).takeToks x k r 1) b 0x29)))
       ∧ (run → a.winnow = true → n ≤ c.pos → emit = false → exec (.asort b) s = .next (ends s b 0x29))
       ∧ (run → a.winnow = true → fits → n ≤ c.pos → emit = true → dstm = true →
          let dst : List Seg := [⟨s.ga (windowAddr b (8 * cb c.word 64 48)), 16 * a.running.length⟩]
          opens s ctx dst → exec (.asort b) s = .next (ends (cleared (s.writeSegs ctx dst
            (a.running.flatMap fun x => putBytes 16 x.toNat a.runPoison))) b 0x29))
       ∧ (∀ x k r, run → a.winnow = true → n ≤ c.pos → emit = true → dstm = false →
          s.extIn b (cb c.word 54 48) = some (x, k, r) →
          (∀ y, a.running[c.pos - n]? = some y → exec (.asort b) s = .next (if feedRoom x r (x.chan k) c.region then
            steps (s.feedTok b 0x29 x k (tokFrom b c (putBytes 16 y.toNat a.runPoison))) b 0x29 else s))
          ∧ (a.running[c.pos - n]? = none → exec (.asort b) s = .next (ends
            (if cEos c.word then (cleared s).closeChan x.field x.id k else cleared s) b 0x29))))
    ∧ (∀ (f : Flail) x q, (f.takeKey x q).running.length ≤ f.ksel ∧ ∀ y ∈ (f.takeKey x q).running, y = x ∨ y ∈ f.running)
    ∧ (running s b 0x29 0x0E c → ∃ u, exec (.acfg b) s = .next u ∧ (u.head b 0x29).map Cmd.phase = some .finish ∧
        (c.word.getLsbD 0 = true → (u.bay b).array =
          { a with winnow := true, len := cb c.word 4 1, ksel := cb c.word 13 5, running := [], runPoison := false, resident := none })
        ∧ (c.word.getLsbD 0 = false → (u.bay b).array.winnow = false)
        ∧ (c.word.getLsbD 0 = false → a.winnow = false → (u.bay b).array = a) ∧ u.mem = s.mem)

/-- A COLL that reaches step 3 joins the collective of its field, group, plot and sequence number; a match waits until every
participant is there, aborts on parameters that differ, waits for a module of its gang that a participant's die has no route to
(and aborts with the address fault when that wait runs out), and else begins, and so does its completion; a
collective of one module that has begun reads every contribution, writes every result and completes for every participant, or
aborts when a participant's buffers cannot be formed. A copied element with a poisoned byte is poisoned whole.
Rests on the model's own choices of notes/assumptions/34.md and notes/assumptions/35.md. -/
def Obligations.Collectives : Prop :=
  (∀ (s : State) (b f i : Nat) (c : Cmd), running s b 0x2C 0x0F c → (s.bay b).inst = some (f, i) →
    let mine (x : Coll) : Prop := x.field = f ∧ x.grp = cb c.word 11 10 ∧ x.plot = cb c.ext 63 40 ∧ x.seq = c.seq
    ((∀ x ∈ s.colls, ¬ mine x) → exec (.coll b) s =
      .next { s with colls := s.colls ++ [⟨f, cb c.word 11 10, cb c.ext 63 40, c.seq, [b], false⟩] })
    ∧ ((∃ x ∈ s.colls, mine x) → ∃ t, exec (.coll b) s = .next t ∧ t = { s with colls := t.colls }
        ∧ t.colls.length = s.colls.length ∧ ∀ x ∈ t.colls, mine x → b ∈ x.bays))
  ∧ (∀ (s : State) (n : Nat) (x : Coll) (f : Field), s.colls[n]? = some x → s.field? x.field = some f →
    let locals := s.collLocal f x.grp x.plot
    let p := locals.length * max 1 (collModules f x.grp)
    let far := collFar f x.grp
    let here := x.matched = false ∧ ∀ b ∈ locals, b ∈ x.bays ∧ (s.collOf x b).isSome = true
    let agreed := ∀ b ∈ locals, (s.collOf x b).map collParams = (s.collOf x (locals.headD 0)).map collParams
    let me := Who.cmd (locals.headD 0) 0x2C
    ((∃ b ∈ locals, b ∉ x.bays ∨ s.collOf x b = none) → exec (.collectiveMatch n) s = .next s)
    ∧ (x.matched = true → exec (.collectiveMatch n) s = .next s)
    ∧ (here → ¬ agreed → exec (.collectiveMatch n) s = .next (s.collAbort x (fun _ => none) p))
    ∧ (here → (∃ m ∈ far, s.pick 7 m % 2 = 1) → exec (.collectiveMatch n) s = .next (s.collAbort x (fun _ => none) p))
    -- a module with no route from a participant's die, at the match and at the completion
    ∧ (∀ m i, (i = .collectiveMatch n ∧ here ∧ agreed ∧ (∀ m ∈ far, s.pick 7 m % 2 ≠ 1))
          ∨ (i = .collectiveComplete n ∧ x.matched = true ∧ locals ≠ [] ∧ ∀ b ∈ locals, (s.collOf x b).isSome = true) →
        far.find? (fun m => locals.any fun b => s.unreachable m (bayDie b)) = some m →
        ((∀ r ∈ s.routeWaits, ¬ (r.who = me ∧ r.module = m)) →
          exec i s = .next { s with routeWaits := s.routeWaits ++ [⟨me, m, false⟩] })
        ∧ (∀ r, s.routeWaits.find? (fun r => r.who == me && r.module == m) = some r →
          (r.expired = false → exec i s = .next s)
          ∧ (r.expired = true →
            let u : State := { s with routeWaits := s.routeWaits.filter fun r => r.who ≠ me }
            exec i s = .next ((u.noteDrops x.field (s.whoInst me).2 1 (m * 2 ^ 47)).collAbort x (fun _ => some (.mk0 0x0C 0)) p))))
    ∧ (here → agreed → (∀ m ∈ far, s.pick 7 m % 2 ≠ 1 ∧ ∀ b ∈ locals, s.unreachable m (bayDie b) = false) →
        ∃ t, exec (.collectiveMatch n) s = .next t ∧ t.colls = setAt s.colls n { x with matched := true } ∧ t.mem = s.mem
          ∧ t.bays = s.bays ∧ ∀ v ∈ s.veils, v ∈ t.veils)
    ∧ (x.grp ≠ 2 → far = [])
    ∧ (x.matched = false → exec (.collectiveComplete n) s = .next s)
    -- a collective of one module completes, or aborts on a participant's own fault
    ∧ (∀ (b0 : Nat) (c0 : Cmd) (rest : List (Nat × Cmd)) (segs : List (List Seg × List Seg)), x.matched = true → x.grp ≠ 2 →
        let parts := (b0, c0) :: rest
        let op := cb c0.word 19 16
        let root := cb c0.ext 39 24
        let size (k : Nat) : Nat × Nat := collSizes op (collL c0) p (op == 3 && k == root)
        locals.map (fun b => (s.collOf x b).map fun c => (b, c)) = parts.map some →
        ((segs.length = parts.length → (∀ k b c, parts[k]? = some (b, c) → ∃ t y, s.collSegs b c (size k) = .ok (t, y) ∧ segs[k]? = some y) →
          s.collRoutes ((parts.zip segs).map fun z => (z.1.1, z.2.1 ++ z.2.2)) = (s, true) →
          (∀ y ∈ segs, ∀ a ∈ segBytes y.2, collOverlap op y.1 y.2 a = false) →
          (∀ (j k : Nat) (y z : List Seg × List Seg) (a : Nat), j ≠ k → segs[j]? = some y → segs[k]? = some z → a ∈ segBytes y.2 →
            a ∉ segBytes z.2) →
          let r := collGets (s.unveil x) ((parts.zip segs).map fun z => (z.1.1, z.2.1))
          let w := collPuts (fun v k => collResult v op (cb c0.word 15 12) (collEsz c0) (collL c0) p root k r.2) r.1 0
            ((parts.zip segs).map fun z => (z.1.1, z.2.2))
          exec (.collectiveComplete n) s = .next (parts.foldl (fun s z => s.completeCmd z.1 0x2C z.2) { w with colls := dropAt w.colls n }))
        ∧ (∀ k b c g, (parts.map Prod.fst).Nodup → parts[k]? = some (b, c) → s.collSegs b c (size k) = .error g →
          ∃ bad, exec (.collectiveComplete n) s = .next (s.collAbort x bad p) ∧ bad b = some g
            ∧ ∀ j d e y, parts[j]? = some (d, e) → s.collSegs d e (size j) = .ok y → bad d = none))))
  -- results: a gather of every contribution, the root's contribution, sums and extremes of whole numbers
  ∧ (∀ (s : State) (red esz l p root q : Nat) (src : List (List (Byte × Bool))),
    collResult s 1 red esz l p root q src = (List.range p).flatMap (fun k => wholeElems esz ((src.getD k []).take l))
    ∧ collResult s 3 red esz l p root q src = wholeElems esz ((src.getD root []).take l))
  ∧ (∀ (esz : Nat) (l : List (Byte × Bool)), 0 < esz → l.length % esz = 0 →
    (wholeElems esz l).map Prod.fst = l.map Prod.fst
    ∧ ∀ (j : Nat) (z : Byte × Bool), (wholeElems esz l)[j]? = some z → (z.2 = true ↔ ∃ (k : Nat) (y : Byte × Bool), k / esz = j / esz ∧ l[k]? = some y ∧ y.2 = true))
  ∧ (∀ (s : State) (k : Nat) (l : List Nat), collElem s 0 k l = l.sum % 2 ^ 32
    ∧ (l ≠ [] → collElem s 3 k l ∈ l ∧ ∀ y ∈ l, sg 32 (collElem s 3 k l) ≤ sg 32 y)
    ∧ (l ≠ [] → collElem s 4 k l ∈ l ∧ ∀ y ∈ l, sg 32 y ≤ sg 32 (collElem s 4 k l)))

/-! ### The graph sequencer -/

/-- Each node of a graph, once its record is read: a section checks its plot and waits to be armed with its tile count, or is
done at 0; a condition, a switch and a loop choose a list; a controller reads its children and grants permits, or is done at
0; WAITF registers; RATE sets the field's rate; END ends the launch once no section lives. A malformed record is a node fault
and an event of another type than the node's changes nothing.
Rests on the model's own choices of notes/assumptions/45.md. -/
def Obligations.SequencerNodes : Prop :=
  (∀ (s u : State) (f t : Nat) (fd : Field) (x : Task) (fr : Frame) (rest : List Frame) (r : Nat),
    let v := visited u f t x fr rest r
    let c := v.walkCtx fd t
    let is (typ : Nat) : Prop := Visits s u f t typ fd x fr rest r
    let good : Bool := plotValid (pktFw fd.packet) (pktFh fd.packet) (nodeField r 4 3)
    let armed (s : State) (n : Nat) : State := if n = 0 then s.walkOn f t else s.modTask f t fun y => { y with st := .arm n }
    (is 1 → good = false →
        exec (.nodeSection f t) s = .next (v.seqFault f 0x15 (BitVec.ofNat 64 (nodeField r 4 3)) fr.ptr false))
    ∧ (is 1 → good = true → nbit r 4 = false → exec (.nodeSection f t) s = .next (armed v (bits r 167 128)))
    ∧ (∀ q w l, is 1 → good = true → nbit r 4 = true →
        offsetAdd (BitVec.ofNat 64 (nodeField r 16 8)) ((8 * (nodeField r 24 4 + if nbit r 5 then fr.it else 0) : Nat) : Int) = some q →
        v.seqWord c q = .ok w l → exec (.nodeSection f t) s = .next (
          if bits (gotNat l) 63 40 ≠ 0 then w.nodeFault f fr.ptr false else armed w (bits (gotNat l) 39 0)))
    ∧ (∀ w l, is 5 → x.tooDeep = false → v.seqWord c (nodePtr r) = .ok w l →
        exec (.nodeCond f t) s = .next (w.enter f t (linkOf fr.ptr r (if gotNat l ≠ 0 then 4 else 8)) fr.it false))
    ∧ (∀ w l, is 6 → x.tooDeep = false → v.seqWord c (nodePtr r) = .ok w l →
        exec (.nodeWhile f t) s = .next (if gotNat l = 0 then w.walkOn f t else w.enter f t (linkOf fr.ptr r 4) 0 true))
    ∧ (∀ w l, is 7 → x.tooDeep = false → v.seqWord c (nodePtr r) = .ok w l → nodeField r 12 2 ≤ gotNat l →
        exec (.nodeSwitch f t) s = .next (w.enter f t (linkOf fr.ptr r 8) fr.it false))
    ∧ (∀ w l q z m k, is 7 → x.tooDeep = false → v.seqWord c (nodePtr r) = .ok w l → gotNat l < nodeField r 12 2 →
        (linkOf fr.ptr r 4).bind (fun q => offsetAdd q ((4 * gotNat l : Nat) : Int)) = some q → w.seqRead c q 4 = .ok z m →
        gotPoison m = false → bits (gotNat m) 31 24 = 0 → nodeLink fr.ptr (gotNat m * 256) 1 = .ok k →
        exec (.nodeSwitch f t) s = .next (z.enter f t k fr.it false))
    ∧ (∀ w a, is 8 → v.seqAddr c (nodePtr r) = .ok (w, a) → exec (.nodeWaitf f t) s = .next
        (w.watchWord (w.walkCtx fd t) f t a (BitVec.ofNat 64 (nodeField r 8 8)) (nbit r 35)))
    ∧ (∀ y, is 9 → v.field? f = some y → exec (.nodeRate f t) s = .next (((v.setField
        { y with rate := BitVec.ofNat 32 (nodeField r 4 4), rpn := bits r 67 64 }).postSolve fd.tenant 2).walkOn f t))
    ∧ (∀ y, is 10 → (∀ i ∈ s.insts, i.field ≠ f) → v.field? f = some y →
        exec (.nodeEnd f t) s = .next (v.setField { y with stage := .ended, code := 0, tasks := [] }))
    ∧ (∀ i ∈ s.insts, i.field = f → exec (.nodeEnd f t) s = .next s)
    ∧ (∀ typ k i, ctrlOf typ k → nodeOf f t typ i → is typ → x.tooDeep = false →
        (nodeField r 8 4 = 0 → exec i s = .next (v.walkOn f t))
        ∧ (∀ w l y, nodeField r 8 4 ≠ 0 → v.readKids c (2 ^ 59) (linkOf fr.ptr r 4) = .ok w l →
            let z := w.modTask f t fun q =>
              { q with st := .ctrl ⟨k, l, nodeField r 8 4, nodeField r 7 1, l.map fun _ => 0, l.map fun _ => 0⟩ }
            z.field? f = some y → exec i s = .next (z.setField (y.grant t))))
    ∧ (∀ typ i, typ ∈ [2, 3, 4, 5, 6, 7] → nodeOf f t typ i → is typ → x.tooDeep = true →
        exec i s = .next (v.nodeFault f fr.ptr false))
    ∧ (∀ typ i, nodeOf f t typ i → Reads s u f t fd x fr rest r → nodeType r = typ → recordBad fr.ptr r = true →
        exec i s = .next (u.nodeFault f fr.ptr x.atRoot))
    ∧ (∀ typ i, nodeOf f t typ i → Reads s u f t fd x fr rest r → nodeType r ≠ typ → exec i s = .next s)
    ∧ (Reads s u f t fd x fr rest r → (nodeType r = 0 ∨ 10 < nodeType r) →
        exec (.notANodeVisit f t) s = .next (u.nodeFault f fr.ptr x.atRoot))
    ∧ (Reads s u f t fd x fr rest r → 1 ≤ nodeType r → nodeType r ≤ 10 → exec (.notANodeVisit f t) s = .next s))
  -- a WHILE whose body has been walked tests again
  ∧ (∀ (s w : State) (f t : Nat) (fd : Field) (x : Task) (fr wh : Frame) (rest : List Frame) (k : Option (BitVec 256)) (l : List (Byte × Bool)),
    s.walking f t = some (fd, x) → x.frames = fr :: wh :: rest → x.st = .visit k → fr.ptr = 0 → fr.body = true →
    s.seqWord (s.walkCtx fd t) (nodePtr wh.record.toNat) = .ok w l →
    let v := w.modTask f t fun y => { y with frames := y.frames.drop 1 }
    exec (.nodeWhile f t) s = .next (if gotNat l = 0 then v.walkOn f t else v.enter f t (linkOf wh.ptr wh.record.toNat 4) fr.it true))
  -- going on after a node
  ∧ (∀ (fr : Frame) (l : List Frame),
    (∀ q, fr.nxt = some q → walkFrames (fr :: l) = ({ fr with ptr := q, nxt := none } :: l, false))
    ∧ (fr.nxt = none → walkFrames [fr] = ([], true))
    ∧ (fr.nxt = none → l ≠ [] → fr.body = true → walkFrames (fr :: l) = ({ fr with ptr := 0, it := fr.it + 1 } :: l, false))
    ∧ (fr.nxt = none → l ≠ [] → fr.body = false → walkFrames (fr :: l) = walkFrames l))
  -- the permits of the controllers
  ∧ (∀ (c : CtrlState) (j : Nat),
    let d (k : Nat) : Nat := c.done.getD k 0
    let last := c.children.length - 1
    (c.permits j = true → c.started.getD j 0 = d j ∧ d j < c.count)
    ∧ (c.started.getD j 0 = d j → d j < c.count → c.kind = .stream → c.permits j = true)
    ∧ (c.kind = .pipe → c.permits j = true → d j < d last + c.depth ∧ (j = 0 ∨ d j < d (j - 1)))
    ∧ (c.kind = .seq → c.permits j = true → if j = 0 then d 0 = 0 ∨ d 0 ≤ d last else d j < d (j - 1)))

/-- The life of a field and its sections: the start at ROOT, after every field placed earlier for the tenant, the arm of a section
(which sets every bay of its plot), the end of a section, once every pair, store and register-window unit of its parties has been
performed, of a child's iteration and of a WAITF, and the end of the launch of a field that has faulted.
Rests on the model's own choices of notes/assumptions/25.md (a WAITF acquires in its own step, and waits for routes),
notes/assumptions/46.md and notes/assumptions/98.md. -/
def Obligations.SequencerTasks : Prop :=
  (∀ (s u : State) (f : Nat) (x : Field), s.field? f = some x →
    let ready := if pktGang x.packet then x.stage = .cleared else x.stage = .placed
    let now := s.startsLater x = false ∧ pktStart x.packet ≤ s.dtime.toNat ∧ (s.tenant x.tenant).stop = .idle
    let task (st : TaskState) : Task := ⟨0, none, 0, [⟨pktRoot x.packet, 0, none, false, 0⟩], st⟩
    ((¬ ready ∨ ¬ now) → exec (.fieldStart f) s = .next s)
    ∧ (∀ l, ready → now → s.readNode (s.walkCtx x 0) (pktRoot x.packet) = .ok u l → exec (.fieldStart f) s = .next
        (u.setField { x with stage := .running, tasks := [task (.visit (some (BitVec.ofNat 256 (gotNat l))))] }))
    ∧ (ready → now → s.readNode (s.walkCtx x 0) (pktRoot x.packet) = .bad u → exec (.fieldStart f) s = .next
        ((u.setField { x with stage := .running, tasks := [task (.visit none)] }).nodeFault f (pktRoot x.packet) true)))
  ∧ (∀ (s u v : State) (f t n : Nat) (fd : Field) (x : Task) (fr : Frame) (rest : List Frame) (img : Image) (arr : Table Flail),
    s.walking f t = some (fd, x) → x.st = .arm n → x.frames = fr :: rest →
    let plot := framePlot fr
    let ptr := BitVec.ofNat 64 (nodeField fr.record.toNat 8 8)
    let r := plotRect (pktFw fd.packet) (pktFh fd.packet) plot
    let go := s.plotFree fd plot = true ∧ s.armFirst fd t = true
    (¬ go → exec (.sectionArm f t) s = .next s)
    ∧ (go → s.image fd (s.walkCtx fd t) ptr plot = .bad u → exec (.sectionArm f t) s = .next (u.seqFault f 0x1A ptr fr.ptr false))
    ∧ (go → s.image fd (s.walkCtx fd t) ptr plot = .ok u img → u.loadPanels fd r.1 r.2.1 img.panels [] = .ok (v, arr) →
        ∃ z y, exec (.sectionArm f t) s = .next z ∧ z.insts = v.insts ++ [y] ∧ y.field = f ∧ y.id = fd.nextInst ∧ y.task = t
          ∧ y.node = fr.ptr ∧ y.plot = BitVec.ofNat 24 plot ∧ y.image = img ∧ y.imgPtr = ptr ∧ y.tiles = n ∧ y.chans = []
          ∧ y.versioned = (!nbit fr.record.toNat 6 && decide (wget (v.tenant fd.tenant).verq 19 0 ≠ 0)) ∧ y.overlay = []
          ∧ (∀ b ∈ v.plotBays fd plot, (z.bay b).inst = some (f, fd.nextInst) ∧ (z.bay b).firings = [] ∧ (z.bay b).faulted = false
              ∧ (z.bay b).queues = [] ∧ (z.bay b).persist = [] ∧ (z.bay b).array = tgetD b Flail.armed arr
              ∧ (z.bay b).code = ((v.bay b).cacheCode fd.tenant ptr img).2)
          ∧ (∀ b, b ∉ v.plotBays fd plot → z.bay b = v.bay b) ∧ z.mem = v.mem))
  ∧ (∀ (s : State) (f i : Nat) (fd : Field) (x : Inst), s.field? f = some fd → s.inst? f i = some x →
    let go := fd.fault = none ∧ (s.tenant fd.tenant).pre < 2 ∧ s.quiet x = true ∧ s.sourcesDone x = true
    let u := s.settleInst x
    (¬ go → exec (.sectionEnd f i) s = .next s)
    ∧ (go → u.instBusy x = true → exec (.sectionEnd f i) s = .next u)
    ∧ (u.instBusy x = false → (∀ p ∈ u.pairs, u.ofInst x p.who = false) ∧ (∀ w ∈ u.rwq, u.ofInst x w.who = false)
        ∧ ∀ b ∈ u.instBays x, (u.bay b).fwd = [])
    ∧ (go → u.instBusy x = false → ∃ z, exec (.sectionEnd f i) s = .next z ∧ z.inst? f i = none ∧ (∀ b, (z.bay b).inst ≠ some (f, i))
        ∧ (z.tenant fd.tenant).solve = some 7))
  ∧ (∀ (s : State) (f t u j k : Nat) (fd : Field) (x y : Task) (c : CtrlState), s.field? f = some fd → fd.task? t = some x →
    fd.task? u = some y → y.st = .ctrl c → x.parent = some (u, j, k) →
    let c' : CtrlState := { c with done := setAt c.done j (c.done.getD j 0 + 1) }
    let fd' : Field := { fd with tasks := (fd.tasks.filter fun y => y.id ≠ t).map fun y => if y.id = u then { y with st := .ctrl c' } else y }
    (x.st ≠ .done → exec (.childDone f t) s = .next s)
    ∧ (x.st = .done → c'.finished = true → exec (.childDone f t) s = .next ((s.setField fd').walkOn f u))
    ∧ (x.st = .done → c'.finished = false → fd.fault = none → ((s.setField fd').tenant fd.tenant).stop = .idle →
        exec (.childDone f t) s = .next ((s.setField fd').setField (fd'.grant u))))
  ∧ (∀ (s : State) (f t a : Nat) (v : Word) (ge g : Bool) (fd : Field) (x : Task) (fr : Frame) (rest : List Frame),
    s.walking f t = some (fd, x) → x.frames = fr :: rest →
    let c := s.walkCtx fd t
    let va := s.virtOf c (nodePtr fr.record.toNat)
    (x.st = .waitf a v ge false g → exec (.waitfSatisfied f t) s = .next s)
    ∧ (x.st = .waitf a v ge true g → (∀ k, k < 8 → s.mpoison.read (a + k) = 0) →
        (s.acquireReady c.who c.tenant va = true →
          exec (.waitfSatisfied f t) s = .next ((s.acquire c.who c.tenant va).walkOn f t))
        ∧ (s.acquireReady c.who c.tenant va = false →
          exec (.waitfSatisfied f t) s = .next (s.acquireWait c.who c.tenant va)))
    ∧ (∀ k, k < 8 → x.st = .waitf a v ge true g → s.mpoison.read (a + k) ≠ 0 →
        exec (.waitfSatisfied f t) s = .next (s.nodeFault f fr.ptr false)))
  ∧ (∀ (s : State) (f : Nat) (fd : Field), s.field? f = some fd →
    (fd.fault = none → exec (.sequencerFault f) s = .next s)
    ∧ ((fd.stage ≠ .running ∨ 2 ≤ (s.tenant fd.tenant).pre) → exec (.sequencerFault f) s = .next s)
    ∧ (∀ r, fd.fault = some r → fd.stage = .running → (s.tenant fd.tenant).pre < 2 → ∃ z y, exec (.sequencerFault f) s = .next z
        ∧ z.field? f = some y ∧ y.stage = .ended ∧ y.code = (if r.root then 0x0003 else 0x0005) ∧ y.tasks = [] ∧ y.yards = []
        ∧ (∀ i ∈ z.insts, i.field ≠ f) ∧ (∀ c ∈ z.colls, c.field ≠ f)))

/-! ### Launches -/

/-- A packet enters its tenant's queue, or is counted as discarded; the distributor rejects it with the code of the first check
it fails, or places it at the first free origin, or leaves it; a gang past its deadline; a completed launch frees its bays, once no pair of
the field waits for a route.
Rests on the model's own choices of notes/assumptions/44.md. -/
def Obligations.Launches : Prop :=
  (∀ (s : State) (fn : HostFn) (off size : Nat) (d : BitVec 512),
    let t := fn.vf.toNat
    let go := s.served = true ∧ s.pendingWrites fn = []
    (¬ go → exec (.launchPacketWrite fn off size d) s = .next s)
    ∧ (go → (off ≠ 0 ∨ size ≠ 64) → exec (.launchPacketWrite fn off size d) s =
        .next (s.modTenant t fun x => { x with lqdisc := wadd x.lqdisc 31 0 1 }))
    ∧ (go → off = 0 → size = 64 → (s.tenant t).free = 0 → exec (.launchPacketWrite fn off size d) s =
        .next (s.modTenant t fun x => { x with lqdisc := wadd x.lqdisc 63 32 1 }))
    ∧ (go → off = 0 → size = 64 → (s.tenant t).free ≠ 0 → exec (.launchPacketWrite fn off size d) s =
        .next (s.modTenant t fun x => { x with launches := x.launches ++ [d] })))
  ∧ (∀ (s : State) (t : BitVec 4) (p : BitVec 512),
    let n := t.toNat
    let g := s.gridOf n
    ((s.tenant n).launches = [] → exec (.launchDistribute t) s = .next s)
    ∧ (s.distributes n = false → exec (.launchDistribute t) s = .next s)
    ∧ ((s.tenant n).launches.head? = some p → s.distributes n = true →
      (pktMalformed p = true → exec (.launchDistribute t) s = .next (s.reject n p 0x0001))
      ∧ (pktMalformed p = false → pktTooBig g.1 g.2 p = true → exec (.launchDistribute t) s = .next (s.reject n p 0x0002))
      ∧ (pktMalformed p = false → pktTooBig g.1 g.2 p = false → s.gangLate p = true →
          exec (.launchDistribute t) s = .next (s.reject n p 0x0004))
      ∧ (pktMalformed p = false → pktTooBig g.1 g.2 p = false → s.gangLate p = false →
          ((∀ o ∈ origins g.1 g.2 p, s.freeRect n (pktFw p) (pktFh p) o.1 o.2 = false) → exec (.launchDistribute t) s = .next s)
          ∧ (∀ o, (origins g.1 g.2 p).find? (fun o => s.freeRect n (pktFw p) (pktFh p) o.1 o.2) = some o → ∃ z y,
              exec (.launchDistribute t) s = .next z ∧ z.fields = s.fields ++ [y] ∧ y.id = s.nextField ∧ z.nextField = s.nextField + 1
              ∧ y.tenant = n ∧ y.packet = p ∧ y.ox = o.1 ∧ y.oy = o.2 ∧ y.stage = .placed ∧ y.fault = none
              ∧ (z.tenant n).launches = (s.tenant n).launches.drop 1 ∧ z.mem = s.mem))))
  ∧ (∀ (s : State) (t : BitVec 4) (n : Nat),
    let due (p : BitVec 512) : Prop := pktGang p = true ∧ pktStart p ≤ s.dtime.toNat + 2000
    (∀ f, s.field? n = some f → f.tenant = t.toNat → f.stage = .placed → due f.packet →
        exec (.gangDeadline t true n) s = .next (if s.domcfg.getLsbD 32 then s.setField { f with stage := .cleared }
          else s.setField { f with stage := .ended, code := 0x0004 }))
    ∧ (∀ f, s.field? n = some f → (f.tenant ≠ t.toNat ∨ f.stage ≠ .placed ∨ ¬ due f.packet) →
        exec (.gangDeadline t true n) s = .next s)
    ∧ (∀ p, (s.tenant t.toNat).launches[n]? = some p → due p → pktMalformed p = false → exec (.gangDeadline t false n) s =
        let z := s.modTenant t.toNat fun x => { x with launches := dropAt x.launches n }
        .next (z.complete t.toNat p 0x0004 (z.unitCtx t.toNat 0 0 0 0 0)))
    ∧ (∀ p, (s.tenant t.toNat).launches[n]? = some p → ¬ due p → exec (.gangDeadline t false n) s = .next s))
  ∧ (∀ (s : State) (f : Nat) (x : Field), s.field? f = some x →
    let go := x.stage = .ended ∧ (s.tenant x.tenant).pre < 2 ∧ (∀ i ∈ s.insts, i.field ≠ f)
      ∧ ∀ p ∈ s.pairs, ¬ (p.field = f ∧ s.noRoute p.who p.pa = true)
    (¬ go → exec (.launchComplete f) s = .next s)
    ∧ (go → exec (.launchComplete f) s = .next ((s.complete x.tenant x.packet x.code (s.fieldCtx x)).dropField f))
    ∧ (go → (∀ p ∈ s.pairs, p.field ≠ f) → pktDone x.packet = 0 → nbit x.packet.toNat 338 = false →
        exec (.launchComplete f) s = .next { s with fields := s.fields.filter fun y => y.id ≠ f }))

/-! ### The way and the links -/

/-- A pair that is the oldest on its path, and behind no store of its bay that is held, arrives at its slice and joins the open
batch, which closes at 32 pairs; a batch is sorted with the order of each element kept, its pairs combine in bins, one on a line,
and the limits are tested: over a quota, or over 14,336 entries, the oldest bins go, as a run where a usable spill area has room,
else in place; runs are applied oldest first, with the older ones of their lines; applied values change the element by the rule
of its operator and nothing else of memory; a sweep is the slice's. A message and a token
arrive in the order of their path, a token of a crossing channel once a coincident edge has shown it; on a coincident edge each
side learns the other's pointer.
Rests on the model's own choices of notes/assumptions/5.md, notes/assumptions/17.md and notes/assumptions/27.md. -/
def Obligations.GranaryAndFabric : Prop :=
  (∀ (s : State) (n : Nat),
    (∀ p, s.pairs[n]? = some p → (∀ q ∈ s.pairs.take n, s.samePath q p = false) → s.stays p = false →
        exec (.pairArrive n) s = .next (({ s with pairs := dropAt s.pairs n } : State).serialise p))
    ∧ (∀ p, s.pairs[n]? = some p → ((∃ q ∈ s.pairs.take n, s.samePath q p = true) ∨ s.stays p = true) →
        exec (.pairArrive n) s = .next s)
    ∧ (∀ p, s.stays p = true ↔ s.noRoute p.who p.pa = true ∨ ∃ b e x, p.who.bay = some b ∧ e ∈ (s.bay b).fwd ∧ p ∉ e.behind
        ∧ x ∈ e.segs ∧ isWindow (gaLocal x.1) = false ∧ s.sliceKey x.1 = s.sliceKey p.pa)
    ∧ (∀ p q : Pair, s.samePath p q = true ↔ ((p.who = q.who ∨ ∃ b, p.who.bay = some b ∧ q.who.bay = some b)
        ∧ p.tenant = q.tenant ∧ s.sliceKey p.pa = s.sliceKey q.pa))
    ∧ (∀ p : Pair, p.tag = 0 → s.streams = [] → s.waiters = [] → let k := s.sliceKey p.pa
        (s.slice k).closed = false → s.serialise p = s.setSlice k { s.slice k with
          batch := (s.slice k).batch ++ [p], closed := decide (32 ≤ (s.slice k).batch.length + 1) })
    ∧ ((s.slice n).batch = [] → exec (.batchTimeout n) s = .next s)
    ∧ ((s.slice n).batch ≠ [] → exec (.batchTimeout n) s = .next (s.setSlice n { s.slice n with closed := true }))
    ∧ exec (.batchInsert n) s = .next (s.settle n)
    ∧ (∀ key, exec (.sweep n key) s = .next (s.sweepSlice n key)))
  -- a batch goes into the bins: what it holds, and the order of each element and of a line of two keys
  ∧ (∀ (s : State) (k : Nat),
    s.batchInsert k = (((s.slice k).batch |> sortBatch).foldl (fun s p => s.insertPair State.atHome k p)
      (s.setSlice k { s.slice k with batch := [], closed := false }) |> fun u =>
        ((u.slice k).copies.foldl (fun u c => u.quotaTest State.atHome k c) u).storeTest State.atHome k))
  ∧ (∀ (l : List Pair) (n : Nat), (sortBatch l).Perm l ∧ (sortBatch l).filter (fun p => p.pa == n) = l.filter (fun p => p.pa == n)
    ∧ ((∃ p ∈ l, ∃ q ∈ l, lineOf p.pa = n ∧ lineOf q.pa = n ∧ p.key ≠ q.key) →
      (sortBatch l).filter (fun p => lineOf p.pa == n) = l.filter (fun p => lineOf p.pa == n)))
  ∧ (∀ (s : State) (pre : AtHome) (k : Nat) (p : Pair),
    let x := s.slice k
    let line := lineOf p.pa
    let same (b : Bin) : Prop := b.line = line ∧ b.alike p.bin = true
    ((∀ b ∈ x.bins, b.line = line → same b) → (∃ b ∈ x.bins, same b) → s.insertPair pre k p = s.setSlice k { x with
        bins := x.bins.map fun b => if b.line = line then { b with entries := p.bin.entries.foldl (fun l e => addEntry b.op e l) b.entries } else b })
    ∧ ((∀ b ∈ x.bins, b.line ≠ line) → (∃ c ∈ x.copies, c.tenant = p.tenant ∧ c.handle = p.handle) →
        s.insertPair pre k p = s.setSlice k { x with bins := x.bins ++ [p.bin] })
    ∧ (∀ a b : Bin, a.alike b = true ↔ a.tenant = b.tenant ∧ a.handle = b.handle ∧ a.op = b.op ∧ a.sync = b.sync ∧ a.tag = b.tag
        ∧ a.field = b.field)
    ∧ (p.tag = 0 → p.bin.field = 0)
    ∧ (∀ b ∈ x.bins, b.line = line → ¬ same b → ∃ u, u = s.applyLines pre k (fun n => n == line) []
        ∧ ((u.slice k).bins.all (fun b => b.line != line) = true → s.insertPair pre k p = u.insertPair pre k p)))
  ∧ (∀ (op : Nat) (e : Entry) (l : List Entry), ((∀ x ∈ l, x.pa ≠ e.pa) → addEntry op e l = l ++ [e])
    ∧ ∀ a x b, l = a ++ x :: b → (∀ y ∈ a, y.pa ≠ e.pa) → x.pa = e.pa →
      addEntry op e l = a ++ { x with parts := e.parts.foldl (addPart op) x.parts, poison := x.poison || e.poison } :: b)
  ∧ (∀ (op : Nat) (x v : Part) (l : List Part), (opFloat op = true → addPart op l v = l ++ [v])
    ∧ (opFloat op = false → x.field = v.field → x.inst = v.inst → addPart op [x] v =
        [{ v with value := BitVec.ofNat 64 (opCombine op x.value.toNat v.value.toNat) }]))
  -- the limits
  ∧ (∀ (s : State) (pre : AtHome) (k : Nat) (c : RegionCopy),
    let bins := (s.slice k).bins.filter fun b => b.inRegion c.tenant c.handle
    let gone := oldest (3 * c.binq / 4) (binEntries bins) bins
    ((c.binq = 0 ∨ binEntries bins ≤ c.binq) → s.quotaTest pre k c = s)
    ∧ (c.binq ≠ 0 → c.binq < binEntries bins → s.quotaTest pre k c = State.spillAll pre k gone.length (s.grn k c.tenant 63 48 1) gone)
    ∧ (∃ r, bins = gone ++ r ∧ binEntries r ≤ 3 * c.binq / 4)
    ∧ (binEntries (s.slice k).bins ≤ 14336 → s.storeTest pre k = s))
  ∧ (∀ l : List Bin, (∀ b ∈ l, b.tenant < 16) →
    binEntries (l.filter fun b => !(overflow 12288 l.length l).contains b) ≤ 12288
    ∧ (∀ b ∈ overflow 12288 l.length l, b ∈ l)
    ∧ ∀ u, u < 16 → let of_ (t : Nat) := binEntries (l.filter fun b => b.tenant == t)
      of_ u ≤ of_ (fullest l) ∧ (of_ u = of_ (fullest l) → fullest l ≤ u))
  -- what is removed: a run where a usable area has room, else in place; the 65th run merges
  ∧ (∀ (s : State) (pre : AtHome) (k : Nat) (b : Bin) (t : List Bin), (∀ x ∈ b :: t, x ∈ (s.slice k).bins) →
    let h := (((s.slice k).copies.find? fun c => c.tenant == b.tenant && c.handle == b.handle).map RegionCopy.spill).getD 0
    (h = 0 → s.spillBins pre k (b :: t) = s.inPlace pre k (b :: t))
    ∧ (h ≠ 0 → let u := pre s (s.entryAddr b.tenant h)
      (u.spillArea b.tenant h = none → s.spillBins pre k (b :: t) = u.inPlace pre k (b :: t))
      ∧ (u.spillArea b.tenant h ≠ none → 64 ≤ ((u.slice k).runs.filter fun r => r.tenant == b.tenant && r.handle == b.handle).length →
          s.spillBins pre k (b :: t) = u.mergeRuns pre k b h (b :: t))
      ∧ (u.spillArea b.tenant h ≠ none → ((u.slice k).runs.filter fun r => r.tenant == b.tenant && r.handle == b.handle).length < 64 →
          let r := u.writeRun pre k b h false (sortEntries ((b :: t).flatMap Bin.entries))
          s.spillBins pre k (b :: t) = if r.2 then r.1.dropBins k (b :: t) else r.1.inPlace pre k (b :: t))))
  ∧ (∀ (s u : State) (pre : AtHome) (k : Nat) (b : Bin) (h base bound : Nat) (m : Bool) (es : List Entry) (hdr : List Seg),
    (s.spillArea b.tenant h = none → s.writeRun pre k b h m es = (s, false))
    ∧ (s.spillArea b.tenant h = some (base, bound) → s.spillSegs pre k b.tenant base 0 64 = some (u, hdr) →
      let v := pre.all u hdr
      let next := v.headerGet hdr 0
      let size := 32 + 16 * es.length
      (bound < next + size → s.writeRun pre k b h m es = (v.headerAdd hdr 32 1, false))
      ∧ (next + size ≤ bound → v.spillSegs pre k b.tenant base next size = none → s.writeRun pre k b h m es = (v.headerAdd hdr 32 1, false))
      ∧ (∀ w segs, next + size ≤ bound → v.spillSegs pre k b.tenant base next size = some (w, segs) →
          ∃ z : State, s.writeRun pre k b h m es = (z.setSlice k { z.slice k with runs := (z.slice k).runs ++ [⟨b.tenant, b.handle, b.op, b.sync,
            b.field, b.tag, segs.map fun x => (x.addr, x.len), hdr.map fun x => (x.addr, x.len), size, es.map (v.oneValue b.op)⟩] }, true)))
    ∧ (∀ a c, s.spillArea b.tenant h = some (a, c) → 64 ≤ c ∧ h ≠ 0))
  -- the runs that are applied together
  ∧ (∀ (pick : Run → Bool) (l : List Run), let r := chooseRuns pick l
    (∀ x ∈ l, pick x = true → x ∈ r.1) ∧ r.1.Sublist l ∧ r.2.1.Sublist l ∧ r.1.length + r.2.1.length = l.length
    ∧ ∀ a x b y e f, l = a ++ x :: b → y ∈ (chooseRuns pick b).1 → e ∈ x.entries → f ∈ y.entries → lineOf e.pa = lineOf f.pa → x ∈ r.1)
  -- an access to a line with pairs in the open batch alone, and the values of the operators
  ∧ (∀ (s : State) (k : Nat) (x : Slice) (want : Nat → Bool), tget k s.slices = some x → x.closed = false → x.runs = [] → x.bins = [] →
    x.batch ≠ [] → (∀ p ∈ x.batch, want (lineOf p.pa) = true) → s.applyAt k want =
      State.applyPend x.batch.length (s.setSlice k ({ x with batch := [] } : Slice).prune) (x.batch.map Pair.pend))
  ∧ (∀ (s : State) (x : Pend) (l : List Pend), (∀ y ∈ l, y.pa = x.pa ∧ y.op = x.op) →
    State.applyPend (l.length + 1) s (x :: l) = s.applyElem x.pa x.op (x :: l))
  ∧ (∀ (s : State) (pa op : Nat) (l : List Pend), l ≠ [] → (∀ p ∈ l, p.tag = 0) → (∀ x ∈ s.insts, x.versioned = false) → s.waiters = [] →
    s.mem.wf = true → s.mpoison.wf = true →
    let t := s.applyElem pa op l
    let old := s.mem.readList pa (opSize op)
    t.mem.readList pa (opSize op) = natLe (opSize op) (opNarrow op (opFold op (s.sumPicks pa) (opWiden op (leNat old) :: l.map Pend.value)))
    ∧ memSame s t (fun a => pa ≤ a ∧ a < pa + opSize op)
    ∧ ((∃ p ∈ l, p.poison = true) → ∀ a, pa ≤ a → a < pa + opSize op → t.mpoison.read a ≠ 0))
  ∧ (∀ (op : Nat) (ch : Nat → Nat) (x : Nat) (l : List Nat),
    (op = 1 ∨ op = 13 → opFold op ch (x :: l) % 2 ^ 32 = (x + l.sum) % 2 ^ 32)
    ∧ opFold 2 ch (x :: l) % 2 ^ 64 = (x + l.sum) % 2 ^ 64
    ∧ opFold 5 ch (x :: l) ∈ x :: l ∧ (∀ y ∈ x :: l, sg 32 (opFold 5 ch (x :: l)) ≤ sg 32 y)
    ∧ opFold 6 ch (x :: l) ∈ x :: l ∧ (∀ y ∈ x :: l, sg 32 y ≤ sg 32 (opFold 6 ch (x :: l)))
    ∧ opFold 7 ch (x :: l) ∈ x :: l ∧ (∀ y ∈ x :: l, opFold 7 ch (x :: l) ≤ y)
    ∧ opFold 8 ch (x :: l) ∈ x :: l ∧ (∀ y ∈ x :: l, y ≤ opFold 8 ch (x :: l))
    ∧ (∀ i, (opFold 11 ch (x :: l)).testBit i = (x :: l).any fun y => y.testBit i)
    ∧ (∀ i, (opFold 12 ch (x :: l)).testBit i = (x :: l).all fun y => y.testBit i)
    ∧ opFold 14 ch (x :: l) = (x :: l).getLast (List.cons_ne_nil x l)
    ∧ opInit 13 x = 1 ∧ (op ≠ 4 → op ≠ 13 → opInit op x = x) ∧ (op ≠ 4 → opWiden op x = x ∧ opNarrow op x = x))
  ∧ (∀ (s : State) (n : Nat) (m : MsgFlight), s.msgs[n]? = some m →
    let here := (s.bay m.bay).inst = some (m.field, m.inst)
    let free := (s.bay m.bay).halted = false ∧ (s.bay m.bay).msgs.length < Config.messageQueue
    let first := ∀ q ∈ s.msgs.take n, ¬ (q.from_.bay = m.from_.bay ∧ q.bay = m.bay ∧ s.tenantOf q.field = s.tenantOf m.field)
    (here → free → first → ∃ z, exec (.messageDeliver n) s = .next z ∧ z.msgs = dropAt s.msgs n
        ∧ z.bay m.bay = { s.bay m.bay with msgs := (s.bay m.bay).msgs ++ [m.msg] } ∧ (∀ b, b ≠ m.bay → z.bay b = s.bay b) ∧ z.mem = s.mem)
    ∧ (here → (¬ free ∨ ¬ first) → exec (.messageDeliver n) s = .next s)
    ∧ (¬ here → s.inst? m.field m.inst = none → exec (.messageDeliver n) s = .next { s with msgs := dropAt s.msgs n })
    ∧ (¬ here → s.inst? m.field m.inst ≠ none → exec (.messageDeliver n) s = .next s))
  ∧ (∀ (s : State) (f i c : Nat) (x : Inst) (r : ChanRec), s.inst? f i = some x → x.image.chans[c]? = some r →
    let both := s.bayRuns (s.prodBay x r) = true ∧ s.bayRuns (s.consBay x r) = true
    (∀ t l, (x.chan c).flight = t :: l → s.tokenReady x c r = true → exec (.channelTokenArrive f i c) s = .next
        ((((s.modInst f i fun y => { y with sends := y.sends.erase c }).modChan f i c fun ch =>
            { ch with flight := l, passed := ch.passed - 1 }).landTok f i c t).modChan f i c fun ch =>
          { ch with closed := ch.closed || (ch.eosSent && l.isEmpty) }))
    ∧ (((x.chan c).flight = [] ∨ s.tokenReady x c r = false) → exec (.channelTokenArrive f i c) s = .next s)
    ∧ (s.tokenReady x c r = true ↔ both ∧ (s.crossing x r = true → 0 < (x.chan c).passed)
        ∧ ∀ d ∈ x.sends.takeWhile (· != c), ∀ q, x.image.chans[d]? = some q → s.sameWay x r q = false)
    ∧ (both → exec (.coincidentEdge f i c) s =
        .next (s.modChan f i c fun ch => { ch with seen := ch.consumed, passed := min 8 ch.flight.length }))
    ∧ (¬ both → exec (.coincidentEdge f i c) s = .next s))

/-- The error counters of a link saturate; a port narrows, or goes down and its routes move to the next port or vanish; a wait
for a route runs out; a route comes back, for a module or for one die and slice; device time and DTSYNC; the host port; a storage
error of every kind is counted and, when it cannot be corrected, drops one clean copy or marks the data it names: lines, registers,
tokens, code words, scales, the running set, the merge buffer of a die, the entries of a line.
Rests on the model's own choices of notes/assumptions/18.md, notes/assumptions/66.md and notes/assumptions/77.md. -/
def Obligations.LinksAndErrors : Prop :=
  (∀ (s : State) (p n : Nat),
    let x := s.link p
    (∃ t, exec (.linkCrcError p n) s = .next t ∧ (t.link p).crcerr.toNat = min (x.crcerr.toNat + n) 0xFFFF
      ∧ t.link p = { x with crcerr := (t.link p).crcerr } ∧ (∀ q, q ≠ p → t.link q = s.link q) ∧ t = { s with links := t.links })
    ∧ (∃ t, exec (.linkAckTimeout p n) s = .next t ∧ (t.link p).replay.toNat = min (x.replay.toNat + n) 0xFFFF
      ∧ t.link p = { x with replay := (t.link p).replay } ∧ (∀ q, q ≠ p → t.link q = s.link q) ∧ t = { s with links := t.links })
    ∧ (4 < x.lanes.toNat → exec (.linkRetrain p) s = .next (s.setLink p { x with lanes := 4 }))
    ∧ (2 < x.lanes.toNat → x.lanes.toNat ≤ 4 → exec (.linkRetrain p) s = .next (s.setLink p { x with lanes := 2 }))
    ∧ (x.lanes.toNat ≤ 2 → exec (.linkRetrain p) s = exec (.linkDown p (s.nextPort p)) s)
    ∧ ((∃ q, q < 18 ∧ q ≠ p ∧ (s.link q).up = true) →
        s.nextPort p < 18 ∧ s.nextPort p ≠ p ∧ (s.link (s.nextPort p)).up = true)
    ∧ ((∀ q, q < 18 → q ≠ p → (s.link q).up = false) → s.nextPort p = p)
    ∧ (∃ t, exec (.linkDown p n) s = .next t ∧ (t.link p).up = false ∧ (t.link p).lanes = 0
      ∧ (t.link p).downs.toNat = min (x.downs.toNat + if x.up then 1 else 0) 0xFF ∧ (∀ q, q ≠ p → t.link q = s.link q)
      ∧ (∀ r ∈ t.routes, (r.2 ≠ p ∧ r ∈ s.routes)
          ∨ ((r.1, p) ∈ s.routes ∧ ((n ≠ p ∧ (s.link n).up = true ∧ r.2 = n) ∨ (512 ≤ r.1 ∧ r.2 = 18))))
      ∧ (∀ m q, (m, q) ∈ s.routes → q ≠ p → (m, q) ∈ t.routes)
      ∧ (∀ m, (m, p) ∈ s.routes → n ≠ p → (s.link n).up = true → (m, n) ∈ t.routes)
      ∧ t = { s with links := t.links, routes := t.routes }))
  ∧ (∀ (s : State) (n : Nat),
    (n < s.routeWaits.length → ∃ t, exec (.linkRouteTimeout n) s = .next t ∧ t = { s with routeWaits := t.routeWaits }
      ∧ (∀ k r, s.routeWaits[k]? = some r → t.routeWaits[k]? = some (if k = n then { r with expired := true } else r)))
    ∧ (∀ p, s.routeWaits.length ≤ n → s.pairs[n - s.routeWaits.length]? = some p → s.noRoute p.who p.pa = true → ∃ t,
      exec (.linkRouteTimeout n) s = .next t ∧ t.pairs = dropAt s.pairs (n - s.routeWaits.length)
      ∧ wget t.domcfg 63 48 = min (wget s.domcfg 63 48 + 1) 0xFFFF ∧ t.mem = s.mem)
    ∧ (s.routeWaits.length ≤ n → (∀ p, s.pairs[n - s.routeWaits.length]? = some p → s.noRoute p.who p.pa = false) →
      exec (.linkRouteTimeout n) s = .next s))
  ∧ (∀ (s : State) (e p : Nat),
    let m := routeModule e
    (m < 320 → m ≠ s.own → p < 18 → ∃ t, exec (.routeReturn e p) s = .next t ∧ tget e t.routes = some p ∧ (t.link p).up = true
      ∧ ((s.link p).up = true → t.link p = s.link p)
      ∧ ((s.link p).up = false → (t.link p).lanes = 8 ∧ (t.link p).peer.toNat = (Config.linkPeer p).1 % 320
          ∧ (t.link p).peerPort.toNat = (Config.linkPeer p).2 % 18)
      ∧ m ∈ t.members ∧ (∀ r, r ∈ t.routeWaits ↔ r ∈ s.routeWaits ∧ r.module ≠ m)
      ∧ (∀ k, k ≠ e → tget k t.routes = tget k s.routes) ∧ (∀ q, q ≠ p → t.link q = s.link q) ∧ t.mem = s.mem)
    ∧ ((320 ≤ m ∨ m = s.own ∨ 18 ≤ p) → exec (.routeReturn e p) s = .next s))
  ∧ (∀ (s : State) (q : Bool) (n : Nat), ∃ t, exec (.deviceTimeAlign q n) s = .next t ∧ wget t.domcfg 32 32 = (if q then 1 else 0)
      ∧ wget t.domcfg 31 0 = wget s.domcfg 31 0 ∧ wget t.domcfg 63 33 = wget s.domcfg 63 33
      ∧ t.dtime = (if n = 0 then s.dtime else s.dtime + 1) ∧ t = { s with domcfg := t.domcfg, dtime := t.dtime })
  ∧ (∀ (s : State) (p : BitVec 1) (r w : Nat), ∃ t, exec (.hostPortTrain p r w) s = .next t
      ∧ tget p.toNat t.hostPorts = some (min 128 r, min 16 w) ∧ t = { s with hostPorts := t.hostPorts })
  ∧ (∀ (s : State) (k : ErrKind) (n : Nat),
    let count (hi lo : Nat) : State := { s with errstat := wadd s.errstat hi lo 1 }
    exec (.storageError .hbm true n) s = .next (count 31 16)
    ∧ (k ≠ .hbm → exec (.storageError k true n) s = .next (count 63 48))
    ∧ exec (.storageError .cleanLine false n) s = .next (count 47 32)
    -- every kind is counted
    ∧ (∃ t, exec (.storageError k false n) s = .next t ∧ t.errstat = (if k = .hbm then count 15 0 else count 47 32).errstat)
    -- a line: the committed copy, or the copy in a version that holds it
    ∧ (gaMod n = s.own → (∀ x ∈ s.insts, ∀ y ∈ x.overlay, lineOf y.1 ≠ lineOf n) → s.mpoison.wf = true →
        ∃ t, exec (.storageError .hbm false n) s = .next t ∧ t = { count 15 0 with mpoison := t.mpoison }
        ∧ ∀ a, t.mpoison.read a = if a / 64 = n / 64 then 2 else s.mpoison.read a)
    ∧ (gaMod n = s.own → isWindow (gaLocal n) = false → (∀ x ∈ s.insts, ∀ y ∈ x.overlay, lineOf y.1 ≠ lineOf n) → s.mpoison.wf = true →
        ∃ t, exec (.storageError .held false n) s = .next t ∧ t = { count 47 32 with mpoison := t.mpoison }
        ∧ ∀ a, (t.mpoison.read a ≠ 0 ↔ a / 64 = n / 64 ∨ s.mpoison.read a ≠ 0) ∧ (a / 64 ≠ n / 64 → t.mpoison.read a = s.mpoison.read a))
    ∧ (∀ j, (j = .hbm ∨ j = .held) → ∃ t, exec (.storageError j false n) s = .next t
        ∧ (t.insts = s.insts ∨ t.mpoison = s.mpoison ∧ ∃ x ∈ s.insts, (∃ y ∈ x.overlay, lineOf y.1 = lineOf n) ∧
            t.insts = s.insts.map fun z => if z.field = x.field ∧ z.id = x.id then
              { x with overlay := x.overlay.map fun y => if lineOf y.1 = lineOf n then (y.1, y.2.1, true) else y } else z))
    -- a register: the unit of its bytes is marked
    ∧ (gaMod n = s.own → isWindow (gaLocal n) = true → isRegOff (windowOff (gaLocal n)) = true →
        (∀ x ∈ s.insts, ∀ y ∈ x.overlay, lineOf y.1 ≠ lineOf n) → exec (.storageError .held false n) s = .next
          ((count 47 32).landUnit (poisonUnit (windowBay (gaLocal n)) (windowOff (gaLocal n) - Config.regBase))))
    ∧ (∀ (r : Regs) o, o < 0x100 → (regsUnit r o (poisonUnit 0 o)).rg (BitVec.ofNat 5 (o / 8)) = r.rg (BitVec.ofNat 5 (o / 8))
        ∧ (8 ≤ o → (regsUnit r o (poisonUnit 0 o)).rgp (BitVec.ofNat 5 (o / 8)) = true))
    ∧ (∃ t, exec (.storageError .translation false n) s = .next t ∧ t = { count 47 32 with tlb := t.tlb, walks := t.walks }
        ∧ t.tlb.Sublist s.tlb ∧ s.tlb.length ≤ t.tlb.length + 1 ∧ (∀ x ∈ s.tlb, ¬ (x.pa ≤ n ∧ n < x.pa + x.size) → x ∈ t.tlb)
        ∧ t.walks.Sublist s.walks ∧ s.walks.length ≤ t.walks.length + 1 ∧ (t.tlb = s.tlb ∨ t.walks = s.walks))
    ∧ (∃ t, exec (.storageError .image false n) s = .next t ∧ t = { count 47 32 with images := t.images, bays := t.bays }
        ∧ t.images.Sublist s.images ∧ s.images.length ≤ t.images.length + 1
        ∧ (∀ x ∈ s.images, x.ptr.toNat ≠ n → x ∈ t.images)
        ∧ (∀ b, t.bay b = { s.bay b with codes := (t.bay b).codes } ∧ (t.bay b).codes.Sublist (s.bay b).codes)
        ∧ ((∃ x ∈ s.images, x.ptr.toNat = n) → (∀ q ∈ s.bays, ∀ x ∈ q.2.codes, x.ptr.toNat ≠ n) → t.images.length < s.images.length))
    ∧ (∃ t, exec (.storageError .handleEntry false n) s = .next t ∧ t = { count 47 32 with seqCache := t.seqCache, bays := t.bays }
        ∧ (∀ e ∈ t.seqCache, e ∈ s.seqCache) ∧ ∀ b, t.bay b = { s.bay b with hcache := (t.bay b).hcache }
        ∧ ∀ e ∈ (t.bay b).hcache, e ∈ (s.bay b).hcache)
    -- the cells: the slot they hold is fetched again before the next row, marked (R280)
    ∧ (∀ b r, (s.bay b).array.resident = some r → ∃ t, exec (.storageError (.cells b) false n) s = .next t
        ∧ (t.bay b).array = { (s.bay b).array with
            slots := tput r { (s.bay b).array.slot r with poison := true } (s.bay b).array.slots, resident := none }
        ∧ t.mem = s.mem)
    ∧ (∀ b x, (n, x) ∈ (s.bay b).array.slots → ∃ t y, exec (.storageError (.slot b) false n) s = .next t
        ∧ (n, y) ∈ (t.bay b).array.slots ∧ y = { x with poison := true, stale := true } ∧ t.mem = s.mem)
    -- the merge buffer of a die, which all its commands share
    ∧ (∀ b d c, bayDie d = bayDie b → s.head d gleanerPort = some c → ∃ t e, exec (.storageError (.merge b) false n) s = .next t
        ∧ t.head d gleanerPort = some e ∧ e.lines.map Prod.fst = c.lines.map Prod.fst ∧ ∀ y ∈ e.lines, y.2.2 = true)
    ∧ (∀ f i c x t, s.inst? f i = some x → (x.chan c).fifo[n]? = some t → ∃ z y,
        exec (.storageError (.fifo f i c) false n) s = .next z ∧ z.inst? f i = some y
        ∧ (y.chan c).fifo[n]? = some { t with poison := BitVec.allOnes 128 })
    ∧ (∀ f i x, s.inst? f i = some x → ∃ z y, exec (.storageError (.code f i) false n) s = .next z ∧ z.inst? f i = some y
        ∧ y.image.codePoison = n :: x.image.codePoison)
    ∧ (∀ b, ∃ t, exec (.storageError (.running b) false n) s = .next t ∧ (t.bay b).array = { (s.bay b).array with runPoison := true }
        ∧ t.mem = s.mem)
    ∧ (∀ b, ∃ t, exec (.storageError (.scale b) false n) s = .next t
        ∧ (t.bay b).array.scale n = (((s.bay b).array.scale n).1, true) ∧ t.mem = s.mem)
    -- the entries of a line in batch, bins and runs
    ∧ (∃ t, exec (.storageError .entries false n) s = .next t ∧ t = { count 47 32 with slices := t.slices }
        ∧ t.slices = s.slices.map (fun q => (q.1, q.2.poison (lineOf n))))
    ∧ (∀ (z : Slice) m, (∀ p ∈ (z.poison m).batch, lineOf p.pa = m → p.poison = true)
        ∧ (∀ b ∈ (z.poison m).bins, ∀ e ∈ b.entries, lineOf e.pa = m → e.poison = true)
        ∧ (∀ r ∈ (z.poison m).runs, ∀ e ∈ r.entries, lineOf e.pa = m → e.poison = true)
        ∧ ((∀ p ∈ z.batch, lineOf p.pa ≠ m) → (z.poison m).batch = z.batch))
    ∧ (∀ j, ∃ t, exec (.storageError j false n) s = .next t))

/-! ### Rates and power -/

/-- The solver: a posted solve of a tenant on its islands begins and is counted with its cause; each island gets the least ratio
that meets its demand, 0 without actors and 64 where it is pinned, raised by the crossing pass until no crossing channel is over
its limit or both its ends stand at 64, and lowered by the power pass, costliest island first, while the cost is over the grant;
in 64 clocks ratio k fires k times; a lower ratio applies before its rail, a higher one once the rail is sensed at its target;
a rail moves from where it stands; a sample boundary and a power interval at their device ticks.
Rests on the model's own choices of notes/assumptions/50.md, notes/assumptions/69.md (MEAS is a free value), notes/assumptions/70.md
and notes/assumptions/90.md (one sample boundary and one interval end a tick). -/
def Obligations.Solver : Prop :=
  (∀ (s : State) (t : BitVec 4) (c : Nat),
    let n := t.toNat
    ((s.tenant n).solve = none → exec (.solve t) s = .next s)
    ∧ (s.onIslands n = false → exec (.solve t) s = .next s)
    ∧ ((s.tenant n).solve = some c → s.onIslands n = true → c < 16 → ∃ z, exec (.solve t) s = .next z
        ∧ z = (s.modTenant n fun x => { x with solve := none }).solveTenant n c ∧ (z.tenant n).solve = none
        ∧ wget (z.tenant n).solvst 63 48 = min (wget (s.tenant n).solvst 63 48 + 1) 0xFFFF ∧ wget (z.tenant n).solvst 23 20 = c
        ∧ z.mem = s.mem ∧ z.fields = s.fields))
  ∧ (∀ d : Ratio, (ratioFor d).1 ≤ 64 ∧ 1 ≤ (ratioFor d).1
      ∧ ((ratioFor d).2 = false → d.le (offer (ratioFor d).1) = true)
      ∧ (∀ k, 1 ≤ k → k < (ratioFor d).1 → d.le (offer k) = false)
      ∧ ((ratioFor d).2 = true → (ratioFor d).1 = 64 ∧ d.le (offer 64) = false))
  ∧ (∀ k, k ≤ 64 → ((List.range 64).filter (fires k)).length = k)
  ∧ (∀ (s : State) (i : Nat),
    let x := s.island i
    let t := s.islandTenant i
    let put (y : Island) : Out := .next (((s.setIsland i y).noteChange t).recommit t)
    let now := s.dtime.toNat
    let done := put { x.command now x.tgtv with k := x.tgtk, state := x.railState now x.tgtv }
    (x.tgtk < x.k → exec (.ratioApply i) s = done)
    ∧ (x.k < x.tgtk → x.tgtv ≤ x.sense now → exec (.ratioApply i) s = done)
    ∧ (x.k < x.tgtk → x.sense now < x.tgtv → x.vcode ≠ x.tgtv → exec (.ratioApply i) s = put { x.command now x.tgtv with state := 1 })
    ∧ (x.k < x.tgtk → x.sense now < x.tgtv → x.vcode = x.tgtv → exec (.ratioApply i) s = .next s)
    ∧ (x.k = x.tgtk → exec (.ratioApply i) s = .next s)
    ∧ ((x.railPos now ≠ 125 * x.vcode ∨ x.k ≠ x.tgtk ∨ x.state = 0) → exec (.railSettled i) s = .next s)
    ∧ (x.railPos now = 125 * x.vcode → x.k = x.tgtk → x.state ≠ 0 → exec (.railSettled i) s =
        .next ((s.setIsland i { x with state := 0 }).noteChange t)))
  -- a rail
  ∧ (∀ (x : Island) (now later c : Nat), now ≤ later →
    let y := x.command now c
    y.vcode = c ∧ y.railPos now = x.railPos now ∧ x.sense now = x.railPos now / 125
    ∧ (x.railPos now ≤ 125 * c → y.railPos later = min (125 * c) (x.railPos now + (later - now)))
    ∧ (125 * c ≤ x.railPos now → y.railPos later = max (125 * c) (x.railPos now - (later - now)))
    ∧ x.railState now c = if x.railPos now = 125 * c then 0 else if x.railPos now < 125 * c then 1 else 2)
  -- what a solve gives the islands
  ∧ (∀ (s : State) (n c : Nat),
    let u : State := { s with insts := s.insts.map fun x => if (s.field? x.field).any fun f => f.tenant == n then (s.measureInst x).reps else x }
    let l := u.liveOf n
    let first (i : Nat) := u.firstRatio l i
    let crossed := crossingPass (u.crossings l) 40000 ((u.islandsOf n).map fun i => ⟨i, (first i).1, 0, false⟩)
    let coded := crossed.1.map fun x => { x with c := if x.k = 0 then 0 else Config.vmin x.island x.k }
    let grant := wget (s.tenant n).pwrgnt 59 40
    let part := grant < u.costSum coded
    let out := if part then u.powerPass grant 70000 coded 0 else (coded, 0)
    let z := s.solveTenant n c
    ((u.islandsOf n).Nodup → ∀ x ∈ out.1, (z.island x.island).tgtk = x.k ∧ (z.island x.island).tgtv = x.c ∧ (z.island x.island).floor = x.floor)
    ∧ (u.crossings l = [] → ¬ part → ∀ i ∈ u.islandsOf n, (z.island i).tgtk = (first i).1
        ∧ (z.island i).tgtv = if (first i).1 = 0 then 0 else Config.vmin i (first i).1)
    ∧ wget (z.tenant n).solvst 19 19 = (if part then 1 else 0)
    ∧ wget (z.tenant n).solvst 18 18 = (if crossed.2 = true ∨ ∃ i ∈ u.islandsOf n, (first i).2 = true then 1 else 0)
    ∧ ∀ i, let here := l.filter fun x => (u.instIslands x).contains i
      let pinned := ∃ x ∈ l, u.rho x = none ∧ i ∈ u.plotIslands x
      let demand (b : Nat) : Ratio := here.foldl (fun a x => a.add (u.demandOn x ((u.rho x).getD ⟨0, 1⟩) b)) ⟨0, 1⟩
      (here = [] → first i = (0, false)) ∧ (here ≠ [] → pinned → first i = (64, false))
      ∧ (here ≠ [] → ¬ pinned → first i = ratioFor ((islandBays i).foldl (fun m b => m.max (demand b)) ⟨0, 1⟩)))
  -- the crossing pass
  ∧ (∀ (h : List (Nat × Nat × Ratio)) (l : List Choice) (n : Nat), (∀ x ∈ l, x.k ≤ 64) → (l.map Choice.island).Nodup →
    (∀ x ∈ h, x.1 ∈ l.map Choice.island ∧ x.2.1 ∈ l.map Choice.island) → 64 * l.length < n →
    let r := crossingPass h n l
    let excess (x : Nat × Nat × Ratio) : Prop := x.2.2.le (.ofNat (lim (ratioAt r.1 x.1) (ratioAt r.1 x.2.1))) = false
    (∀ x ∈ h, excess x → ratioAt r.1 x.1 = 64 ∧ ratioAt r.1 x.2.1 = 64) ∧ (r.2 = true ↔ ∃ x ∈ h, excess x)
    ∧ (∀ i, ratioAt l i ≤ ratioAt r.1 i ∧ ratioAt r.1 i ≤ 64) ∧ r.1.map Choice.island = l.map Choice.island)
  -- the power pass
  ∧ (∀ (s : State) (g n d : Nat) (l : List Choice),
    (s.costSum l ≤ g → s.powerPass g (n + 1) l d = (l, d))
    ∧ (g < s.costSum l → s.reduceStep l = none → s.powerPass g (n + 1) l d = (l, d))
    ∧ (∀ m e, g < s.costSum l → s.reduceStep l = some (m, e) → s.powerPass g (n + 1) l d = s.powerPass g n m (if e then d + 1 else d))
    ∧ (s.reduceStep l = none ↔ ∀ x ∈ l, x.k = 0 ∨ (x.k = 1 ∧ x.c = Config.vmin x.island 1))
    ∧ (∀ m e, s.reduceStep l = some (m, e) → ∃ x ∈ l, x.k ≠ 0 ∧ ¬ (x.k = 1 ∧ x.c = Config.vmin x.island 1)
        ∧ (∀ y ∈ l, y.k ≠ 0 → ¬ (y.k = 1 ∧ y.c = Config.vmin y.island 1) →
            s.cost y.k y.c ≤ s.cost x.k x.c ∧ (s.cost y.k y.c = s.cost x.k x.c → x.island ≤ y.island))
        ∧ ∃ y : Choice, m = l.map (fun z => if z.island = x.island then y else z) ∧ y.island = x.island
          ∧ (Config.vmin x.island 1 < x.c → e = false ∧ y.c = x.c - 1 ∧ y.floor = x.floor ∧ 1 ≤ y.k ∧ y.k ≤ 64
              ∧ (y.k = 1 ∨ Config.vmin x.island y.k ≤ y.c) ∧ ∀ k, 1 ≤ k → k ≤ 64 → Config.vmin x.island k ≤ y.c → k ≤ y.k)
          ∧ (x.c ≤ Config.vmin x.island 1 → e = true ∧ y.c = x.c ∧ y.floor = true ∧ y.k = max 1 (x.k - 1))))
  -- a sample ends at a multiple of 1,000 times the PERIOD it began with
  ∧ (∀ s : State,
    let due := s.dtime.toNat % (1000 * max 1 s.sampleLen) = 0 ∧ s.dtime.toNat ≠ s.snapAt
    (¬ due → exec .sampleBoundary s = .next s)
    ∧ (due → ∃ z, exec .sampleBoundary s = .next z ∧ z.snapAt = s.dtime.toNat ∧ z.sampleLen = s.samplep.toNat ∧ z.mem = s.mem
      ∧ z.fields = s.fields ∧ z.bays = s.bays ∧ z.islands = s.islands ∧ z.fir = s.fir
      ∧ (∀ b y, (b, y) ∈ s.bays → y.inst.isSome = true → (b, tput cycKey (y.cyc.setWidth 32) y.counters) ∈ z.snaps)
      ∧ ∀ b y, (b, y) ∈ s.bays → y.inst.isSome = true →
        (b, (tput cycKey (y.cyc.setWidth 32) y.counters).map fun (o, w) => (o, w - s.snap b o)) ∈ z.samples))
  ∧ (∀ s : State,
    let cap (t : Nat) : Nat := wget (s.tenant t).pwrcfg 19 0
    let spare (t : Nat) : Nat := cap t - wget (s.tenant t).pwrgnt 39 20
    let meas := (Config.measuredPower s.draw).toNat
    let pool := if meas > wget s.modpwr 15 0 then 0 else ((List.range 16).map spare).foldl (· + ·) 0
    let weight (t : Nat) : Nat := if (s.tenant t).asked then wget (s.tenant t).pwrcfg 39 32 else 0
    let total := ((List.range 16).map weight).foldl (· + ·) 0
    let due := s.dtime.toNat % 100000 = 0 ∧ s.dtime.toNat ≠ s.powerAt
    (¬ due → exec .powerIntervalEnd s = .next s)
    ∧ (due → ∃ z, exec .powerIntervalEnd s = .next z ∧ wget z.modpwr 63 48 = meas % 65536 ∧ wget z.modpwr 47 0 = wget s.modpwr 47 0
      ∧ z.mem = s.mem ∧ z.islands = s.islands ∧ z.powerAt = s.dtime.toNat
      ∧ ∀ t, t < 16 → let grant := min (cap t + if total = 0 then 0 else pool * weight t / total) 0xFFFFF
        wget (z.tenant t).pwrgnt 59 40 = grant ∧ wget (z.tenant t).pwrgnt 19 0 = spare t
        ∧ wget (z.tenant t).pwrgnt 39 20 = wget (s.tenant t).pwrgnt 39 20 ∧ (z.tenant t).asked = false
        ∧ (grant < wget (s.tenant t).pwrgnt 39 20 → (z.tenant t).solve = some 6)))

/-! ### Tenants -/

/-- Partitions and the ladder of a stop: the map is checked and the partition resident when its islands are busy with no
other tenant; removal ends its
fields and gates its islands; a stop starts at rung 1, moves to rung 2 and 3 when its times have passed, freezes the bays, saves every
island's context and frees the islands; a resume needs every share, with one sequence number; a restore waits for the weights
that it reloads, solves, and goes on where the stop left off.
Rests on the model's own choices of notes/assumptions/31.md, notes/assumptions/49.md, notes/assumptions/58.md,
notes/assumptions/78.md and notes/assumptions/96.md. -/
def Obligations.TenantLadder : Prop :=
  (∀ (s : State) (t : BitVec 4) (v : Word),
    let n := t.toNat
    let w := wset v 63 63 1
    let g := wget w 61 55 * wget w 54 49
    let l := s.readMap (wget w 46 12) (g / 4)
    let legal := n ≠ 0 ∧ wget w 48 47 = 0 ∧ wget w 11 0 = 0 ∧ 0 < g ∧ g ≤ 2048 ∧ wget w 61 55 % 2 = 0 ∧ wget w 54 49 % 2 = 0
      ∧ (∀ e ∈ l, e ≤ 511) ∧ distinct l = true
    ((s.served = false ∨ (s.tenant n).valid = true ∨ ¬ legal) → exec (.partitionCreate t v) s = .next s)
    ∧ (s.served = true → legal → (s.tenant n).valid = false → ∃ z, exec (.partitionCreate t v) s = .next z ∧ (z.tenant n).valid = true
        ∧ (z.tenant n).pmap = l ∧ ((z.tenant n).resident = true ↔ ∀ i ∈ l, i ∉ s.busyIslands) ∧ (z.tenant n).sliceAt = s.dtime.toNat
        ∧ (z.tenant n).grncnt = 0 ∧ (z.tenant n).mcstat = 0 ∧ wget (z.tenant n).verq 63 48 = 0 ∧ z.mem = s.mem
        ∧ ((z.tenant n).resident = true → ∀ i ∈ l, (z.island i).ten = n))
    ∧ ((s.served = false ∨ n = 0 ∨ (s.tenant n).valid = false) → exec (.partitionRemove t) s = .next s)
    ∧ (s.served = true → n ≠ 0 → (s.tenant n).valid = true → ∃ z, exec (.partitionRemove t) s = .next z ∧ (z.tenant n).valid = false
        ∧ (z.tenant n).resident = false ∧ (z.tenant n).pmap = [] ∧ (z.tenant n).launches = [] ∧ (z.tenant n).pre = 0
        ∧ (z.tenant n).stop = .idle ∧ (∀ f ∈ z.fields, f.tenant ≠ n) ∧ (∀ q ∈ z.prq, q.2.tenant ≠ n))
    ∧ ((s.served = false ∨ n = 0) → exec (.slicecfgWrite t v) s = .next s)
    ∧ (s.served = true → n ≠ 0 → ∃ z, exec (.slicecfgWrite t v) s = .next z
        ∧ (z.tenant n).slicecfg = (if wget v 63 48 = 0 then wset v 63 48 1 else v)
        ∧ wget (z.tenant n).prestat 15 8 = (if 0 < wget v 31 0 ∧ wget v 31 0 < Config.slicemin.toNat
            then min (wget (s.tenant n).prestat 15 8 + 1) 255 else wget (s.tenant n).prestat 15 8) ∧ z.mem = s.mem))
  ∧ (∀ (s : State) (t : BitVec 4),
    let n := t.toNat
    let x := s.tenant n
    let z := s.stopCmd n
    (s.stoppable n = true ↔ n ≠ 0 ∧ x.valid = true ∧ x.pre = 0)
    ∧ (s.served = false → exec (.precmdStop t) s = .next s ∧ exec (.precmdStopNow t) s = .next s ∧ exec (.precmdResume t) s = .next s)
    ∧ (s.served = true → exec (.precmdStop t) s = .next z)
    ∧ (s.stoppable n = false → z = s)
    ∧ (s.stoppable n = true → (z.tenant n).stop = .rung1 ∧ (z.tenant n).pre = 1 ∧ (z.tenant n).stopAt = s.dtime.toNat
        ∧ z.insts = s.insts ∧ z.bays = s.bays ∧ z.mem = s.mem)
    ∧ (s.served = true → s.stoppable n = true → ∃ y, exec (.precmdStopNow t) s = .next y ∧ (y.tenant n).stop = .rung3 ∧ (y.tenant n).pre = 1)
    ∧ (s.served = true → s.stoppable n = false → (x.stop = .rung1 ∨ x.stop = .rung2) → exec (.precmdStopNow t) s =
        .next (s.modTenant n fun x => { x with stop := .rung3 }))
    ∧ ((x.slice = 0 ∨ s.dtime.toNat < x.sliceAt + x.slice) → exec (.sliceExpire t) s = .next s)
    ∧ (x.slice ≠ 0 → x.sliceAt + x.slice ≤ s.dtime.toNat → exec (.sliceExpire t) s = .next z)
    ∧ (x.slice = 0 ∨ Config.slicemin.toNat ≤ x.slice)
    ∧ ((x.stop ≠ .rung1 ∨ s.dtime.toNat < x.stopAt + 1000 * wget x.slicecfg 47 32) → exec (.graceExpire t) s = .next s)
    ∧ (x.stop = .rung1 → x.stopAt + 1000 * wget x.slicecfg 47 32 ≤ s.dtime.toNat → ∃ z, exec (.graceExpire t) s = .next z
        ∧ (z.tenant n).stop = .rung2 ∧ (z.tenant n).stopAt = s.dtime.toNat ∧ z.bays = s.bays
        -- of memory at most the CUT bit of a row in a spill ring (R281)
        ∧ (s.mem.wf = true → ∀ a, z.mem.read a = s.mem.read a ∨ z.mem.read a = s.mem.read a ||| 4)
        ∧ ((∀ y ∈ s.liveOf n, ∀ k r, y.image.chans[k]? = some r → r.k = 15 → (y.chan k).ringCount = 0) → z.mem = s.mem))
    ∧ ((x.stop ≠ .rung2 ∨ s.dtime.toNat < x.stopAt + 1000 * wget x.slicecfg 63 48) → exec (.drainExpire t) s = .next s)
    ∧ (x.stop = .rung2 → x.stopAt + 1000 * wget x.slicecfg 63 48 ≤ s.dtime.toNat → ∃ z, exec (.drainExpire t) s = .next z
        ∧ (z.tenant n).stop = .rung3 ∧ z.bays = s.bays ∧ z.mem = s.mem)
    ∧ (x.stop ≠ .rung3 → exec (.stopWaveHalt t) s = .next s)
    -- the bays halt unless a store that one of them holds waits for a route
    ∧ (x.stop = .rung3 → ∃ z, exec (.stopWaveHalt t) s = .next z
        ∧ (((z.tenant n).stop = .halted ∧ ∀ b ∈ s.partBays n, (z.bay b).halted = true)
          ∨ ((z.tenant n).stop = .rung3 ∧ ∃ b ∈ s.partBays n, (z.bay b).fwd ≠ []))
        ∧ ((∀ b ∈ s.partBays n, (s.bay b).fwd = []) → (z.tenant n).stop = .halted))
    ∧ (s.stopRung n = none → exec (.stopComplete t) s = .next s)
    ∧ ((∃ i ∈ x.pmap, s.loft i ≠ .empty) → exec (.stopComplete t) s = .next s)
    ∧ (∀ k, s.stopRung n = some k → (∀ i ∈ x.pmap, s.loft i = .empty) → ∃ z, exec (.stopComplete t) s = .next z
        ∧ (z.tenant n).pre = 2 ∧ wget (z.tenant n).prestat 3 2 = k ∧ (z.tenant n).resident = false ∧ (z.tenant n).stop = .halted
        ∧ (z.tenant n).stopSeq = x.stopSeq + 1 ∧ z.msix = s.msix ++ [⟨0, true⟩]
        ∧ (∀ b ∈ s.partBays n, (z.bay b).halted = true)
        ∧ ∀ i ∈ x.pmap, (x.resident = true → (z.island i).k = 0 ∧ (z.island i).ten = 0) ∧ ∃ c, z.loftCtx i = some c ∧ c.tenant = n ∧ c.island = i
          ∧ c.rung = k ∧ c.seq = x.stopSeq + 1 ∧ c.dtime = s.dtime.toNat)
    ∧ ((n = 0 ∨ x.pre ≠ 2) → exec (.precmdResume t) s = .next s)
    ∧ (s.served = true → n ≠ 0 → x.pre = 2 → s.canResume n = false →
        exec (.precmdResume t) s = .next (s.modTenant n fun x => { x with prestat := wset x.prestat 7 7 1 }))
    ∧ (s.canResume n = true ↔ x.pmap ≠ [] ∧ (∃ q, ∀ i ∈ x.pmap, (∃ c, s.loftCtx i = some c ∧ c.tenant = n)
        ∧ (∀ j, j < 4 → s.shareSeq i j = q) ∧ i ∉ s.busyIslands))
    ∧ (s.served = true → n ≠ 0 → x.pre = 2 → s.canResume n = true → ∃ z, exec (.precmdResume t) s = .next z ∧ (z.tenant n).pre = 3
        ∧ wget (z.tenant n).prestat 7 7 = 0 ∧ (x.valid = true → (z.tenant n).resident = true) ∧ z.mem = s.mem ∧ z.ctxs = s.ctxs
        ∧ ∀ i ∈ x.pmap, (z.island i).ten = n ∧ ∃ k, z.loft i = .restoring k)
    ∧ (x.pre ≠ 3 → exec (.restoreComplete t) s = .next s)
    -- R389: a share in error gives its bay's data and the tokens that rest there marked
    ∧ (∀ r, let back := (restored s n).foldl State.putContext s
        let marked := ((restored s n).flatMap s.badBays).foldl
          (fun s b => (s.liveOf n).foldl (fun s x => s.poisonTokens x b) s) back
        x.pre = 3 → marked.reloadAll n (s.partBays n) = r →
          (∀ w, r = .ok w → ∃ z, exec (.restoreComplete t) s = .next z ∧ (z.tenant n).pre = 0 ∧ (z.tenant n).stop = .idle
            ∧ (z.tenant n).sliceAt = w.dtime.toNat ∧ wget (z.tenant n).solvst 23 20 = 5 ∧ ∀ i ∈ x.pmap, z.loft i = .empty)
          -- a reload that waits posts its page request or waits for a route, and changes nothing else
          ∧ (∀ w, r = .error w → ∃ z, exec (.restoreComplete t) s = .next z ∧ z = { s with
              prq := z.prq, prqWaiting := z.prqWaiting, prqSeq := z.prqSeq, tenants := z.tenants, routeWaits := z.routeWaits })))

/-! ### Page requests and the host -/

/-- The queue of page requests, PRQTAKE and PRQDONE; the mailbox, whose HINV and TLBI wait for what was formed through the dropped
entries; BAR2 accesses and the ordering point; register writes and reads, with their sizes and Relaxed Ordering; reset, the module
number and the end of boot.
Rests on the model's own choices of notes/assumptions/48.md and notes/assumptions/60.md and notes/assumptions/61.md and notes/assumptions/64.md and notes/assumptions/65.md. -/
def Obligations.PagingAndHost : Prop :=
  (∀ (s : State) (t : BitVec 4) (k : Nat) (q : PageReq), findAt (fun q => q.tenant == t.toNat) s.prqWaiting = some (k, q) →
    let rest : State := { s with prqWaiting := dropAt s.prqWaiting k }
    (s.leafReady q = true → exec (.prqEntryGrant t) s = .next (rest.wakeAll q false))
    ∧ (∀ i, s.leafReady q = false → s.prqSlot t.toNat = some i → ∃ z, exec (.prqEntryGrant t) s = .next z
        ∧ tget i z.prq = some { q with seq := s.prqSeq, postt := s.dtime.toNat, taken := false } ∧ z.prqWaiting = rest.prqWaiting
        ∧ z.prqSeq = (if s.prqSeq = BitVec.allOnes 32 then 1 else s.prqSeq + 1) ∧ z.mem = s.mem)
    ∧ (s.leafReady q = false → s.prqSlot t.toNat = none → exec (.prqEntryGrant t) s = .next s))
  ∧ (∀ s : State,
    (s.served = false → exec .prqtake s = .next s)
    ∧ (s.served = true → (∀ e ∈ s.prq, e.2.taken = true) → exec .prqtake s = .next { s with hostReply := some (.data (natLe 8 0x80000000)) })
    ∧ (∀ i q, s.served = true → s.oldestUntaken = some (i, q) → ∃ z, exec .prqtake s = .next z
        ∧ z.hostReply = some (.data (natLe 8 (q.seq.toNat * 2 ^ 32 + i))) ∧ tget i z.prq = some { q with taken := true }
        ∧ (s.c2hRoom = true → s.c2hWait = [] → z.c2hprod = s.c2hprod + 1 ∧ z.c2hWait = [])
        ∧ ((s.c2hRoom = false ∨ s.c2hWait ≠ []) → z.c2hprod = s.c2hprod
            ∧ z.c2hWait = s.c2hWait ++ [message (natLe 8 1 ++ q.bytes)])
        ∧ z.mem = s.mem)
    ∧ (∀ p n, (s.pfSettled p = true ↔ s.served = true ∧ s.pendingWrites ⟨p, 0⟩ = [])
      ∧ (s.pfSettled p = false → exec (.prqdoneFill ⟨p, n⟩) s = .next s ∧ exec (.prqdoneFail ⟨p, n⟩) s = .next s)
      ∧ (s.pfSettled p = true → (∀ e ∈ s.prq, e.2.seq ≠ n) → exec (.prqdoneFill ⟨p, n⟩) s = .next s ∧ exec (.prqdoneFail ⟨p, n⟩) s = .next s)
      ∧ (∀ i q, s.pfSettled p = true → s.prq.find? (fun x => x.2.seq == n) = some (i, q) →
        let z := ({ s with prq := tdel i s.prq } : State).setHeld q.tenant
        exec (.prqdoneFill ⟨p, n⟩) s = .next (z.wakeAll q false) ∧ exec (.prqdoneFail ⟨p, n⟩) s = .next (z.wakeAll q true)))
    -- the mailbox
    ∧ (s.h2cHead = none → exec .mailboxInvalidate s = .next s ∧ exec .mailboxUnknown s = .next s)
    ∧ (s.c2hRoom = false → exec .mailboxInvalidate s = .next s ∧ exec .mailboxUnknown s = .next s)
    ∧ (∀ l, s.h2cHead = some l → isInvalidate l = true → exec .mailboxUnknown s = .next s)
    ∧ (∀ l, s.h2cHead = some l → isInvalidate l = false → exec .mailboxInvalidate s = .next s)
    ∧ (∀ l, s.h2cHead = some l → isInvalidate l = false → s.c2hRoom = true → exec .mailboxUnknown s = .next (s.answer 1))
    ∧ (∀ l, s.h2cHead = some l → isInvalidate l = true → s.c2hRoom = true →
        let t := msgByte l 8 % 16
        let all := decide (msgByte l 10 ≠ 0)
        let x := BitVec.ofNat 64 (leNat ((l.drop 16).take 8))
        let done (r : State × Pending) : State := if r.1.outstanding r.2 then { r.1 with mboxInval := some r.2 }
          else ({ r.1 with mboxInval := none } : State).answer 0
        -- one that waits already is done when what it waits for is performed
        (∀ p, s.mboxInval = some p → exec .mailboxInvalidate s = .next (done (s, p)))
        ∧ (s.mboxInval = none → msgByte l 9 = 0 → exec .mailboxInvalidate s = .next (done (s.hinv t all (wget x 11 0))))
        ∧ (s.mboxInval = none → msgByte l 9 = 1 → exec .mailboxInvalidate s = .next ((s.dropImages t all x).answer 0))
        ∧ (s.mboxInval = none → msgByte l 9 = 2 → exec .mailboxInvalidate s = .next (done (s.tlbi t all (wget x 51 0)))))
    ∧ (∀ n, (s.answer n).h2ccons = s.h2ccons + 1 ∧ (s.answer n).c2hprod = s.c2hprod + 1 ∧ (s.answer n).mem = s.mem)
    -- boot
    ∧ (∃ z, exec .reset s = .next z ∧ z = { State.reset with agenda := s.agenda, draw := s.draw, parkings := s.parkings, bootst := z.bootst }
        ∧ (Config.slotAVerifies = true → wget z.bootst 1 0 = 2 ∧ wget z.bootst 7 6 = 1)
        ∧ (Config.slotAVerifies = false → Config.slotBVerifies = true → wget z.bootst 1 0 = 2 ∧ wget z.bootst 7 6 = 2)
        ∧ (Config.slotAVerifies = false → Config.slotBVerifies = false → wget z.bootst 1 0 = 1 ∧ wget z.bootst 7 6 = 0))
    ∧ ((wget s.bootst 1 0 ≠ 2 ∨ s.modnum = 0x1FF) → exec .bootReady s = .next s)
    ∧ (wget s.bootst 1 0 = 2 → s.modnum ≠ 0x1FF → ∃ z, exec .bootReady s = .next z ∧ wget z.bootst 1 0 = 3
        ∧ wget z.bootst 63 2 = wget s.bootst 63 2 ∧ z = { s with bootst := z.bootst })
    ∧ (∀ n : BitVec 9, (320 ≤ n.toNat ∨ s.fields ≠ [] ∨ n.toNat ∈ s.members ∨ wget s.bootst 1 0 < 2) →
        exec (.moduleNumberAssign n) s = .next s)
    ∧ (∀ n : BitVec 9, n.toNat < 320 → s.fields = [] → n.toNat ∉ s.members → 2 ≤ wget s.bootst 1 0 →
        ∃ z, exec (.moduleNumberAssign n) s = .next z ∧ z.modnum = n ∧ z.fields = [] ∧ z.bootst = s.bootst))
  ∧ (∀ (s : State) (fn : HostFn) (off n : Nat) (d : List Byte) (ro : Bool),
    let old := s.pendingWrites fn
    (s.served = false → exec (.hostBar2Write fn off d ro) s = .next s)
    ∧ (s.served = true → s.barSegs fn off d.length true = none →
        exec (.hostBar2Write fn off d ro) s = .next { s with hosterr := wadd s.hosterr 63 32 1 })
    ∧ (∀ u l, s.served = true → s.barSegs fn off d.length true = some (u, l) → exec (.hostBar2Write fn off d ro) s =
        .next { u with hostWrites := tput (fnKey fn) (u.pendingWrites fn ++ [⟨l.map fun x => (x.addr, x.len), d, ro,
          if ro || (u.pendingWrites fn).isEmpty then nextSent (u.pendingWrites fn) else 0⟩]) u.hostWrites })
    ∧ ((s.served = false ∨ old ≠ []) → exec (.hostBar2Read fn off n) s = .next s)
    ∧ (s.served = true → old = [] → s.barSegs fn off n false = none → exec (.hostBar2Read fn off n) s =
        .next { s with hosterr := wadd s.hosterr 31 0 1, hostReply := some .unsupported })
    ∧ (∀ u l, s.served = true → old = [] → s.barSegs fn off n false = some (u, l) →
        let r := u.readSegs (hostCtx fn) l
        exec (.hostBar2Read fn off n) s = .next { r.1 with hostReply := some (.data (r.2.map Prod.fst)) })
    ∧ (old = [] → exec (.hostWriteForward fn) s = .next s)
    ∧ (∀ w, old = [w] → w.sent ≠ 0 → ∃ z, exec (.hostWriteForward fn) s = .next z
        ∧ z.mem = (s.writeSegs (hostCtx fn) (w.addr.map fun x => ⟨x.1, x.2⟩) (w.data.map fun b => (b, false))).mem
        ∧ z.hostWrites = tdel (fnKey fn) s.hostWrites)
    -- one of the writes that may arrive next does
    ∧ (s.arrivable old ≠ [] → ∃ z k w, exec (.hostWriteForward fn) s = .next z ∧ k ∈ s.arrivable old ∧ old[k]? = some w
        ∧ z.mem = (s.writeSegs (hostCtx fn) (w.addr.map fun x => ⟨x.1, x.2⟩) (w.data.map fun b => (b, false))).mem
        ∧ z.hostWrites = (if (sendHead (dropAt old k)).isEmpty then tdel (fnKey fn) s.hostWrites
            else tput (fnKey fn) (sendHead (dropAt old k)) s.hostWrites)))
  ∧ (∀ (s : State) (fn : HostFn) (off size : Nat) (v : Word) (ro : Bool),
    let o := off / 8 * 8
    -- R396: Relaxed Ordering lets a write pass, but not PRQDONE
    let ready := s.served = true ∧ (s.pendingWrites fn = [] ∨ (ro = true ∧ ¬ (fn.vf = 0 ∧ o = 0x2008)))
    (¬ ready → exec (.registerWrite (.host ro) fn off size v) s = .next s)
    ∧ (ready → fn.vf = 0 → regAccess size off = false → exec (.registerWrite (.host ro) fn off size v) s = .next s)
    ∧ (ready → fn.vf = 0 → regAccess size off = true →
        exec (.registerWrite (.host ro) fn off size v) s = .next (s.writeReg false o (mergeHalf size off (s.readReg o) v)))
    ∧ (regAccess size off = true →
        exec (.registerWrite .clotus fn off size v) s = .next (s.writeReg true o (mergeHalf size off (s.readReg o) v)))
    ∧ (ready → fn.vf ≠ 0 → off < 0x40 → exec (.registerWrite (.host ro) fn off size v) s =
        .next (s.modTenant fn.vf.toNat fun x => { x with lqdisc := wadd x.lqdisc 31 0 1 }))
    ∧ (ready → fn.vf ≠ 0 → 0x40 ≤ off → o ≠ 0x158 → exec (.registerWrite (.host ro) fn off size v) s = .next s)
    ∧ (ready → fn.vf ≠ 0 → o = 0x158 → regAccess size off = true → exec (.registerWrite (.host ro) fn off size v) s =
        .next (s.writeBlock fn.vf.toNat 0x58 (mergeHalf size off (s.readVf fn.vf.toNat o) v)))
    -- reads: MODINFO and BOOTST before STAGE 3, behind the function's writes, of the sizes that are served
    ∧ (let sees := (s.served = true ∨ (fn.vf = 0 ∧ (o = 0 ∨ o = 0x18))) ∧ s.pendingWrites fn = []
      let got (w : Word) : Option HostReply := some (.data (((natLe 8 w.toNat).drop (off % 8)).take size))
      (¬ sees → s.registerRead fn off size = s)
      ∧ (sees → regAccess size off = false → s.registerRead fn off size = { s with hostReply := some .unsupported })
      ∧ (sees → regAccess size off = true → fn.vf ≠ 0 → s.registerRead fn off size = { s with hostReply := got (s.readVf fn.vf.toNat o) })
      ∧ (sees → regAccess size off = true → fn.vf = 0 → o ≠ 0x2000 → s.registerRead fn off size = { s with hostReply := got (s.readReg o) })
      ∧ (sees → regAccess size off = true → fn.vf = 0 → o = 0x2000 →
          s.registerRead fn off size = { s.takePage.1 with hostReply := got s.takePage.2 }))
    -- what a write does, register by register
    ∧ (∀ t, t < 16 → v &&& 0xFFFF80000001FFFF = 0 → s.writeReg false (0x10000 + 0x1000 * t) v = s.modTenant t fun x => { x with htbase := v })
    ∧ (∀ t, t < 16 → v &&& 0xFFFF80000001FFFF ≠ 0 → s.writeReg false (0x10000 + 0x1000 * t) v = s)
    ∧ (∀ t, t < 16 → setsReserved v (span 20 11) = false →
        wget ((s.writeReg false (0x10000 + 0x1000 * t + 0x30) v).tenant t).prqcfg 10 0 = min 1024 (max 8 (wget v 10 0)))
    ∧ (setsReserved v (span 47 16) = false → wget (s.writeReg false 0x20 v).modpwr 15 0 = min 7200 (max 1000 (wget v 15 0)))
    ∧ (∀ i, i < 192 → s.fields ≠ [] → s.writeReg true (0x1000 + 8 * i) v = s)
    ∧ (∀ i, i < 192 → s.writeReg false (0x1000 + 8 * i) v = s))
end

