-- ==== Sys2Proof/Laws/State.lean ====
section
/-! SUPPORT. One lemma per field of the state for each of the updates the model is written with: what the field holds
after it. Proofs rewrite with these and never unfold an update. -/

namespace Sys2Proof.Machine

variable (s : State)

/-! ### mapRegs -/

@[simp] theorem State.mapRegs_fir (f : Regs → Regs) : (s.mapRegs f).fir = { s.fir with regs := f s.fir.regs } := rfl
@[simp] theorem State.mapRegs_agenda (f : Regs → Regs) : (s.mapRegs f).agenda = s.agenda := rfl
@[simp] theorem State.mapRegs_draw (f : Regs → Regs) : (s.mapRegs f).draw = s.draw := rfl
@[simp] theorem State.mapRegs_parkings (f : Regs → Regs) : (s.mapRegs f).parkings = s.parkings := rfl
@[simp] theorem State.mapRegs_nextCmd (f : Regs → Regs) : (s.mapRegs f).nextCmd = s.nextCmd := rfl
@[simp] theorem State.mapRegs_dtime (f : Regs → Regs) : (s.mapRegs f).dtime = s.dtime := rfl
@[simp] theorem State.mapRegs_mem (f : Regs → Regs) : (s.mapRegs f).mem = s.mem := rfl
@[simp] theorem State.mapRegs_mpoison (f : Regs → Regs) : (s.mapRegs f).mpoison = s.mpoison := rfl
@[simp] theorem State.mapRegs_bays (f : Regs → Regs) : (s.mapRegs f).bays = s.bays := rfl
@[simp] theorem State.mapRegs_fields (f : Regs → Regs) : (s.mapRegs f).fields = s.fields := rfl
@[simp] theorem State.mapRegs_insts (f : Regs → Regs) : (s.mapRegs f).insts = s.insts := rfl
@[simp] theorem State.mapRegs_nextField (f : Regs → Regs) : (s.mapRegs f).nextField = s.nextField := rfl
@[simp] theorem State.mapRegs_tenants (f : Regs → Regs) : (s.mapRegs f).tenants = s.tenants := rfl
@[simp] theorem State.mapRegs_tlb (f : Regs → Regs) : (s.mapRegs f).tlb = s.tlb := rfl
@[simp] theorem State.mapRegs_walks (f : Regs → Regs) : (s.mapRegs f).walks = s.walks := rfl
@[simp] theorem State.mapRegs_seqCache (f : Regs → Regs) : (s.mapRegs f).seqCache = s.seqCache := rfl
@[simp] theorem State.mapRegs_images (f : Regs → Regs) : (s.mapRegs f).images = s.images := rfl
@[simp] theorem State.mapRegs_slices (f : Regs → Regs) : (s.mapRegs f).slices = s.slices := rfl
@[simp] theorem State.mapRegs_pairs (f : Regs → Regs) : (s.mapRegs f).pairs = s.pairs := rfl
@[simp] theorem State.mapRegs_sentSets (f : Regs → Regs) : (s.mapRegs f).sentSets = s.sentSets := rfl
@[simp] theorem State.mapRegs_syncSets (f : Regs → Regs) : (s.mapRegs f).syncSets = s.syncSets := rfl
@[simp] theorem State.mapRegs_waiters (f : Regs → Regs) : (s.mapRegs f).waiters = s.waiters := rfl
@[simp] theorem State.mapRegs_streams (f : Regs → Regs) : (s.mapRegs f).streams = s.streams := rfl
@[simp] theorem State.mapRegs_nextStream (f : Regs → Regs) : (s.mapRegs f).nextStream = s.nextStream := rfl
@[simp] theorem State.mapRegs_colls (f : Regs → Regs) : (s.mapRegs f).colls = s.colls := rfl
@[simp] theorem State.mapRegs_msgs (f : Regs → Regs) : (s.mapRegs f).msgs = s.msgs := rfl
@[simp] theorem State.mapRegs_rwq (f : Regs → Regs) : (s.mapRegs f).rwq = s.rwq := rfl
@[simp] theorem State.mapRegs_veils (f : Regs → Regs) : (s.mapRegs f).veils = s.veils := rfl
@[simp] theorem State.mapRegs_modnum (f : Regs → Regs) : (s.mapRegs f).modnum = s.modnum := rfl
@[simp] theorem State.mapRegs_errstat (f : Regs → Regs) : (s.mapRegs f).errstat = s.errstat := rfl
@[simp] theorem State.mapRegs_domcfg (f : Regs → Regs) : (s.mapRegs f).domcfg = s.domcfg := rfl
@[simp] theorem State.mapRegs_bootst (f : Regs → Regs) : (s.mapRegs f).bootst = s.bootst := rfl
@[simp] theorem State.mapRegs_modpwr (f : Regs → Regs) : (s.mapRegs f).modpwr = s.modpwr := rfl
@[simp] theorem State.mapRegs_hosterr (f : Regs → Regs) : (s.mapRegs f).hosterr = s.hosterr := rfl
@[simp] theorem State.mapRegs_art (f : Regs → Regs) : (s.mapRegs f).art = s.art := rfl
@[simp] theorem State.mapRegs_prq (f : Regs → Regs) : (s.mapRegs f).prq = s.prq := rfl
@[simp] theorem State.mapRegs_prqWaiting (f : Regs → Regs) : (s.mapRegs f).prqWaiting = s.prqWaiting := rfl
@[simp] theorem State.mapRegs_prqSeq (f : Regs → Regs) : (s.mapRegs f).prqSeq = s.prqSeq := rfl
@[simp] theorem State.mapRegs_fills (f : Regs → Regs) : (s.mapRegs f).fills = s.fills := rfl
@[simp] theorem State.mapRegs_costt (f : Regs → Regs) : (s.mapRegs f).costt = s.costt := rfl
@[simp] theorem State.mapRegs_samplep (f : Regs → Regs) : (s.mapRegs f).samplep = s.samplep := rfl
@[simp] theorem State.mapRegs_islands (f : Regs → Regs) : (s.mapRegs f).islands = s.islands := rfl
@[simp] theorem State.mapRegs_links (f : Regs → Regs) : (s.mapRegs f).links = s.links := rfl
@[simp] theorem State.mapRegs_routes (f : Regs → Regs) : (s.mapRegs f).routes = s.routes := rfl
@[simp] theorem State.mapRegs_members (f : Regs → Regs) : (s.mapRegs f).members = s.members := rfl
@[simp] theorem State.mapRegs_routeWaits (f : Regs → Regs) : (s.mapRegs f).routeWaits = s.routeWaits := rfl
@[simp] theorem State.mapRegs_mbox (f : Regs → Regs) : (s.mapRegs f).mbox = s.mbox := rfl
@[simp] theorem State.mapRegs_h2cprod (f : Regs → Regs) : (s.mapRegs f).h2cprod = s.h2cprod := rfl
@[simp] theorem State.mapRegs_h2ccons (f : Regs → Regs) : (s.mapRegs f).h2ccons = s.h2ccons := rfl
@[simp] theorem State.mapRegs_c2hprod (f : Regs → Regs) : (s.mapRegs f).c2hprod = s.c2hprod := rfl
@[simp] theorem State.mapRegs_c2hcons (f : Regs → Regs) : (s.mapRegs f).c2hcons = s.c2hcons := rfl
@[simp] theorem State.mapRegs_c2hWait (f : Regs → Regs) : (s.mapRegs f).c2hWait = s.c2hWait := rfl
@[simp] theorem State.mapRegs_mboxInval (f : Regs → Regs) : (s.mapRegs f).mboxInval = s.mboxInval := rfl
@[simp] theorem State.mapRegs_hostWrites (f : Regs → Regs) : (s.mapRegs f).hostWrites = s.hostWrites := rfl
@[simp] theorem State.mapRegs_hostReply (f : Regs → Regs) : (s.mapRegs f).hostReply = s.hostReply := rfl
@[simp] theorem State.mapRegs_msix (f : Regs → Regs) : (s.mapRegs f).msix = s.msix := rfl
@[simp] theorem State.mapRegs_hostPorts (f : Regs → Regs) : (s.mapRegs f).hostPorts = s.hostPorts := rfl
@[simp] theorem State.mapRegs_lofts (f : Regs → Regs) : (s.mapRegs f).lofts = s.lofts := rfl
@[simp] theorem State.mapRegs_ctxs (f : Regs → Regs) : (s.mapRegs f).ctxs = s.ctxs := rfl
@[simp] theorem State.mapRegs_snaps (f : Regs → Regs) : (s.mapRegs f).snaps = s.snaps := rfl
@[simp] theorem State.mapRegs_snapAt (f : Regs → Regs) : (s.mapRegs f).snapAt = s.snapAt := rfl
@[simp] theorem State.mapRegs_sampleLen (f : Regs → Regs) : (s.mapRegs f).sampleLen = s.sampleLen := rfl
@[simp] theorem State.mapRegs_samples (f : Regs → Regs) : (s.mapRegs f).samples = s.samples := rfl
@[simp] theorem State.mapRegs_powerAt (f : Regs → Regs) : (s.mapRegs f).powerAt = s.powerAt := rfl
@[simp] theorem State.mapRegs_changing (f : Regs → Regs) : (s.mapRegs f).changing = s.changing := rfl

/-! ### setBay -/

@[simp] theorem State.setBay_fir (b : Nat) (x : Bay) : (s.setBay b x).fir = s.fir := rfl
@[simp] theorem State.setBay_agenda (b : Nat) (x : Bay) : (s.setBay b x).agenda = s.agenda := rfl
@[simp] theorem State.setBay_draw (b : Nat) (x : Bay) : (s.setBay b x).draw = s.draw := rfl
@[simp] theorem State.setBay_parkings (b : Nat) (x : Bay) : (s.setBay b x).parkings = s.parkings := rfl
@[simp] theorem State.setBay_nextCmd (b : Nat) (x : Bay) : (s.setBay b x).nextCmd = s.nextCmd := rfl
@[simp] theorem State.setBay_dtime (b : Nat) (x : Bay) : (s.setBay b x).dtime = s.dtime := rfl
@[simp] theorem State.setBay_mem (b : Nat) (x : Bay) : (s.setBay b x).mem = s.mem := rfl
@[simp] theorem State.setBay_mpoison (b : Nat) (x : Bay) : (s.setBay b x).mpoison = s.mpoison := rfl
@[simp] theorem State.setBay_bays (b : Nat) (x : Bay) : (s.setBay b x).bays = tput b x s.bays := rfl
@[simp] theorem State.setBay_fields (b : Nat) (x : Bay) : (s.setBay b x).fields = s.fields := rfl
@[simp] theorem State.setBay_insts (b : Nat) (x : Bay) : (s.setBay b x).insts = s.insts := rfl
@[simp] theorem State.setBay_nextField (b : Nat) (x : Bay) : (s.setBay b x).nextField = s.nextField := rfl
@[simp] theorem State.setBay_tenants (b : Nat) (x : Bay) : (s.setBay b x).tenants = s.tenants := rfl
@[simp] theorem State.setBay_tlb (b : Nat) (x : Bay) : (s.setBay b x).tlb = s.tlb := rfl
@[simp] theorem State.setBay_walks (b : Nat) (x : Bay) : (s.setBay b x).walks = s.walks := rfl
@[simp] theorem State.setBay_seqCache (b : Nat) (x : Bay) : (s.setBay b x).seqCache = s.seqCache := rfl
@[simp] theorem State.setBay_images (b : Nat) (x : Bay) : (s.setBay b x).images = s.images := rfl
@[simp] theorem State.setBay_slices (b : Nat) (x : Bay) : (s.setBay b x).slices = s.slices := rfl
@[simp] theorem State.setBay_pairs (b : Nat) (x : Bay) : (s.setBay b x).pairs = s.pairs := rfl
@[simp] theorem State.setBay_sentSets (b : Nat) (x : Bay) : (s.setBay b x).sentSets = s.sentSets := rfl
@[simp] theorem State.setBay_syncSets (b : Nat) (x : Bay) : (s.setBay b x).syncSets = s.syncSets := rfl
@[simp] theorem State.setBay_waiters (b : Nat) (x : Bay) : (s.setBay b x).waiters = s.waiters := rfl
@[simp] theorem State.setBay_streams (b : Nat) (x : Bay) : (s.setBay b x).streams = s.streams := rfl
@[simp] theorem State.setBay_nextStream (b : Nat) (x : Bay) : (s.setBay b x).nextStream = s.nextStream := rfl
@[simp] theorem State.setBay_colls (b : Nat) (x : Bay) : (s.setBay b x).colls = s.colls := rfl
@[simp] theorem State.setBay_msgs (b : Nat) (x : Bay) : (s.setBay b x).msgs = s.msgs := rfl
@[simp] theorem State.setBay_rwq (b : Nat) (x : Bay) : (s.setBay b x).rwq = s.rwq := rfl
@[simp] theorem State.setBay_veils (b : Nat) (x : Bay) : (s.setBay b x).veils = s.veils := rfl
@[simp] theorem State.setBay_modnum (b : Nat) (x : Bay) : (s.setBay b x).modnum = s.modnum := rfl
@[simp] theorem State.setBay_errstat (b : Nat) (x : Bay) : (s.setBay b x).errstat = s.errstat := rfl
@[simp] theorem State.setBay_domcfg (b : Nat) (x : Bay) : (s.setBay b x).domcfg = s.domcfg := rfl
@[simp] theorem State.setBay_bootst (b : Nat) (x : Bay) : (s.setBay b x).bootst = s.bootst := rfl
@[simp] theorem State.setBay_modpwr (b : Nat) (x : Bay) : (s.setBay b x).modpwr = s.modpwr := rfl
@[simp] theorem State.setBay_hosterr (b : Nat) (x : Bay) : (s.setBay b x).hosterr = s.hosterr := rfl
@[simp] theorem State.setBay_art (b : Nat) (x : Bay) : (s.setBay b x).art = s.art := rfl
@[simp] theorem State.setBay_prq (b : Nat) (x : Bay) : (s.setBay b x).prq = s.prq := rfl
@[simp] theorem State.setBay_prqWaiting (b : Nat) (x : Bay) : (s.setBay b x).prqWaiting = s.prqWaiting := rfl
@[simp] theorem State.setBay_prqSeq (b : Nat) (x : Bay) : (s.setBay b x).prqSeq = s.prqSeq := rfl
@[simp] theorem State.setBay_fills (b : Nat) (x : Bay) : (s.setBay b x).fills = s.fills := rfl
@[simp] theorem State.setBay_costt (b : Nat) (x : Bay) : (s.setBay b x).costt = s.costt := rfl
@[simp] theorem State.setBay_samplep (b : Nat) (x : Bay) : (s.setBay b x).samplep = s.samplep := rfl
@[simp] theorem State.setBay_islands (b : Nat) (x : Bay) : (s.setBay b x).islands = s.islands := rfl
@[simp] theorem State.setBay_links (b : Nat) (x : Bay) : (s.setBay b x).links = s.links := rfl
@[simp] theorem State.setBay_routes (b : Nat) (x : Bay) : (s.setBay b x).routes = s.routes := rfl
@[simp] theorem State.setBay_members (b : Nat) (x : Bay) : (s.setBay b x).members = s.members := rfl
@[simp] theorem State.setBay_routeWaits (b : Nat) (x : Bay) : (s.setBay b x).routeWaits = s.routeWaits := rfl
@[simp] theorem State.setBay_mbox (b : Nat) (x : Bay) : (s.setBay b x).mbox = s.mbox := rfl
@[simp] theorem State.setBay_h2cprod (b : Nat) (x : Bay) : (s.setBay b x).h2cprod = s.h2cprod := rfl
@[simp] theorem State.setBay_h2ccons (b : Nat) (x : Bay) : (s.setBay b x).h2ccons = s.h2ccons := rfl
@[simp] theorem State.setBay_c2hprod (b : Nat) (x : Bay) : (s.setBay b x).c2hprod = s.c2hprod := rfl
@[simp] theorem State.setBay_c2hcons (b : Nat) (x : Bay) : (s.setBay b x).c2hcons = s.c2hcons := rfl
@[simp] theorem State.setBay_c2hWait (b : Nat) (x : Bay) : (s.setBay b x).c2hWait = s.c2hWait := rfl
@[simp] theorem State.setBay_mboxInval (b : Nat) (x : Bay) : (s.setBay b x).mboxInval = s.mboxInval := rfl
@[simp] theorem State.setBay_hostWrites (b : Nat) (x : Bay) : (s.setBay b x).hostWrites = s.hostWrites := rfl
@[simp] theorem State.setBay_hostReply (b : Nat) (x : Bay) : (s.setBay b x).hostReply = s.hostReply := rfl
@[simp] theorem State.setBay_msix (b : Nat) (x : Bay) : (s.setBay b x).msix = s.msix := rfl
@[simp] theorem State.setBay_hostPorts (b : Nat) (x : Bay) : (s.setBay b x).hostPorts = s.hostPorts := rfl
@[simp] theorem State.setBay_lofts (b : Nat) (x : Bay) : (s.setBay b x).lofts = s.lofts := rfl
@[simp] theorem State.setBay_ctxs (b : Nat) (x : Bay) : (s.setBay b x).ctxs = s.ctxs := rfl
@[simp] theorem State.setBay_snaps (b : Nat) (x : Bay) : (s.setBay b x).snaps = s.snaps := rfl
@[simp] theorem State.setBay_snapAt (b : Nat) (x : Bay) : (s.setBay b x).snapAt = s.snapAt := rfl
@[simp] theorem State.setBay_sampleLen (b : Nat) (x : Bay) : (s.setBay b x).sampleLen = s.sampleLen := rfl
@[simp] theorem State.setBay_samples (b : Nat) (x : Bay) : (s.setBay b x).samples = s.samples := rfl
@[simp] theorem State.setBay_powerAt (b : Nat) (x : Bay) : (s.setBay b x).powerAt = s.powerAt := rfl
@[simp] theorem State.setBay_changing (b : Nat) (x : Bay) : (s.setBay b x).changing = s.changing := rfl

/-! ### modBay -/

@[simp] theorem State.modBay_fir (b : Nat) (f : Bay → Bay) : (s.modBay b f).fir = s.fir := rfl
@[simp] theorem State.modBay_agenda (b : Nat) (f : Bay → Bay) : (s.modBay b f).agenda = s.agenda := rfl
@[simp] theorem State.modBay_draw (b : Nat) (f : Bay → Bay) : (s.modBay b f).draw = s.draw := rfl
@[simp] theorem State.modBay_parkings (b : Nat) (f : Bay → Bay) : (s.modBay b f).parkings = s.parkings := rfl
@[simp] theorem State.modBay_nextCmd (b : Nat) (f : Bay → Bay) : (s.modBay b f).nextCmd = s.nextCmd := rfl
@[simp] theorem State.modBay_dtime (b : Nat) (f : Bay → Bay) : (s.modBay b f).dtime = s.dtime := rfl
@[simp] theorem State.modBay_mem (b : Nat) (f : Bay → Bay) : (s.modBay b f).mem = s.mem := rfl
@[simp] theorem State.modBay_mpoison (b : Nat) (f : Bay → Bay) : (s.modBay b f).mpoison = s.mpoison := rfl
@[simp] theorem State.modBay_bays (b : Nat) (f : Bay → Bay) : (s.modBay b f).bays = tput b (f (s.bay b)) s.bays := rfl
@[simp] theorem State.modBay_fields (b : Nat) (f : Bay → Bay) : (s.modBay b f).fields = s.fields := rfl
@[simp] theorem State.modBay_insts (b : Nat) (f : Bay → Bay) : (s.modBay b f).insts = s.insts := rfl
@[simp] theorem State.modBay_nextField (b : Nat) (f : Bay → Bay) : (s.modBay b f).nextField = s.nextField := rfl
@[simp] theorem State.modBay_tenants (b : Nat) (f : Bay → Bay) : (s.modBay b f).tenants = s.tenants := rfl
@[simp] theorem State.modBay_tlb (b : Nat) (f : Bay → Bay) : (s.modBay b f).tlb = s.tlb := rfl
@[simp] theorem State.modBay_walks (b : Nat) (f : Bay → Bay) : (s.modBay b f).walks = s.walks := rfl
@[simp] theorem State.modBay_seqCache (b : Nat) (f : Bay → Bay) : (s.modBay b f).seqCache = s.seqCache := rfl
@[simp] theorem State.modBay_images (b : Nat) (f : Bay → Bay) : (s.modBay b f).images = s.images := rfl
@[simp] theorem State.modBay_slices (b : Nat) (f : Bay → Bay) : (s.modBay b f).slices = s.slices := rfl
@[simp] theorem State.modBay_pairs (b : Nat) (f : Bay → Bay) : (s.modBay b f).pairs = s.pairs := rfl
@[simp] theorem State.modBay_sentSets (b : Nat) (f : Bay → Bay) : (s.modBay b f).sentSets = s.sentSets := rfl
@[simp] theorem State.modBay_syncSets (b : Nat) (f : Bay → Bay) : (s.modBay b f).syncSets = s.syncSets := rfl
@[simp] theorem State.modBay_waiters (b : Nat) (f : Bay → Bay) : (s.modBay b f).waiters = s.waiters := rfl
@[simp] theorem State.modBay_streams (b : Nat) (f : Bay → Bay) : (s.modBay b f).streams = s.streams := rfl
@[simp] theorem State.modBay_nextStream (b : Nat) (f : Bay → Bay) : (s.modBay b f).nextStream = s.nextStream := rfl
@[simp] theorem State.modBay_colls (b : Nat) (f : Bay → Bay) : (s.modBay b f).colls = s.colls := rfl
@[simp] theorem State.modBay_msgs (b : Nat) (f : Bay → Bay) : (s.modBay b f).msgs = s.msgs := rfl
@[simp] theorem State.modBay_rwq (b : Nat) (f : Bay → Bay) : (s.modBay b f).rwq = s.rwq := rfl
@[simp] theorem State.modBay_veils (b : Nat) (f : Bay → Bay) : (s.modBay b f).veils = s.veils := rfl
@[simp] theorem State.modBay_modnum (b : Nat) (f : Bay → Bay) : (s.modBay b f).modnum = s.modnum := rfl
@[simp] theorem State.modBay_errstat (b : Nat) (f : Bay → Bay) : (s.modBay b f).errstat = s.errstat := rfl
@[simp] theorem State.modBay_domcfg (b : Nat) (f : Bay → Bay) : (s.modBay b f).domcfg = s.domcfg := rfl
@[simp] theorem State.modBay_bootst (b : Nat) (f : Bay → Bay) : (s.modBay b f).bootst = s.bootst := rfl
@[simp] theorem State.modBay_modpwr (b : Nat) (f : Bay → Bay) : (s.modBay b f).modpwr = s.modpwr := rfl
@[simp] theorem State.modBay_hosterr (b : Nat) (f : Bay → Bay) : (s.modBay b f).hosterr = s.hosterr := rfl
@[simp] theorem State.modBay_art (b : Nat) (f : Bay → Bay) : (s.modBay b f).art = s.art := rfl
@[simp] theorem State.modBay_prq (b : Nat) (f : Bay → Bay) : (s.modBay b f).prq = s.prq := rfl
@[simp] theorem State.modBay_prqWaiting (b : Nat) (f : Bay → Bay) : (s.modBay b f).prqWaiting = s.prqWaiting := rfl
@[simp] theorem State.modBay_prqSeq (b : Nat) (f : Bay → Bay) : (s.modBay b f).prqSeq = s.prqSeq := rfl
@[simp] theorem State.modBay_fills (b : Nat) (f : Bay → Bay) : (s.modBay b f).fills = s.fills := rfl
@[simp] theorem State.modBay_costt (b : Nat) (f : Bay → Bay) : (s.modBay b f).costt = s.costt := rfl
@[simp] theorem State.modBay_samplep (b : Nat) (f : Bay → Bay) : (s.modBay b f).samplep = s.samplep := rfl
@[simp] theorem State.modBay_islands (b : Nat) (f : Bay → Bay) : (s.modBay b f).islands = s.islands := rfl
@[simp] theorem State.modBay_links (b : Nat) (f : Bay → Bay) : (s.modBay b f).links = s.links := rfl
@[simp] theorem State.modBay_routes (b : Nat) (f : Bay → Bay) : (s.modBay b f).routes = s.routes := rfl
@[simp] theorem State.modBay_members (b : Nat) (f : Bay → Bay) : (s.modBay b f).members = s.members := rfl
@[simp] theorem State.modBay_routeWaits (b : Nat) (f : Bay → Bay) : (s.modBay b f).routeWaits = s.routeWaits := rfl
@[simp] theorem State.modBay_mbox (b : Nat) (f : Bay → Bay) : (s.modBay b f).mbox = s.mbox := rfl
@[simp] theorem State.modBay_h2cprod (b : Nat) (f : Bay → Bay) : (s.modBay b f).h2cprod = s.h2cprod := rfl
@[simp] theorem State.modBay_h2ccons (b : Nat) (f : Bay → Bay) : (s.modBay b f).h2ccons = s.h2ccons := rfl
@[simp] theorem State.modBay_c2hprod (b : Nat) (f : Bay → Bay) : (s.modBay b f).c2hprod = s.c2hprod := rfl
@[simp] theorem State.modBay_c2hcons (b : Nat) (f : Bay → Bay) : (s.modBay b f).c2hcons = s.c2hcons := rfl
@[simp] theorem State.modBay_c2hWait (b : Nat) (f : Bay → Bay) : (s.modBay b f).c2hWait = s.c2hWait := rfl
@[simp] theorem State.modBay_mboxInval (b : Nat) (f : Bay → Bay) : (s.modBay b f).mboxInval = s.mboxInval := rfl
@[simp] theorem State.modBay_hostWrites (b : Nat) (f : Bay → Bay) : (s.modBay b f).hostWrites = s.hostWrites := rfl
@[simp] theorem State.modBay_hostReply (b : Nat) (f : Bay → Bay) : (s.modBay b f).hostReply = s.hostReply := rfl
@[simp] theorem State.modBay_msix (b : Nat) (f : Bay → Bay) : (s.modBay b f).msix = s.msix := rfl
@[simp] theorem State.modBay_hostPorts (b : Nat) (f : Bay → Bay) : (s.modBay b f).hostPorts = s.hostPorts := rfl
@[simp] theorem State.modBay_lofts (b : Nat) (f : Bay → Bay) : (s.modBay b f).lofts = s.lofts := rfl
@[simp] theorem State.modBay_ctxs (b : Nat) (f : Bay → Bay) : (s.modBay b f).ctxs = s.ctxs := rfl
@[simp] theorem State.modBay_snaps (b : Nat) (f : Bay → Bay) : (s.modBay b f).snaps = s.snaps := rfl
@[simp] theorem State.modBay_snapAt (b : Nat) (f : Bay → Bay) : (s.modBay b f).snapAt = s.snapAt := rfl
@[simp] theorem State.modBay_sampleLen (b : Nat) (f : Bay → Bay) : (s.modBay b f).sampleLen = s.sampleLen := rfl
@[simp] theorem State.modBay_samples (b : Nat) (f : Bay → Bay) : (s.modBay b f).samples = s.samples := rfl
@[simp] theorem State.modBay_powerAt (b : Nat) (f : Bay → Bay) : (s.modBay b f).powerAt = s.powerAt := rfl
@[simp] theorem State.modBay_changing (b : Nat) (f : Bay → Bay) : (s.modBay b f).changing = s.changing := rfl

/-! ### setTenant -/

@[simp] theorem State.setTenant_fir (t : Nat) (x : Tenant) : (s.setTenant t x).fir = s.fir := rfl
@[simp] theorem State.setTenant_agenda (t : Nat) (x : Tenant) : (s.setTenant t x).agenda = s.agenda := rfl
@[simp] theorem State.setTenant_draw (t : Nat) (x : Tenant) : (s.setTenant t x).draw = s.draw := rfl
@[simp] theorem State.setTenant_parkings (t : Nat) (x : Tenant) : (s.setTenant t x).parkings = s.parkings := rfl
@[simp] theorem State.setTenant_nextCmd (t : Nat) (x : Tenant) : (s.setTenant t x).nextCmd = s.nextCmd := rfl
@[simp] theorem State.setTenant_dtime (t : Nat) (x : Tenant) : (s.setTenant t x).dtime = s.dtime := rfl
@[simp] theorem State.setTenant_mem (t : Nat) (x : Tenant) : (s.setTenant t x).mem = s.mem := rfl
@[simp] theorem State.setTenant_mpoison (t : Nat) (x : Tenant) : (s.setTenant t x).mpoison = s.mpoison := rfl
@[simp] theorem State.setTenant_bays (t : Nat) (x : Tenant) : (s.setTenant t x).bays = s.bays := rfl
@[simp] theorem State.setTenant_fields (t : Nat) (x : Tenant) : (s.setTenant t x).fields = s.fields := rfl
@[simp] theorem State.setTenant_insts (t : Nat) (x : Tenant) : (s.setTenant t x).insts = s.insts := rfl
@[simp] theorem State.setTenant_nextField (t : Nat) (x : Tenant) : (s.setTenant t x).nextField = s.nextField := rfl
@[simp] theorem State.setTenant_tenants (t : Nat) (x : Tenant) : (s.setTenant t x).tenants = tput t x s.tenants := rfl
@[simp] theorem State.setTenant_tlb (t : Nat) (x : Tenant) : (s.setTenant t x).tlb = s.tlb := rfl
@[simp] theorem State.setTenant_walks (t : Nat) (x : Tenant) : (s.setTenant t x).walks = s.walks := rfl
@[simp] theorem State.setTenant_seqCache (t : Nat) (x : Tenant) : (s.setTenant t x).seqCache = s.seqCache := rfl
@[simp] theorem State.setTenant_images (t : Nat) (x : Tenant) : (s.setTenant t x).images = s.images := rfl
@[simp] theorem State.setTenant_slices (t : Nat) (x : Tenant) : (s.setTenant t x).slices = s.slices := rfl
@[simp] theorem State.setTenant_pairs (t : Nat) (x : Tenant) : (s.setTenant t x).pairs = s.pairs := rfl
@[simp] theorem State.setTenant_sentSets (t : Nat) (x : Tenant) : (s.setTenant t x).sentSets = s.sentSets := rfl
@[simp] theorem State.setTenant_syncSets (t : Nat) (x : Tenant) : (s.setTenant t x).syncSets = s.syncSets := rfl
@[simp] theorem State.setTenant_waiters (t : Nat) (x : Tenant) : (s.setTenant t x).waiters = s.waiters := rfl
@[simp] theorem State.setTenant_streams (t : Nat) (x : Tenant) : (s.setTenant t x).streams = s.streams := rfl
@[simp] theorem State.setTenant_nextStream (t : Nat) (x : Tenant) : (s.setTenant t x).nextStream = s.nextStream := rfl
@[simp] theorem State.setTenant_colls (t : Nat) (x : Tenant) : (s.setTenant t x).colls = s.colls := rfl
@[simp] theorem State.setTenant_msgs (t : Nat) (x : Tenant) : (s.setTenant t x).msgs = s.msgs := rfl
@[simp] theorem State.setTenant_rwq (t : Nat) (x : Tenant) : (s.setTenant t x).rwq = s.rwq := rfl
@[simp] theorem State.setTenant_veils (t : Nat) (x : Tenant) : (s.setTenant t x).veils = s.veils := rfl
@[simp] theorem State.setTenant_modnum (t : Nat) (x : Tenant) : (s.setTenant t x).modnum = s.modnum := rfl
@[simp] theorem State.setTenant_errstat (t : Nat) (x : Tenant) : (s.setTenant t x).errstat = s.errstat := rfl
@[simp] theorem State.setTenant_domcfg (t : Nat) (x : Tenant) : (s.setTenant t x).domcfg = s.domcfg := rfl
@[simp] theorem State.setTenant_bootst (t : Nat) (x : Tenant) : (s.setTenant t x).bootst = s.bootst := rfl
@[simp] theorem State.setTenant_modpwr (t : Nat) (x : Tenant) : (s.setTenant t x).modpwr = s.modpwr := rfl
@[simp] theorem State.setTenant_hosterr (t : Nat) (x : Tenant) : (s.setTenant t x).hosterr = s.hosterr := rfl
@[simp] theorem State.setTenant_art (t : Nat) (x : Tenant) : (s.setTenant t x).art = s.art := rfl
@[simp] theorem State.setTenant_prq (t : Nat) (x : Tenant) : (s.setTenant t x).prq = s.prq := rfl
@[simp] theorem State.setTenant_prqWaiting (t : Nat) (x : Tenant) : (s.setTenant t x).prqWaiting = s.prqWaiting := rfl
@[simp] theorem State.setTenant_prqSeq (t : Nat) (x : Tenant) : (s.setTenant t x).prqSeq = s.prqSeq := rfl
@[simp] theorem State.setTenant_fills (t : Nat) (x : Tenant) : (s.setTenant t x).fills = s.fills := rfl
@[simp] theorem State.setTenant_costt (t : Nat) (x : Tenant) : (s.setTenant t x).costt = s.costt := rfl
@[simp] theorem State.setTenant_samplep (t : Nat) (x : Tenant) : (s.setTenant t x).samplep = s.samplep := rfl
@[simp] theorem State.setTenant_islands (t : Nat) (x : Tenant) : (s.setTenant t x).islands = s.islands := rfl
@[simp] theorem State.setTenant_links (t : Nat) (x : Tenant) : (s.setTenant t x).links = s.links := rfl
@[simp] theorem State.setTenant_routes (t : Nat) (x : Tenant) : (s.setTenant t x).routes = s.routes := rfl
@[simp] theorem State.setTenant_members (t : Nat) (x : Tenant) : (s.setTenant t x).members = s.members := rfl
@[simp] theorem State.setTenant_routeWaits (t : Nat) (x : Tenant) : (s.setTenant t x).routeWaits = s.routeWaits := rfl
@[simp] theorem State.setTenant_mbox (t : Nat) (x : Tenant) : (s.setTenant t x).mbox = s.mbox := rfl
@[simp] theorem State.setTenant_h2cprod (t : Nat) (x : Tenant) : (s.setTenant t x).h2cprod = s.h2cprod := rfl
@[simp] theorem State.setTenant_h2ccons (t : Nat) (x : Tenant) : (s.setTenant t x).h2ccons = s.h2ccons := rfl
@[simp] theorem State.setTenant_c2hprod (t : Nat) (x : Tenant) : (s.setTenant t x).c2hprod = s.c2hprod := rfl
@[simp] theorem State.setTenant_c2hcons (t : Nat) (x : Tenant) : (s.setTenant t x).c2hcons = s.c2hcons := rfl
@[simp] theorem State.setTenant_c2hWait (t : Nat) (x : Tenant) : (s.setTenant t x).c2hWait = s.c2hWait := rfl
@[simp] theorem State.setTenant_mboxInval (t : Nat) (x : Tenant) : (s.setTenant t x).mboxInval = s.mboxInval := rfl
@[simp] theorem State.setTenant_hostWrites (t : Nat) (x : Tenant) : (s.setTenant t x).hostWrites = s.hostWrites := rfl
@[simp] theorem State.setTenant_hostReply (t : Nat) (x : Tenant) : (s.setTenant t x).hostReply = s.hostReply := rfl
@[simp] theorem State.setTenant_msix (t : Nat) (x : Tenant) : (s.setTenant t x).msix = s.msix := rfl
@[simp] theorem State.setTenant_hostPorts (t : Nat) (x : Tenant) : (s.setTenant t x).hostPorts = s.hostPorts := rfl
@[simp] theorem State.setTenant_lofts (t : Nat) (x : Tenant) : (s.setTenant t x).lofts = s.lofts := rfl
@[simp] theorem State.setTenant_ctxs (t : Nat) (x : Tenant) : (s.setTenant t x).ctxs = s.ctxs := rfl
@[simp] theorem State.setTenant_snaps (t : Nat) (x : Tenant) : (s.setTenant t x).snaps = s.snaps := rfl
@[simp] theorem State.setTenant_snapAt (t : Nat) (x : Tenant) : (s.setTenant t x).snapAt = s.snapAt := rfl
@[simp] theorem State.setTenant_sampleLen (t : Nat) (x : Tenant) : (s.setTenant t x).sampleLen = s.sampleLen := rfl
@[simp] theorem State.setTenant_samples (t : Nat) (x : Tenant) : (s.setTenant t x).samples = s.samples := rfl
@[simp] theorem State.setTenant_powerAt (t : Nat) (x : Tenant) : (s.setTenant t x).powerAt = s.powerAt := rfl
@[simp] theorem State.setTenant_changing (t : Nat) (x : Tenant) : (s.setTenant t x).changing = s.changing := rfl

/-! ### modTenant -/

@[simp] theorem State.modTenant_fir (t : Nat) (f : Tenant → Tenant) : (s.modTenant t f).fir = s.fir := rfl
@[simp] theorem State.modTenant_agenda (t : Nat) (f : Tenant → Tenant) : (s.modTenant t f).agenda = s.agenda := rfl
@[simp] theorem State.modTenant_draw (t : Nat) (f : Tenant → Tenant) : (s.modTenant t f).draw = s.draw := rfl
@[simp] theorem State.modTenant_parkings (t : Nat) (f : Tenant → Tenant) : (s.modTenant t f).parkings = s.parkings := rfl
@[simp] theorem State.modTenant_nextCmd (t : Nat) (f : Tenant → Tenant) : (s.modTenant t f).nextCmd = s.nextCmd := rfl
@[simp] theorem State.modTenant_dtime (t : Nat) (f : Tenant → Tenant) : (s.modTenant t f).dtime = s.dtime := rfl
@[simp] theorem State.modTenant_mem (t : Nat) (f : Tenant → Tenant) : (s.modTenant t f).mem = s.mem := rfl
@[simp] theorem State.modTenant_mpoison (t : Nat) (f : Tenant → Tenant) : (s.modTenant t f).mpoison = s.mpoison := rfl
@[simp] theorem State.modTenant_bays (t : Nat) (f : Tenant → Tenant) : (s.modTenant t f).bays = s.bays := rfl
@[simp] theorem State.modTenant_fields (t : Nat) (f : Tenant → Tenant) : (s.modTenant t f).fields = s.fields := rfl
@[simp] theorem State.modTenant_insts (t : Nat) (f : Tenant → Tenant) : (s.modTenant t f).insts = s.insts := rfl
@[simp] theorem State.modTenant_nextField (t : Nat) (f : Tenant → Tenant) : (s.modTenant t f).nextField = s.nextField := rfl
@[simp] theorem State.modTenant_tenants (t : Nat) (f : Tenant → Tenant) : (s.modTenant t f).tenants = tput t (f (s.tenant t)) s.tenants := rfl
@[simp] theorem State.modTenant_tlb (t : Nat) (f : Tenant → Tenant) : (s.modTenant t f).tlb = s.tlb := rfl
@[simp] theorem State.modTenant_walks (t : Nat) (f : Tenant → Tenant) : (s.modTenant t f).walks = s.walks := rfl
@[simp] theorem State.modTenant_seqCache (t : Nat) (f : Tenant → Tenant) : (s.modTenant t f).seqCache = s.seqCache := rfl
@[simp] theorem State.modTenant_images (t : Nat) (f : Tenant → Tenant) : (s.modTenant t f).images = s.images := rfl
@[simp] theorem State.modTenant_slices (t : Nat) (f : Tenant → Tenant) : (s.modTenant t f).slices = s.slices := rfl
@[simp] theorem State.modTenant_pairs (t : Nat) (f : Tenant → Tenant) : (s.modTenant t f).pairs = s.pairs := rfl
@[simp] theorem State.modTenant_sentSets (t : Nat) (f : Tenant → Tenant) : (s.modTenant t f).sentSets = s.sentSets := rfl
@[simp] theorem State.modTenant_syncSets (t : Nat) (f : Tenant → Tenant) : (s.modTenant t f).syncSets = s.syncSets := rfl
@[simp] theorem State.modTenant_waiters (t : Nat) (f : Tenant → Tenant) : (s.modTenant t f).waiters = s.waiters := rfl
@[simp] theorem State.modTenant_streams (t : Nat) (f : Tenant → Tenant) : (s.modTenant t f).streams = s.streams := rfl
@[simp] theorem State.modTenant_nextStream (t : Nat) (f : Tenant → Tenant) : (s.modTenant t f).nextStream = s.nextStream := rfl
@[simp] theorem State.modTenant_colls (t : Nat) (f : Tenant → Tenant) : (s.modTenant t f).colls = s.colls := rfl
@[simp] theorem State.modTenant_msgs (t : Nat) (f : Tenant → Tenant) : (s.modTenant t f).msgs = s.msgs := rfl
@[simp] theorem State.modTenant_rwq (t : Nat) (f : Tenant → Tenant) : (s.modTenant t f).rwq = s.rwq := rfl
@[simp] theorem State.modTenant_veils (t : Nat) (f : Tenant → Tenant) : (s.modTenant t f).veils = s.veils := rfl
@[simp] theorem State.modTenant_modnum (t : Nat) (f : Tenant → Tenant) : (s.modTenant t f).modnum = s.modnum := rfl
@[simp] theorem State.modTenant_errstat (t : Nat) (f : Tenant → Tenant) : (s.modTenant t f).errstat = s.errstat := rfl
@[simp] theorem State.modTenant_domcfg (t : Nat) (f : Tenant → Tenant) : (s.modTenant t f).domcfg = s.domcfg := rfl
@[simp] theorem State.modTenant_bootst (t : Nat) (f : Tenant → Tenant) : (s.modTenant t f).bootst = s.bootst := rfl
@[simp] theorem State.modTenant_modpwr (t : Nat) (f : Tenant → Tenant) : (s.modTenant t f).modpwr = s.modpwr := rfl
@[simp] theorem State.modTenant_hosterr (t : Nat) (f : Tenant → Tenant) : (s.modTenant t f).hosterr = s.hosterr := rfl
@[simp] theorem State.modTenant_art (t : Nat) (f : Tenant → Tenant) : (s.modTenant t f).art = s.art := rfl
@[simp] theorem State.modTenant_prq (t : Nat) (f : Tenant → Tenant) : (s.modTenant t f).prq = s.prq := rfl
@[simp] theorem State.modTenant_prqWaiting (t : Nat) (f : Tenant → Tenant) : (s.modTenant t f).prqWaiting = s.prqWaiting := rfl
@[simp] theorem State.modTenant_prqSeq (t : Nat) (f : Tenant → Tenant) : (s.modTenant t f).prqSeq = s.prqSeq := rfl
@[simp] theorem State.modTenant_fills (t : Nat) (f : Tenant → Tenant) : (s.modTenant t f).fills = s.fills := rfl
@[simp] theorem State.modTenant_costt (t : Nat) (f : Tenant → Tenant) : (s.modTenant t f).costt = s.costt := rfl
@[simp] theorem State.modTenant_samplep (t : Nat) (f : Tenant → Tenant) : (s.modTenant t f).samplep = s.samplep := rfl
@[simp] theorem State.modTenant_islands (t : Nat) (f : Tenant → Tenant) : (s.modTenant t f).islands = s.islands := rfl
@[simp] theorem State.modTenant_links (t : Nat) (f : Tenant → Tenant) : (s.modTenant t f).links = s.links := rfl
@[simp] theorem State.modTenant_routes (t : Nat) (f : Tenant → Tenant) : (s.modTenant t f).routes = s.routes := rfl
@[simp] theorem State.modTenant_members (t : Nat) (f : Tenant → Tenant) : (s.modTenant t f).members = s.members := rfl
@[simp] theorem State.modTenant_routeWaits (t : Nat) (f : Tenant → Tenant) : (s.modTenant t f).routeWaits = s.routeWaits := rfl
@[simp] theorem State.modTenant_mbox (t : Nat) (f : Tenant → Tenant) : (s.modTenant t f).mbox = s.mbox := rfl
@[simp] theorem State.modTenant_h2cprod (t : Nat) (f : Tenant → Tenant) : (s.modTenant t f).h2cprod = s.h2cprod := rfl
@[simp] theorem State.modTenant_h2ccons (t : Nat) (f : Tenant → Tenant) : (s.modTenant t f).h2ccons = s.h2ccons := rfl
@[simp] theorem State.modTenant_c2hprod (t : Nat) (f : Tenant → Tenant) : (s.modTenant t f).c2hprod = s.c2hprod := rfl
@[simp] theorem State.modTenant_c2hcons (t : Nat) (f : Tenant → Tenant) : (s.modTenant t f).c2hcons = s.c2hcons := rfl
@[simp] theorem State.modTenant_c2hWait (t : Nat) (f : Tenant → Tenant) : (s.modTenant t f).c2hWait = s.c2hWait := rfl
@[simp] theorem State.modTenant_mboxInval (t : Nat) (f : Tenant → Tenant) : (s.modTenant t f).mboxInval = s.mboxInval := rfl
@[simp] theorem State.modTenant_hostWrites (t : Nat) (f : Tenant → Tenant) : (s.modTenant t f).hostWrites = s.hostWrites := rfl
@[simp] theorem State.modTenant_hostReply (t : Nat) (f : Tenant → Tenant) : (s.modTenant t f).hostReply = s.hostReply := rfl
@[simp] theorem State.modTenant_msix (t : Nat) (f : Tenant → Tenant) : (s.modTenant t f).msix = s.msix := rfl
@[simp] theorem State.modTenant_hostPorts (t : Nat) (f : Tenant → Tenant) : (s.modTenant t f).hostPorts = s.hostPorts := rfl
@[simp] theorem State.modTenant_lofts (t : Nat) (f : Tenant → Tenant) : (s.modTenant t f).lofts = s.lofts := rfl
@[simp] theorem State.modTenant_ctxs (t : Nat) (f : Tenant → Tenant) : (s.modTenant t f).ctxs = s.ctxs := rfl
@[simp] theorem State.modTenant_snaps (t : Nat) (f : Tenant → Tenant) : (s.modTenant t f).snaps = s.snaps := rfl
@[simp] theorem State.modTenant_snapAt (t : Nat) (f : Tenant → Tenant) : (s.modTenant t f).snapAt = s.snapAt := rfl
@[simp] theorem State.modTenant_sampleLen (t : Nat) (f : Tenant → Tenant) : (s.modTenant t f).sampleLen = s.sampleLen := rfl
@[simp] theorem State.modTenant_samples (t : Nat) (f : Tenant → Tenant) : (s.modTenant t f).samples = s.samples := rfl
@[simp] theorem State.modTenant_powerAt (t : Nat) (f : Tenant → Tenant) : (s.modTenant t f).powerAt = s.powerAt := rfl
@[simp] theorem State.modTenant_changing (t : Nat) (f : Tenant → Tenant) : (s.modTenant t f).changing = s.changing := rfl

/-! ### setIsland -/

@[simp] theorem State.setIsland_fir (i : Nat) (x : Island) : (s.setIsland i x).fir = s.fir := rfl
@[simp] theorem State.setIsland_agenda (i : Nat) (x : Island) : (s.setIsland i x).agenda = s.agenda := rfl
@[simp] theorem State.setIsland_draw (i : Nat) (x : Island) : (s.setIsland i x).draw = s.draw := rfl
@[simp] theorem State.setIsland_parkings (i : Nat) (x : Island) : (s.setIsland i x).parkings = s.parkings := rfl
@[simp] theorem State.setIsland_nextCmd (i : Nat) (x : Island) : (s.setIsland i x).nextCmd = s.nextCmd := rfl
@[simp] theorem State.setIsland_dtime (i : Nat) (x : Island) : (s.setIsland i x).dtime = s.dtime := rfl
@[simp] theorem State.setIsland_mem (i : Nat) (x : Island) : (s.setIsland i x).mem = s.mem := rfl
@[simp] theorem State.setIsland_mpoison (i : Nat) (x : Island) : (s.setIsland i x).mpoison = s.mpoison := rfl
@[simp] theorem State.setIsland_bays (i : Nat) (x : Island) : (s.setIsland i x).bays = s.bays := rfl
@[simp] theorem State.setIsland_fields (i : Nat) (x : Island) : (s.setIsland i x).fields = s.fields := rfl
@[simp] theorem State.setIsland_insts (i : Nat) (x : Island) : (s.setIsland i x).insts = s.insts := rfl
@[simp] theorem State.setIsland_nextField (i : Nat) (x : Island) : (s.setIsland i x).nextField = s.nextField := rfl
@[simp] theorem State.setIsland_tenants (i : Nat) (x : Island) : (s.setIsland i x).tenants = s.tenants := rfl
@[simp] theorem State.setIsland_tlb (i : Nat) (x : Island) : (s.setIsland i x).tlb = s.tlb := rfl
@[simp] theorem State.setIsland_walks (i : Nat) (x : Island) : (s.setIsland i x).walks = s.walks := rfl
@[simp] theorem State.setIsland_seqCache (i : Nat) (x : Island) : (s.setIsland i x).seqCache = s.seqCache := rfl
@[simp] theorem State.setIsland_images (i : Nat) (x : Island) : (s.setIsland i x).images = s.images := rfl
@[simp] theorem State.setIsland_slices (i : Nat) (x : Island) : (s.setIsland i x).slices = s.slices := rfl
@[simp] theorem State.setIsland_pairs (i : Nat) (x : Island) : (s.setIsland i x).pairs = s.pairs := rfl
@[simp] theorem State.setIsland_sentSets (i : Nat) (x : Island) : (s.setIsland i x).sentSets = s.sentSets := rfl
@[simp] theorem State.setIsland_syncSets (i : Nat) (x : Island) : (s.setIsland i x).syncSets = s.syncSets := rfl
@[simp] theorem State.setIsland_waiters (i : Nat) (x : Island) : (s.setIsland i x).waiters = s.waiters := rfl
@[simp] theorem State.setIsland_streams (i : Nat) (x : Island) : (s.setIsland i x).streams = s.streams := rfl
@[simp] theorem State.setIsland_nextStream (i : Nat) (x : Island) : (s.setIsland i x).nextStream = s.nextStream := rfl
@[simp] theorem State.setIsland_colls (i : Nat) (x : Island) : (s.setIsland i x).colls = s.colls := rfl
@[simp] theorem State.setIsland_msgs (i : Nat) (x : Island) : (s.setIsland i x).msgs = s.msgs := rfl
@[simp] theorem State.setIsland_rwq (i : Nat) (x : Island) : (s.setIsland i x).rwq = s.rwq := rfl
@[simp] theorem State.setIsland_veils (i : Nat) (x : Island) : (s.setIsland i x).veils = s.veils := rfl
@[simp] theorem State.setIsland_modnum (i : Nat) (x : Island) : (s.setIsland i x).modnum = s.modnum := rfl
@[simp] theorem State.setIsland_errstat (i : Nat) (x : Island) : (s.setIsland i x).errstat = s.errstat := rfl
@[simp] theorem State.setIsland_domcfg (i : Nat) (x : Island) : (s.setIsland i x).domcfg = s.domcfg := rfl
@[simp] theorem State.setIsland_bootst (i : Nat) (x : Island) : (s.setIsland i x).bootst = s.bootst := rfl
@[simp] theorem State.setIsland_modpwr (i : Nat) (x : Island) : (s.setIsland i x).modpwr = s.modpwr := rfl
@[simp] theorem State.setIsland_hosterr (i : Nat) (x : Island) : (s.setIsland i x).hosterr = s.hosterr := rfl
@[simp] theorem State.setIsland_art (i : Nat) (x : Island) : (s.setIsland i x).art = s.art := rfl
@[simp] theorem State.setIsland_prq (i : Nat) (x : Island) : (s.setIsland i x).prq = s.prq := rfl
@[simp] theorem State.setIsland_prqWaiting (i : Nat) (x : Island) : (s.setIsland i x).prqWaiting = s.prqWaiting := rfl
@[simp] theorem State.setIsland_prqSeq (i : Nat) (x : Island) : (s.setIsland i x).prqSeq = s.prqSeq := rfl
@[simp] theorem State.setIsland_fills (i : Nat) (x : Island) : (s.setIsland i x).fills = s.fills := rfl
@[simp] theorem State.setIsland_costt (i : Nat) (x : Island) : (s.setIsland i x).costt = s.costt := rfl
@[simp] theorem State.setIsland_samplep (i : Nat) (x : Island) : (s.setIsland i x).samplep = s.samplep := rfl
@[simp] theorem State.setIsland_islands (i : Nat) (x : Island) : (s.setIsland i x).islands = tput i x s.islands := rfl
@[simp] theorem State.setIsland_links (i : Nat) (x : Island) : (s.setIsland i x).links = s.links := rfl
@[simp] theorem State.setIsland_routes (i : Nat) (x : Island) : (s.setIsland i x).routes = s.routes := rfl
@[simp] theorem State.setIsland_members (i : Nat) (x : Island) : (s.setIsland i x).members = s.members := rfl
@[simp] theorem State.setIsland_routeWaits (i : Nat) (x : Island) : (s.setIsland i x).routeWaits = s.routeWaits := rfl
@[simp] theorem State.setIsland_mbox (i : Nat) (x : Island) : (s.setIsland i x).mbox = s.mbox := rfl
@[simp] theorem State.setIsland_h2cprod (i : Nat) (x : Island) : (s.setIsland i x).h2cprod = s.h2cprod := rfl
@[simp] theorem State.setIsland_h2ccons (i : Nat) (x : Island) : (s.setIsland i x).h2ccons = s.h2ccons := rfl
@[simp] theorem State.setIsland_c2hprod (i : Nat) (x : Island) : (s.setIsland i x).c2hprod = s.c2hprod := rfl
@[simp] theorem State.setIsland_c2hcons (i : Nat) (x : Island) : (s.setIsland i x).c2hcons = s.c2hcons := rfl
@[simp] theorem State.setIsland_c2hWait (i : Nat) (x : Island) : (s.setIsland i x).c2hWait = s.c2hWait := rfl
@[simp] theorem State.setIsland_mboxInval (i : Nat) (x : Island) : (s.setIsland i x).mboxInval = s.mboxInval := rfl
@[simp] theorem State.setIsland_hostWrites (i : Nat) (x : Island) : (s.setIsland i x).hostWrites = s.hostWrites := rfl
@[simp] theorem State.setIsland_hostReply (i : Nat) (x : Island) : (s.setIsland i x).hostReply = s.hostReply := rfl
@[simp] theorem State.setIsland_msix (i : Nat) (x : Island) : (s.setIsland i x).msix = s.msix := rfl
@[simp] theorem State.setIsland_hostPorts (i : Nat) (x : Island) : (s.setIsland i x).hostPorts = s.hostPorts := rfl
@[simp] theorem State.setIsland_lofts (i : Nat) (x : Island) : (s.setIsland i x).lofts = s.lofts := rfl
@[simp] theorem State.setIsland_ctxs (i : Nat) (x : Island) : (s.setIsland i x).ctxs = s.ctxs := rfl
@[simp] theorem State.setIsland_snaps (i : Nat) (x : Island) : (s.setIsland i x).snaps = s.snaps := rfl
@[simp] theorem State.setIsland_snapAt (i : Nat) (x : Island) : (s.setIsland i x).snapAt = s.snapAt := rfl
@[simp] theorem State.setIsland_sampleLen (i : Nat) (x : Island) : (s.setIsland i x).sampleLen = s.sampleLen := rfl
@[simp] theorem State.setIsland_samples (i : Nat) (x : Island) : (s.setIsland i x).samples = s.samples := rfl
@[simp] theorem State.setIsland_powerAt (i : Nat) (x : Island) : (s.setIsland i x).powerAt = s.powerAt := rfl
@[simp] theorem State.setIsland_changing (i : Nat) (x : Island) : (s.setIsland i x).changing = s.changing := rfl

/-! ### setSlice -/

@[simp] theorem State.setSlice_fir (k : Nat) (x : Slice) : (s.setSlice k x).fir = s.fir := rfl
@[simp] theorem State.setSlice_agenda (k : Nat) (x : Slice) : (s.setSlice k x).agenda = s.agenda := rfl
@[simp] theorem State.setSlice_draw (k : Nat) (x : Slice) : (s.setSlice k x).draw = s.draw := rfl
@[simp] theorem State.setSlice_parkings (k : Nat) (x : Slice) : (s.setSlice k x).parkings = s.parkings := rfl
@[simp] theorem State.setSlice_nextCmd (k : Nat) (x : Slice) : (s.setSlice k x).nextCmd = s.nextCmd := rfl
@[simp] theorem State.setSlice_dtime (k : Nat) (x : Slice) : (s.setSlice k x).dtime = s.dtime := rfl
@[simp] theorem State.setSlice_mem (k : Nat) (x : Slice) : (s.setSlice k x).mem = s.mem := rfl
@[simp] theorem State.setSlice_mpoison (k : Nat) (x : Slice) : (s.setSlice k x).mpoison = s.mpoison := rfl
@[simp] theorem State.setSlice_bays (k : Nat) (x : Slice) : (s.setSlice k x).bays = s.bays := rfl
@[simp] theorem State.setSlice_fields (k : Nat) (x : Slice) : (s.setSlice k x).fields = s.fields := rfl
@[simp] theorem State.setSlice_insts (k : Nat) (x : Slice) : (s.setSlice k x).insts = s.insts := rfl
@[simp] theorem State.setSlice_nextField (k : Nat) (x : Slice) : (s.setSlice k x).nextField = s.nextField := rfl
@[simp] theorem State.setSlice_tenants (k : Nat) (x : Slice) : (s.setSlice k x).tenants = s.tenants := rfl
@[simp] theorem State.setSlice_tlb (k : Nat) (x : Slice) : (s.setSlice k x).tlb = s.tlb := rfl
@[simp] theorem State.setSlice_walks (k : Nat) (x : Slice) : (s.setSlice k x).walks = s.walks := rfl
@[simp] theorem State.setSlice_seqCache (k : Nat) (x : Slice) : (s.setSlice k x).seqCache = s.seqCache := rfl
@[simp] theorem State.setSlice_images (k : Nat) (x : Slice) : (s.setSlice k x).images = s.images := rfl
@[simp] theorem State.setSlice_slices (k : Nat) (x : Slice) : (s.setSlice k x).slices = tput k x s.slices := rfl
@[simp] theorem State.setSlice_pairs (k : Nat) (x : Slice) : (s.setSlice k x).pairs = s.pairs := rfl
@[simp] theorem State.setSlice_sentSets (k : Nat) (x : Slice) : (s.setSlice k x).sentSets = s.sentSets := rfl
@[simp] theorem State.setSlice_syncSets (k : Nat) (x : Slice) : (s.setSlice k x).syncSets = s.syncSets := rfl
@[simp] theorem State.setSlice_waiters (k : Nat) (x : Slice) : (s.setSlice k x).waiters = s.waiters := rfl
@[simp] theorem State.setSlice_streams (k : Nat) (x : Slice) : (s.setSlice k x).streams = s.streams := rfl
@[simp] theorem State.setSlice_nextStream (k : Nat) (x : Slice) : (s.setSlice k x).nextStream = s.nextStream := rfl
@[simp] theorem State.setSlice_colls (k : Nat) (x : Slice) : (s.setSlice k x).colls = s.colls := rfl
@[simp] theorem State.setSlice_msgs (k : Nat) (x : Slice) : (s.setSlice k x).msgs = s.msgs := rfl
@[simp] theorem State.setSlice_rwq (k : Nat) (x : Slice) : (s.setSlice k x).rwq = s.rwq := rfl
@[simp] theorem State.setSlice_veils (k : Nat) (x : Slice) : (s.setSlice k x).veils = s.veils := rfl
@[simp] theorem State.setSlice_modnum (k : Nat) (x : Slice) : (s.setSlice k x).modnum = s.modnum := rfl
@[simp] theorem State.setSlice_errstat (k : Nat) (x : Slice) : (s.setSlice k x).errstat = s.errstat := rfl
@[simp] theorem State.setSlice_domcfg (k : Nat) (x : Slice) : (s.setSlice k x).domcfg = s.domcfg := rfl
@[simp] theorem State.setSlice_bootst (k : Nat) (x : Slice) : (s.setSlice k x).bootst = s.bootst := rfl
@[simp] theorem State.setSlice_modpwr (k : Nat) (x : Slice) : (s.setSlice k x).modpwr = s.modpwr := rfl
@[simp] theorem State.setSlice_hosterr (k : Nat) (x : Slice) : (s.setSlice k x).hosterr = s.hosterr := rfl
@[simp] theorem State.setSlice_art (k : Nat) (x : Slice) : (s.setSlice k x).art = s.art := rfl
@[simp] theorem State.setSlice_prq (k : Nat) (x : Slice) : (s.setSlice k x).prq = s.prq := rfl
@[simp] theorem State.setSlice_prqWaiting (k : Nat) (x : Slice) : (s.setSlice k x).prqWaiting = s.prqWaiting := rfl
@[simp] theorem State.setSlice_prqSeq (k : Nat) (x : Slice) : (s.setSlice k x).prqSeq = s.prqSeq := rfl
@[simp] theorem State.setSlice_fills (k : Nat) (x : Slice) : (s.setSlice k x).fills = s.fills := rfl
@[simp] theorem State.setSlice_costt (k : Nat) (x : Slice) : (s.setSlice k x).costt = s.costt := rfl
@[simp] theorem State.setSlice_samplep (k : Nat) (x : Slice) : (s.setSlice k x).samplep = s.samplep := rfl
@[simp] theorem State.setSlice_islands (k : Nat) (x : Slice) : (s.setSlice k x).islands = s.islands := rfl
@[simp] theorem State.setSlice_links (k : Nat) (x : Slice) : (s.setSlice k x).links = s.links := rfl
@[simp] theorem State.setSlice_routes (k : Nat) (x : Slice) : (s.setSlice k x).routes = s.routes := rfl
@[simp] theorem State.setSlice_members (k : Nat) (x : Slice) : (s.setSlice k x).members = s.members := rfl
@[simp] theorem State.setSlice_routeWaits (k : Nat) (x : Slice) : (s.setSlice k x).routeWaits = s.routeWaits := rfl
@[simp] theorem State.setSlice_mbox (k : Nat) (x : Slice) : (s.setSlice k x).mbox = s.mbox := rfl
@[simp] theorem State.setSlice_h2cprod (k : Nat) (x : Slice) : (s.setSlice k x).h2cprod = s.h2cprod := rfl
@[simp] theorem State.setSlice_h2ccons (k : Nat) (x : Slice) : (s.setSlice k x).h2ccons = s.h2ccons := rfl
@[simp] theorem State.setSlice_c2hprod (k : Nat) (x : Slice) : (s.setSlice k x).c2hprod = s.c2hprod := rfl
@[simp] theorem State.setSlice_c2hcons (k : Nat) (x : Slice) : (s.setSlice k x).c2hcons = s.c2hcons := rfl
@[simp] theorem State.setSlice_c2hWait (k : Nat) (x : Slice) : (s.setSlice k x).c2hWait = s.c2hWait := rfl
@[simp] theorem State.setSlice_mboxInval (k : Nat) (x : Slice) : (s.setSlice k x).mboxInval = s.mboxInval := rfl
@[simp] theorem State.setSlice_hostWrites (k : Nat) (x : Slice) : (s.setSlice k x).hostWrites = s.hostWrites := rfl
@[simp] theorem State.setSlice_hostReply (k : Nat) (x : Slice) : (s.setSlice k x).hostReply = s.hostReply := rfl
@[simp] theorem State.setSlice_msix (k : Nat) (x : Slice) : (s.setSlice k x).msix = s.msix := rfl
@[simp] theorem State.setSlice_hostPorts (k : Nat) (x : Slice) : (s.setSlice k x).hostPorts = s.hostPorts := rfl
@[simp] theorem State.setSlice_lofts (k : Nat) (x : Slice) : (s.setSlice k x).lofts = s.lofts := rfl
@[simp] theorem State.setSlice_ctxs (k : Nat) (x : Slice) : (s.setSlice k x).ctxs = s.ctxs := rfl
@[simp] theorem State.setSlice_snaps (k : Nat) (x : Slice) : (s.setSlice k x).snaps = s.snaps := rfl
@[simp] theorem State.setSlice_snapAt (k : Nat) (x : Slice) : (s.setSlice k x).snapAt = s.snapAt := rfl
@[simp] theorem State.setSlice_sampleLen (k : Nat) (x : Slice) : (s.setSlice k x).sampleLen = s.sampleLen := rfl
@[simp] theorem State.setSlice_samples (k : Nat) (x : Slice) : (s.setSlice k x).samples = s.samples := rfl
@[simp] theorem State.setSlice_powerAt (k : Nat) (x : Slice) : (s.setSlice k x).powerAt = s.powerAt := rfl
@[simp] theorem State.setSlice_changing (k : Nat) (x : Slice) : (s.setSlice k x).changing = s.changing := rfl

/-! ### setLink -/

@[simp] theorem State.setLink_fir (n : Nat) (x : Link) : (s.setLink n x).fir = s.fir := rfl
@[simp] theorem State.setLink_agenda (n : Nat) (x : Link) : (s.setLink n x).agenda = s.agenda := rfl
@[simp] theorem State.setLink_draw (n : Nat) (x : Link) : (s.setLink n x).draw = s.draw := rfl
@[simp] theorem State.setLink_parkings (n : Nat) (x : Link) : (s.setLink n x).parkings = s.parkings := rfl
@[simp] theorem State.setLink_nextCmd (n : Nat) (x : Link) : (s.setLink n x).nextCmd = s.nextCmd := rfl
@[simp] theorem State.setLink_dtime (n : Nat) (x : Link) : (s.setLink n x).dtime = s.dtime := rfl
@[simp] theorem State.setLink_mem (n : Nat) (x : Link) : (s.setLink n x).mem = s.mem := rfl
@[simp] theorem State.setLink_mpoison (n : Nat) (x : Link) : (s.setLink n x).mpoison = s.mpoison := rfl
@[simp] theorem State.setLink_bays (n : Nat) (x : Link) : (s.setLink n x).bays = s.bays := rfl
@[simp] theorem State.setLink_fields (n : Nat) (x : Link) : (s.setLink n x).fields = s.fields := rfl
@[simp] theorem State.setLink_insts (n : Nat) (x : Link) : (s.setLink n x).insts = s.insts := rfl
@[simp] theorem State.setLink_nextField (n : Nat) (x : Link) : (s.setLink n x).nextField = s.nextField := rfl
@[simp] theorem State.setLink_tenants (n : Nat) (x : Link) : (s.setLink n x).tenants = s.tenants := rfl
@[simp] theorem State.setLink_tlb (n : Nat) (x : Link) : (s.setLink n x).tlb = s.tlb := rfl
@[simp] theorem State.setLink_walks (n : Nat) (x : Link) : (s.setLink n x).walks = s.walks := rfl
@[simp] theorem State.setLink_seqCache (n : Nat) (x : Link) : (s.setLink n x).seqCache = s.seqCache := rfl
@[simp] theorem State.setLink_images (n : Nat) (x : Link) : (s.setLink n x).images = s.images := rfl
@[simp] theorem State.setLink_slices (n : Nat) (x : Link) : (s.setLink n x).slices = s.slices := rfl
@[simp] theorem State.setLink_pairs (n : Nat) (x : Link) : (s.setLink n x).pairs = s.pairs := rfl
@[simp] theorem State.setLink_sentSets (n : Nat) (x : Link) : (s.setLink n x).sentSets = s.sentSets := rfl
@[simp] theorem State.setLink_syncSets (n : Nat) (x : Link) : (s.setLink n x).syncSets = s.syncSets := rfl
@[simp] theorem State.setLink_waiters (n : Nat) (x : Link) : (s.setLink n x).waiters = s.waiters := rfl
@[simp] theorem State.setLink_streams (n : Nat) (x : Link) : (s.setLink n x).streams = s.streams := rfl
@[simp] theorem State.setLink_nextStream (n : Nat) (x : Link) : (s.setLink n x).nextStream = s.nextStream := rfl
@[simp] theorem State.setLink_colls (n : Nat) (x : Link) : (s.setLink n x).colls = s.colls := rfl
@[simp] theorem State.setLink_msgs (n : Nat) (x : Link) : (s.setLink n x).msgs = s.msgs := rfl
@[simp] theorem State.setLink_rwq (n : Nat) (x : Link) : (s.setLink n x).rwq = s.rwq := rfl
@[simp] theorem State.setLink_veils (n : Nat) (x : Link) : (s.setLink n x).veils = s.veils := rfl
@[simp] theorem State.setLink_modnum (n : Nat) (x : Link) : (s.setLink n x).modnum = s.modnum := rfl
@[simp] theorem State.setLink_errstat (n : Nat) (x : Link) : (s.setLink n x).errstat = s.errstat := rfl
@[simp] theorem State.setLink_domcfg (n : Nat) (x : Link) : (s.setLink n x).domcfg = s.domcfg := rfl
@[simp] theorem State.setLink_bootst (n : Nat) (x : Link) : (s.setLink n x).bootst = s.bootst := rfl
@[simp] theorem State.setLink_modpwr (n : Nat) (x : Link) : (s.setLink n x).modpwr = s.modpwr := rfl
@[simp] theorem State.setLink_hosterr (n : Nat) (x : Link) : (s.setLink n x).hosterr = s.hosterr := rfl
@[simp] theorem State.setLink_art (n : Nat) (x : Link) : (s.setLink n x).art = s.art := rfl
@[simp] theorem State.setLink_prq (n : Nat) (x : Link) : (s.setLink n x).prq = s.prq := rfl
@[simp] theorem State.setLink_prqWaiting (n : Nat) (x : Link) : (s.setLink n x).prqWaiting = s.prqWaiting := rfl
@[simp] theorem State.setLink_prqSeq (n : Nat) (x : Link) : (s.setLink n x).prqSeq = s.prqSeq := rfl
@[simp] theorem State.setLink_fills (n : Nat) (x : Link) : (s.setLink n x).fills = s.fills := rfl
@[simp] theorem State.setLink_costt (n : Nat) (x : Link) : (s.setLink n x).costt = s.costt := rfl
@[simp] theorem State.setLink_samplep (n : Nat) (x : Link) : (s.setLink n x).samplep = s.samplep := rfl
@[simp] theorem State.setLink_islands (n : Nat) (x : Link) : (s.setLink n x).islands = s.islands := rfl
@[simp] theorem State.setLink_links (n : Nat) (x : Link) : (s.setLink n x).links = tput n x s.links := rfl
@[simp] theorem State.setLink_routes (n : Nat) (x : Link) : (s.setLink n x).routes = s.routes := rfl
@[simp] theorem State.setLink_members (n : Nat) (x : Link) : (s.setLink n x).members = s.members := rfl
@[simp] theorem State.setLink_routeWaits (n : Nat) (x : Link) : (s.setLink n x).routeWaits = s.routeWaits := rfl
@[simp] theorem State.setLink_mbox (n : Nat) (x : Link) : (s.setLink n x).mbox = s.mbox := rfl
@[simp] theorem State.setLink_h2cprod (n : Nat) (x : Link) : (s.setLink n x).h2cprod = s.h2cprod := rfl
@[simp] theorem State.setLink_h2ccons (n : Nat) (x : Link) : (s.setLink n x).h2ccons = s.h2ccons := rfl
@[simp] theorem State.setLink_c2hprod (n : Nat) (x : Link) : (s.setLink n x).c2hprod = s.c2hprod := rfl
@[simp] theorem State.setLink_c2hcons (n : Nat) (x : Link) : (s.setLink n x).c2hcons = s.c2hcons := rfl
@[simp] theorem State.setLink_c2hWait (n : Nat) (x : Link) : (s.setLink n x).c2hWait = s.c2hWait := rfl
@[simp] theorem State.setLink_mboxInval (n : Nat) (x : Link) : (s.setLink n x).mboxInval = s.mboxInval := rfl
@[simp] theorem State.setLink_hostWrites (n : Nat) (x : Link) : (s.setLink n x).hostWrites = s.hostWrites := rfl
@[simp] theorem State.setLink_hostReply (n : Nat) (x : Link) : (s.setLink n x).hostReply = s.hostReply := rfl
@[simp] theorem State.setLink_msix (n : Nat) (x : Link) : (s.setLink n x).msix = s.msix := rfl
@[simp] theorem State.setLink_hostPorts (n : Nat) (x : Link) : (s.setLink n x).hostPorts = s.hostPorts := rfl
@[simp] theorem State.setLink_lofts (n : Nat) (x : Link) : (s.setLink n x).lofts = s.lofts := rfl
@[simp] theorem State.setLink_ctxs (n : Nat) (x : Link) : (s.setLink n x).ctxs = s.ctxs := rfl
@[simp] theorem State.setLink_snaps (n : Nat) (x : Link) : (s.setLink n x).snaps = s.snaps := rfl
@[simp] theorem State.setLink_snapAt (n : Nat) (x : Link) : (s.setLink n x).snapAt = s.snapAt := rfl
@[simp] theorem State.setLink_sampleLen (n : Nat) (x : Link) : (s.setLink n x).sampleLen = s.sampleLen := rfl
@[simp] theorem State.setLink_samples (n : Nat) (x : Link) : (s.setLink n x).samples = s.samples := rfl
@[simp] theorem State.setLink_powerAt (n : Nat) (x : Link) : (s.setLink n x).powerAt = s.powerAt := rfl
@[simp] theorem State.setLink_changing (n : Nat) (x : Link) : (s.setLink n x).changing = s.changing := rfl

/-! ### setField -/

@[simp] theorem State.setField_fir (x : Field) : (s.setField x).fir = s.fir := rfl
@[simp] theorem State.setField_agenda (x : Field) : (s.setField x).agenda = s.agenda := rfl
@[simp] theorem State.setField_draw (x : Field) : (s.setField x).draw = s.draw := rfl
@[simp] theorem State.setField_parkings (x : Field) : (s.setField x).parkings = s.parkings := rfl
@[simp] theorem State.setField_nextCmd (x : Field) : (s.setField x).nextCmd = s.nextCmd := rfl
@[simp] theorem State.setField_dtime (x : Field) : (s.setField x).dtime = s.dtime := rfl
@[simp] theorem State.setField_mem (x : Field) : (s.setField x).mem = s.mem := rfl
@[simp] theorem State.setField_mpoison (x : Field) : (s.setField x).mpoison = s.mpoison := rfl
@[simp] theorem State.setField_bays (x : Field) : (s.setField x).bays = s.bays := rfl
@[simp] theorem State.setField_fields (x : Field) : (s.setField x).fields = s.fields.map fun y => if y.id = x.id then x else y := rfl
@[simp] theorem State.setField_insts (x : Field) : (s.setField x).insts = s.insts := rfl
@[simp] theorem State.setField_nextField (x : Field) : (s.setField x).nextField = s.nextField := rfl
@[simp] theorem State.setField_tenants (x : Field) : (s.setField x).tenants = s.tenants := rfl
@[simp] theorem State.setField_tlb (x : Field) : (s.setField x).tlb = s.tlb := rfl
@[simp] theorem State.setField_walks (x : Field) : (s.setField x).walks = s.walks := rfl
@[simp] theorem State.setField_seqCache (x : Field) : (s.setField x).seqCache = s.seqCache := rfl
@[simp] theorem State.setField_images (x : Field) : (s.setField x).images = s.images := rfl
@[simp] theorem State.setField_slices (x : Field) : (s.setField x).slices = s.slices := rfl
@[simp] theorem State.setField_pairs (x : Field) : (s.setField x).pairs = s.pairs := rfl
@[simp] theorem State.setField_sentSets (x : Field) : (s.setField x).sentSets = s.sentSets := rfl
@[simp] theorem State.setField_syncSets (x : Field) : (s.setField x).syncSets = s.syncSets := rfl
@[simp] theorem State.setField_waiters (x : Field) : (s.setField x).waiters = s.waiters := rfl
@[simp] theorem State.setField_streams (x : Field) : (s.setField x).streams = s.streams := rfl
@[simp] theorem State.setField_nextStream (x : Field) : (s.setField x).nextStream = s.nextStream := rfl
@[simp] theorem State.setField_colls (x : Field) : (s.setField x).colls = s.colls := rfl
@[simp] theorem State.setField_msgs (x : Field) : (s.setField x).msgs = s.msgs := rfl
@[simp] theorem State.setField_rwq (x : Field) : (s.setField x).rwq = s.rwq := rfl
@[simp] theorem State.setField_veils (x : Field) : (s.setField x).veils = s.veils := rfl
@[simp] theorem State.setField_modnum (x : Field) : (s.setField x).modnum = s.modnum := rfl
@[simp] theorem State.setField_errstat (x : Field) : (s.setField x).errstat = s.errstat := rfl
@[simp] theorem State.setField_domcfg (x : Field) : (s.setField x).domcfg = s.domcfg := rfl
@[simp] theorem State.setField_bootst (x : Field) : (s.setField x).bootst = s.bootst := rfl
@[simp] theorem State.setField_modpwr (x : Field) : (s.setField x).modpwr = s.modpwr := rfl
@[simp] theorem State.setField_hosterr (x : Field) : (s.setField x).hosterr = s.hosterr := rfl
@[simp] theorem State.setField_art (x : Field) : (s.setField x).art = s.art := rfl
@[simp] theorem State.setField_prq (x : Field) : (s.setField x).prq = s.prq := rfl
@[simp] theorem State.setField_prqWaiting (x : Field) : (s.setField x).prqWaiting = s.prqWaiting := rfl
@[simp] theorem State.setField_prqSeq (x : Field) : (s.setField x).prqSeq = s.prqSeq := rfl
@[simp] theorem State.setField_fills (x : Field) : (s.setField x).fills = s.fills := rfl
@[simp] theorem State.setField_costt (x : Field) : (s.setField x).costt = s.costt := rfl
@[simp] theorem State.setField_samplep (x : Field) : (s.setField x).samplep = s.samplep := rfl
@[simp] theorem State.setField_islands (x : Field) : (s.setField x).islands = s.islands := rfl
@[simp] theorem State.setField_links (x : Field) : (s.setField x).links = s.links := rfl
@[simp] theorem State.setField_routes (x : Field) : (s.setField x).routes = s.routes := rfl
@[simp] theorem State.setField_members (x : Field) : (s.setField x).members = s.members := rfl
@[simp] theorem State.setField_routeWaits (x : Field) : (s.setField x).routeWaits = s.routeWaits := rfl
@[simp] theorem State.setField_mbox (x : Field) : (s.setField x).mbox = s.mbox := rfl
@[simp] theorem State.setField_h2cprod (x : Field) : (s.setField x).h2cprod = s.h2cprod := rfl
@[simp] theorem State.setField_h2ccons (x : Field) : (s.setField x).h2ccons = s.h2ccons := rfl
@[simp] theorem State.setField_c2hprod (x : Field) : (s.setField x).c2hprod = s.c2hprod := rfl
@[simp] theorem State.setField_c2hcons (x : Field) : (s.setField x).c2hcons = s.c2hcons := rfl
@[simp] theorem State.setField_c2hWait (x : Field) : (s.setField x).c2hWait = s.c2hWait := rfl
@[simp] theorem State.setField_mboxInval (x : Field) : (s.setField x).mboxInval = s.mboxInval := rfl
@[simp] theorem State.setField_hostWrites (x : Field) : (s.setField x).hostWrites = s.hostWrites := rfl
@[simp] theorem State.setField_hostReply (x : Field) : (s.setField x).hostReply = s.hostReply := rfl
@[simp] theorem State.setField_msix (x : Field) : (s.setField x).msix = s.msix := rfl
@[simp] theorem State.setField_hostPorts (x : Field) : (s.setField x).hostPorts = s.hostPorts := rfl
@[simp] theorem State.setField_lofts (x : Field) : (s.setField x).lofts = s.lofts := rfl
@[simp] theorem State.setField_ctxs (x : Field) : (s.setField x).ctxs = s.ctxs := rfl
@[simp] theorem State.setField_snaps (x : Field) : (s.setField x).snaps = s.snaps := rfl
@[simp] theorem State.setField_snapAt (x : Field) : (s.setField x).snapAt = s.snapAt := rfl
@[simp] theorem State.setField_sampleLen (x : Field) : (s.setField x).sampleLen = s.sampleLen := rfl
@[simp] theorem State.setField_samples (x : Field) : (s.setField x).samples = s.samples := rfl
@[simp] theorem State.setField_powerAt (x : Field) : (s.setField x).powerAt = s.powerAt := rfl
@[simp] theorem State.setField_changing (x : Field) : (s.setField x).changing = s.changing := rfl

/-! ### setInst -/

@[simp] theorem State.setInst_fir (x : Inst) : (s.setInst x).fir = s.fir := rfl
@[simp] theorem State.setInst_agenda (x : Inst) : (s.setInst x).agenda = s.agenda := rfl
@[simp] theorem State.setInst_draw (x : Inst) : (s.setInst x).draw = s.draw := rfl
@[simp] theorem State.setInst_parkings (x : Inst) : (s.setInst x).parkings = s.parkings := rfl
@[simp] theorem State.setInst_nextCmd (x : Inst) : (s.setInst x).nextCmd = s.nextCmd := rfl
@[simp] theorem State.setInst_dtime (x : Inst) : (s.setInst x).dtime = s.dtime := rfl
@[simp] theorem State.setInst_mem (x : Inst) : (s.setInst x).mem = s.mem := rfl
@[simp] theorem State.setInst_mpoison (x : Inst) : (s.setInst x).mpoison = s.mpoison := rfl
@[simp] theorem State.setInst_bays (x : Inst) : (s.setInst x).bays = s.bays := rfl
@[simp] theorem State.setInst_fields (x : Inst) : (s.setInst x).fields = s.fields := rfl
@[simp] theorem State.setInst_insts (x : Inst) : (s.setInst x).insts = s.insts.map fun y => if y.field = x.field ∧ y.id = x.id then x else y := rfl
@[simp] theorem State.setInst_nextField (x : Inst) : (s.setInst x).nextField = s.nextField := rfl
@[simp] theorem State.setInst_tenants (x : Inst) : (s.setInst x).tenants = s.tenants := rfl
@[simp] theorem State.setInst_tlb (x : Inst) : (s.setInst x).tlb = s.tlb := rfl
@[simp] theorem State.setInst_walks (x : Inst) : (s.setInst x).walks = s.walks := rfl
@[simp] theorem State.setInst_seqCache (x : Inst) : (s.setInst x).seqCache = s.seqCache := rfl
@[simp] theorem State.setInst_images (x : Inst) : (s.setInst x).images = s.images := rfl
@[simp] theorem State.setInst_slices (x : Inst) : (s.setInst x).slices = s.slices := rfl
@[simp] theorem State.setInst_pairs (x : Inst) : (s.setInst x).pairs = s.pairs := rfl
@[simp] theorem State.setInst_sentSets (x : Inst) : (s.setInst x).sentSets = s.sentSets := rfl
@[simp] theorem State.setInst_syncSets (x : Inst) : (s.setInst x).syncSets = s.syncSets := rfl
@[simp] theorem State.setInst_waiters (x : Inst) : (s.setInst x).waiters = s.waiters := rfl
@[simp] theorem State.setInst_streams (x : Inst) : (s.setInst x).streams = s.streams := rfl
@[simp] theorem State.setInst_nextStream (x : Inst) : (s.setInst x).nextStream = s.nextStream := rfl
@[simp] theorem State.setInst_colls (x : Inst) : (s.setInst x).colls = s.colls := rfl
@[simp] theorem State.setInst_msgs (x : Inst) : (s.setInst x).msgs = s.msgs := rfl
@[simp] theorem State.setInst_rwq (x : Inst) : (s.setInst x).rwq = s.rwq := rfl
@[simp] theorem State.setInst_veils (x : Inst) : (s.setInst x).veils = s.veils := rfl
@[simp] theorem State.setInst_modnum (x : Inst) : (s.setInst x).modnum = s.modnum := rfl
@[simp] theorem State.setInst_errstat (x : Inst) : (s.setInst x).errstat = s.errstat := rfl
@[simp] theorem State.setInst_domcfg (x : Inst) : (s.setInst x).domcfg = s.domcfg := rfl
@[simp] theorem State.setInst_bootst (x : Inst) : (s.setInst x).bootst = s.bootst := rfl
@[simp] theorem State.setInst_modpwr (x : Inst) : (s.setInst x).modpwr = s.modpwr := rfl
@[simp] theorem State.setInst_hosterr (x : Inst) : (s.setInst x).hosterr = s.hosterr := rfl
@[simp] theorem State.setInst_art (x : Inst) : (s.setInst x).art = s.art := rfl
@[simp] theorem State.setInst_prq (x : Inst) : (s.setInst x).prq = s.prq := rfl
@[simp] theorem State.setInst_prqWaiting (x : Inst) : (s.setInst x).prqWaiting = s.prqWaiting := rfl
@[simp] theorem State.setInst_prqSeq (x : Inst) : (s.setInst x).prqSeq = s.prqSeq := rfl
@[simp] theorem State.setInst_fills (x : Inst) : (s.setInst x).fills = s.fills := rfl
@[simp] theorem State.setInst_costt (x : Inst) : (s.setInst x).costt = s.costt := rfl
@[simp] theorem State.setInst_samplep (x : Inst) : (s.setInst x).samplep = s.samplep := rfl
@[simp] theorem State.setInst_islands (x : Inst) : (s.setInst x).islands = s.islands := rfl
@[simp] theorem State.setInst_links (x : Inst) : (s.setInst x).links = s.links := rfl
@[simp] theorem State.setInst_routes (x : Inst) : (s.setInst x).routes = s.routes := rfl
@[simp] theorem State.setInst_members (x : Inst) : (s.setInst x).members = s.members := rfl
@[simp] theorem State.setInst_routeWaits (x : Inst) : (s.setInst x).routeWaits = s.routeWaits := rfl
@[simp] theorem State.setInst_mbox (x : Inst) : (s.setInst x).mbox = s.mbox := rfl
@[simp] theorem State.setInst_h2cprod (x : Inst) : (s.setInst x).h2cprod = s.h2cprod := rfl
@[simp] theorem State.setInst_h2ccons (x : Inst) : (s.setInst x).h2ccons = s.h2ccons := rfl
@[simp] theorem State.setInst_c2hprod (x : Inst) : (s.setInst x).c2hprod = s.c2hprod := rfl
@[simp] theorem State.setInst_c2hcons (x : Inst) : (s.setInst x).c2hcons = s.c2hcons := rfl
@[simp] theorem State.setInst_c2hWait (x : Inst) : (s.setInst x).c2hWait = s.c2hWait := rfl
@[simp] theorem State.setInst_mboxInval (x : Inst) : (s.setInst x).mboxInval = s.mboxInval := rfl
@[simp] theorem State.setInst_hostWrites (x : Inst) : (s.setInst x).hostWrites = s.hostWrites := rfl
@[simp] theorem State.setInst_hostReply (x : Inst) : (s.setInst x).hostReply = s.hostReply := rfl
@[simp] theorem State.setInst_msix (x : Inst) : (s.setInst x).msix = s.msix := rfl
@[simp] theorem State.setInst_hostPorts (x : Inst) : (s.setInst x).hostPorts = s.hostPorts := rfl
@[simp] theorem State.setInst_lofts (x : Inst) : (s.setInst x).lofts = s.lofts := rfl
@[simp] theorem State.setInst_ctxs (x : Inst) : (s.setInst x).ctxs = s.ctxs := rfl
@[simp] theorem State.setInst_snaps (x : Inst) : (s.setInst x).snaps = s.snaps := rfl
@[simp] theorem State.setInst_snapAt (x : Inst) : (s.setInst x).snapAt = s.snapAt := rfl
@[simp] theorem State.setInst_sampleLen (x : Inst) : (s.setInst x).sampleLen = s.sampleLen := rfl
@[simp] theorem State.setInst_samples (x : Inst) : (s.setInst x).samples = s.samples := rfl
@[simp] theorem State.setInst_powerAt (x : Inst) : (s.setInst x).powerAt = s.powerAt := rfl
@[simp] theorem State.setInst_changing (x : Inst) : (s.setInst x).changing = s.changing := rfl

/-! ### setLoft -/

@[simp] theorem State.setLoft_fir (i : Nat) (x : Loft) : (s.setLoft i x).fir = s.fir := rfl
@[simp] theorem State.setLoft_agenda (i : Nat) (x : Loft) : (s.setLoft i x).agenda = s.agenda := rfl
@[simp] theorem State.setLoft_draw (i : Nat) (x : Loft) : (s.setLoft i x).draw = s.draw := rfl
@[simp] theorem State.setLoft_parkings (i : Nat) (x : Loft) : (s.setLoft i x).parkings = s.parkings := rfl
@[simp] theorem State.setLoft_nextCmd (i : Nat) (x : Loft) : (s.setLoft i x).nextCmd = s.nextCmd := rfl
@[simp] theorem State.setLoft_dtime (i : Nat) (x : Loft) : (s.setLoft i x).dtime = s.dtime := rfl
@[simp] theorem State.setLoft_mem (i : Nat) (x : Loft) : (s.setLoft i x).mem = s.mem := rfl
@[simp] theorem State.setLoft_mpoison (i : Nat) (x : Loft) : (s.setLoft i x).mpoison = s.mpoison := rfl
@[simp] theorem State.setLoft_bays (i : Nat) (x : Loft) : (s.setLoft i x).bays = s.bays := rfl
@[simp] theorem State.setLoft_fields (i : Nat) (x : Loft) : (s.setLoft i x).fields = s.fields := rfl
@[simp] theorem State.setLoft_insts (i : Nat) (x : Loft) : (s.setLoft i x).insts = s.insts := rfl
@[simp] theorem State.setLoft_nextField (i : Nat) (x : Loft) : (s.setLoft i x).nextField = s.nextField := rfl
@[simp] theorem State.setLoft_tenants (i : Nat) (x : Loft) : (s.setLoft i x).tenants = s.tenants := rfl
@[simp] theorem State.setLoft_tlb (i : Nat) (x : Loft) : (s.setLoft i x).tlb = s.tlb := rfl
@[simp] theorem State.setLoft_walks (i : Nat) (x : Loft) : (s.setLoft i x).walks = s.walks := rfl
@[simp] theorem State.setLoft_seqCache (i : Nat) (x : Loft) : (s.setLoft i x).seqCache = s.seqCache := rfl
@[simp] theorem State.setLoft_images (i : Nat) (x : Loft) : (s.setLoft i x).images = s.images := rfl
@[simp] theorem State.setLoft_slices (i : Nat) (x : Loft) : (s.setLoft i x).slices = s.slices := rfl
@[simp] theorem State.setLoft_pairs (i : Nat) (x : Loft) : (s.setLoft i x).pairs = s.pairs := rfl
@[simp] theorem State.setLoft_sentSets (i : Nat) (x : Loft) : (s.setLoft i x).sentSets = s.sentSets := rfl
@[simp] theorem State.setLoft_syncSets (i : Nat) (x : Loft) : (s.setLoft i x).syncSets = s.syncSets := rfl
@[simp] theorem State.setLoft_waiters (i : Nat) (x : Loft) : (s.setLoft i x).waiters = s.waiters := rfl
@[simp] theorem State.setLoft_streams (i : Nat) (x : Loft) : (s.setLoft i x).streams = s.streams := rfl
@[simp] theorem State.setLoft_nextStream (i : Nat) (x : Loft) : (s.setLoft i x).nextStream = s.nextStream := rfl
@[simp] theorem State.setLoft_colls (i : Nat) (x : Loft) : (s.setLoft i x).colls = s.colls := rfl
@[simp] theorem State.setLoft_msgs (i : Nat) (x : Loft) : (s.setLoft i x).msgs = s.msgs := rfl
@[simp] theorem State.setLoft_rwq (i : Nat) (x : Loft) : (s.setLoft i x).rwq = s.rwq := rfl
@[simp] theorem State.setLoft_veils (i : Nat) (x : Loft) : (s.setLoft i x).veils = s.veils := rfl
@[simp] theorem State.setLoft_modnum (i : Nat) (x : Loft) : (s.setLoft i x).modnum = s.modnum := rfl
@[simp] theorem State.setLoft_errstat (i : Nat) (x : Loft) : (s.setLoft i x).errstat = s.errstat := rfl
@[simp] theorem State.setLoft_domcfg (i : Nat) (x : Loft) : (s.setLoft i x).domcfg = s.domcfg := rfl
@[simp] theorem State.setLoft_bootst (i : Nat) (x : Loft) : (s.setLoft i x).bootst = s.bootst := rfl
@[simp] theorem State.setLoft_modpwr (i : Nat) (x : Loft) : (s.setLoft i x).modpwr = s.modpwr := rfl
@[simp] theorem State.setLoft_hosterr (i : Nat) (x : Loft) : (s.setLoft i x).hosterr = s.hosterr := rfl
@[simp] theorem State.setLoft_art (i : Nat) (x : Loft) : (s.setLoft i x).art = s.art := rfl
@[simp] theorem State.setLoft_prq (i : Nat) (x : Loft) : (s.setLoft i x).prq = s.prq := rfl
@[simp] theorem State.setLoft_prqWaiting (i : Nat) (x : Loft) : (s.setLoft i x).prqWaiting = s.prqWaiting := rfl
@[simp] theorem State.setLoft_prqSeq (i : Nat) (x : Loft) : (s.setLoft i x).prqSeq = s.prqSeq := rfl
@[simp] theorem State.setLoft_fills (i : Nat) (x : Loft) : (s.setLoft i x).fills = s.fills := rfl
@[simp] theorem State.setLoft_costt (i : Nat) (x : Loft) : (s.setLoft i x).costt = s.costt := rfl
@[simp] theorem State.setLoft_samplep (i : Nat) (x : Loft) : (s.setLoft i x).samplep = s.samplep := rfl
@[simp] theorem State.setLoft_islands (i : Nat) (x : Loft) : (s.setLoft i x).islands = s.islands := rfl
@[simp] theorem State.setLoft_links (i : Nat) (x : Loft) : (s.setLoft i x).links = s.links := rfl
@[simp] theorem State.setLoft_routes (i : Nat) (x : Loft) : (s.setLoft i x).routes = s.routes := rfl
@[simp] theorem State.setLoft_members (i : Nat) (x : Loft) : (s.setLoft i x).members = s.members := rfl
@[simp] theorem State.setLoft_routeWaits (i : Nat) (x : Loft) : (s.setLoft i x).routeWaits = s.routeWaits := rfl
@[simp] theorem State.setLoft_mbox (i : Nat) (x : Loft) : (s.setLoft i x).mbox = s.mbox := rfl
@[simp] theorem State.setLoft_h2cprod (i : Nat) (x : Loft) : (s.setLoft i x).h2cprod = s.h2cprod := rfl
@[simp] theorem State.setLoft_h2ccons (i : Nat) (x : Loft) : (s.setLoft i x).h2ccons = s.h2ccons := rfl
@[simp] theorem State.setLoft_c2hprod (i : Nat) (x : Loft) : (s.setLoft i x).c2hprod = s.c2hprod := rfl
@[simp] theorem State.setLoft_c2hcons (i : Nat) (x : Loft) : (s.setLoft i x).c2hcons = s.c2hcons := rfl
@[simp] theorem State.setLoft_c2hWait (i : Nat) (x : Loft) : (s.setLoft i x).c2hWait = s.c2hWait := rfl
@[simp] theorem State.setLoft_mboxInval (i : Nat) (x : Loft) : (s.setLoft i x).mboxInval = s.mboxInval := rfl
@[simp] theorem State.setLoft_hostWrites (i : Nat) (x : Loft) : (s.setLoft i x).hostWrites = s.hostWrites := rfl
@[simp] theorem State.setLoft_hostReply (i : Nat) (x : Loft) : (s.setLoft i x).hostReply = s.hostReply := rfl
@[simp] theorem State.setLoft_msix (i : Nat) (x : Loft) : (s.setLoft i x).msix = s.msix := rfl
@[simp] theorem State.setLoft_hostPorts (i : Nat) (x : Loft) : (s.setLoft i x).hostPorts = s.hostPorts := rfl
@[simp] theorem State.setLoft_lofts (i : Nat) (x : Loft) : (s.setLoft i x).lofts = tput i x s.lofts := rfl
@[simp] theorem State.setLoft_ctxs (i : Nat) (x : Loft) : (s.setLoft i x).ctxs = s.ctxs := rfl
@[simp] theorem State.setLoft_snaps (i : Nat) (x : Loft) : (s.setLoft i x).snaps = s.snaps := rfl
@[simp] theorem State.setLoft_snapAt (i : Nat) (x : Loft) : (s.setLoft i x).snapAt = s.snapAt := rfl
@[simp] theorem State.setLoft_sampleLen (i : Nat) (x : Loft) : (s.setLoft i x).sampleLen = s.sampleLen := rfl
@[simp] theorem State.setLoft_samples (i : Nat) (x : Loft) : (s.setLoft i x).samples = s.samples := rfl
@[simp] theorem State.setLoft_powerAt (i : Nat) (x : Loft) : (s.setLoft i x).powerAt = s.powerAt := rfl
@[simp] theorem State.setLoft_changing (i : Nat) (x : Loft) : (s.setLoft i x).changing = s.changing := rfl

/-! ### park -/

@[simp] theorem State.park_fir (p : Park) (q : Bool) : (s.park p q).fir = s.fir.park p q s.parkings := rfl
@[simp] theorem State.park_agenda (p : Park) (q : Bool) : (s.park p q).agenda = s.agenda := rfl
@[simp] theorem State.park_draw (p : Park) (q : Bool) : (s.park p q).draw = s.draw := rfl
@[simp] theorem State.park_parkings (p : Park) (q : Bool) : (s.park p q).parkings = s.parkings + 1 := rfl
@[simp] theorem State.park_nextCmd (p : Park) (q : Bool) : (s.park p q).nextCmd = s.nextCmd := rfl
@[simp] theorem State.park_dtime (p : Park) (q : Bool) : (s.park p q).dtime = s.dtime := rfl
@[simp] theorem State.park_mem (p : Park) (q : Bool) : (s.park p q).mem = s.mem := rfl
@[simp] theorem State.park_mpoison (p : Park) (q : Bool) : (s.park p q).mpoison = s.mpoison := rfl
@[simp] theorem State.park_bays (p : Park) (q : Bool) : (s.park p q).bays = s.bays := rfl
@[simp] theorem State.park_fields (p : Park) (q : Bool) : (s.park p q).fields = s.fields := rfl
@[simp] theorem State.park_insts (p : Park) (q : Bool) : (s.park p q).insts = s.insts := rfl
@[simp] theorem State.park_nextField (p : Park) (q : Bool) : (s.park p q).nextField = s.nextField := rfl
@[simp] theorem State.park_tenants (p : Park) (q : Bool) : (s.park p q).tenants = s.tenants := rfl
@[simp] theorem State.park_tlb (p : Park) (q : Bool) : (s.park p q).tlb = s.tlb := rfl
@[simp] theorem State.park_walks (p : Park) (q : Bool) : (s.park p q).walks = s.walks := rfl
@[simp] theorem State.park_seqCache (p : Park) (q : Bool) : (s.park p q).seqCache = s.seqCache := rfl
@[simp] theorem State.park_images (p : Park) (q : Bool) : (s.park p q).images = s.images := rfl
@[simp] theorem State.park_slices (p : Park) (q : Bool) : (s.park p q).slices = s.slices := rfl
@[simp] theorem State.park_pairs (p : Park) (q : Bool) : (s.park p q).pairs = s.pairs := rfl
@[simp] theorem State.park_sentSets (p : Park) (q : Bool) : (s.park p q).sentSets = s.sentSets := rfl
@[simp] theorem State.park_syncSets (p : Park) (q : Bool) : (s.park p q).syncSets = s.syncSets := rfl
@[simp] theorem State.park_waiters (p : Park) (q : Bool) : (s.park p q).waiters = s.waiters := rfl
@[simp] theorem State.park_streams (p : Park) (q : Bool) : (s.park p q).streams = s.streams := rfl
@[simp] theorem State.park_nextStream (p : Park) (q : Bool) : (s.park p q).nextStream = s.nextStream := rfl
@[simp] theorem State.park_colls (p : Park) (q : Bool) : (s.park p q).colls = s.colls := rfl
@[simp] theorem State.park_msgs (p : Park) (q : Bool) : (s.park p q).msgs = s.msgs := rfl
@[simp] theorem State.park_rwq (p : Park) (q : Bool) : (s.park p q).rwq = s.rwq := rfl
@[simp] theorem State.park_veils (p : Park) (q : Bool) : (s.park p q).veils = s.veils := rfl
@[simp] theorem State.park_modnum (p : Park) (q : Bool) : (s.park p q).modnum = s.modnum := rfl
@[simp] theorem State.park_errstat (p : Park) (q : Bool) : (s.park p q).errstat = s.errstat := rfl
@[simp] theorem State.park_domcfg (p : Park) (q : Bool) : (s.park p q).domcfg = s.domcfg := rfl
@[simp] theorem State.park_bootst (p : Park) (q : Bool) : (s.park p q).bootst = s.bootst := rfl
@[simp] theorem State.park_modpwr (p : Park) (q : Bool) : (s.park p q).modpwr = s.modpwr := rfl
@[simp] theorem State.park_hosterr (p : Park) (q : Bool) : (s.park p q).hosterr = s.hosterr := rfl
@[simp] theorem State.park_art (p : Park) (q : Bool) : (s.park p q).art = s.art := rfl
@[simp] theorem State.park_prq (p : Park) (q : Bool) : (s.park p q).prq = s.prq := rfl
@[simp] theorem State.park_prqWaiting (p : Park) (q : Bool) : (s.park p q).prqWaiting = s.prqWaiting := rfl
@[simp] theorem State.park_prqSeq (p : Park) (q : Bool) : (s.park p q).prqSeq = s.prqSeq := rfl
@[simp] theorem State.park_fills (p : Park) (q : Bool) : (s.park p q).fills = s.fills := rfl
@[simp] theorem State.park_costt (p : Park) (q : Bool) : (s.park p q).costt = s.costt := rfl
@[simp] theorem State.park_samplep (p : Park) (q : Bool) : (s.park p q).samplep = s.samplep := rfl
@[simp] theorem State.park_islands (p : Park) (q : Bool) : (s.park p q).islands = s.islands := rfl
@[simp] theorem State.park_links (p : Park) (q : Bool) : (s.park p q).links = s.links := rfl
@[simp] theorem State.park_routes (p : Park) (q : Bool) : (s.park p q).routes = s.routes := rfl
@[simp] theorem State.park_members (p : Park) (q : Bool) : (s.park p q).members = s.members := rfl
@[simp] theorem State.park_routeWaits (p : Park) (q : Bool) : (s.park p q).routeWaits = s.routeWaits := rfl
@[simp] theorem State.park_mbox (p : Park) (q : Bool) : (s.park p q).mbox = s.mbox := rfl
@[simp] theorem State.park_h2cprod (p : Park) (q : Bool) : (s.park p q).h2cprod = s.h2cprod := rfl
@[simp] theorem State.park_h2ccons (p : Park) (q : Bool) : (s.park p q).h2ccons = s.h2ccons := rfl
@[simp] theorem State.park_c2hprod (p : Park) (q : Bool) : (s.park p q).c2hprod = s.c2hprod := rfl
@[simp] theorem State.park_c2hcons (p : Park) (q : Bool) : (s.park p q).c2hcons = s.c2hcons := rfl
@[simp] theorem State.park_c2hWait (p : Park) (q : Bool) : (s.park p q).c2hWait = s.c2hWait := rfl
@[simp] theorem State.park_mboxInval (p : Park) (q : Bool) : (s.park p q).mboxInval = s.mboxInval := rfl
@[simp] theorem State.park_hostWrites (p : Park) (q : Bool) : (s.park p q).hostWrites = s.hostWrites := rfl
@[simp] theorem State.park_hostReply (p : Park) (q : Bool) : (s.park p q).hostReply = s.hostReply := rfl
@[simp] theorem State.park_msix (p : Park) (q : Bool) : (s.park p q).msix = s.msix := rfl
@[simp] theorem State.park_hostPorts (p : Park) (q : Bool) : (s.park p q).hostPorts = s.hostPorts := rfl
@[simp] theorem State.park_lofts (p : Park) (q : Bool) : (s.park p q).lofts = s.lofts := rfl
@[simp] theorem State.park_ctxs (p : Park) (q : Bool) : (s.park p q).ctxs = s.ctxs := rfl
@[simp] theorem State.park_snaps (p : Park) (q : Bool) : (s.park p q).snaps = s.snaps := rfl
@[simp] theorem State.park_snapAt (p : Park) (q : Bool) : (s.park p q).snapAt = s.snapAt := rfl
@[simp] theorem State.park_sampleLen (p : Park) (q : Bool) : (s.park p q).sampleLen = s.sampleLen := rfl
@[simp] theorem State.park_samples (p : Park) (q : Bool) : (s.park p q).samples = s.samples := rfl
@[simp] theorem State.park_powerAt (p : Park) (q : Bool) : (s.park p q).powerAt = s.powerAt := rfl
@[simp] theorem State.park_changing (p : Park) (q : Bool) : (s.park p q).changing = s.changing := rfl

/-! ### postSolve -/

@[simp] theorem State.postSolve_fir (t c : Nat) : (s.postSolve t c).fir = s.fir := rfl
@[simp] theorem State.postSolve_agenda (t c : Nat) : (s.postSolve t c).agenda = s.agenda := rfl
@[simp] theorem State.postSolve_draw (t c : Nat) : (s.postSolve t c).draw = s.draw := rfl
@[simp] theorem State.postSolve_parkings (t c : Nat) : (s.postSolve t c).parkings = s.parkings := rfl
@[simp] theorem State.postSolve_nextCmd (t c : Nat) : (s.postSolve t c).nextCmd = s.nextCmd := rfl
@[simp] theorem State.postSolve_dtime (t c : Nat) : (s.postSolve t c).dtime = s.dtime := rfl
@[simp] theorem State.postSolve_mem (t c : Nat) : (s.postSolve t c).mem = s.mem := rfl
@[simp] theorem State.postSolve_mpoison (t c : Nat) : (s.postSolve t c).mpoison = s.mpoison := rfl
@[simp] theorem State.postSolve_bays (t c : Nat) : (s.postSolve t c).bays = s.bays := rfl
@[simp] theorem State.postSolve_fields (t c : Nat) : (s.postSolve t c).fields = s.fields := rfl
@[simp] theorem State.postSolve_insts (t c : Nat) : (s.postSolve t c).insts = s.insts := rfl
@[simp] theorem State.postSolve_nextField (t c : Nat) : (s.postSolve t c).nextField = s.nextField := rfl
@[simp] theorem State.postSolve_tenants (t c : Nat) : (s.postSolve t c).tenants = tput t { s.tenant t with solve := some c } s.tenants := rfl
@[simp] theorem State.postSolve_tlb (t c : Nat) : (s.postSolve t c).tlb = s.tlb := rfl
@[simp] theorem State.postSolve_walks (t c : Nat) : (s.postSolve t c).walks = s.walks := rfl
@[simp] theorem State.postSolve_seqCache (t c : Nat) : (s.postSolve t c).seqCache = s.seqCache := rfl
@[simp] theorem State.postSolve_images (t c : Nat) : (s.postSolve t c).images = s.images := rfl
@[simp] theorem State.postSolve_slices (t c : Nat) : (s.postSolve t c).slices = s.slices := rfl
@[simp] theorem State.postSolve_pairs (t c : Nat) : (s.postSolve t c).pairs = s.pairs := rfl
@[simp] theorem State.postSolve_sentSets (t c : Nat) : (s.postSolve t c).sentSets = s.sentSets := rfl
@[simp] theorem State.postSolve_syncSets (t c : Nat) : (s.postSolve t c).syncSets = s.syncSets := rfl
@[simp] theorem State.postSolve_waiters (t c : Nat) : (s.postSolve t c).waiters = s.waiters := rfl
@[simp] theorem State.postSolve_streams (t c : Nat) : (s.postSolve t c).streams = s.streams := rfl
@[simp] theorem State.postSolve_nextStream (t c : Nat) : (s.postSolve t c).nextStream = s.nextStream := rfl
@[simp] theorem State.postSolve_colls (t c : Nat) : (s.postSolve t c).colls = s.colls := rfl
@[simp] theorem State.postSolve_msgs (t c : Nat) : (s.postSolve t c).msgs = s.msgs := rfl
@[simp] theorem State.postSolve_rwq (t c : Nat) : (s.postSolve t c).rwq = s.rwq := rfl
@[simp] theorem State.postSolve_veils (t c : Nat) : (s.postSolve t c).veils = s.veils := rfl
@[simp] theorem State.postSolve_modnum (t c : Nat) : (s.postSolve t c).modnum = s.modnum := rfl
@[simp] theorem State.postSolve_errstat (t c : Nat) : (s.postSolve t c).errstat = s.errstat := rfl
@[simp] theorem State.postSolve_domcfg (t c : Nat) : (s.postSolve t c).domcfg = s.domcfg := rfl
@[simp] theorem State.postSolve_bootst (t c : Nat) : (s.postSolve t c).bootst = s.bootst := rfl
@[simp] theorem State.postSolve_modpwr (t c : Nat) : (s.postSolve t c).modpwr = s.modpwr := rfl
@[simp] theorem State.postSolve_hosterr (t c : Nat) : (s.postSolve t c).hosterr = s.hosterr := rfl
@[simp] theorem State.postSolve_art (t c : Nat) : (s.postSolve t c).art = s.art := rfl
@[simp] theorem State.postSolve_prq (t c : Nat) : (s.postSolve t c).prq = s.prq := rfl
@[simp] theorem State.postSolve_prqWaiting (t c : Nat) : (s.postSolve t c).prqWaiting = s.prqWaiting := rfl
@[simp] theorem State.postSolve_prqSeq (t c : Nat) : (s.postSolve t c).prqSeq = s.prqSeq := rfl
@[simp] theorem State.postSolve_fills (t c : Nat) : (s.postSolve t c).fills = s.fills := rfl
@[simp] theorem State.postSolve_costt (t c : Nat) : (s.postSolve t c).costt = s.costt := rfl
@[simp] theorem State.postSolve_samplep (t c : Nat) : (s.postSolve t c).samplep = s.samplep := rfl
@[simp] theorem State.postSolve_islands (t c : Nat) : (s.postSolve t c).islands = s.islands := rfl
@[simp] theorem State.postSolve_links (t c : Nat) : (s.postSolve t c).links = s.links := rfl
@[simp] theorem State.postSolve_routes (t c : Nat) : (s.postSolve t c).routes = s.routes := rfl
@[simp] theorem State.postSolve_members (t c : Nat) : (s.postSolve t c).members = s.members := rfl
@[simp] theorem State.postSolve_routeWaits (t c : Nat) : (s.postSolve t c).routeWaits = s.routeWaits := rfl
@[simp] theorem State.postSolve_mbox (t c : Nat) : (s.postSolve t c).mbox = s.mbox := rfl
@[simp] theorem State.postSolve_h2cprod (t c : Nat) : (s.postSolve t c).h2cprod = s.h2cprod := rfl
@[simp] theorem State.postSolve_h2ccons (t c : Nat) : (s.postSolve t c).h2ccons = s.h2ccons := rfl
@[simp] theorem State.postSolve_c2hprod (t c : Nat) : (s.postSolve t c).c2hprod = s.c2hprod := rfl
@[simp] theorem State.postSolve_c2hcons (t c : Nat) : (s.postSolve t c).c2hcons = s.c2hcons := rfl
@[simp] theorem State.postSolve_c2hWait (t c : Nat) : (s.postSolve t c).c2hWait = s.c2hWait := rfl
@[simp] theorem State.postSolve_mboxInval (t c : Nat) : (s.postSolve t c).mboxInval = s.mboxInval := rfl
@[simp] theorem State.postSolve_hostWrites (t c : Nat) : (s.postSolve t c).hostWrites = s.hostWrites := rfl
@[simp] theorem State.postSolve_hostReply (t c : Nat) : (s.postSolve t c).hostReply = s.hostReply := rfl
@[simp] theorem State.postSolve_msix (t c : Nat) : (s.postSolve t c).msix = s.msix := rfl
@[simp] theorem State.postSolve_hostPorts (t c : Nat) : (s.postSolve t c).hostPorts = s.hostPorts := rfl
@[simp] theorem State.postSolve_lofts (t c : Nat) : (s.postSolve t c).lofts = s.lofts := rfl
@[simp] theorem State.postSolve_ctxs (t c : Nat) : (s.postSolve t c).ctxs = s.ctxs := rfl
@[simp] theorem State.postSolve_snaps (t c : Nat) : (s.postSolve t c).snaps = s.snaps := rfl
@[simp] theorem State.postSolve_snapAt (t c : Nat) : (s.postSolve t c).snapAt = s.snapAt := rfl
@[simp] theorem State.postSolve_sampleLen (t c : Nat) : (s.postSolve t c).sampleLen = s.sampleLen := rfl
@[simp] theorem State.postSolve_samples (t c : Nat) : (s.postSolve t c).samples = s.samples := rfl
@[simp] theorem State.postSolve_powerAt (t c : Nat) : (s.postSolve t c).powerAt = s.powerAt := rfl
@[simp] theorem State.postSolve_changing (t c : Nat) : (s.postSolve t c).changing = s.changing := rfl

end Sys2Proof.Machine
end

