-- ==== Sys2Proof/Laws/Memory.lean ====
section
/-! SUPPORT. Sparse tables and memory: a read after a write, and the canonical form that every memory operation keeps. -/

namespace Sys2Proof.Machine

/-! ### Tables -/

@[simp] theorem tget_tput_same {α : Type} (k : Nat) (a : α) (t : Table α) : tget k (tput k a t) = some a := by
  induction t with
  | nil => simp [tput, tget]
  | cons x t ih =>
    obtain ⟨j, b⟩ := x
    by_cases e : j = k
    · simp [tput, tget, e]
    · by_cases l : k < j
      · simp [tput, tget, e, l]
      · simp [tput, tget, e, l, ih]

/-- Only the last of two entries put under one key stays. -/
@[simp] theorem tput_tput {α : Type} (k : Nat) (a b : α) (t : Table α) : tput k a (tput k b t) = tput k a t := by
  induction t with
  | nil => simp [tput]
  | cons x t ih =>
    obtain ⟨j, c⟩ := x
    by_cases e : j = k
    · simp [tput, e]
    · by_cases l : k < j
      · simp [tput, e, l]
      · simp [tput, e, l, ih]

theorem tget_tput_ne {α : Type} {i k : Nat} (h : i ≠ k) (a : α) (t : Table α) : tget i (tput k a t) = tget i t := by
  induction t with
  | nil =>
    have : k ≠ i := fun e => h e.symm
    simp [tput, tget, this]
  | cons x t ih =>
    obtain ⟨j, b⟩ := x
    have hk : k ≠ i := fun e => h e.symm
    by_cases e : j = k
    · simp [tput, tget, e, hk]
    · by_cases l : k < j
      · simp only [tput, e, l, if_true, if_false, tget, hk]
        by_cases m : i < k
        · have : j ≠ i := by omega
          have : i < j := by omega
          simp [*]
        · simp [m]
      · simp [tput, tget, e, l, ih]

theorem tget_tput {α : Type} (i k : Nat) (a : α) (t : Table α) :
    tget i (tput k a t) = if i = k then some a else tget i t := by
  by_cases h : i = k
  · subst h; simp
  · rw [tget_tput_ne h, if_neg h]

theorem tgetD_tput {α : Type} (i k : Nat) (d a : α) (t : Table α) :
    tgetD i d (tput k a t) = if i = k then a else tgetD i d t := by
  unfold tgetD; rw [tget_tput]; by_cases h : i = k <;> simp [h]

theorem tgetD_tmod {α : Type} (i k : Nat) (d : α) (f : α → α) (t : Table α) :
    tgetD i d (tmod k d f t) = if i = k then f (tgetD k d t) else tgetD i d t := by
  unfold tmod; rw [tgetD_tput]

/-! ### Bays, tenants, islands, slices, links, lofts as read after an update -/

theorem State.bay_setBay (s : State) (b c : Nat) (x : Bay) : (s.setBay b x).bay c = if c = b then x else s.bay c :=
  tgetD_tput _ _ _ _ _
theorem State.bay_modBay (s : State) (b c : Nat) (f : Bay → Bay) :
    (s.modBay b f).bay c = if c = b then f (s.bay b) else s.bay c := tgetD_tput _ _ _ _ _
theorem State.tenant_setTenant (s : State) (t u : Nat) (x : Tenant) :
    (s.setTenant t x).tenant u = if u = t then x else s.tenant u := tgetD_tput _ _ _ _ _
theorem State.tenant_modTenant (s : State) (t u : Nat) (f : Tenant → Tenant) :
    (s.modTenant t f).tenant u = if u = t then f (s.tenant t) else s.tenant u := tgetD_tput _ _ _ _ _
theorem State.island_setIsland (s : State) (i j : Nat) (x : Island) :
    (s.setIsland i x).island j = if j = i then x else s.island j := tgetD_tput _ _ _ _ _
theorem State.slice_setSlice (s : State) (k l : Nat) (x : Slice) :
    (s.setSlice k x).slice l = if l = k then x else s.slice l := tgetD_tput _ _ _ _ _
theorem State.link_setLink (s : State) (n m : Nat) (x : Link) :
    (s.setLink n x).link m = if m = n then x else s.link m := tgetD_tput _ _ _ _ _
theorem State.loft_setLoft (s : State) (i j : Nat) (x : Loft) :
    (s.setLoft i x).loft j = if j = i then x else s.loft j := tgetD_tput _ _ _ _ _

/-! ### The canonical form of memory -/

/-- A memory in canonical form above a key is in canonical form. -/
theorem Memory.wf_of_wfAbove {k : Nat} {m : Memory} (h : Memory.wfAbove k m = true) : Memory.wf m = true := by
  cases m with
  | nil => rfl
  | cons x t => obtain ⟨j, b⟩ := x; simp [Memory.wfAbove, Memory.wf] at *; exact ⟨h.1.2, h.2⟩

theorem Memory.wfAbove_mono {k l : Nat} {m : Memory} (h : Memory.wfAbove l m = true) (e : k ≤ l) :
    Memory.wfAbove k m = true := by
  cases m with
  | nil => rfl
  | cons x t => obtain ⟨j, b⟩ := x; simp [Memory.wfAbove] at *; exact ⟨⟨by omega, h.1.2⟩, h.2⟩

theorem Memory.wfAbove_tput {k a : Nat} {b : Byte} (hb : b ≠ Memory.unlisted) (ha : k < a) :
    ∀ {m : Memory}, Memory.wfAbove k m = true → Memory.wfAbove k (tput a b m) = true := by
  intro m
  induction m generalizing k with
  | nil => intro _; simp [tput, Memory.wfAbove, ha, hb]
  | cons x t ih =>
    obtain ⟨j, c⟩ := x
    intro h
    simp only [Memory.wfAbove, Bool.and_eq_true, decide_eq_true_eq] at h
    by_cases e : j = a
    · subst e; simp [tput, Memory.wfAbove, ha, hb, h.2]
    · by_cases l : a < j
      · simp [tput, e, l, Memory.wfAbove, ha, hb, h.1.2, h.2]
      · simp only [tput, e, l, if_false, Memory.wfAbove, Bool.and_eq_true, decide_eq_true_eq]
        exact ⟨h.1, ih (by omega) h.2⟩

theorem Memory.wfAbove_tdel {k a : Nat} : ∀ {m : Memory}, Memory.wfAbove k m = true → Memory.wfAbove k (tdel a m) = true := by
  intro m
  induction m generalizing k with
  | nil => intro _; rfl
  | cons x t ih =>
    obtain ⟨j, c⟩ := x
    intro h
    simp only [Memory.wfAbove, Bool.and_eq_true, decide_eq_true_eq] at h
    by_cases e : j = a
    · simp only [tdel, e, if_true]; exact Memory.wfAbove_mono h.2 (by omega)
    · by_cases l : a < j
      · simp [tdel, e, l, Memory.wfAbove, h]
      · simp only [tdel, e, l, if_false, Memory.wfAbove, Bool.and_eq_true, decide_eq_true_eq]
        exact ⟨h.1, ih h.2⟩

/-- Writing one byte keeps the canonical form. -/
theorem Memory.wf_write {m : Memory} (h : m.wf = true) (a : Nat) (b : Byte) : (m.write a b).wf = true := by
  unfold Memory.write
  cases m with
  | nil => by_cases hb : b = Memory.unlisted <;> simp [hb, tdel, tput, Memory.wf, Memory.wfAbove]
  | cons x t =>
    obtain ⟨j, c⟩ := x
    simp only [Memory.wf, Bool.and_eq_true, decide_eq_true_eq] at h
    by_cases hb : b = Memory.unlisted
    · rw [if_pos hb]
      by_cases e : j = a
      · simp only [tdel, e, if_true]; exact Memory.wf_of_wfAbove h.2
      · by_cases l : a < j
        · simp [tdel, e, l, Memory.wf, h]
        · simp only [tdel, e, l, if_false, Memory.wf, Bool.and_eq_true, decide_eq_true_eq]
          exact ⟨h.1, Memory.wfAbove_tdel h.2⟩
    · rw [if_neg hb]
      by_cases e : j = a
      · subst e; simp [tput, Memory.wf, hb, h.2]
      · by_cases l : a < j
        · simp [tput, e, l, Memory.wf, Memory.wfAbove, hb, h]
        · simp only [tput, e, l, if_false, Memory.wf, Bool.and_eq_true, decide_eq_true_eq]
          exact ⟨h.1, Memory.wfAbove_tput hb (by omega) h.2⟩

/-- Writing a list of bytes keeps the canonical form. -/
theorem Memory.wf_writeList {m : Memory} (h : m.wf = true) (a : Nat) (l : List Byte) : (m.writeList a l).wf = true := by
  induction l generalizing m a with
  | nil => exact h
  | cons b l ih => exact ih (Memory.wf_write h a b) (a + 1)

/-- Writing bytes one after another keeps the canonical form. -/
theorem Memory.wf_foldl {α : Type} (f : α → Nat × Byte) {m : Memory} (h : m.wf = true) (l : List α) :
    (l.foldl (fun m x => Memory.write m (f x).1 (f x).2) m).wf = true := by
  induction l generalizing m with
  | nil => exact h
  | cons x l ih => exact ih (Memory.wf_write h _ _)

theorem Memory.wfAbove_filter (p : Host.Cell → Bool) {k : Nat} {m : Memory} (h : Memory.wfAbove k m = true) :
    Memory.wfAbove k (m.filter p) = true := by
  induction m generalizing k with
  | nil => rfl
  | cons x t ih =>
    obtain ⟨j, c⟩ := x
    simp only [Memory.wfAbove, Bool.and_eq_true, decide_eq_true_eq] at h
    by_cases hp : p (j, c) = true
    · simp only [List.filter_cons, hp, if_true, Memory.wfAbove, Bool.and_eq_true, decide_eq_true_eq]
      exact ⟨h.1, ih h.2⟩
    · simp only [List.filter_cons, hp]
      exact ih (Memory.wfAbove_mono h.2 (by omega))

/-- Dropping entries keeps the canonical form. -/
theorem Memory.wf_filter (p : Host.Cell → Bool) {m : Memory} (h : m.wf = true) : Memory.wf (m.filter p) = true := by
  cases m with
  | nil => rfl
  | cons x t =>
    obtain ⟨j, c⟩ := x
    simp only [Memory.wf, Bool.and_eq_true, decide_eq_true_eq] at h
    by_cases hp : p (j, c) = true
    · simp only [List.filter_cons, hp, if_true, Memory.wf, Bool.and_eq_true, decide_eq_true_eq]
      exact ⟨h.1, Memory.wfAbove_filter p h.2⟩
    · simp only [List.filter_cons, hp]
      exact Memory.wf_of_wfAbove (Memory.wfAbove_filter p h.2)

/-! ### Reading after writing -/

theorem tget_of_wfAbove {a : Nat} : ∀ {m : Memory}, Memory.wfAbove a m = true → tget a m = none := by
  intro m h
  cases m with
  | nil => rfl
  | cons x t =>
    obtain ⟨j, c⟩ := x
    simp only [Memory.wfAbove, Bool.and_eq_true, decide_eq_true_eq] at h
    have : j ≠ a := by omega
    simp [tget, this, h.1.1]

theorem tget_tdel {a i k : Nat} {m : Memory} (h : Memory.wfAbove k m = true) :
    tget i (tdel a m) = if i = a then none else tget i m := by
  induction m generalizing k with
  | nil => simp [tdel, tget]
  | cons x t ih =>
    obtain ⟨j, c⟩ := x
    simp only [Memory.wfAbove, Bool.and_eq_true, decide_eq_true_eq] at h
    by_cases e : j = a
    · subst e
      simp only [tdel, if_true]
      by_cases ei : i = j
      · subst ei; simp [tget_of_wfAbove h.2]
      · have ej : j ≠ i := fun e => ei e.symm
        by_cases l : i < j
        · simp only [tget, ej, ei, l, if_true, if_false]; exact tget_of_wfAbove (Memory.wfAbove_mono h.2 (by omega))
        · simp [tget, ej, ei, l]
    · by_cases l : a < j
      · simp only [tdel, e, l, if_true, if_false]
        by_cases ei : i = a
        · subst ei; simp [tget, e, l]
        · simp [ei]
      · simp only [tdel, e, l, if_false, tget, ih h.2]
        by_cases ej : j = i
        · have : i ≠ a := by omega
          simp [ej, this]
        · by_cases li : i < j
          · simp [ej, li]
          · simp [ej, li]

theorem tget_tdel_wf {a i : Nat} {m : Memory} (h : m.wf = true) :
    tget i (tdel a m) = if i = a then none else tget i m := by
  cases m with
  | nil => simp [tdel, tget]
  | cons x t =>
    obtain ⟨j, c⟩ := x
    simp only [Memory.wf, Bool.and_eq_true, decide_eq_true_eq] at h
    by_cases e : j = a
    · subst e
      simp only [tdel, if_true]
      by_cases ei : i = j
      · subst ei; simp [tget_of_wfAbove h.2]
      · have ej : j ≠ i := fun e => ei e.symm
        by_cases l : i < j
        · simp only [tget, ej, ei, l, if_true, if_false]; exact tget_of_wfAbove (Memory.wfAbove_mono h.2 (by omega))
        · simp [tget, ej, ei, l]
    · by_cases l : a < j
      · simp only [tdel, e, l, if_true, if_false]
        by_cases ei : i = a
        · subst ei; simp [tget, e, l]
        · simp [ei]
      · simp only [tdel, e, l, if_false, tget, tget_tdel h.2]
        by_cases ej : j = i
        · have : i ≠ a := by omega
          simp [ej, this]
        · by_cases li : i < j
          · simp [ej, li]
          · simp [ej, li]

/-- A byte read after one byte has been written. -/
theorem Memory.read_write {m : Memory} (h : m.wf = true) (a i : Nat) (b : Byte) :
    (m.write a b).read i = if i = a then b else m.read i := by
  unfold Memory.write Memory.read tgetD
  by_cases hb : b = Memory.unlisted
  · rw [if_pos hb, tget_tdel_wf h]
    by_cases e : i = a <;> simp [e, hb]
  · rw [if_neg hb, tget_tput]
    by_cases e : i = a <;> simp [e]

/-! ### Memory as the state holds it -/

/-- Both memories of the state and the mailbox window are in canonical form. -/
def State.memOk (s : State) : Prop := s.mem.wf = true ∧ s.mpoison.wf = true ∧ Memory.wf s.mbox = true

/-- Reset memory is in canonical form. -/
theorem State.reset_memOk : State.reset.memOk := ⟨rfl, rfl, rfl⟩

theorem State.rawWrite_memOk (l : List (Nat × Byte × Bool)) : ∀ {s : State}, s.memOk → (s.rawWrite l).memOk := by
  induction l with
  | nil => intro s h; exact h
  | cons x l ih =>
    intro s h
    obtain ⟨a, b, q⟩ := x
    exact ih ⟨Memory.wf_write h.1 a b, Memory.wf_write h.2.1 a _, h.2.2⟩

/-- Ending the errors of lines sets marks alone. -/
theorem State.endErrors_memOk {s : State} (h : s.memOk) (lines : List Nat) (l : List (Nat × Byte × Bool)) :
    (s.endErrors lines l).memOk := by
  unfold State.endErrors
  split
  · exact h
  · exact ⟨h.1, Memory.wf_foldl (fun (x : Nat × Byte × Bool) => (x.1, if x.2.2 then 1 else 0)) h.2.1 _, h.2.2⟩

theorem commitBytes_wf (l : Table (Byte × Bool)) : ∀ {m p : Memory}, m.wf = true → p.wf = true →
    (commitBytes m p l).1.wf = true ∧ (commitBytes m p l).2.wf = true := by
  induction l with
  | nil => intro m p hm hp; exact ⟨hm, hp⟩
  | cons x l ih =>
    intro m p hm hp
    obtain ⟨a, b, q⟩ := x
    exact ih (Memory.wf_write hm a b) (Memory.wf_write hp a _)

/-- A fold keeps the canonical form when each of its steps does. -/
theorem State.foldl_memOk {α : Type} {f : State → α → State} (hf : ∀ {s : State} (x : α), s.memOk → (f s x).memOk)
    (l : List α) : ∀ {s : State}, s.memOk → (l.foldl f s).memOk := by
  induction l with
  | nil => intro s h; exact h
  | cons x l ih => intro s h; exact ih (hf x h)

theorem State.plainWrite_memOk {s : State} (h : s.memOk) (f : Nat) (l : List (Nat × Byte × Bool)) :
    (s.plainWrite f l).memOk := by
  unfold State.plainWrite
  dsimp only
  split <;> exact State.rawWrite_memOk l h

theorem State.putWord_memOk {s : State} (h : s.memOk) (f a : Nat) (x : Word) (q : Bool) : (s.putWord f a x q).memOk :=
  State.plainWrite_memOk h f _

theorem State.noteStreams_memOk {s : State} (h : s.memOk) (l : List Seg) : (s.noteStreams l).memOk := by
  unfold State.noteStreams
  split <;> exact h

/-- Waking a waiter moves no byte of memory. -/
theorem State.wake_memOk {s : State} (h : s.memOk) (w : WordWaiter) (x : Word) (q : Bool) : (s.wake w x q).memOk := by
  unfold State.wake
  split
  · exact h
  · split <;> exact h
  · exact h

theorem State.serveWaits_memOk {s : State} (h : s.memOk) (a : Nat) : (s.serveWaits a).memOk :=
  State.foldl_memOk (fun w k => State.wake_memOk k w _ _) _ h

/-- Making a version committed writes its bytes. -/
theorem State.commitLines_memOk {s : State} (h : s.memOk) (x : Inst) : (s.commitLines x).memOk := by
  have r := commitBytes_wf x.overlay h.1 h.2.1
  unfold State.commitLines
  apply State.noteStreams_memOk
  have e : ({ s.setInst { x with overlay := [], versioned := false } with
      mem := (commitBytes s.mem s.mpoison x.overlay).1, mpoison := (commitBytes s.mem s.mpoison x.overlay).2 } : State).memOk :=
    ⟨r.1, r.2, h.2.2⟩
  exact State.endErrors_memOk e _ _

theorem State.countEarly_memOk {s : State} (h : s.memOk) (x : Inst) : (s.countEarly x).memOk := h

/-- The first waiting ACQ gets the word: its tag is written. -/
theorem State.grant_memOk {s : State} (h : s.memOk) (f a : Nat) (x : Word) (l : List Seg) (w : WordWaiter) :
    ((((s.putWord f a x false).noteStreams l).wake w 0 false).serveWaits a).memOk :=
  State.serveWaits_memOk (State.wake_memOk (State.noteStreams_memOk (State.putWord_memOk h _ _ _ _) _) _ _ _) _

/-- Serving waiters writes at most tags, and versions that commit early. -/
theorem State.noteFrom_memOk (n : Nat) : ∀ {s : State}, s.memOk → ∀ l : List Seg, (State.noteFrom n s l).memOk := by
  induction n with
  | zero => intro s h l; exact h
  | succ n ih =>
    intro s h l
    unfold State.noteFrom
    split
    · exact h
    · refine State.foldl_memOk (fun {s} a h => ?_) _ h
      have h' := State.serveWaits_memOk h a
      dsimp only
      generalize s.serveWaits a = u at h' ⊢
      split
      · exact h'
      · rename_i w _
        split
        · exact h'
        · refine State.grant_memOk ?_ _ _ _ _ _
          have e : ({ u with waiters := u.waiters.erase w } : State).memOk := h'
          generalize ({ u with waiters := u.waiters.erase w } : State) = v at e ⊢
          split
          · split
            · exact ih (State.countEarly_memOk (State.commitLines_memOk e _) _) _
            · exact e
          · exact e

theorem State.noteWords_memOk {s : State} (h : s.memOk) (l : List Seg) : (s.noteWords l).memOk := State.noteFrom_memOk _ h l

theorem State.commit_memOk {s : State} (h : s.memOk) (x : Inst) : (s.commit x).memOk :=
  State.noteWords_memOk (State.commitLines_memOk h x) _

theorem State.earlyCommit_memOk {s : State} (h : s.memOk) (x : Inst) : (s.earlyCommit x).memOk := by
  unfold State.earlyCommit
  split
  · exact State.countEarly_memOk (State.commit_memOk h x) x
  · exact h

/-- Reading the bytes just written to committed memory; every other byte is unchanged. -/
theorem State.mem_rawWrite_one {s : State} (h : s.memOk) (a i : Nat) (b : Byte) (q : Bool) :
    (s.rawWrite [(a, b, q)]).mem.read i = if i = a then b else s.mem.read i := Memory.read_write h.1 a i b

theorem State.mboxPut_memOk {s : State} (h : s.memOk) (a : Nat) (l : List Byte) :
    s.mem.wf = true ∧ s.mpoison.wf = true ∧ Memory.wf (Memory.writeList s.mbox a l) = true :=
  ⟨h.1, h.2.1, Memory.wf_writeList h.2.2 a l⟩

end Sys2Proof.Machine
end

