-- ==== Sys2Proof/Laws/Regs.lean ====
section
/-! SUPPORT. The register files of a firing: what a register holds after a write, and which files a write, a retirement
or a transfer leaves alone. -/

namespace Sys2Proof.Machine

variable (r : Regs)

/-! ### Fields a write leaves alone -/

@[simp] theorem Regs.wg_v (i : R5) (x : Word) (p : Bool) : (r.wg i x p).v = r.v := by unfold Regs.wg; split <;> rfl
@[simp] theorem Regs.wg_vp (i : R5) (x : Word) (p : Bool) : (r.wg i x p).vp = r.vp := by unfold Regs.wg; split <;> rfl
@[simp] theorem Regs.wg_m (i : R5) (x : Word) (p : Bool) : (r.wg i x p).m = r.m := by unfold Regs.wg; split <;> rfl
@[simp] theorem Regs.wg_z (i : R5) (x : Word) (p : Bool) : (r.wg i x p).z = r.z := by unfold Regs.wg; split <;> rfl
@[simp] theorem Regs.wg_k (i : R5) (x : Word) (p : Bool) : (r.wg i x p).k = r.k := by unfold Regs.wg; split <;> rfl
@[simp] theorem Regs.wg_kp (i : R5) (x : Word) (p : Bool) : (r.wg i x p).kp = r.kp := by unfold Regs.wg; split <;> rfl
@[simp] theorem Regs.wg_rmode (i : R5) (x : Word) (p : Bool) : (r.wg i x p).rmode = r.rmode := by unfold Regs.wg; split <;> rfl
@[simp] theorem Regs.wg_flags (i : R5) (x : Word) (p : Bool) : (r.wg i x p).flags = r.flags := by unfold Regs.wg; split <;> rfl
@[simp] theorem Regs.wg_lc0 (i : R5) (x : Word) (p : Bool) : (r.wg i x p).lc0 = r.lc0 := by unfold Regs.wg; split <;> rfl
@[simp] theorem Regs.wg_lc1 (i : R5) (x : Word) (p : Bool) : (r.wg i x p).lc1 = r.lc1 := by unfold Regs.wg; split <;> rfl
@[simp] theorem Regs.wg_depth (i : R5) (x : Word) (p : Bool) : (r.wg i x p).depth = r.depth := by unfold Regs.wg; split <;> rfl
@[simp] theorem Regs.wg_ls0 (i : R5) (x : Word) (p : Bool) : (r.wg i x p).ls0 = r.ls0 := by unfold Regs.wg; split <;> rfl
@[simp] theorem Regs.wg_le0 (i : R5) (x : Word) (p : Bool) : (r.wg i x p).le0 = r.le0 := by unfold Regs.wg; split <;> rfl
@[simp] theorem Regs.wg_ls1 (i : R5) (x : Word) (p : Bool) : (r.wg i x p).ls1 = r.ls1 := by unfold Regs.wg; split <;> rfl
@[simp] theorem Regs.wg_le1 (i : R5) (x : Word) (p : Bool) : (r.wg i x p).le1 = r.le1 := by unfold Regs.wg; split <;> rfl
@[simp] theorem Regs.wg_pc (i : R5) (x : Word) (p : Bool) : (r.wg i x p).pc = r.pc := by unfold Regs.wg; split <;> rfl

@[simp] theorem Regs.wm_g (i : R3) (x : Word) : (r.wm i x).g = r.g := by unfold Regs.wm; split <;> rfl
@[simp] theorem Regs.wm_gp (i : R3) (x : Word) : (r.wm i x).gp = r.gp := by unfold Regs.wm; split <;> rfl
@[simp] theorem Regs.wm_v (i : R3) (x : Word) : (r.wm i x).v = r.v := by unfold Regs.wm; split <;> rfl
@[simp] theorem Regs.wm_vp (i : R3) (x : Word) : (r.wm i x).vp = r.vp := by unfold Regs.wm; split <;> rfl
@[simp] theorem Regs.wm_z (i : R3) (x : Word) : (r.wm i x).z = r.z := by unfold Regs.wm; split <;> rfl
@[simp] theorem Regs.wm_k (i : R3) (x : Word) : (r.wm i x).k = r.k := by unfold Regs.wm; split <;> rfl
@[simp] theorem Regs.wm_kp (i : R3) (x : Word) : (r.wm i x).kp = r.kp := by unfold Regs.wm; split <;> rfl
@[simp] theorem Regs.wm_rmode (i : R3) (x : Word) : (r.wm i x).rmode = r.rmode := by unfold Regs.wm; split <;> rfl
@[simp] theorem Regs.wm_flags (i : R3) (x : Word) : (r.wm i x).flags = r.flags := by unfold Regs.wm; split <;> rfl
@[simp] theorem Regs.wm_lc0 (i : R3) (x : Word) : (r.wm i x).lc0 = r.lc0 := by unfold Regs.wm; split <;> rfl
@[simp] theorem Regs.wm_lc1 (i : R3) (x : Word) : (r.wm i x).lc1 = r.lc1 := by unfold Regs.wm; split <;> rfl
@[simp] theorem Regs.wm_depth (i : R3) (x : Word) : (r.wm i x).depth = r.depth := by unfold Regs.wm; split <;> rfl
@[simp] theorem Regs.wm_ls0 (i : R3) (x : Word) : (r.wm i x).ls0 = r.ls0 := by unfold Regs.wm; split <;> rfl
@[simp] theorem Regs.wm_le0 (i : R3) (x : Word) : (r.wm i x).le0 = r.le0 := by unfold Regs.wm; split <;> rfl
@[simp] theorem Regs.wm_ls1 (i : R3) (x : Word) : (r.wm i x).ls1 = r.ls1 := by unfold Regs.wm; split <;> rfl
@[simp] theorem Regs.wm_le1 (i : R3) (x : Word) : (r.wm i x).le1 = r.le1 := by unfold Regs.wm; split <;> rfl
@[simp] theorem Regs.wm_pc (i : R3) (x : Word) : (r.wm i x).pc = r.pc := by unfold Regs.wm; split <;> rfl

@[simp] theorem Regs.wz_g (i : R4) (x : Word) : (r.wz i x).g = r.g := rfl
@[simp] theorem Regs.wz_gp (i : R4) (x : Word) : (r.wz i x).gp = r.gp := rfl
@[simp] theorem Regs.wz_v (i : R4) (x : Word) : (r.wz i x).v = r.v := rfl
@[simp] theorem Regs.wz_vp (i : R4) (x : Word) : (r.wz i x).vp = r.vp := rfl
@[simp] theorem Regs.wz_m (i : R4) (x : Word) : (r.wz i x).m = r.m := rfl
@[simp] theorem Regs.wz_k (i : R4) (x : Word) : (r.wz i x).k = r.k := rfl
@[simp] theorem Regs.wz_kp (i : R4) (x : Word) : (r.wz i x).kp = r.kp := rfl
@[simp] theorem Regs.wz_rmode (i : R4) (x : Word) : (r.wz i x).rmode = r.rmode := rfl
@[simp] theorem Regs.wz_flags (i : R4) (x : Word) : (r.wz i x).flags = r.flags := rfl
@[simp] theorem Regs.wz_lc0 (i : R4) (x : Word) : (r.wz i x).lc0 = r.lc0 := rfl
@[simp] theorem Regs.wz_lc1 (i : R4) (x : Word) : (r.wz i x).lc1 = r.lc1 := rfl
@[simp] theorem Regs.wz_depth (i : R4) (x : Word) : (r.wz i x).depth = r.depth := rfl
@[simp] theorem Regs.wz_ls0 (i : R4) (x : Word) : (r.wz i x).ls0 = r.ls0 := rfl
@[simp] theorem Regs.wz_le0 (i : R4) (x : Word) : (r.wz i x).le0 = r.le0 := rfl
@[simp] theorem Regs.wz_ls1 (i : R4) (x : Word) : (r.wz i x).ls1 = r.ls1 := rfl
@[simp] theorem Regs.wz_le1 (i : R4) (x : Word) : (r.wz i x).le1 = r.le1 := rfl
@[simp] theorem Regs.wz_pc (i : R4) (x : Word) : (r.wz i x).pc = r.pc := rfl

@[simp] theorem Regs.wk_g (i : R3) (x : KWord) (p : Bool) : (r.wk i x p).g = r.g := rfl
@[simp] theorem Regs.wk_gp (i : R3) (x : KWord) (p : Bool) : (r.wk i x p).gp = r.gp := rfl
@[simp] theorem Regs.wk_v (i : R3) (x : KWord) (p : Bool) : (r.wk i x p).v = r.v := rfl
@[simp] theorem Regs.wk_vp (i : R3) (x : KWord) (p : Bool) : (r.wk i x p).vp = r.vp := rfl
@[simp] theorem Regs.wk_m (i : R3) (x : KWord) (p : Bool) : (r.wk i x p).m = r.m := rfl
@[simp] theorem Regs.wk_z (i : R3) (x : KWord) (p : Bool) : (r.wk i x p).z = r.z := rfl
@[simp] theorem Regs.wk_rmode (i : R3) (x : KWord) (p : Bool) : (r.wk i x p).rmode = r.rmode := rfl
@[simp] theorem Regs.wk_flags (i : R3) (x : KWord) (p : Bool) : (r.wk i x p).flags = r.flags := rfl
@[simp] theorem Regs.wk_lc0 (i : R3) (x : KWord) (p : Bool) : (r.wk i x p).lc0 = r.lc0 := rfl
@[simp] theorem Regs.wk_lc1 (i : R3) (x : KWord) (p : Bool) : (r.wk i x p).lc1 = r.lc1 := rfl
@[simp] theorem Regs.wk_depth (i : R3) (x : KWord) (p : Bool) : (r.wk i x p).depth = r.depth := rfl
@[simp] theorem Regs.wk_ls0 (i : R3) (x : KWord) (p : Bool) : (r.wk i x p).ls0 = r.ls0 := rfl
@[simp] theorem Regs.wk_le0 (i : R3) (x : KWord) (p : Bool) : (r.wk i x p).le0 = r.le0 := rfl
@[simp] theorem Regs.wk_ls1 (i : R3) (x : KWord) (p : Bool) : (r.wk i x p).ls1 = r.ls1 := rfl
@[simp] theorem Regs.wk_le1 (i : R3) (x : KWord) (p : Bool) : (r.wk i x p).le1 = r.le1 := rfl
@[simp] theorem Regs.wk_pc (i : R3) (x : KWord) (p : Bool) : (r.wk i x p).pc = r.pc := rfl

@[simp] theorem Regs.wv_g (i : R5) (x : VReg) (p : Word) : (r.wv i x p).g = r.g := rfl
@[simp] theorem Regs.wv_gp (i : R5) (x : VReg) (p : Word) : (r.wv i x p).gp = r.gp := rfl
@[simp] theorem Regs.wv_m (i : R5) (x : VReg) (p : Word) : (r.wv i x p).m = r.m := rfl
@[simp] theorem Regs.wv_z (i : R5) (x : VReg) (p : Word) : (r.wv i x p).z = r.z := rfl
@[simp] theorem Regs.wv_k (i : R5) (x : VReg) (p : Word) : (r.wv i x p).k = r.k := rfl
@[simp] theorem Regs.wv_kp (i : R5) (x : VReg) (p : Word) : (r.wv i x p).kp = r.kp := rfl
@[simp] theorem Regs.wv_rmode (i : R5) (x : VReg) (p : Word) : (r.wv i x p).rmode = r.rmode := rfl
@[simp] theorem Regs.wv_flags (i : R5) (x : VReg) (p : Word) : (r.wv i x p).flags = r.flags := rfl
@[simp] theorem Regs.wv_lc0 (i : R5) (x : VReg) (p : Word) : (r.wv i x p).lc0 = r.lc0 := rfl
@[simp] theorem Regs.wv_lc1 (i : R5) (x : VReg) (p : Word) : (r.wv i x p).lc1 = r.lc1 := rfl
@[simp] theorem Regs.wv_depth (i : R5) (x : VReg) (p : Word) : (r.wv i x p).depth = r.depth := rfl
@[simp] theorem Regs.wv_ls0 (i : R5) (x : VReg) (p : Word) : (r.wv i x p).ls0 = r.ls0 := rfl
@[simp] theorem Regs.wv_le0 (i : R5) (x : VReg) (p : Word) : (r.wv i x p).le0 = r.le0 := rfl
@[simp] theorem Regs.wv_ls1 (i : R5) (x : VReg) (p : Word) : (r.wv i x p).ls1 = r.ls1 := rfl
@[simp] theorem Regs.wv_le1 (i : R5) (x : VReg) (p : Word) : (r.wv i x p).le1 = r.le1 := rfl
@[simp] theorem Regs.wv_pc (i : R5) (x : VReg) (p : Word) : (r.wv i x p).pc = r.pc := rfl

@[simp] theorem Regs.raise_g (f : BitVec 5) : (r.raise f).g = r.g := rfl
@[simp] theorem Regs.raise_gp (f : BitVec 5) : (r.raise f).gp = r.gp := rfl
@[simp] theorem Regs.raise_v (f : BitVec 5) : (r.raise f).v = r.v := rfl
@[simp] theorem Regs.raise_vp (f : BitVec 5) : (r.raise f).vp = r.vp := rfl
@[simp] theorem Regs.raise_m (f : BitVec 5) : (r.raise f).m = r.m := rfl
@[simp] theorem Regs.raise_z (f : BitVec 5) : (r.raise f).z = r.z := rfl
@[simp] theorem Regs.raise_k (f : BitVec 5) : (r.raise f).k = r.k := rfl
@[simp] theorem Regs.raise_kp (f : BitVec 5) : (r.raise f).kp = r.kp := rfl
@[simp] theorem Regs.raise_rmode (f : BitVec 5) : (r.raise f).rmode = r.rmode := rfl
@[simp] theorem Regs.raise_lc0 (f : BitVec 5) : (r.raise f).lc0 = r.lc0 := rfl
@[simp] theorem Regs.raise_lc1 (f : BitVec 5) : (r.raise f).lc1 = r.lc1 := rfl
@[simp] theorem Regs.raise_depth (f : BitVec 5) : (r.raise f).depth = r.depth := rfl
@[simp] theorem Regs.raise_ls0 (f : BitVec 5) : (r.raise f).ls0 = r.ls0 := rfl
@[simp] theorem Regs.raise_le0 (f : BitVec 5) : (r.raise f).le0 = r.le0 := rfl
@[simp] theorem Regs.raise_ls1 (f : BitVec 5) : (r.raise f).ls1 = r.ls1 := rfl
@[simp] theorem Regs.raise_le1 (f : BitVec 5) : (r.raise f).le1 = r.le1 := rfl
@[simp] theorem Regs.raise_pc (f : BitVec 5) : (r.raise f).pc = r.pc := rfl

@[simp] theorem Regs.raise_flags (f : BitVec 5) : (r.raise f).flags = r.flags ||| f := rfl

/-! ### Retirement and transfers change only the loop state and the pc (R163) -/

@[simp] theorem Regs.endChecks_g (p : Word) : (r.endChecks p).g = r.g := by
  unfold Regs.endChecks; dsimp only; repeat' split
  all_goals rfl
@[simp] theorem Regs.endChecks_gp (p : Word) : (r.endChecks p).gp = r.gp := by
  unfold Regs.endChecks; dsimp only; repeat' split
  all_goals rfl
@[simp] theorem Regs.endChecks_v (p : Word) : (r.endChecks p).v = r.v := by
  unfold Regs.endChecks; dsimp only; repeat' split
  all_goals rfl
@[simp] theorem Regs.endChecks_vp (p : Word) : (r.endChecks p).vp = r.vp := by
  unfold Regs.endChecks; dsimp only; repeat' split
  all_goals rfl
@[simp] theorem Regs.endChecks_m (p : Word) : (r.endChecks p).m = r.m := by
  unfold Regs.endChecks; dsimp only; repeat' split
  all_goals rfl
@[simp] theorem Regs.endChecks_z (p : Word) : (r.endChecks p).z = r.z := by
  unfold Regs.endChecks; dsimp only; repeat' split
  all_goals rfl
@[simp] theorem Regs.endChecks_k (p : Word) : (r.endChecks p).k = r.k := by
  unfold Regs.endChecks; dsimp only; repeat' split
  all_goals rfl
@[simp] theorem Regs.endChecks_kp (p : Word) : (r.endChecks p).kp = r.kp := by
  unfold Regs.endChecks; dsimp only; repeat' split
  all_goals rfl
@[simp] theorem Regs.endChecks_rmode (p : Word) : (r.endChecks p).rmode = r.rmode := by
  unfold Regs.endChecks; dsimp only; repeat' split
  all_goals rfl
@[simp] theorem Regs.endChecks_flags (p : Word) : (r.endChecks p).flags = r.flags := by
  unfold Regs.endChecks; dsimp only; repeat' split
  all_goals rfl
@[simp] theorem Regs.endChecks_ls0 (p : Word) : (r.endChecks p).ls0 = r.ls0 := by
  unfold Regs.endChecks; dsimp only; repeat' split
  all_goals rfl
@[simp] theorem Regs.endChecks_le0 (p : Word) : (r.endChecks p).le0 = r.le0 := by
  unfold Regs.endChecks; dsimp only; repeat' split
  all_goals rfl
@[simp] theorem Regs.endChecks_ls1 (p : Word) : (r.endChecks p).ls1 = r.ls1 := by
  unfold Regs.endChecks; dsimp only; repeat' split
  all_goals rfl
@[simp] theorem Regs.endChecks_le1 (p : Word) : (r.endChecks p).le1 = r.le1 := by
  unfold Regs.endChecks; dsimp only; repeat' split
  all_goals rfl

@[simp] theorem Regs.transfer_g (t : Word) : (r.transfer t).g = r.g := rfl
@[simp] theorem Regs.transfer_gp (t : Word) : (r.transfer t).gp = r.gp := rfl
@[simp] theorem Regs.transfer_v (t : Word) : (r.transfer t).v = r.v := rfl
@[simp] theorem Regs.transfer_vp (t : Word) : (r.transfer t).vp = r.vp := rfl
@[simp] theorem Regs.transfer_m (t : Word) : (r.transfer t).m = r.m := rfl
@[simp] theorem Regs.transfer_z (t : Word) : (r.transfer t).z = r.z := rfl
@[simp] theorem Regs.transfer_k (t : Word) : (r.transfer t).k = r.k := rfl
@[simp] theorem Regs.transfer_kp (t : Word) : (r.transfer t).kp = r.kp := rfl
@[simp] theorem Regs.transfer_rmode (t : Word) : (r.transfer t).rmode = r.rmode := rfl
@[simp] theorem Regs.transfer_flags (t : Word) : (r.transfer t).flags = r.flags := rfl
@[simp] theorem Regs.transfer_lc0 (t : Word) : (r.transfer t).lc0 = r.lc0 := rfl
@[simp] theorem Regs.transfer_lc1 (t : Word) : (r.transfer t).lc1 = r.lc1 := rfl
@[simp] theorem Regs.transfer_ls0 (t : Word) : (r.transfer t).ls0 = r.ls0 := rfl
@[simp] theorem Regs.transfer_le0 (t : Word) : (r.transfer t).le0 = r.le0 := rfl
@[simp] theorem Regs.transfer_ls1 (t : Word) : (r.transfer t).ls1 = r.ls1 := rfl
@[simp] theorem Regs.transfer_le1 (t : Word) : (r.transfer t).le1 = r.le1 := rfl
@[simp] theorem Regs.transfer_pc (t : Word) : (r.transfer t).pc = t := rfl

/-! ### Register files after a write (R37, R121, R155, R182) -/

theorem Regs.rg_wg (i j : R5) (x : Word) (p : Bool) :
    (r.wg i x p).rg j = if j = i ∧ i ≠ 0 then x else r.rg j := by
  unfold Regs.wg
  by_cases hi : i = 0
  · rw [if_pos hi, if_neg (fun h => h.2 hi)]
  rw [if_neg hi]
  unfold Regs.rg
  by_cases hj : j = 0
  · rw [if_pos hj, if_neg (fun (h : j = i ∧ i ≠ 0) => hi (h.1 ▸ hj)), if_pos hj]
  rw [if_neg hj, if_neg hj]
  by_cases h : j = i
  · rw [if_pos ⟨h, hi⟩]; subst h; simp
  · have e : i.toNat ≠ j.toNat := fun e => h (BitVec.eq_of_toNat_eq e.symm)
    rw [if_neg (fun c => h c.1)]; simp [e]

@[simp] theorem Regs.rg_zero : r.rg 0 = 0 := by simp [Regs.rg]
@[simp] theorem Regs.rgp_zero : r.rgp 0 = false := by simp [Regs.rgp]

/-- A bit of a vector after one bit is put. -/
theorem getLsbD_putBit {n : Nat} (x : BitVec n) (i j : Nat) (b : Bool) (h : j < n) :
    (putBit x i b).getLsbD j = if j = i then b else x.getLsbD j := by
  have one : (1#n <<< i).getLsbD j = decide (j = i) := by
    rw [BitVec.getLsbD_shiftLeft, BitVec.getLsbD_one]
    by_cases e : j = i
    · subst e; simp [h]; omega
    · by_cases l : j < i
      · simp [l, e]
      · have : j - i ≠ 0 := by omega
        simp [e, this]
  unfold putBit
  cases b
  · rw [if_neg Bool.false_ne_true, BitVec.getLsbD_and, BitVec.getLsbD_not, one]
    by_cases e : j = i <;> simp [h, e]
  · rw [if_pos rfl, BitVec.getLsbD_or, one]
    by_cases e : j = i <;> simp [h, e]

theorem Regs.rgp_wg (i j : R5) (x : Word) (p : Bool) :
    (r.wg i x p).rgp j = if j = i ∧ i ≠ 0 then p else r.rgp j := by
  unfold Regs.wg
  by_cases hi : i = 0
  · rw [if_pos hi, if_neg (fun h => h.2 hi)]
  rw [if_neg hi]
  unfold Regs.rgp
  have hl : j.toNat < 32 := j.isLt
  rw [getLsbD_putBit _ _ _ _ hl]
  by_cases h : j = i
  · subst h; rw [if_pos rfl, if_pos ⟨rfl, hi⟩]; simpa using fun _ => hi
  · have e : j.toNat ≠ i.toNat := fun e => h (BitVec.eq_of_toNat_eq e)
    rw [if_neg e, if_neg (fun c => h c.1)]

theorem Regs.rm_wm (i j : R3) (x : Word) : (r.wm i x).rm j = if j = i ∧ i ≠ 0 then x else r.rm j := by
  unfold Regs.wm
  by_cases hi : i = 0
  · rw [if_pos hi, if_neg (fun h => h.2 hi)]
  rw [if_neg hi]
  unfold Regs.rm
  by_cases hj : j = 0
  · rw [if_pos hj, if_neg (fun (h : j = i ∧ i ≠ 0) => hi (h.1 ▸ hj)), if_pos hj]
  rw [if_neg hj, if_neg hj]
  by_cases h : j = i
  · rw [if_pos ⟨h, hi⟩]; subst h; simp
  · have e : i.toNat ≠ j.toNat := fun e => h (BitVec.eq_of_toNat_eq e.symm)
    rw [if_neg (fun c => h c.1)]; simp [e]
@[simp] theorem Regs.rm_zero : r.rm 0 = BitVec.allOnes 64 := by simp [Regs.rm]

theorem Regs.rz_wz (i j : R4) (x : Word) : (r.wz i x).rz j = if j = i then x else r.rz j := by
  unfold Regs.wz Regs.rz
  by_cases h : j = i
  · subst h; simp
  · have : i.toNat ≠ j.toNat := fun e => h (BitVec.eq_of_toNat_eq e.symm)
    simp [h, this]

theorem Regs.rk_wk (i j : R3) (x : KWord) (p : Bool) : (r.wk i x p).rk j = if j = i then x else r.rk j := by
  unfold Regs.wk Regs.rk
  by_cases h : j = i
  · subst h; simp
  · have : i.toNat ≠ j.toNat := fun e => h (BitVec.eq_of_toNat_eq e.symm)
    simp [h, this]
theorem Regs.rkp_wk (i j : R3) (x : KWord) (p : Bool) : (r.wk i x p).rkp j = if j = i then p else r.rkp j := by
  unfold Regs.wk Regs.rkp
  have hl : j.toNat < 8 := j.isLt
  rw [getLsbD_putBit _ _ _ _ hl]
  by_cases h : j = i
  · subst h; simp
  · have : j.toNat ≠ i.toNat := fun e => h (BitVec.eq_of_toNat_eq e)
    simp [h, this]

theorem Regs.rv_wv (i j : R5) (x : VReg) (p : Word) : (r.wv i x p).rv j = if j = i then x else r.rv j := by
  unfold Regs.wv Regs.rv
  by_cases h : j = i
  · subst h; simp
  · have : i.toNat ≠ j.toNat := fun e => h (BitVec.eq_of_toNat_eq e.symm)
    simp [h, this]
theorem Regs.rvp_wv (i j : R5) (x : VReg) (p : Word) : (r.wv i x p).rvp j = if j = i then p else r.rvp j := by
  unfold Regs.wv Regs.rvp
  by_cases h : j = i
  · subst h; simp
  · have : i.toNat ≠ j.toNat := fun e => h (BitVec.eq_of_toNat_eq e.symm)
    simp [h, this]

/-! ### Reads that other writes leave alone -/

@[simp] theorem Regs.rg_wm (i : R3) (x : Word) (j : R5) : (r.wm i x).rg j = r.rg j := by simp [Regs.rg]
@[simp] theorem Regs.rg_wz (i : R4) (x : Word) (j : R5) : (r.wz i x).rg j = r.rg j := by simp [Regs.rg]
@[simp] theorem Regs.rg_wk (i : R3) (x : KWord) (p : Bool) (j : R5) : (r.wk i x p).rg j = r.rg j := by simp [Regs.rg]
@[simp] theorem Regs.rg_wv (i : R5) (x : VReg) (p : Word) (j : R5) : (r.wv i x p).rg j = r.rg j := by simp [Regs.rg]
@[simp] theorem Regs.rg_raise (f : BitVec 5) (j : R5) : (r.raise f).rg j = r.rg j := by simp [Regs.rg]
@[simp] theorem Regs.rg_endChecks (p : Word) (j : R5) : (r.endChecks p).rg j = r.rg j := by simp [Regs.rg]
@[simp] theorem Regs.rg_transfer (t : Word) (j : R5) : (r.transfer t).rg j = r.rg j := by simp [Regs.rg]
@[simp] theorem Regs.rgp_wm (i : R3) (x : Word) (j : R5) : (r.wm i x).rgp j = r.rgp j := by simp [Regs.rgp]
@[simp] theorem Regs.rgp_wz (i : R4) (x : Word) (j : R5) : (r.wz i x).rgp j = r.rgp j := by simp [Regs.rgp]
@[simp] theorem Regs.rgp_wk (i : R3) (x : KWord) (p : Bool) (j : R5) : (r.wk i x p).rgp j = r.rgp j := by simp [Regs.rgp]
@[simp] theorem Regs.rgp_wv (i : R5) (x : VReg) (p : Word) (j : R5) : (r.wv i x p).rgp j = r.rgp j := by simp [Regs.rgp]
@[simp] theorem Regs.rgp_raise (f : BitVec 5) (j : R5) : (r.raise f).rgp j = r.rgp j := by simp [Regs.rgp]
@[simp] theorem Regs.rgp_endChecks (p : Word) (j : R5) : (r.endChecks p).rgp j = r.rgp j := by simp [Regs.rgp]
@[simp] theorem Regs.rgp_transfer (t : Word) (j : R5) : (r.transfer t).rgp j = r.rgp j := by simp [Regs.rgp]
@[simp] theorem Regs.rm_wg (i : R5) (x : Word) (p : Bool) (j : R3) : (r.wg i x p).rm j = r.rm j := by simp [Regs.rm]
@[simp] theorem Regs.rm_wz (i : R4) (x : Word) (j : R3) : (r.wz i x).rm j = r.rm j := by simp [Regs.rm]
@[simp] theorem Regs.rm_wk (i : R3) (x : KWord) (p : Bool) (j : R3) : (r.wk i x p).rm j = r.rm j := by simp [Regs.rm]
@[simp] theorem Regs.rm_wv (i : R5) (x : VReg) (p : Word) (j : R3) : (r.wv i x p).rm j = r.rm j := by simp [Regs.rm]
@[simp] theorem Regs.rm_raise (f : BitVec 5) (j : R3) : (r.raise f).rm j = r.rm j := by simp [Regs.rm]
@[simp] theorem Regs.rm_endChecks (p : Word) (j : R3) : (r.endChecks p).rm j = r.rm j := by simp [Regs.rm]
@[simp] theorem Regs.rm_transfer (t : Word) (j : R3) : (r.transfer t).rm j = r.rm j := by simp [Regs.rm]
@[simp] theorem Regs.rz_wg (i : R5) (x : Word) (p : Bool) (j : R4) : (r.wg i x p).rz j = r.rz j := by simp [Regs.rz]
@[simp] theorem Regs.rz_wm (i : R3) (x : Word) (j : R4) : (r.wm i x).rz j = r.rz j := by simp [Regs.rz]
@[simp] theorem Regs.rz_wk (i : R3) (x : KWord) (p : Bool) (j : R4) : (r.wk i x p).rz j = r.rz j := by simp [Regs.rz]
@[simp] theorem Regs.rz_wv (i : R5) (x : VReg) (p : Word) (j : R4) : (r.wv i x p).rz j = r.rz j := by simp [Regs.rz]
@[simp] theorem Regs.rz_raise (f : BitVec 5) (j : R4) : (r.raise f).rz j = r.rz j := by simp [Regs.rz]
@[simp] theorem Regs.rz_endChecks (p : Word) (j : R4) : (r.endChecks p).rz j = r.rz j := by simp [Regs.rz]
@[simp] theorem Regs.rz_transfer (t : Word) (j : R4) : (r.transfer t).rz j = r.rz j := by simp [Regs.rz]
@[simp] theorem Regs.rk_wg (i : R5) (x : Word) (p : Bool) (j : R3) : (r.wg i x p).rk j = r.rk j := by simp [Regs.rk]
@[simp] theorem Regs.rk_wm (i : R3) (x : Word) (j : R3) : (r.wm i x).rk j = r.rk j := by simp [Regs.rk]
@[simp] theorem Regs.rk_wz (i : R4) (x : Word) (j : R3) : (r.wz i x).rk j = r.rk j := by simp [Regs.rk]
@[simp] theorem Regs.rk_wv (i : R5) (x : VReg) (p : Word) (j : R3) : (r.wv i x p).rk j = r.rk j := by simp [Regs.rk]
@[simp] theorem Regs.rk_raise (f : BitVec 5) (j : R3) : (r.raise f).rk j = r.rk j := by simp [Regs.rk]
@[simp] theorem Regs.rk_endChecks (p : Word) (j : R3) : (r.endChecks p).rk j = r.rk j := by simp [Regs.rk]
@[simp] theorem Regs.rk_transfer (t : Word) (j : R3) : (r.transfer t).rk j = r.rk j := by simp [Regs.rk]
@[simp] theorem Regs.rkp_wg (i : R5) (x : Word) (p : Bool) (j : R3) : (r.wg i x p).rkp j = r.rkp j := by simp [Regs.rkp]
@[simp] theorem Regs.rkp_wm (i : R3) (x : Word) (j : R3) : (r.wm i x).rkp j = r.rkp j := by simp [Regs.rkp]
@[simp] theorem Regs.rkp_wz (i : R4) (x : Word) (j : R3) : (r.wz i x).rkp j = r.rkp j := by simp [Regs.rkp]
@[simp] theorem Regs.rkp_wv (i : R5) (x : VReg) (p : Word) (j : R3) : (r.wv i x p).rkp j = r.rkp j := by simp [Regs.rkp]
@[simp] theorem Regs.rkp_raise (f : BitVec 5) (j : R3) : (r.raise f).rkp j = r.rkp j := by simp [Regs.rkp]
@[simp] theorem Regs.rkp_endChecks (p : Word) (j : R3) : (r.endChecks p).rkp j = r.rkp j := by simp [Regs.rkp]
@[simp] theorem Regs.rkp_transfer (t : Word) (j : R3) : (r.transfer t).rkp j = r.rkp j := by simp [Regs.rkp]
@[simp] theorem Regs.rv_wg (i : R5) (x : Word) (p : Bool) (j : R5) : (r.wg i x p).rv j = r.rv j := by simp [Regs.rv]
@[simp] theorem Regs.rv_wm (i : R3) (x : Word) (j : R5) : (r.wm i x).rv j = r.rv j := by simp [Regs.rv]
@[simp] theorem Regs.rv_wz (i : R4) (x : Word) (j : R5) : (r.wz i x).rv j = r.rv j := by simp [Regs.rv]
@[simp] theorem Regs.rv_wk (i : R3) (x : KWord) (p : Bool) (j : R5) : (r.wk i x p).rv j = r.rv j := by simp [Regs.rv]
@[simp] theorem Regs.rv_raise (f : BitVec 5) (j : R5) : (r.raise f).rv j = r.rv j := by simp [Regs.rv]
@[simp] theorem Regs.rv_endChecks (p : Word) (j : R5) : (r.endChecks p).rv j = r.rv j := by simp [Regs.rv]
@[simp] theorem Regs.rv_transfer (t : Word) (j : R5) : (r.transfer t).rv j = r.rv j := by simp [Regs.rv]
@[simp] theorem Regs.rvp_wg (i : R5) (x : Word) (p : Bool) (j : R5) : (r.wg i x p).rvp j = r.rvp j := by simp [Regs.rvp]
@[simp] theorem Regs.rvp_wm (i : R3) (x : Word) (j : R5) : (r.wm i x).rvp j = r.rvp j := by simp [Regs.rvp]
@[simp] theorem Regs.rvp_wz (i : R4) (x : Word) (j : R5) : (r.wz i x).rvp j = r.rvp j := by simp [Regs.rvp]
@[simp] theorem Regs.rvp_wk (i : R3) (x : KWord) (p : Bool) (j : R5) : (r.wk i x p).rvp j = r.rvp j := by simp [Regs.rvp]
@[simp] theorem Regs.rvp_raise (f : BitVec 5) (j : R5) : (r.raise f).rvp j = r.rvp j := by simp [Regs.rvp]
@[simp] theorem Regs.rvp_endChecks (p : Word) (j : R5) : (r.endChecks p).rvp j = r.rvp j := by simp [Regs.rvp]
@[simp] theorem Regs.rvp_transfer (t : Word) (j : R5) : (r.transfer t).rvp j = r.rvp j := by simp [Regs.rvp]

end Sys2Proof.Machine
end

