-- ==== Sys2Proof/Laws/Ops.lean ====
section
/-! SUPPORT. What each shared operation of Machine/Ops.lean, Machine/Branch.lean and Machine/LoadStore.lean can do, and what
an access does at the forwarding table, said once: proofs about instructions cite these and do not unfold the operation. -/

namespace Sys2Proof.Machine

/-! ### Retirement (R163) -/

/-- The state after an instruction that changes only registers has retired. -/
def State.retired (s : State) (f : Regs → Regs) : State := s.mapRegs fun r => (f r).endChecks (f r).pc

theorem retire_eq (s : State) : retire s = .next (s.retired id) := rfl
theorem finish_eq (s : State) (f : Regs → Regs) : finish s f = .next (s.retired f) := rfl

@[simp] theorem State.retired_regs (s : State) (f : Regs → Regs) :
    (s.retired f).regs = (f s.regs).endChecks (f s.regs).pc := rfl
@[simp] theorem State.retired_mem (s : State) (f : Regs → Regs) : (s.retired f).mem = s.mem := rfl
@[simp] theorem State.retired_mpoison (s : State) (f : Regs → Regs) : (s.retired f).mpoison = s.mpoison := rfl
@[simp] theorem State.retired_bays (s : State) (f : Regs → Regs) : (s.retired f).bays = s.bays := rfl
@[simp] theorem State.retired_fields (s : State) (f : Regs → Regs) : (s.retired f).fields = s.fields := rfl
@[simp] theorem State.retired_insts (s : State) (f : Regs → Regs) : (s.retired f).insts = s.insts := rfl
@[simp] theorem State.retired_tenants (s : State) (f : Regs → Regs) : (s.retired f).tenants = s.tenants := rfl
@[simp] theorem State.retired_samplep (s : State) (f : Regs → Regs) : (s.retired f).samplep = s.samplep := rfl
@[simp] theorem State.retired_modnum (s : State) (f : Regs → Regs) : (s.retired f).modnum = s.modnum := rfl
@[simp] theorem State.retired_status (s : State) (f : Regs → Regs) : (s.retired f).fir.status = s.fir.status := rfl
@[simp] theorem State.retired_region (s : State) (f : Regs → Regs) : (s.retired f).fir.region = s.fir.region := rfl

/-- Outside a loop body, retirement moves the pc to the next word. -/
theorem Regs.endChecks_straight (r : Regs) (p : Word) (h : r.depth = 0) : (r.endChecks p) = { r with pc := p + 4 } := by
  unfold Regs.endChecks; simp [h]

/-! ### Faults (R107, R152, R258) -/

theorem takeFault_eq (code : Nat) (faddr : Word) (s : State) : takeFault code faddr s = .next (s.faultAt code faddr) := rfl

/-- A report keeps a first fault and counts later ones; it changes nothing but the fields. -/
theorem State.report_eq (s : State) (f : Nat) (r : FaultRec) : ∃ l, s.report f r = { s with fields := l } := by
  unfold State.report
  split
  · exact ⟨s.fields, rfl⟩
  · split
    · exact ⟨_, rfl⟩
    · exact ⟨_, rfl⟩

/-- A fault of a bay changes the bay that took it and the fields, nothing else. -/
theorem State.bayFault_eq (s : State) (b f i code : Nat) (epc faddr : Word) :
    ∃ l, s.bayFault b f i code epc faddr = { s with
      fields := l
      bays := tput b { s.bay b with cause := BitVec.ofNat 8 code, epc := epc, faddr := faddr, faulted := true } s.bays } := by
  unfold State.bayFault
  obtain ⟨l, hl⟩ := State.report_eq (s.modBay b fun x =>
    { x with cause := BitVec.ofNat 8 code, epc := epc, faddr := faddr, faulted := true }) f
    ⟨BitVec.ofNat 8 code, faddr, epc, (match s.inst? f i with | some x => x.node | none => 0), i, b, false⟩
  exact ⟨l, hl⟩

/-- Taking an exception: CAUSE, EPC and FADDR of the firing's bay, the end of the firing and the report, and nothing
else. -/
theorem State.faultAt_eq (s : State) (code : Nat) (faddr : Word) :
    ∃ l, s.faultAt code faddr = { s with
      fields := l
      bays := tput s.fir.bay { s.bay s.fir.bay with
        cause := BitVec.ofNat 8 code, epc := s.fir.regs.pc, faddr := faddr, faulted := true } s.bays
      fir := { s.fir with status := .ended, slot := false, region := none } } := by
  unfold State.faultAt
  obtain ⟨l, hl⟩ := State.bayFault_eq s s.fir.bay s.fir.field s.fir.inst code s.fir.regs.pc faddr
  exact ⟨l, by dsimp only; rw [hl]⟩

@[simp] theorem State.faultAt_mem (s : State) (c : Nat) (a : Word) : (s.faultAt c a).mem = s.mem := by
  obtain ⟨l, h⟩ := State.faultAt_eq s c a; rw [h]
@[simp] theorem State.faultAt_mpoison (s : State) (c : Nat) (a : Word) : (s.faultAt c a).mpoison = s.mpoison := by
  obtain ⟨l, h⟩ := State.faultAt_eq s c a; rw [h]
@[simp] theorem State.faultAt_regs (s : State) (c : Nat) (a : Word) : (s.faultAt c a).regs = s.regs := by
  obtain ⟨l, h⟩ := State.faultAt_eq s c a; rw [h]; rfl
@[simp] theorem State.faultAt_status (s : State) (c : Nat) (a : Word) : (s.faultAt c a).fir.status = .ended := by
  obtain ⟨l, h⟩ := State.faultAt_eq s c a; rw [h]
theorem State.faultAt_bay (s : State) (c : Nat) (a : Word) : (s.faultAt c a).bay s.fir.bay =
    { s.bay s.fir.bay with cause := BitVec.ofNat 8 c, epc := s.regs.pc, faddr := a, faulted := true } := by
  obtain ⟨l, h⟩ := State.faultAt_eq s c a; rw [h]; unfold State.bay tgetD; simp; rfl

/-! ### What a faulting access leaves cached (R48, R51) -/

/-- Keeping what the accesses of a unit have cached changes its caches alone. -/
theorem State.keeping_eq (s : State) (f : Flt) : ∃ l q tlb walks, s.keeping f =
    { s with bays := l, seqCache := q, tlb := tlb, walks := walks } := by
  unfold State.keeping
  cases f.kept with
  | none => exact ⟨s.bays, s.seqCache, s.tlb, s.walks, rfl⟩
  | some k =>
    simp only [Option.elim]
    unfold State.keep
    cases k.hcache with
    | none => exact ⟨s.bays, _, _, _, rfl⟩
    | some x => exact ⟨_, _, _, _, rfl⟩
@[simp] theorem State.keeping_fir (s : State) (f : Flt) : (s.keeping f).fir = s.fir := by
  obtain ⟨l, q, t, w, h⟩ := s.keeping_eq f; rw [h]
@[simp] theorem State.keeping_mem (s : State) (f : Flt) : (s.keeping f).mem = s.mem := by
  obtain ⟨l, q, t, w, h⟩ := s.keeping_eq f; rw [h]
@[simp] theorem State.keeping_mpoison (s : State) (f : Flt) : (s.keeping f).mpoison = s.mpoison := by
  obtain ⟨l, q, t, w, h⟩ := s.keeping_eq f; rw [h]
@[simp] theorem State.keeping_fields (s : State) (f : Flt) : (s.keeping f).fields = s.fields := by
  obtain ⟨l, q, t, w, h⟩ := s.keeping_eq f; rw [h]
@[simp] theorem State.keeping_insts (s : State) (f : Flt) : (s.keeping f).insts = s.insts := by
  obtain ⟨l, q, t, w, h⟩ := s.keeping_eq f; rw [h]
@[simp] theorem State.keeping_tenants (s : State) (f : Flt) : (s.keeping f).tenants = s.tenants := by
  obtain ⟨l, q, t, w, h⟩ := s.keeping_eq f; rw [h]
@[simp] theorem State.keeping_regs (s : State) (f : Flt) : (s.keeping f).regs = s.regs := by
  unfold State.regs; rw [State.keeping_fir]
/-- A bay keeps everything but its cached handle entries. -/
theorem State.keeping_bay (s : State) (f : Flt) (b : Nat) : ∃ hc, (s.keeping f).bay b = { s.bay b with hcache := hc } := by
  unfold State.keeping
  cases f.kept with
  | none => exact ⟨(s.bay b).hcache, rfl⟩
  | some k =>
    simp only [Option.elim]
    unfold State.keep
    cases k.hcache with
    | none => exact ⟨(s.bay b).hcache, rfl⟩
    | some x =>
      refine ⟨if b = x.1 then x.2 else (s.bay b).hcache, ?_⟩
      show (s.modBay x.1 fun y => { y with hcache := x.2 }).bay b = _
      rw [State.bay_modBay]
      by_cases e : b = x.1
      · simp [e]
      · simp [e]

/-! ### Idempotent regions (R177) -/

theorem outsideRegion_closed (i : Instr) (s : State) (k : State → Out) (h : s.fir.region = none) :
    outsideRegion i s k = k s := by unfold outsideRegion; simp [h]
theorem outsideRegion_open (i : Instr) (s : State) (k : State → Out) (h : s.fir.region.isSome = true) :
    outsideRegion i s k = wordFault 0x11 i s := by unfold outsideRegion; simp [h]
theorem storeAllowed_closed (p : Word) (i : Instr) (s : State) (k : State → Out) (h : s.fir.region = none) :
    storeAllowed p i s k = k s := by unfold storeAllowed; simp [h]

/-! ### Transfers (R160, R162, R163) -/

theorem jumpTo_in (t : Word) (s : State) (link : Regs → Regs) (h : s.inCode t = true) :
    jumpTo t s link = .next (s.mapRegs fun r => (link r).transfer t) := by unfold jumpTo; simp [h]
theorem jumpTo_out (t : Word) (s : State) (link : Regs → Regs) (h : s.inCode t = false) :
    jumpTo t s link = takeFault 0x01 t s := by unfold jumpTo; simp [h]
theorem branch_taken (c : Word → Word → Bool) (a b : R5) (off : BitVec 16) (s : State)
    (h : c (s.regs.rg a) (s.regs.rg b) = true) : branch c a b off s = jumpTo (target s off.toInt) s id := by
  unfold branch; simp [h]
theorem branch_not (c : Word → Word → Bool) (a b : R5) (off : BitVec 16) (s : State)
    (h : c (s.regs.rg a) (s.regs.rg b) = false) : branch c a b off s = retire s := by
  unfold branch; simp [h]

/-! ### Loads and stores (R167) -/

/-- A load whose bytes have been read goes on with them. -/
theorem loadThen_ok (s s' : State) (p q : Word) (off : Int) (n : Nat) (k : State → List (Byte × Bool) → Out)
    (l : List (Byte × Bool)) (hq : movePtr p off = .ok q) (hl : s.load s.firCtx q n = .ok s' l) :
    loadThen s p off n k = k s' l := by unfold loadThen; simp [hq, hl]
theorem loadThen_flt (s : State) (p q : Word) (off : Int) (n : Nat) (k : State → List (Byte × Bool) → Out) (f : Flt)
    (hq : movePtr p off = .ok q) (hl : s.load s.firCtx q n = .flt f) :
    loadThen s p off n k = memFault true f s := by unfold loadThen; simp [hq, hl]
theorem storeThen_ok (s s' : State) (p q : Word) (off : Int) (bs : List (Byte × Bool))
    (hq : movePtr p off = .ok q) (hl : s.store s.firCtx q bs = .ok s') :
    storeThen s p off bs = retire s' := by unfold storeThen; simp [hq, hl]
theorem storeThen_flt (s : State) (p q : Word) (off : Int) (bs : List (Byte × Bool)) (f : Flt)
    (hq : movePtr p off = .ok q) (hl : s.store s.firCtx q bs = .flt f) :
    storeThen s p off bs = memFault false f s := by unfold storeThen; simp [hq, hl]
/-- Every fault of a store is taken, with what its accesses have cached (R48, R51, R152). -/
theorem memFault_store (f : Flt) (s : State) : memFault false f s = takeFault f.code f.faddr (s.keeping f) := rfl

/-- A bound pointer keeps its handle (R165). -/
theorem ptrH_mkPtr (h off : Nat) (hh : h < 4096) : ptrH (mkPtr h off) = h := by
  unfold ptrH mkPtr
  have : off % 2 ^ 52 < 2 ^ 52 := Nat.mod_lt _ (by decide)
  rw [BitVec.toNat_ofNat, Nat.shiftRight_eq_div_pow]
  omega
theorem ptrOff_mkPtr (h off : Nat) (_hh : h < 4096) (ho : off < 2 ^ 52) : ptrOff (mkPtr h off) = off := by
  unfold ptrOff mkPtr
  rw [BitVec.toNat_ofNat]
  omega

/-! ### Held stores (R61) -/

@[simp] theorem State.hold_mem (s : State) (b a h : Nat) (l : List Seg) (bs : List (Byte × Bool)) :
    (s.hold b a h l bs).mem = s.mem := rfl
@[simp] theorem State.hold_mpoison (s : State) (b a h : Nat) (l : List Seg) (bs : List (Byte × Bool)) :
    (s.hold b a h l bs).mpoison = s.mpoison := rfl
@[simp] theorem State.hold_fir (s : State) (b a h : Nat) (l : List Seg) (bs : List (Byte × Bool)) :
    (s.hold b a h l bs).fir = s.fir := rfl
@[simp] theorem State.hold_pairs (s : State) (b a h : Nat) (l : List Seg) (bs : List (Byte × Bool)) :
    (s.hold b a h l bs).pairs = s.pairs := rfl

/-- Everything a store that has its address can do: wait for a full table, stand in it, or be performed. -/
theorem State.issueStore_cases (s : State) (c : Ctx) (h : Nat) (l : List Seg) (bs : List (Byte × Bool)) :
    (Config.forwardSize ≤ (s.bay c.bay).fwd.length ∧ s.issueStore c h l bs = .wait s)
      ∨ (s.sbBlocks c l = true ∧ s.issueStore c h l bs = .ok (s.hold c.bay s.fir.actor h l bs))
      ∨ (∃ t, s.writeOpen c l bs = .wait t ∧ s.issueStore c h l bs = .ok (t.hold c.bay t.fir.actor h l bs))
      ∨ (∃ t, s.writeOpen c l bs = .ok t ∧ s.issueStore c h l bs = .ok t) := by
  unfold State.issueStore
  split
  · exact .inl ⟨‹_›, rfl⟩
  · split
    · exact .inr (.inl ⟨‹_›, rfl⟩)
    · have hw : ∀ f, s.writeOpen c l bs ≠ .flt f := by
        intro f; unfold State.writeOpen; split
        · nofun
        · split <;> nofun
      split
      · exact .inr (.inr (.inl ⟨_, ‹_›, rfl⟩))
      · cases hr : s.writeOpen c l bs with
        | ok t => exact .inr (.inr (.inr ⟨t, rfl, rfl⟩))
        | wait t => simp_all
        | flt f => exact absurd hr (hw f)

/-- A load behind no held store of its firing reads memory, or waits. -/
theorem State.readVia_clear (s : State) (c : Ctx) (l : List Seg)
    (h : laps ((s.ownHeld c).flatMap fun e => asSegs e.segs) l = false) :
    s.readVia c l = if s.sbBlocks c l then .wait s else s.readOpen c l := by simp [State.readVia, h]

/-! ### Rails (R335) -/

/-- A rail commanded anew starts from where it stands. -/
theorem Island.command_railPos (x : Island) (now code : Nat) : (x.command now code).railPos now = x.railPos now := by
  unfold Island.command
  generalize x.railPos now = p
  simp only [Island.railPos, Nat.sub_self, Nat.add_zero, Nat.sub_zero]
  split
  · exact Nat.min_eq_right ‹_›
  · exact Nat.max_eq_right (by omega)

end Sys2Proof.Machine
end

