-- ==== Sys2Proof/Tests/Slice0.lean ====
section
/-! SUPPORT. Tests: ill-formed terms refused, words written out from the spec's encodings, one-step checks with results worked
out by hand, and for the statements a state and operands that meet their hypotheses. -/

namespace Sys2Proof.Tests

open Sys2Proof Sys2Proof.Machine Sys2Proof.Claims

set_option Elab.async false

/-! ### Ill-formed terms are refused -/

theorem test_wf_mtc_read_only : (Instr.mtc .cause 1).wf = false := by decide
theorem test_wf_mtc_slicemin : (Instr.mtc .slicemin 1).wf = false := by decide
theorem test_wf_ldx_dbl : (Instr.ldx .dbl 1 2 0).wf = false := by decide
theorem test_wf_compare_m0 : (Instr.vceq .i32 0 1 2 0).wf = false := by decide
theorem test_wf_float_compare_m0 : (Instr.vcflt .f32 0 1 2 0).wf = false := by decide
theorem test_wf_mask_m0 : (Instr.mand 0 1 2 0).wf = false ∧ (Instr.mnot 0 1 0).wf = false := by decide
theorem test_wf_t5_group : (Instr.t5pk 1 2 5 0).wf = false ∧ (Instr.t5cnt 1 2 4 0).wf = true := by decide
theorem test_wf_bay : (Instr.fireActor 2048).wf = false ∧ (Instr.coll 2047).wf = true := by decide
theorem test_wf_engine_port : (Instr.nopc 0 0x2D).wf = false ∧ (Instr.commandComplete 2048 0x20).wf = false := by decide
theorem test_wf_load_element : (Instr.lds 0 0x24).wf = false := by decide
theorem test_wf_store_element : (Instr.sts 0 0x23).wf = false ∧ (Instr.sct 0 0x28).wf = false := by decide
theorem test_wf_upds_port : (Instr.upds 0 0x29).wf = false ∧ (Instr.upds 0 0x2A).wf = true := by decide
theorem test_wf_slice : (Instr.batchTimeout 1024).wf = false ∧ (Instr.sweep 1024 0).wf = false := by decide
theorem test_wf_island : (Instr.ratioApply 512).wf = false := by decide
theorem test_wf_tenant_zero : (Instr.partitionRemove 0).wf = false ∧ (Instr.precmdStop 0).wf = false := by decide
theorem test_wf_link_port : (Instr.linkRetrain 18).wf = false := by decide
theorem test_wf_module_number : (Instr.moduleNumberAssign 320).wf = false := by decide

/-! ### Words, field by field as R109-R116 lay them out -/

theorem test_decode_nop : decode 0 = .ok .nop ∧ (decode 0x00200000).toOption = none := by decide
-- SA: major, d, a, b, MOD, minor
theorem test_decode_add : decode (0b000001#6 ++ 3#5 ++ 1#5 ++ 2#5 ++ 0#5 ++ 0b000000#6) = .ok (.add 3 1 2) := by decide
theorem test_decode_srai : decode (0b000001#6 ++ 4#5 ++ 5#5 ++ 3#5 ++ 1#5 ++ 0b001011#6) = .ok (.srai 4 5 35) := by decide
theorem test_decode_addh : decode (0b000001#6 ++ 3#5 ++ 1#5 ++ 2#5 ++ 0#5 ++ 0b100001#6) = .ok (.addh 3 1 2) := by decide
theorem test_decode_mfc : decode (0b000000#6 ++ 5#5 ++ 0b0000001011#10 ++ 0#5 ++ 0b000100#6) = .ok (.mfc 5 .cyc) := by decide
theorem test_decode_mtc : decode (0b000000#6 ++ 5#5 ++ 0b0000001001#10 ++ 0#5 ++ 0b000101#6) = .ok (.mtc .rmode 5) := by decide
theorem test_decode_mtc_read_only :
    (decode (0b000000#6 ++ 5#5 ++ 0b0000000110#10 ++ 0#5 ++ 0b000101#6)).toOption = none := by decide
theorem test_decode_fence : decode (0b000000#6 ++ 0#5 ++ 0#5 ++ 0#5 ++ 5#5 ++ 0b001000#6) = .ok (.fence .sys)
    ∧ (decode (0b000000#6 ++ 0#5 ++ 0#5 ++ 0#5 ++ 6#5 ++ 0b001000#6)).toOption = none := by decide
-- SI: major, d, a, imm16
theorem test_decode_addi : decode (0b000010#6 ++ 3#5 ++ 1#5 ++ 0xFFFF#16) = .ok (.addi 3 1 0xFFFF) := by decide
theorem test_decode_lhi : decode (0b001001#6 ++ 3#5 ++ 1#5 ++ 0x0ABC#16) = .ok (.lhi 3 1 0xABC)
    ∧ (decode (0b001001#6 ++ 3#5 ++ 1#5 ++ 0x1ABC#16)).toOption = none := by decide
theorem test_decode_addih : decode (0b001010#6 ++ 3#5 ++ 1#5 ++ 8#16) = .ok (.addih 3 1 8) := by decide
-- SM: major, t, a, w, offset14; LDA and STL: major, t, a, scope, offset13
theorem test_decode_ld : decode (0b001100#6 ++ 3#5 ++ 1#5 ++ 0b11#2 ++ 0x2000#14) = .ok (.ld .dbl 3 1 0x2000) := by decide
theorem test_decode_ldx : decode (0b001101#6 ++ 3#5 ++ 1#5 ++ 0b01#2 ++ 4#14) = .ok (.ldx .half 3 1 4)
    ∧ (decode (0b001101#6 ++ 3#5 ++ 1#5 ++ 0b11#2 ++ 4#14)).toOption = none := by decide
theorem test_decode_st : decode (0b001110#6 ++ 3#5 ++ 1#5 ++ 0b00#2 ++ 4#14) = .ok (.st .byte 3 1 4) := by decide
theorem test_decode_lda : decode (0b011010#6 ++ 3#5 ++ 1#5 ++ 0b100#3 ++ 8#13) = .ok (.lda .dom 3 1 8) := by decide
theorem test_decode_stl : decode (0b011011#6 ++ 3#5 ++ 1#5 ++ 0b001#3 ++ 8#13) = .ok (.stl .plot 3 1 8) := by decide
-- SB and SJ
theorem test_decode_bgeu : decode (0b010101#6 ++ 1#5 ++ 2#5 ++ 0x8000#16) = .ok (.bgeu 1 2 0x8000) := by decide
theorem test_decode_jal : decode (0b010111#6 ++ 5#26) = .ok (.jal 5) := by decide
theorem test_decode_loop : decode (0b011000#6 ++ 6#5 ++ 0#5 ++ 3#16) = .ok (.loop 6 3)
    ∧ (decode (0b011000#6 ++ 6#5 ++ 1#5 ++ 3#16)).toOption = none := by decide
-- synchronisation and updates
theorem test_decode_semsub : decode (0b011100#6 ++ 3#5 ++ 1#5 ++ 2#5 ++ 0#5 ++ 0b000001#6) = .ok (.semsub 3 1 2) := by decide
theorem test_decode_waitv :
    decode (0b011100#6 ++ 3#5 ++ 1#5 ++ 2#5 ++ 0b11011#5 ++ 0b001011#6) = .ok (.waitv .mod true true 3 1 2) := by decide
theorem test_decode_msg : decode (0b011100#6 ++ 0#5 ++ 1#5 ++ 0#5 ++ 0b00111#5 ++ 0b001100#6) = .ok (.msg 7 1) := by decide
theorem test_decode_updv : decode (0b011101#6 ++ 3#5 ++ 1#5 ++ 2#5 ++ 0#5 ++ 0b000001#6) = .ok (.updv 3 1 2) := by decide
-- VV: major, vd, va, vb, mk, T, minor
theorem test_decode_vmulh :
    decode (0b100000#6 ++ 3#5 ++ 1#5 ++ 2#5 ++ 5#3 ++ 0b10#2 ++ 0b000011#6) = .ok (.vmulh .i8 3 1 2 5) := by decide
theorem test_decode_vfma :
    decode (0b100001#6 ++ 3#5 ++ 1#5 ++ 2#5 ++ 5#3 ++ 0b01#2 ++ 0b000011#6) = .ok (.vfma .bf16 3 1 2 5)
    ∧ (decode (0b100001#6 ++ 3#5 ++ 1#5 ++ 2#5 ++ 5#3 ++ 0b11#2 ++ 0b000011#6)).toOption = none := by decide
theorem test_decode_vcltu : decode (0b100010#6 ++ 3#5 ++ 1#5 ++ 2#5 ++ 5#3 ++ 0b01#2 ++ 0b000100#6) = .ok (.vcltu .i16 3 1 2 5)
    ∧ (decode (0b100010#6 ++ 0#5 ++ 1#5 ++ 2#5 ++ 5#3 ++ 0b01#2 ++ 0b000100#6)).toOption = none := by decide
theorem test_decode_mpopc : decode (0b100010#6 ++ 3#5 ++ 1#5 ++ 0#5 ++ 5#3 ++ 0b00#2 ++ 0b001101#6) = .ok (.mpopc 3 1 5) := by decide
theorem test_decode_vsel : decode (0b100011#6 ++ 3#5 ++ 1#5 ++ 2#5 ++ 5#3 ++ 0b00#2 ++ 0b000110#6) = .ok (.vsel 3 1 2 5) := by decide
theorem test_decode_vqnt : decode (0b100100#6 ++ 3#5 ++ 1#5 ++ 2#5 ++ 5#3 ++ 0b01#2 ++ 0b001100#6) = .ok (.vqnt .i16 3 1 2 5) := by decide
theorem test_decode_vrmin : decode (0b100101#6 ++ 3#5 ++ 1#5 ++ 0#5 ++ 5#3 ++ 0b01#2 ++ 0b000010#6) = .ok (.vrmin .i16 3 1 5) := by decide
theorem test_decode_vput : decode (0b100111#6 ++ 3#5 ++ 1#5 ++ 2#5 ++ 5#3 ++ 0b00#2 ++ 0b000010#6) = .ok (.vput 3 1 2 5) := by decide
theorem test_decode_t5upk : decode (0b101000#6 ++ 3#5 ++ 1#5 ++ 4#5 ++ 5#3 ++ 0b00#2 ++ 0b000001#6) = .ok (.t5upk 3 1 4 5)
    ∧ (decode (0b101000#6 ++ 3#5 ++ 1#5 ++ 5#5 ++ 5#3 ++ 0b00#2 ++ 0b000001#6)).toOption = none := by decide
-- VM: major, vd, gbase, gs, mk, op, off4
theorem test_decode_vlds : decode (0b100110#6 ++ 3#5 ++ 1#5 ++ 2#5 ++ 5#3 ++ 0b0010#4 ++ 15#4) = .ok (.vlds 3 1 2 5 15) := by decide
-- tile predicates, ports, command registers, privileged
theorem test_decode_zst : decode (0b101001#6 ++ 0#5 ++ 1#5 ++ 15#5 ++ 0#5 ++ 0b000011#6) = .ok (.zst 1 15)
    ∧ (decode (0b101001#6 ++ 0#5 ++ 1#5 ++ 16#5 ++ 0#5 ++ 0b000011#6)).toOption = none := by decide
theorem test_decode_send : decode (0b101010#6 ++ 3#5 ++ 0x1F#7 ++ 5#3 ++ 0#5 ++ 0b000010#6) = .ok (.send 3 0x1F 5) := by decide
theorem test_decode_kins : decode (0b110000#6 ++ 7#3 ++ 0#7 ++ 1#5 ++ 1#5 ++ 0b000010#6) = .ok (.kins 7 1 1) := by decide
theorem test_decode_kissue : decode (0b110000#6 ++ 7#3 ++ 0x2C#7 ++ 0#5 ++ 0#5 ++ 0b000100#6) = .ok (.kissue 7 0x2C) := by decide
theorem test_decode_ctxsave : decode (0b111110#6 ++ 3#5 ++ 1#5 ++ 2#5 ++ 0#5 ++ 0b000011#6) = .ok (.ctxsave 3 1 2) := by decide
theorem test_decode_unassigned : (decode (0b111111#6 ++ 0#26)).toOption = none ∧ (decode (0b001011#6 ++ 0#26)).toOption = none := by decide

/-! ### One instruction on a small state -/

/-- A machine with module number 0, one live section of tenant 0 on bay (0, 0) and its firing in the issue stage. -/
def small : State := { State.reset with
  modnum := 0, fields := [oneField 0], insts := [oneInst 0 1], nextField := 1
  bays := [(0, { Bay.idle with inst := some (0, 1) })]
  fir := { Firing.none with inst := 1, status := .ready, slot := true } }
/-- The firing with given registers. -/
def at_ (r : Regs) : State := { small with fir := { small.fir with regs := r } }
/-- g1 and g2 hold two words. -/
def two (a b : Word) : Regs := (Regs.zero.wg 1 a false).wg 2 b false
/-- v1 and v2 hold two registers, m1 is a mask. -/
def vecs (a b : VReg) (m : Word) : Regs := ((Regs.zero.wv 1 a 0).wv 2 b 0).wm 1 m
/-- The next state, if the outcome is one. -/
def nextOf : Out → Option State
  | .next t => some t
  | _ => none
/-- What g3 holds and whether it is poisoned, after an instruction. -/
def g3 (i : Instr) (s : State) : Option (Word × Bool) := (nextOf (exec i s)).map fun t => (t.regs.rg 3, t.regs.rgp 3)
/-- Lanes or elements 0 and 1 of v3, of width `w`, after an instruction. -/
def v3 (w : Nat) (i : Instr) (s : State) : Option (Nat × Nat) :=
  (nextOf (exec i s)).map fun t => (elem w (t.regs.rv 3) 0, elem w (t.regs.rv 3) 1)
/-- CAUSE, EPC and FADDR of bay 0 after an instruction that faults. -/
def faultOf (i : Instr) (s : State) : Option (Nat × Word × Word) :=
  (nextOf (exec i s)).map fun t => ((t.bay 0).cause.toNat, (t.bay 0).epc, (t.bay 0).faddr)
/-- The pc after an instruction. -/
def pcOf (i : Instr) (s : State) : Option Word := (nextOf (exec i s)).map fun t => t.regs.pc

theorem test_add_wraps : g3 (.add 3 1 2) (at_ (two (-1) 1)) = some (0, false) := by decide
theorem test_add_poison : g3 (.add 3 1 2) (at_ (Regs.zero.wg 1 7 true)) = some (7, true) := by decide
theorem test_write_g0_discarded : (nextOf (exec (.addi 0 1 5) (at_ (two 1 0)))).map (fun t => (t.regs.rg 0, t.regs.pc)) = some (0, 4) := by
  decide
theorem test_sub : g3 (.sub 3 1 2) (at_ (two 3 5)) = some (-2, false) := by decide
theorem test_andn : g3 (.andn 3 1 2) (at_ (two 0xFF 0x0F)) = some (0xF0, false) := by decide
theorem test_sll_low_six_bits : g3 (.sll 3 1 2) (at_ (two 1 65)) = some (2, false) := by decide
theorem test_sra_sign : g3 (.sra 3 1 2) (at_ (two 0x8000000000000000 63)) = some (-1, false) := by decide
theorem test_slt_sign : g3 (.slt 3 1 2) (at_ (two (-1) 0)) = some (1, false) ∧ g3 (.sltu 3 1 2) (at_ (two (-1) 0)) = some (0, false) := by
  decide
theorem test_minu : g3 (.minu 3 1 2) (at_ (two (-1) 5)) = some (5, false) ∧ g3 (.min 3 1 2) (at_ (two (-1) 5)) = some (-1, false) := by
  decide
theorem test_mulh : g3 (.mulh 3 1 2) (at_ (two (-1) 2)) = some (-1, false) ∧ g3 (.mulhu 3 1 2) (at_ (two (-1) 2)) = some (1, false) := by
  decide
theorem test_div_by_zero : g3 (.div 3 1 2) (at_ (two 7 0)) = some (-1, false) ∧ g3 (.rem 3 1 2) (at_ (two 7 0)) = some (7, false) := by
  decide
theorem test_div_toward_zero : g3 (.div 3 1 2) (at_ (two (-7) 2)) = some (-3, false) ∧ g3 (.rem 3 1 2) (at_ (two (-7) 2)) = some (-1, false) := by
  decide
theorem test_div_overflow : g3 (.div 3 1 2) (at_ (two 0x8000000000000000 (-1))) = some (0x8000000000000000, false)
    ∧ g3 (.rem 3 1 2) (at_ (two 0x8000000000000000 (-1))) = some (0, false) := by decide
theorem test_clz : g3 (.clz 3 1) (at_ (two 1 0)) = some (63, false) ∧ g3 (.clz 3 1) (at_ (two 0 0)) = some (64, false) := by decide
theorem test_ctz_popc : g3 (.ctz 3 1) (at_ (two 0x50 0)) = some (4, false) ∧ g3 (.popc 3 1) (at_ (two 0x50 0)) = some (2, false) := by decide
theorem test_sextb : g3 (.sextb 3 1) (at_ (two 0x180 0)) = some (0xFFFFFFFFFFFFFF80, false) := by decide
theorem test_addw : g3 (.addw 3 1 2) (at_ (two 0x7FFFFFFF 1)) = some (0xFFFFFFFF80000000, false) := by decide
theorem test_addh_carry : faultOf (.addh 3 1 2) (at_ (two 0x123FFFFFFFFFFFFF 1)) = some (0x0F, 0, 0x123FFFFFFFFFFFFF) := by decide
theorem test_addih : g3 (.addih 3 1 0xFFFF) (at_ (two 0x1230000000000001 0)) = some (0x1230000000000000, false) := by decide
theorem test_andi_zero_extends : g3 (.andi 3 1 0xFFFF) (at_ (two (-1) 0)) = some (0xFFFF, false) := by decide
theorem test_lui : g3 (.lui 3 0x8000) (at_ Regs.zero) = some (0xFFFFFFFF80000000, false) := by decide
theorem test_lhi : g3 (.lhi 3 1 0xABC) (at_ (two 0xFFF0000000000001 0)) = some (0xABC0000000000001, false) := by decide

theorem test_beq_not_taken : pcOf (.beq 1 2 5) (at_ (two 1 2)) = some 4 := by decide
theorem test_branch_out_of_code : faultOf (.bne 1 2 1) (at_ (two 1 2)) = some (0x01, 0, 4) := by decide
theorem test_branch_to_self : pcOf (.bltu 1 2 0) (at_ (two 1 2)) = some 0 := by decide
theorem test_jalr_reads_first : (nextOf (exec (.jalr 1 1) (at_ (two 0 0)))).map (fun t => (t.regs.rg 1, t.regs.pc)) = some (4, 0) := by decide
theorem test_jr_other_handle : faultOf (.jr 1) (at_ (two 0x0010000000000000 0)) = some (0x01, 0, 0x0010000000000000) := by decide
theorem test_loop_zero_skips : faultOf (.loop 1 0) (at_ (two 0 0)) = some (0x10, 0, 0) := by decide
theorem test_loop_end_counts_down :
    let r := ({ Regs.zero with depth := 1, ls0 := 0, le0 := 8, lc0 := 2, pc := 8 } : Regs).endChecks 8
    (r.pc, r.lc0, r.depth) = (0, 1, 1) := by decide
theorem test_trap : faultOf (.trap 1) (at_ (two 0x55 0)) = some (0x17, 0, 0x55) := by decide
theorem test_brk : faultOf .brk (at_ Regs.zero) = some (0x18, 0, 0) := by decide
theorem test_mtc_samplep_range : (nextOf (exec (.mtc .samplep 1) (at_ (two 10001 0)))).map (fun t => t.samplep) = some 10 := by decide
theorem test_mfc_flags : g3 (.mfc 3 .flags) (at_ { Regs.zero with flags := 0b10001 }) = some (0b10001, false) := by decide
theorem test_fend_keeps_persistent_set :
    (nextOf (exec .fend (at_ (Regs.zero.wg 16 9 false)))).map (fun t => (t.fir.status, ((tgetD 0 Persist.zero (t.bay 0).persist).g[0]))) =
      some (.ended, 9) := by decide
theorem test_clmask : (nextOf (exec (.clmask 1) (at_ (two 0x181 0)))).map (fun t => (t.bay 0).cmask) = some 0x81 := by decide
theorem test_idmb_checkpoint : (nextOf (exec .idmb (at_ Regs.zero))).map (fun t => t.fir.region.map fun r => r.ckpt.pc) = some (some 4) := by
  decide
theorem test_idme_closed : faultOf .idme (at_ Regs.zero) = some (0x11, 0, 0x0A) := by decide

/-- The bay window of bay 0 starts here in the module's own addresses. -/
def win : Nat := 0x400000000000
/-- The machine with some bytes of the window of bay 0. -/
def memAt (r : Regs) (off : Nat) (l : List Byte) : State := { at_ r with mem := Memory.writeList [] (win + off) l }

theorem test_ld_little_endian : g3 (.ld .word 3 1 4) (memAt (two 0 0) 4 [0x78, 0x56, 0x34, 0x92]) = some (0x92345678, false) := by decide
theorem test_ldx_sign : g3 (.ldx .half 3 1 0) (memAt (two 0 0) 0 [0x01, 0x80]) = some (0xFFFFFFFFFFFF8001, false) := by decide
theorem test_ld_bound : faultOf (.ld .dbl 3 1 0) (at_ (two 0xFFFF9 0)) = some (0x08, 0, 0xFFFF9) := by decide
theorem test_st_bytes : (nextOf (exec (.st .half 2 1 1) (at_ (two 8 0xABCDEF)))).map (fun t => t.mem.readList (win + 8) 4) =
    some [0, 0xEF, 0xCD, 0] := by decide
theorem test_st_negative_offset : faultOf (.st .byte 2 1 0x3FFF) (at_ (two 0 5)) = some (0x08, 0, 0) := by decide
theorem test_stl_misaligned : faultOf (.stl .bay 2 1 4) (at_ (two 8 5)) = some (0x0D, 0, 12) := by decide
theorem test_semadd_saturates : (nextOf (exec (.semadd 1 2) (at_ (two 7 0xFFFF)))).bind (fun t => (nextOf (exec (.semadd 1 2) t)).map
    fun u => u.sem 0 7) = some 0xFFFF := by decide
theorem test_semsub_takes_what_there_is : g3 (.semsub 3 1 2) (at_ (two 7 9)) = some (0, false) := by decide
theorem test_semwait_parks : (nextOf (exec (.semwait 1 2) (at_ (two 7 1)))).map (fun t => (t.fir.status, t.regs.pc)) =
    some (.parked (.sem 7 1) false, 0) := by decide
theorem test_rvarr_no_yard : faultOf (.rvarr 3 1) (at_ (two 23 0)) = some (0x13, 0, 23) := by decide
theorem test_rvinit_out_of_range : faultOf (.rvinit 1 2) (at_ (two 24 1)) = some (0x13, 0, 24) := by decide
theorem test_updfl_nothing_pending : pcOf .updfl (at_ Regs.zero) = some 4 := by decide

/-! ### A word of HBM4E: handle 16 of tenant 0 names the first MiB of the module -/

/-- Its entry (R45): SPACE 2, RD and WR, VALID, BOUND 2^20, BASE 0. -/
def phys16 : BitVec 256 := BitVec.ofNat 256 (2 ^ 137 + 2 ^ 132 + 2 ^ 131 + 2 ^ 128 + 2 ^ 84)
/-- The machine with that entry at HTBASE + 512 and in the bay's cache, and some bytes at an address. -/
def hbmAt (r : Regs) (a : Nat) (l : List Byte) : State := { at_ r with
  mem := Memory.writeList [(0x20A, 0x10), (0x210, 0x19), (0x211, 0x02)] a l
  bays := [(0, { Bay.idle with inst := some (0, 1), hcache := [(16, phys16)] })] }
/-- A pointer through that handle. -/
def ptr16 (a : Nat) : Word := mkPtr 16 a

/-- At least one pseudo-channel is enabled whatever is fused. -/
theorem some_channel : 1 ≤ Config.enabledChannels.length := by
  unfold Config.enabledChannels; split <;> simp

/-- The first 2^26 bytes of the module are usable whatever is fused. -/
theorem low_is_usable (s : State) (a n : Nat) (hm : gaMod a = s.own) (hl : gaLocal a + n ≤ 2 ^ 26) :
    s.checkSegs false [⟨a, n⟩] = none := by
  have hu : 2 ^ 27 ≤ s.usable (gaMod a) := by
    have := some_channel
    unfold State.usable; rw [if_pos hm]; omega
  have hw : isWindow (gaLocal a) = false := by
    unfold isWindow Config.windowBase; simp; omega
  have hb : localBad (s.usable (gaMod a)) (gaLocal a) n = none := by
    unfold localBad
    rw [hw, if_neg (by simp), if_neg (by omega), if_neg (by omega)]
  simp [State.checkSegs, hm] at *
  simp [hb]

/-- The code of a fault of address formation, 0 without one. -/
def codeOf {α : Type} : Except Flt α → Nat
  | .error f => f.code
  | .ok _ => 0
theorem phys_address (s u : State) (c : Ctx) (p : Word) (n : Nat) (wr : Bool) (e : Ent)
    (he : s.entry c (ptrH p) = some (u, e)) (hs : e.space = 2) (hr : (if wr then e.wr else e.rd) = true)
    (hb : ptrOff p + n ≤ e.bound) (hp : e.base + ptrOff p < 2 ^ 47) (hm : gaMod (u.ga (e.base + ptrOff p)) = u.own)
    (hl : gaLocal (u.ga (e.base + ptrOff p)) + n ≤ 2 ^ 26) :
    s.addressOf c p n wr = .ok (u, [⟨u.ga (e.base + ptrOff p), n⟩]) := by
  have hc := low_is_usable u _ n hm hl
  unfold State.addressOf
  rw [he]
  have h1 : (if wr = true then !e.wr else !e.rd) = false := by cases wr <;> simp_all
  simp only [h1, hs, hc, Bool.false_eq_true, if_false, if_neg (Nat.not_lt.2 hb), if_neg (Nat.not_le.2 hp), ge_iff_le, gt_iff_lt]

theorem sync_address (s u : State) (c : Ctx) (p : Word) (wr : Bool) (a : Nat)
    (h : s.addressOf c p 8 wr = .ok (u, [⟨a, 8⟩])) (h8 : a % 8 = 0) (hw : isWindow (gaLocal a) = false) :
    s.syncAddr c p wr = .ok (u, a) := by
  unfold State.syncAddr; rw [h]; simp [h8, hw]

theorem reach_word (s t : State) (p : Word) (wr isLoad : Bool) (a : Nat) (k : State → Nat → Out)
    (h : s.syncAddr s.firCtx p wr = .ok (t, a)) (hr : t.routeFor s.firCtx [⟨a, 8⟩] = (t, none))
    (hh : t.heldBlocks s.firCtx [⟨a, 8⟩] = false) : reachWord s p wr isLoad k = k t a := by
  unfold reachWord; rw [h]; simp [hr, hh]

theorem entry_hit (s : State) (c : Ctx) (h : Nat) (e : BitVec 256) (hb : c.isBay = true) (h16 : 15 < h)
    (hc : tget (c.tenant * 4096 + h) (s.bay c.bay).hcache = some e) (hf : s.tableEntry c.tenant h = (e.toNat, false))
    (hv : (entValid e.toNat && !entMalformed c.tenant e.toNat) = true) : s.entry c h = some (s, entOf e.toNat) := by
  have hk : s.cachedEntry c h = some (s, e.toNat) := by
    unfold State.cachedEntry; simp only [hb, if_true, hc, hf]; simp
  unfold State.entry
  rw [if_neg (by omega), hk]
  have : (decide (h ≤ 15) && decide (c.tenant ≠ 0)) = false := by simp; omega
  simp only [this]; simp_all

/-- g1 points to the word at 0x1000 of HBM4E, which holds `x`; g2 holds 5. -/
def wordIs (x : Nat) : State := hbmAt (two (ptr16 0x1000) 5) 0x1000 (natLe 8 x)
/-- The word's value when the firing of the test owns it (R70): bit 63, module 0, bay 0, actor 0. -/
def ownTag : Nat := 0x8000000000000000

theorem word_reached (x : Nat) (wr : Bool) (hx : x = 0 ∨ x = 5 ∨ x = 6 ∨ x = ownTag) :
    (wordIs x).syncAddr (wordIs x).firCtx (ptr16 0x1000) wr = .ok (wordIs x, 0x1000) := by
  have hh : ptrH (ptr16 0x1000) = 16 := by decide
  have he : (wordIs x).entry (wordIs x).firCtx (ptrH (ptr16 0x1000)) = some (wordIs x, entOf phys16.toNat) := by
    rw [hh]
    rcases hx with h | h | h | h <;> subst h <;>
      exact entry_hit _ _ _ phys16 rfl (by decide) (by decide) (by decide) (by decide)
  have hg : (wordIs x).ga ((entOf phys16.toNat).base + ptrOff (ptr16 0x1000)) = 0x1000 := by
    have h0 : (wordIs x).own = 0 := rfl
    have h1 : (entOf phys16.toNat).base + ptrOff (ptr16 0x1000) = 0x1000 := by decide
    simp only [State.ga, h0, h1, Nat.zero_mul, Nat.zero_add]
  have h2 : gaMod 0x1000 = (wordIs x).own := by show _ = 0; decide
  have ha := phys_address _ _ _ _ 8 wr _ he (by decide) (by cases wr <;> decide) (by decide) (by decide) (by rw [hg]; exact h2) (by rw [hg]; decide)
  rw [hg] at ha
  exact sync_address _ _ _ _ _ _ ha (by decide) (by decide)
theorem word_routed (x : Nat) : (wordIs x).routeFor (wordIs x).firCtx [⟨0x1000, 8⟩] = (wordIs x, none) := rfl
theorem word_unheld (x : Nat) : (wordIs x).heldBlocks (wordIs x).firCtx [⟨0x1000, 8⟩] = false := rfl


theorem test_lda : g3 (.lda .bay 3 1 0) (wordIs 5) = some (5, false) := by
  have h : movePtr ((wordIs 5).regs.rg 1) (0 : BitVec 13).toInt = .ok (ptr16 0x1000) := by decide
  show (nextOf (execLda .bay 3 1 0 (wordIs 5))).map _ = _
  unfold execLda
  rw [h]; simp only
  rw [reach_word _ _ _ _ _ _ _ (word_reached 5 _ (by decide)) (word_routed 5) (word_unheld 5)]; decide
theorem test_acq_takes_a_free_word : (nextOf (exec (.acq .sys 1) (wordIs 0))).map (fun t => (t.mem.readList 0x1000 8, t.regs.pc)) =
    some (natLe 8 ownTag, 4) := by
  have h : (wordIs 0).regs.rg 1 = ptr16 0x1000 := by decide
  show (nextOf (execAcq .sys 1 (wordIs 0))).map _ = _
  unfold execAcq outsideRegion
  rw [if_neg (by decide)]; simp only [h]
  rw [reach_word _ _ _ _ _ _ _ (word_reached 0 _ (by decide)) (word_routed 0) (word_unheld 0)]; decide
theorem test_rel_clears_an_owned_word : (nextOf (exec (.rel .sys 1) (wordIs ownTag))).map (fun t => (t.mem.read 0x1007, t.regs.pc)) =
    some (0, 4) := by
  have h : (wordIs ownTag).regs.rg 1 = ptr16 0x1000 := by decide
  show (nextOf (execRel .sys 1 (wordIs ownTag))).map _ = _
  unfold execRel outsideRegion
  rw [if_neg (by decide)]; simp only [h]
  rw [reach_word _ _ _ _ _ _ _ (word_reached ownTag _ (by decide)) (word_routed ownTag) (word_unheld ownTag)]; decide
theorem test_syncadd : (nextOf (exec (.syncadd .sys 3 1 2) (wordIs 6))).map (fun t => (t.regs.rg 3, t.mem.read 0x1000)) = some (6, 11) := by
  have h : (wordIs 6).regs.rg 1 = ptr16 0x1000 := by decide
  show (nextOf (execSyncadd .sys 3 1 2 (wordIs 6))).map _ = _
  unfold execSyncadd outsideRegion
  rw [if_neg (by decide)]; simp only [h]
  rw [reach_word _ _ _ _ _ _ _ (word_reached 6 _ (by decide)) (word_routed 6) (word_unheld 6)]; decide
theorem test_synccas_miss : (nextOf (exec (.synccas .sys 3 1 2) (wordIs 6))).map (fun t => (t.regs.rg 3, t.mem.read 0x1000)) = some (6, 6) := by
  have h : (wordIs 6).regs.rg 1 = ptr16 0x1000 := by decide
  show (nextOf (execSynccas .sys 3 1 2 (wordIs 6))).map _ = _
  unfold execSynccas outsideRegion
  rw [if_neg (by decide)]; simp only [h]
  rw [reach_word _ _ _ _ _ _ _ (word_reached 6 _ (by decide)) (word_routed 6) (word_unheld 6)]; decide

/-! ### Vectors -/

/-- Elements 0 and 1 of width `w`, the rest 0. -/
def lo2 (w x y : Nat) : VReg := BitVec.ofNat 2048 (x + y * 2 ^ w)
/-- FLAGS after an instruction. -/
def flagsOf (i : Instr) (s : State) : Option Nat := (nextOf (exec i s)).map fun t => t.regs.flags.toNat

theorem test_vadd_i8_wraps : v3 8 (.vadd .i8 3 1 2 0) (at_ (vecs (lo2 8 0xFF 1) (lo2 8 1 2) 0)) = some (0, 3) := by decide +kernel
theorem test_vadd_mask_keeps : v3 32 (.vadd .i32 3 1 2 1) (at_ ((vecs (lo2 32 1 2) (lo2 32 3 4) 2).wv 3 (lo2 32 9 9) 0)) = some (9, 6) := by
  decide +kernel
theorem test_vsub : v3 16 (.vsub .i16 3 1 2 0) (at_ (vecs (lo2 16 0 5) (lo2 16 1 2) 0)) = some (0xFFFF, 3) := by decide +kernel
theorem test_vmulh_signed : v3 16 (.vmulh .i16 3 1 2 0) (at_ (vecs (lo2 16 0x8000 0xFFFF) (lo2 16 0x8000 1) 0)) = some (0x4000, 0xFFFF) := by
  decide +kernel
theorem test_vsra_amount_mod_width : v3 8 (.vsra .i8 3 1 2 0) (at_ (vecs (lo2 8 0x80 0x40) (lo2 8 7 9) 0)) = some (0xFF, 0x20) := by decide +kernel
theorem test_vabs_most_negative : v3 8 (.vabs .i8 3 1 0) (at_ (vecs (lo2 8 0x80 0xFF) 0 0)) = some (0x80, 1) := by decide +kernel
theorem test_vadds_saturates : v3 8 (.vadds .i8 3 1 2 0) (at_ (vecs (lo2 8 0x7F 0x80) (lo2 8 1 0xFF) 0)) = some (0x7F, 0x80) := by decide +kernel
theorem test_vmaxu : v3 32 (.vmaxu .i32 3 1 2 0) (at_ (vecs (lo2 32 0xFFFFFFFF 3) (lo2 32 1 4) 0)) = some (0xFFFFFFFF, 4) := by decide +kernel

theorem test_vfadd : v3 32 (.vfadd .f32 3 1 2 0) (at_ (vecs (lo2 32 0x3F800000 0x3F800000) (lo2 32 0x3F800000 0xBF800000) 0)) =
    some (0x40000000, 0) := by decide +kernel
theorem test_vfsub_opposite_infinities : v3 32 (.vfsub .f32 3 1 2 1) (at_ (vecs (lo2 32 0x7F800000 0) (lo2 32 0x7F800000 0) 1)) =
    some (0x7FC00000, 0) ∧ flagsOf (.vfsub .f32 3 1 2 1) (at_ (vecs (lo2 32 0x7F800000 0) (lo2 32 0x7F800000 0) 1)) = some 0b10000 := by decide +kernel
theorem test_vfmul_bf16 : v3 16 (.vfmul .bf16 3 1 2 0) (at_ (vecs (lo2 16 0x3FC0 0x4000) (lo2 16 0x4000 0xC000) 0)) = some (0x4040, 0xC080) := by
  decide +kernel
theorem test_vfma_f16 : v3 16 (.vfma .f16 3 1 2 0) (at_ ((vecs (lo2 16 0x4000 0) (lo2 16 0x4200 0) 0).wv 3 (lo2 16 0x3C00 0x3C00) 0)) =
    some (0x4700, 0x3C00) := by decide +kernel
theorem test_vfneg_keeps_canonical_nan : v3 32 (.vfneg .f32 3 1 0) (at_ (vecs (lo2 32 0x3F800000 0x7FC00001) 0 0)) =
    some (0xBF800000, 0x7FC00000) := by decide +kernel
theorem test_vfrcp : v3 32 (.vfrcp .f32 3 1 1) (at_ (vecs (lo2 32 0x40000000 0) 0 1)) = some (0x3F000000, 0) := by decide +kernel
theorem test_vfrsq : v3 32 (.vfrsq .f32 3 1 1) (at_ (vecs (lo2 32 0x40800000 0) 0 1)) = some (0x3F000000, 0) := by decide +kernel

theorem test_vceq_all_elements_of_a_lane : (nextOf (exec (.vceq .i16 2 1 2 0) (at_ (vecs (lo2 16 5 6) (lo2 16 5 7) 0)))).map
    (fun t => (t.regs.rm 2).toNat) = some (2 ^ 64 - 2) := by decide +kernel
theorem test_vcflt_nan : (nextOf (exec (.vcflt .f32 2 1 2 0) (at_ (vecs (lo2 32 0x7FC00000 0) (lo2 32 0 0x3F800000) 0)))).map
    (fun t => ((t.regs.rm 2).toNat, t.regs.flags.toNat)) = some (2, 0b10000) := by decide +kernel
theorem test_mpopc : g3 (.mpopc 3 1 0) (at_ (vecs 0 0 0x13)) = some (3, false) := by decide +kernel
theorem test_mfirst : g3 (.mfirst 3 1 0) (at_ (vecs 0 0 0x10)) = some (4, false) ∧ g3 (.mfirst 3 1 0) (at_ (vecs 0 0 0)) = some (64, false) := by
  decide +kernel
theorem test_mnot_under_mask : (nextOf (exec (.mnot 2 1 1) (at_ (vecs 0 0 0xF0)))).map (fun t => (t.regs.rm 2).toNat) = some 0 := by decide +kernel

theorem test_vperm : v3 32 (.vperm 3 1 2 0) (at_ (vecs (lo2 32 7 8) (lo2 32 1 64) 0)) = some (8, 7) := by decide +kernel
theorem test_vslideup : v3 32 (.vslideup 3 1 2 0) (at_ ((vecs (lo2 32 7 8) 0 0).wg 2 1 false)) = some (0, 7) := by decide +kernel
theorem test_vcompress : v3 32 (.vcompress 3 1 1) (at_ (vecs (lo2 32 7 8) 0 2)) = some (8, 0) := by decide +kernel
theorem test_vexpand : v3 32 (.vexpand 3 1 1) (at_ ((vecs (lo2 32 7 8) 0 2).wv 3 (lo2 32 5 5) 0)) = some (5, 7) := by decide +kernel
theorem test_vget_ignores_mask : g3 (.vget 3 1 2 1) (at_ ((vecs (lo2 32 7 8) 0 0).wg 2 65 false)) = some (8, false) := by decide +kernel
theorem test_vput : v3 32 (.vput 3 1 2 0) (at_ ((Regs.zero.wg 1 0x1FFFFFFFF false).wg 2 1 false)) = some (0, 0xFFFFFFFF) := by decide +kernel
theorem test_viota : v3 32 (.viota 3 1 0) (at_ (two 0xFFFFFFFF 0)) = some (0xFFFFFFFF, 0) := by decide +kernel

theorem test_vcvt_f32_i32 : v3 32 (.vcvtF32I32 3 1 0) (at_ (vecs (lo2 32 3 0xFFFFFFFF) 0 0)) = some (0x40400000, 0xBF800000) := by decide +kernel
theorem test_vcvt_i32_f32_ties_to_even : v3 32 (.vcvtI32F32 3 1 0) (at_ (vecs (lo2 32 0x40200000 0xC0200000) 0 0)) = some (2, 0xFFFFFFFE) := by
  decide +kernel
theorem test_vcvt_bf16_f32 : v3 16 (.vcvtBf16F32 3 1 0 0) (at_ (vecs (lo2 32 0x3F808000 0x3F818000) 0 0)) = some (0x3F80, 0x3F82) := by decide +kernel
theorem test_vcvt_i8_i32_saturates : v3 8 (.vcvtI8I32 3 1 0 0) (at_ (vecs (lo2 32 300 0xFFFFFE00) 0 0)) = some (0x7F, 0x80) := by decide +kernel
theorem test_vrsum : v3 32 (.vrsum .i8 3 1 0) (at_ (vecs (lo2 8 0xFF 0xFE) 0 0)) = some (0xFFFFFFFD, 0) := by decide +kernel
theorem test_vrmax_none_active : v3 32 (.vrmax .i16 3 1 1) (at_ (vecs (lo2 16 5 6) 0 0)) = some (0xFFFF8000, 0) := by decide +kernel
theorem test_vdot : v3 32 (.vdot .i8 3 1 2 0) (at_ (vecs (lo2 8 2 0xFF) (lo2 8 3 4) 0)) = some (2, 0) := by decide +kernel
theorem test_vargmax_first : v3 32 (.vargmax .i32 3 1 0) (at_ (vecs (lo2 32 0xFFFFFFFF 9) 0 0)) = some (1, 0) := by decide +kernel
theorem test_t5pk : v3 8 (.t5pk 3 1 0 0) (at_ (vecs (BitVec.ofNat 2048 (0xFF + 0x01 * 2 ^ 8 + 0x05 * 2 ^ 16)) 0 0)) = some (2 + 3 + 9, 0) := by
  decide +kernel
theorem test_t5upk : v3 8 (.t5upk 3 1 0 0) (at_ (vecs (lo2 8 5 0) 0 0)) = some (0xFF, 1) := by decide +kernel
theorem test_t5cnt_bad_code : faultOf (.t5cnt 3 1 4 0) (at_ (vecs (BitVec.ofNat 2048 (243 * 2 ^ (8 * 193))) 0 0)) = some (0x1B, 0, 0xC100FF) := by
  decide +kernel
theorem test_ztest : g3 (.ztest 3 1 1) (at_ ((two 65 0).wz 1 2)) = some (1, false) := by decide +kernel
theorem test_vld : v3 32 (.vld 3 1 1 1) (memAt ((vecs 0 0 2).wg 1 0 false) 256 [1, 0, 0, 0, 2, 0, 0, 0x80]) = some (0, 0x80000002) := by decide +kernel
theorem test_vst : (nextOf (exec (.vst 1 1 1 0) (at_ ((vecs (lo2 32 7 8) 0 2).wg 1 16 false)))).map (fun t => t.mem) = some [(win + 20, 8)] := by
  decide +kernel
theorem test_vldb_misaligned : faultOf (.vldb 3 1 0 0) (at_ (two 2 0)) = some (0x0D, 0, 2) := by decide +kernel

theorem test_kins : (nextOf (exec (.kins 2 1 1) (at_ (two 5 0)))).map (fun t => (t.regs.rk 2).toNat) = some (5 * 2 ^ 64) := by decide +kernel
theorem test_kissue_reserved_port : faultOf (.kissue 0 0x2D) (at_ Regs.zero) = some (0x04, 0, 0x2D) := by decide +kernel
theorem test_kissue_bad_code : faultOf (.kissue 0 0x20) (at_ Regs.zero) = some (0x16, 0, 0x20) := by decide +kernel
theorem test_kissue_queues_nopc : (nextOf (exec (.kissue 0 0x20) (at_ (Regs.zero.wk 0 (BitVec.ofNat 128 (0x12 * 2 ^ 122)) false)))).map
    (fun t => ((t.queue 0 0x20).length, t.regs.pc)) = some (1, 4) := by decide +kernel
theorem test_send_unbound_port : faultOf (.send 1 0x10 0) (at_ Regs.zero) = some (0x04, 0, 0x10) := by decide +kernel
theorem test_hinv_drops_the_entry : (nextOf (exec (.hinv 1 2) { hbmAt (two 0 16) 0x1000 [] with agenda := [] })).map
    (fun t => (t.bay 0).hcache.length) = some 0 := by decide +kernel
theorem test_tlbi_other_tenant : faultOf (.tlbi 1 2) { small with fields := [{ oneField 0 with tenant := 1 }], fir := (at_ (two 1 2)).fir } = some (0x03, 0, 0xF8011002) := by
  decide +kernel

/-! ### Hypotheses of the statements are met: decoding, the step, reset -/

theorem wit_decode_encode : (Instr.addi 3 1 0xFFFF).wf = true ∧ encode (.addi 3 1 0xFFFF) = some 0x0861FFFF := by decide
theorem wit_encode_decode : decode 0x0861FFFF = .ok (.addi 3 1 0xFFFF) := by decide

/-- A running bay whose one actor has the word `w` as its code, and a ready firing at its first word. -/
def running1 (w : IWord) : State := { State.reset with
  modnum := 0, fields := [oneField 0], insts := [oneInst 0 w], nextField := 1, agenda := [.issue 0 0]
  islands := [(0, { Island.reset with k := 64, tgtk := 64 })]
  bays := [(0, { Bay.idle with inst := some (0, 1), firings := [{ oneFiring 0 0 with regs := Regs.zero }] })] }
theorem wit_step_issues : let s := running1 1; let s0 : State := { s with agenda := s.agenda.tail }
    s.turn = .issue 0 0 ∧ ((s0.issuable 0 0).isSome = true)
    ∧ (∀ f ∈ s0.issuable 0 0, let t := s0.advanceTime (some (0, s0.nextOneCycle f))
       (t.issuable 0 0).isSome = true ∧ ∀ f ∈ t.issuable 0 0, (t.load_ f).fetch = .word 1) ∧ decode 1 = .ok .fend := by
  decide +kernel
theorem wit_step_illegal : decode 0xFC000000 = .error .unassignedMajor ∧ ((running1 0xFC000000).issuable 0 0).isSome = true
    ∧ ∀ f ∈ (running1 0xFC000000).issuable 0 0, ((running1 0xFC000000).load_ f).fetch = .word 0xFC000000 := by decide +kernel
theorem wit_step_bad_fetch : let s : State := { running1 1 with
      bays := [(0, { Bay.idle with inst := some (0, 1), firings := [{ oneFiring 0 0 with regs := { Regs.zero with pc := 4 } }] })] }
    (s.issuable 0 0).isSome = true ∧ ∀ f ∈ s.issuable 0 0, (s.load_ f).fetch = .bad := by decide +kernel
theorem wit_step_event : let s : State := { State.reset with agenda := [.event .sampleBoundary] }
    s.turn = .event .sampleBoundary ∧ isScalar .sampleBoundary = false := by decide
theorem wit_step_keeps : (nextOf (step (running1 1))).isSome = true ∧ (running1 1).mem.wf = true ∧ (running1 1).mpoison.wf = true
    ∧ Memory.wf (running1 1).mbox = true ∧ (running1 1).samplep ≠ 0 ∧ (running1 1).samplep.toNat ≤ 10000 ∧ (running1 1).modnum.toNat < 320 := by
  decide +kernel
/-- From reset with nothing placed the step is only the passing of time. -/
theorem wit_step_from_reset : (nextOf (step State.reset)).isSome = true ∧ State.reset.modnum = 0x1FF := by decide +kernel
/-- A placed word runs in the very next step. -/
theorem wit_placed_word_runs : (nextOf (step (State.reset.withFetchWord 32 0x0860FFFF))).map (fun t => (t.bay 0).firings.map fun f =>
    (f.regs.rg 3, f.regs.pc)) = some [(-1, 4)] := by decide +kernel

/-! ### Arithmetic, control, faults -/

/-- Both ends of a pointer's offset range. -/
theorem wit_pointer_arithmetic : let p : Word := 0x123FFFFFFFFFFFFF; let q : Word := 0x1230000000000000
    let off (p : Word) (x : Int) : Int := (p.toNat % 2 ^ 52 : Nat) + x
    (0 ≤ off p 0 ∧ off p 0 < 2 ^ 52) ∧ ¬ (0 ≤ off p 1 ∧ off p 1 < 2 ^ 52) ∧ (0 ≤ off q 0 ∧ off q 0 < 2 ^ 52)
    ∧ ¬ (0 ≤ off q (0xFFFF : BitVec 16).toInt ∧ off q (0xFFFF : BitVec 16).toInt < 2 ^ 52)
    ∧ (0 ≤ off p (0xFFFF : BitVec 16).toInt ∧ off p (0xFFFF : BitVec 16).toInt < 2 ^ 52) := by decide

/-- Loops: depth, the outer body and its count, the inner body and its count, the pc. -/
def loops (d : Nat) (ls0 le0 lc0 ls1 le1 lc1 pc : Word) : Regs :=
  { Regs.zero with depth := d, ls0 := ls0, le0 := le0, lc0 := lc0, ls1 := ls1, le1 := le1, lc1 := lc1, pc := pc }
theorem wit_transfer_ends_loops :
    let inBody (lo hi t : Word) : Prop := lo.toNat ≤ t.toNat ∧ t.toNat ≤ hi.toNat
    (loops 0 0 0 0 0 0 0 0).depth = 0
    ∧ (1 ≤ (loops 1 4 12 1 0 0 0 0).depth ∧ ¬ inBody 4 12 16 ∧ ¬ inBody 4 12 0)
    ∧ (1 ≤ (loops 1 4 12 1 0 0 0 0).depth ∧ inBody 4 12 4 ∧ inBody 4 12 12 ∧ (loops 1 4 12 1 0 0 0 0).depth = 1)
    ∧ ((loops 2 4 12 1 8 8 1 0).depth = 2 ∧ inBody 4 12 12 ∧ ¬ inBody 8 8 12)
    ∧ ((loops 2 4 12 1 8 8 1 0).depth = 2 ∧ inBody 4 12 8 ∧ inBody 8 8 8) := by decide
theorem wit_loop_end_checks :
    (loops 0 0 0 0 0 0 0 0).depth = 0 ∧ (loops 1 4 12 1 0 0 0 0).le0 ≠ 8
    ∧ (1 < (loops 1 4 12 2 0 0 0 12).lc0.toNat ∧ (12 : Word) = (loops 1 4 12 2 0 0 0 12).le0)
    ∧ ((loops 1 4 12 1 0 0 0 12).lc0.toNat ≤ 1 ∧ (12 : Word) = (loops 1 4 12 1 0 0 0 12).le0)
    ∧ (loops 2 4 12 1 8 12 1 8).le1 ≠ 8
    ∧ (1 < (loops 2 4 12 1 8 12 2 12).lc1.toNat ∧ (12 : Word) = (loops 2 4 12 1 8 12 2 12).le1)
    ∧ ((loops 2 4 12 1 8 12 0 12).lc1.toNat ≤ 1 ∧ (12 : Word) = (loops 2 4 12 1 8 12 0 12).le1) := by decide

/-- The record of an actor with eight words of code, and the instance of the tests with it. -/
def inst8 : Inst := { oneInst 0 1 with image := { oneImage 1 with
  code := [1, 0, 0, 0, 0, 0, 0, 0], actors := [⟨0, 32, 0, 0, 0, 0, false, 0, 1, 1, 0, 0xFFFF⟩] } }
def at8 (r : Regs) : State := { at_ r with insts := [inst8] }
theorem wit_loop :
    ((0 : BitVec 16).toInt < 1 ∧ (0xFFFF : BitVec 16).toInt < 1)
    ∧ (1 ≤ (8 : BitVec 16).toInt ∧ (at8 (two 1 0)).inCode 32 = false)
    ∧ (1 ≤ (7 : BitVec 16).toInt ∧ (at8 (two 0 0)).inCode 28 = true ∧ (at8 (two 0 0)).regs.rg 1 = 0)
    ∧ ((at8 (loops 2 4 12 1 8 8 1 0 |>.wg 1 1 false)).inCode 4 = true ∧ (at8 (loops 2 4 12 1 8 8 1 0 |>.wg 1 1 false)).regs.depth = 2)
    ∧ ((at8 (loops 1 4 12 1 0 0 0 8 |>.wg 1 1 false)).inCode 16 = true ∧ (at8 (loops 1 4 12 1 0 0 0 8)).regs.depth = 1
        ∧ (at8 (loops 1 4 12 1 0 0 0 8)).regs.le0.toNat < (16 : Word).toNat)
    ∧ ((at8 (two 1 0)).inCode 4 = true ∧ (at8 (two 1 0)).regs.rg 1 ≠ 0 ∧ (at8 (two 1 0)).regs.depth = 0)
    ∧ ((at8 (loops 1 4 12 1 0 0 0 8)).inCode 12 = true ∧ (at8 (loops 1 4 12 1 0 0 0 8)).regs.depth = 1
        ∧ (12 : Word).toNat ≤ (at8 (loops 1 4 12 1 0 0 0 8)).regs.le0.toNat) := by decide

/-- A field that has reported a fault already. -/
def faultedField : Field := { oneField 0 with fault := some ⟨0x18, 0, 0, 0, 1, 0, false⟩ }
theorem wit_taking_a_fault : (small.field? small.fir.field).map Field.fault = some none
    ∧ ({ small with fields := [faultedField] } : State).field? 0 = some faultedField ∧ faultedField.fault.isSome = true := by decide

/-- The firing of the tests in an open region. -/
def region0 : Region := ⟨Regs.zero, []⟩
def inRegion (r : Regs) : State := { at_ r with fir := { small.fir with regs := r, region := some region0 } }
theorem wit_plain_control : (at_ Regs.zero).fir.region = none ∧ (∀ p ∈ small.pairs, p.who ≠ small.firCtx.who)
    ∧ (inRegion Regs.zero).fir.region.isSome = true ∧ (inRegion Regs.zero).fir.region = some region0 ∧ (inRegion Regs.zero).regionBusy = false := by
  decide +kernel

/-- A channel between the actor of the tests and the engines of its bay; the other end is external (R138). -/
def chanRec (input : Bool) (port n fmt : Nat) : ChanRec :=
  ⟨if input then 0xFFFF else 0, if input then 0 else 0xFFFF, port, port, n, 0, n, 0, fmt, fmt, 0, false, false, 0, 4, 0, 0xFFFF, 0⟩
/-- The tests' instance with channels: in ports 0 (G64), 1 (ROW) and 2 (V), out ports 0, 1 and 2 of the same formats. -/
def chans6 : List ChanRec := [chanRec true 0 1 0, chanRec true 1 1 10, chanRec true 2 64 1, chanRec false 0 1 0, chanRec false 1 1 10,
  chanRec false 2 64 1]
def instCh (l : Table Chan) : Inst := { inst8 with image := { inst8.image with chans := chans6 }, chans := l }
def withCh (l : Table Chan) (r : Regs) : State := { at_ r with insts := [instCh l] }
theorem wit_firing_end : small.fir.region = none ∧ small.fendShort = none ∧ (withCh [] Regs.zero).fir.region = none
    ∧ (withCh [] Regs.zero).fendShort = some 0 ∧ (inRegion Regs.zero).fir.region.isSome = true := by decide

theorem wit_control_registers : small.firCtx.tenant = 0 ∧ 1 ≤ ((at_ (two 1 0)).regs.rg 1).toNat % 16384
    ∧ ((at_ (two 10000 0)).regs.rg 1).toNat % 16384 ≤ 10000
    ∧ ({ small with fields := [{ oneField 0 with tenant := 1 }] } : State).firCtx.tenant ≠ 0 ∧ Ctl.cause.writable = false := by decide

theorem wit_register_frame : regWrites (.add 3 1 2) = some { g := some 3 } ∧ (nextOf (exec (.add 3 1 2) small)).isSome = true :=
  ⟨rfl, by decide⟩
theorem wit_load_frame : loadWrites (.ld .dbl 3 1 0) = some { g := some 3 } ∧ small.slices = [] ∧ small.pairs = []
    ∧ (nextOf (exec (.ld .dbl 3 1 0) small)).isSome = true := ⟨rfl, by decide⟩
theorem wit_store_frame : isStore (.st .byte 2 1 0) = true ∧ small.slices = [] ∧ small.pairs = [] ∧ small.waiters = []
    ∧ (∀ x ∈ small.inst? 0 1, x.versioned = false) ∧ small.mem.wf = true ∧ (nextOf (exec (.st .byte 2 1 0) small)).isSome = true
    ∧ (storesTo (.st .byte 2 1 0) small).map Prod.snd = some [⟨win, 1⟩]
    ∧ storesTo (.st .dbl 2 1 0) (at_ (two 0xFFFF9 0)) = none := by decide

/-! ### Addresses -/

/-- A unit of bay 0 of a tenant, and one of a sequencer. -/
def ctx0 (t : Nat) (bay : Bool) : Ctx := ⟨.actor 0 0, t, 0, bay, 0, 1, 1, 1, 0, 0⟩
/-- Handle 17 of tenant 0: as 16, without WR. -/
def ro17 : BitVec 256 := BitVec.ofNat 256 (2 ^ 137 + 2 ^ 131 + 2 ^ 128 + 2 ^ 84)
def roState : State := { small with
  mem := [(0x22A, 0x10), (0x230, 0x09), (0x231, 0x02)], bays := [(0, { Bay.idle with inst := some (0, 1), hcache := [(17, ro17)] })] }
theorem wit_address_formation :
    small.entry (ctx0 0 true) 16 = none
    ∧ ((roState.entry (ctx0 0 true) (ptrH (mkPtr 17 0))).map fun x => x.2.wr) = some false
    ∧ ((small.entry (ctx0 0 true) (ptrH 0xFFFFC)).map fun x => (x.2.wr, x.2.bound)) = some (true, 0x100000) ∧ 0x100000 < ptrOff 0xFFFFC + 8
    ∧ (ptrH 0xFFFF8 = 0 ∧ ptrOff 0xFFFF8 + 8 ≤ 2 ^ 20) ∧ (ptrH 0xFFFF9 = 0 ∧ 2 ^ 20 < ptrOff 0xFFFF9 + 8)
    ∧ (ptrH (mkPtr 1 0x3FFF8) = 1 ∧ ptrOff (mkPtr 1 0x3FFF8) + 8 ≤ 2 ^ 18)
    ∧ (ptrH (mkPtr 3 0) = 3 ∧ (ctx0 1 true).tenant ≠ 0) ∧ ((ctx0 0 false).isBay = false ∧ ptrH (mkPtr 3 0) ≤ 3)
    ∧ (4 ≤ ptrH (mkPtr 4 0) ∧ ptrH (mkPtr 15 0) ≤ 15) := by decide
theorem wit_address_physical : let s := wordIs 5
    ∃ e, s.entry s.firCtx (ptrH (ptr16 0x1000)) = some (s, e) ∧ e.space = 2 ∧ e.wr = true ∧ ptrOff (ptr16 0x1000) + 8 ≤ e.bound
      ∧ s.checkSegs false [⟨s.ga (e.base + ptrOff (ptr16 0x1000)), 8⟩] = none :=
  ⟨entOf phys16.toNat, entry_hit _ _ _ phys16 rfl (by decide) (by decide) (by decide) (by decide), by decide, by decide, by decide,
    low_is_usable _ _ _ (by decide +kernel) (by decide +kernel)⟩

theorem wit_scalar_loads : let s := memAt (two 8 0) 8 [1]
    fits (s.regs.rg 1) 0 ∧ s.loadAddr s.firCtx (moved (s.regs.rg 1) 0) 8 = .ok (s, [⟨win + 8, 8⟩]) ∧ s.sbBlocks s.firCtx [⟨win + 8, 8⟩] = false
    ∧ (∀ x ∈ [(⟨win + 8, 8⟩ : Seg)], gaMod x.addr = s.own) ∧ s.slices = [] ∧ s.pairs = [] ∧ s.veils = []
    ∧ (∀ y ∈ s.insts, y.versioned = false) ∧ isWindow (gaLocal 0x1000) = false := by
  refine ⟨by unfold fits; decide, ?_⟩; decide +kernel
theorem wit_scalar_load_faults : ¬ fits ((at_ (two 0 0)).regs.rg 1) (-1)
    ∧ codeOf ((at_ (two 0xFFFF9 0)).loadAddr small.firCtx 0xFFFF9 8) = 0x08 ∧ (0x08 : Nat) ≠ 0x0A ∧ small.fir.region = none := by
  refine ⟨by unfold fits; decide, ?_⟩; decide +kernel

theorem wit_scalar_store : let s := at_ (two 8 5)
    fits (s.regs.rg 1) 0 ∧ s.fir.region = none ∧ s.storeAddr s.firCtx (moved (s.regs.rg 1) 0) 8 = .ok (s, [⟨win + 8, 8⟩])
    ∧ s.sbBlocks s.firCtx [⟨win + 8, 8⟩] = false ∧ (∀ x ∈ [(⟨win + 8, 8⟩ : Seg)], gaMod x.addr = s.own)
    ∧ (s.slices = [] ∧ s.pairs = [] ∧ s.waiters = [] ∧ ∀ x ∈ s.inst? 0 1, x.versioned = false) ∧ s.mem.wf = true ∧ s.mpoison.wf = true
    ∧ (segBytes [⟨win + 8, 8⟩]).Nodup ∧ (segBytes [⟨win + 8, 8⟩]).length = 8 := by
  refine ⟨by unfold fits; decide, ?_⟩; decide +kernel
theorem wit_scalar_store_faults : ¬ fits ((at_ (two 0 5)).regs.rg 1) (-1)
    ∧ codeOf ((at_ (two 0xFFFF9 0)).storeAddr small.firCtx 0xFFFF9 8) = 0x08
    ∧ (inRegion (two (mkPtr 2 0) 0)).fir.region.isSome = true ∧ 1 < ptrH ((inRegion (two (mkPtr 2 0) 0)).regs.rg 1) := by
  refine ⟨by unfold fits; decide, ?_⟩; decide +kernel

/-! ### Synchronisation and updates -/

theorem wit_sync_lda_stl : fits ((wordIs 5).regs.rg 1) 0 ∧ (wordIs 5).fir.region = none
    ∧ (∀ wr, (wordIs 5).syncAddr (wordIs 5).firCtx (ptr16 0x1000) wr = .ok (wordIs 5, 0x1000)) ∧ moved ((wordIs 5).regs.rg 1) 0 = ptr16 0x1000
    ∧ gaMod 0x1000 = (wordIs 5).own :=
  ⟨by unfold fits; decide, rfl, fun wr => word_reached 5 wr (by decide), by decide, by decide⟩
/-- The three values ACQ tells apart, and the two REL does. -/
theorem wit_sync_owner : ((wordIs 0).readWord small.firCtx 0x1000).2.1 = 0 ∧ small.ownerTag ≠ 0
    ∧ ((wordIs ownTag).readWord small.firCtx 0x1000).2.1 = small.ownerTag
    ∧ ((wordIs 5).readWord small.firCtx 0x1000).2.1 ≠ 0 ∧ ((wordIs 5).readWord small.firCtx 0x1000).2.1 ≠ small.ownerTag
    ∧ (wordIs 0).syncAddr (wordIs 0).firCtx (ptr16 0x1000) true = .ok (wordIs 0, 0x1000)
    ∧ (wordIs ownTag).syncAddr (wordIs ownTag).firCtx (ptr16 0x1000) true = .ok (wordIs ownTag, 0x1000) :=
  ⟨by decide, by decide, by decide, by decide, by decide, word_reached _ _ (by decide), word_reached _ _ (by decide)⟩
/-- SYNCCAS that hits (g0 against 0) and misses; WAITV at equality, below and above its operand 5. -/
theorem wit_sync_compare : ((wordIs 0).readWord small.firCtx 0x1000).2.1 = (wordIs 0).regs.rg 0
    ∧ ((wordIs 5).readWord small.firCtx 0x1000).2.1 ≠ (wordIs 5).regs.rg 0
    ∧ ((wordIs 5).readWord small.firCtx 0x1000).2.1 = (wordIs 5).regs.rg 2
    ∧ ((wordIs 5).regs.rg 2).toNat ≤ ((wordIs 5).readWord small.firCtx 0x1000).2.1.toNat
    ∧ ((wordIs 6).readWord small.firCtx 0x1000).2.1 ≠ (wordIs 6).regs.rg 2
    ∧ ¬ ((wordIs 0).regs.rg 2).toNat ≤ ((wordIs 0).readWord small.firCtx 0x1000).2.1.toNat
    ∧ (wordIs 5).slices = [] ∧ (wordIs 5).pairs = [] ∧ (wordIs 5).waiters = [] ∧ (wordIs 5).mem.wf = true := by decide
theorem wit_sync_misaligned : small.addressOf (ctx0 0 true) 4 8 true = .ok (small, [⟨win + 4, 8⟩]) ∧ (win + 4) % 8 ≠ 0
    ∧ (inRegion Regs.zero).fir.region.isSome = true := by decide +kernel

/-- Semaphore 7 of bay 0 holds 9. -/
def semIs9 (r : Regs) : State := { at_ r with bays := [(0, { Bay.idle with inst := some (0, 1), sems := [(7, 9)] })] }
theorem wit_semaphores : (semIs9 (two 7 9)).fir.region = none ∧ ((semIs9 (two 7 9)).bay 0).semWaiters = []
    ∧ (∀ q ∈ (semIs9 (two 7 9)).pairs, q.who ≠ small.firCtx.who)
    ∧ ((semIs9 (two 7 0)).regs.rg 2).toNat % 65536 = 0
    ∧ ((semIs9 (two 7 9)).regs.rg 2).toNat % 65536 ≤ (semIs9 (two 7 9)).sem 0 7
    ∧ (semIs9 (two 7 10)).sem 0 7 < ((semIs9 (two 7 10)).regs.rg 2).toNat % 65536 := by decide
theorem wit_semaphore_service : let w (p : Nat) : SemWaiter := ⟨7, 3, .actor 0 0, p⟩
    ((w 0).sem = 7 ∧ (w 0).thr ≤ 3) ∧ (2 < (w 64).thr ∧ 64 ≤ (w 64).passed) ∧ (∀ y ∈ [w 63], y.sem = 7 → y.passed < 64) := by decide

/-- Yard 23 of the field, with two arrivals expected and `k` of them made. -/
def yardIs (k : Nat) (r : Regs) : State := { at_ r with fields := [{ oneField 0 with yards := [(23, ⟨2, 0xE00000, k, 0⟩)] }] }
theorem wit_yards : 23 < ((at_ (two 24 1)).regs.rg 1).toNat ∧ ((at_ (two 23 0)).regs.rg 2).toNat % 65536 = 0
    ∧ plotValid 1 1 0xFFFFFF = false ∧ plotValid (pktFw onePacket) (pktFh onePacket) 0xE00000 = true
    ∧ (0xE000000002 / 65536 % 2 ^ 24 = 0xE00000) ∧ (0xE000000002 % 65536 = 2)
    ∧ (small.field? 0).map Field.yards = some [] ∧ small.fir.region = none
    ∧ ((yardIs 0 (two 23 0)).field? 0).map (fun f => tget 23 f.yards) = some (some ⟨2, 0xE00000, 0, 0⟩)
    ∧ inPlot (pktFw onePacket) (pktFh onePacket) 0xE00000 0 0 = true ∧ inPlot (pktFw onePacket) (pktFh onePacket) 0xE00000 1 0 = false
    ∧ (0 : Nat) + 1 ≠ 2 ∧ (1 : Nat) + 1 = 2 ∧ ((yardIs 1 (two 23 0)).field? 0).map (fun f => tget 23 f.yards) = some (some ⟨2, 0xE00000, 1, 0⟩)
    ∧ (0 : BitVec 1) ≠ (1 : Word).setWidth 1 ∧ (0 : BitVec 1) = (2 : Word).setWidth 1 := by decide

/-- An instance with a handler of class 2 on bay 0 and its route. -/
def instMsg : Inst := { inst8 with image := { inst8.image with
  actors := [⟨0, 32, 0, 0, 0, 0, false, 0, 1, 1, 0, 0xFFFF⟩, ⟨0, 32, 0, 0, 0, 1, true, 2, 1, 1, 0, 0xFFFF⟩], routes := [⟨1, 2, 0, 0, 0⟩] } }
def msgState (q : List Msg) (r : Regs) : State := { at_ r with
  insts := [instMsg], bays := [(0, { Bay.idle with inst := some (0, 1), msgs := q })] }
theorem wit_messages : let s := msgState [] (two 8 0)
    s.fir.region = none ∧ s.loadAddr s.firCtx 8 64 = .ok (s, [⟨win + 8, 64⟩]) ∧ (8 : Word).toNat % 8 = 0 ∧ s.classRoute 2 = true
    ∧ s.handlerBays 2 = [0] ∧ s.sbBlocks s.firCtx [⟨win + 8, 64⟩] = false ∧ gaMod (win + 8) = s.own ∧ s.routeAccepts 0 [0] = true
    ∧ (msgState (List.replicate 16 ⟨2, 0, 0, 0, []⟩) (two 8 0)).routeAccepts 0 [0] = false
    ∧ s.loadAddr s.firCtx 4 64 = .ok (s, [⟨win + 4, 64⟩]) ∧ (4 : Word).toNat % 8 ≠ 0 ∧ s.classRoute 3 = false := by decide +kernel

/-- Handle 18 of tenant 0: SPACE 0 with OP 1 over the first MiB of virtual addresses, which one 8 GiB page maps to HBM4E. -/
def virt18 : BitVec 256 := BitVec.ofNat 256 (2 ^ 139 + 2 ^ 132 + 2 ^ 131 + 2 ^ 128 + 2 ^ 84)
def updState (r : Regs) (g : Option Region) : State := { at_ r with
  fir := { small.fir with regs := r, region := g }
  mem := [(0x24A, 0x10), (0x250, 0x19), (0x251, 0x08), (0x2000, 0x01), (0x2001, 0x30), (0x3000, 0x07)]
  tenants := [(0, { Tenant.reset with xroot := 0x2000 })], tlb := [⟨0, 0, 0, 2 ^ 33, 0, true⟩]
  bays := [(0, { Bay.idle with inst := some (0, 1), hcache := [(18, virt18)] })] }
/-- The pair that UPD of 5 at 0x1000 forms. -/
def pair18 : Pair := ⟨0, 18, 1, 0, 0x1000, 0x1000, 5, false, 0, 0, 1, .actor 0 0⟩
def ptr18 (a : Nat) : Word := mkPtr 18 a
theorem upd_entry (g : Option Region) (hg : g = none ∨ g = some region0) :
    (updState (two (ptr18 0x1000) 5) g).entry (updState (two (ptr18 0x1000) 5) g).firCtx 18 =
      some (updState (two (ptr18 0x1000) 5) g, entOf virt18.toNat) := by
  rcases hg with h | h <;> subst h <;>
    exact entry_hit _ _ _ virt18 rfl (by decide) (by decide) (by decide) (by decide)
theorem virt_address (s u v : State) (c : Ctx) (p : Word) (n a : Nat) (wr : Bool) (e : Ent)
    (he : s.entry c (ptrH p) = some (u, e)) (hs : e.space = 0) (hr : (if wr then e.wr else e.rd) = true)
    (hb : ptrOff p + n ≤ e.bound)
    (ht : u.transRange State.atHome c p wr (n / 65536 + 2) (e.base + ptrOff p) n = .ok (v, [⟨a, n⟩])) :
    s.addressOf c p n wr = .ok (v, [⟨a, n⟩]) := by
  unfold State.addressOf
  rw [he]
  have h1 : (if wr = true then !e.wr else !e.rd) = false := by cases wr <;> simp_all
  simp only [h1, hs, ht]
  simp; omega
/-- A range on one page whose leaf the unit has cached, in the lowest bytes of the module. -/
theorem trans_hit (s : State) (c : Ctx) (p : Word) (wr : Bool) (va n k : Nat) (x : TlbEntry)
    (hf : s.tlb.find? (fun x => x.unit == c.walker && x.tenant == c.tenant && decide (x.va ≤ va) && decide (va < x.va + x.size)) = some x)
    (hw : (s.walk State.atHome c.walker c.tenant va (s.tenant c.tenant).xroot.toNat walkLevels).2 = .leaf x.pa x.size x.w none)
    (hr : x.w = true) (hz : c.tenant = 0) (hn : n ≠ 0) (hs : va % x.size + n ≤ x.size) (hm : gaMod (x.pa + va % x.size) = s.own)
    (hl : gaLocal (x.pa + va % x.size) + n ≤ 2 ^ 26) :
    s.transRange State.atHome c p wr (k + 2) va n = .ok (s, [⟨x.pa + va % x.size, n⟩]) := by
  have ht : s.translate State.atHome c.walker c.tenant va = (s, .leaf x.pa x.size x.w none) := by
    unfold State.translate; simp only [hf, hw]; simp
  have hm' : Nat.min n (x.size - va % x.size) = n := Nat.min_eq_left (by omega)
  have hc := low_is_usable s _ n hm hl
  have h0 : decide (c.tenant ≠ 0) = false := by simp [hz]
  rw [State.transRange, if_neg hn, ht]; dsimp only
  simp only [hm', hr, hc, h0, Nat.sub_self, State.transRange]
  simp
theorem pair_of (s u v : State) (c : Ctx) (p : Word) (val : Nat → Nat) (q : Bool) (e : Ent) (a : Nat) (x : Inst)
    (he : s.entry c (ptrH p) = some (u, e)) (ha : u.addressOf c p (opSize e.op) true = .ok (v, [⟨a, opSize e.op⟩]))
    (ho : e.op ≠ 0) (h8 : a % opSize e.op = 0) (hw : segsTouchReg [⟨a, opSize e.op⟩] = false)
    (hx : v.inst? c.field c.inst = some x) (hv : x.versioned = false) :
    s.pairOf c p val q = .ok (v, ⟨c.tenant, ptrH p, e.op, e.sync, e.base + ptrOff p, a,
      BitVec.ofNat 64 (val e.op % 2 ^ (8 * opSize e.op)), q, 0, c.field, c.inst, c.who⟩) := by
  unfold State.pairOf
  rw [he]
  simp [ha, ho, h8, hw, hx, hv]
theorem pair_formed (g : Option Region) (hg : g = none ∨ g = some region0) :
    ∃ x, (updState (two (ptr18 0x1000) 5) g).pairOf (updState (two (ptr18 0x1000) 5) g).firCtx (ptr18 0x1000) (updVal 5) false =
      .ok (updState (two (ptr18 0x1000) 5) g, x) ∧ x = pair18 := by
  have hh : ptrH (ptr18 0x1000) = 18 := by decide
  have he := upd_entry g hg
  rw [← hh] at he
  refine ⟨_, pair_of _ _ _ _ _ _ _ _ 0x1000 (oneInst 0 1) he (virt_address _ _ _ _ _ 4 0x1000 _ _ he (by decide) (by decide) (by decide)
    (trans_hit _ _ _ _ 0x1000 4 0 ⟨0, 0, 0, 2 ^ 33, 0, true⟩ ?_ ?_ rfl ?_ (by decide) (by decide) ?_ (by decide +kernel)))
    (by decide) (by decide) (by decide +kernel) ?_ (by decide), ?_⟩
  all_goals rcases hg with h | h <;> subst h <;> decide +kernel
theorem wit_updates : let s := updState (two (ptr18 0x1000) 5) none
    s.fir.region = none ∧ s.regs.rg 1 = ptr18 0x1000 ∧ (s.regs.rg 2).toNat = 5 ∧ s.regs.rgp 2 = false
    ∧ s.pairOf s.firCtx (ptr18 0x1000) (updVal 5) false = .ok (s, pair18) := by
  obtain ⟨x, h, hx⟩ := pair_formed none (.inl rfl)
  exact ⟨rfl, by decide, by decide, by decide, hx ▸ h⟩
/-- In an open region with an empty stage, and with a full one; a handle with no operator. -/
theorem wit_updates_in_region : let s := updState (two (ptr18 0x1000) 5) (some region0)
    s.fir.region = some region0 ∧ region0.staged.length < Config.stageSize
    ∧ s.pairOf s.firCtx (ptr18 0x1000) (updVal 5) false = .ok (s, pair18)
    ∧ Config.stageSize ≤ (List.replicate 4096 pair18).length
    ∧ codeOf (small.pairOf small.firCtx 0 (updVal 0) false) = 0x07 := by
  obtain ⟨x, h, hx⟩ := pair_formed (some region0) (.inr rfl)
  exact ⟨rfl, by decide, hx ▸ h, by rw [List.length_replicate]; decide, by decide +kernel⟩
/-- Every lane of UPDV is skipped: no pair. -/
theorem wit_updv : let s := at_ (((Regs.zero.wv 1 (BitVec.allOnes 2048) 0)).wg 3 0 false)
    s.updvPairs s.firCtx (s.regs.rg 3) (s.regs.rv 1) (s.regs.rv 2) (s.regs.rvp 2) (List.range 64) = .ok (s, []) ∧ s.fir.region = none := by
  decide +kernel
theorem wit_updfl : (∀ q ∈ small.pairs, q.who ≠ small.firCtx.who) ∧ (∃ q ∈ [pair18], q.who = small.firCtx.who) :=
  ⟨by decide, pair18, List.mem_singleton.2 rfl, rfl⟩

/-! ### Vectors -/

theorem wit_vector_memory : let s := at_ (vecs (lo2 32 4 8) 0 2)
    s.laneAddrs s.firCtx 0 false (fun n => 4 * (n : Int)) [1] = .ok (s, [⟨win + 4, 4⟩])
    ∧ s.laneAddrs s.firCtx 0 true (fun n => 4 * (n : Int)) [1] = .ok (s, [⟨win + 4, 4⟩]) ∧ (List.range 64).filter (s.regs.rm 1).getLsbD = [1]
    ∧ s.sbBlocks s.firCtx [⟨win + 4, 4⟩] = false ∧ gaMod (win + 4) = s.own ∧ s.regs.rm 1 ≠ 0 ∧ s.fir.region = none
    ∧ s.laneAddrs s.firCtx 0 false (fun _ => 0) [0] = .ok (s, [⟨win, 4⟩])
    ∧ codeOf (s.laneAddrs s.firCtx 0xFFFFC false (fun n => 4 * (n : Int)) [1]) = 0x08
    ∧ s.loadAddr s.firCtx 2 4 = .ok (s, [⟨win + 2, 4⟩]) ∧ (win + 2) % 4 ≠ 0 := by decide +kernel
theorem wit_vector_memory_bound : ¬ fits 0x000FFFFFFFFFFFFC (0 + 4 * ((1 : Nat) : Int)) ∧ fits 0x000FFFFFFFFFFFFC (0 + 4 * ((0 : Nat) : Int))
    ∧ (inRegion (two (mkPtr 2 0) 0)).fir.region.isSome = true ∧ 1 < ptrH (mkPtr 2 0) := by
  unfold fits; decide

theorem wit_ternary_and_tiles : (∀ j, j < 48 → elem 8 (0 : VReg) (48 * (4 : BitVec 3).toNat + j) < 243) ∧ (4 : BitVec 3).toNat < 5
    ∧ 243 ≤ elem 8 (BitVec.ofNat 2048 (243 * 2 ^ (8 * 193))) (48 * 4 + 1)
    ∧ (∀ i, i < 1 → elem 8 (BitVec.ofNat 2048 (243 * 2 ^ (8 * 193))) (48 * 4 + i) < 243)
    ∧ elem 8 (BitVec.ofNat 2048 242) 0 < 243
    ∧ (small.loadAddr small.firCtx 8 8 = .ok (small, [⟨win + 8, 8⟩]) ∧ small.sbBlocks small.firCtx [⟨win + 8, 8⟩] = false ∧ (win + 8) % 8 = 0)
    ∧ (small.loadAddr small.firCtx 12 8 = .ok (small, [⟨win + 12, 8⟩]) ∧ (win + 12) % 8 ≠ 0)
    ∧ (small.storeAddr small.firCtx 8 8 = .ok (small, [⟨win + 8, 8⟩]) ∧ small.fir.region = none)
    ∧ small.storeAddr small.firCtx 12 8 = .ok (small, [⟨win + 12, 8⟩]) := by decide +kernel

/-! ### Ports -/

def tok (x : Nat) : Tok := ⟨BitVec.ofNat 3904 x, 0, none⟩
/-- The channel states of the tests: `l` tokens at the consumer, or `n` sent and none consumed. -/
def fifo (l : List Tok) : Chan := { Chan.empty with fifo := l }
def sent (n : Nat) : Chan := { Chan.empty with sent := n }
/-- A firing with channels, tokens moved and row parts. -/
def portState (l : Table Chan) (moved : Table Nat) (rows : List RowPart) : State :=
  { withCh l Regs.zero with fir := { small.fir with moved := moved, rows := rows } }
theorem wit_ports_unbound : 32 ≤ (0x20 : Port).toNat ∧ ({ small with bays := [] } : State).actorNo 0 0 = none := by decide
theorem wit_ports_bound : let s := portState [] [] []
    (s.actorNo 0 0).map (fun x => (x.1, x.2.1)) = some (instCh [], 0)
    ∧ (∀ p ∈ [0, 1, 2], inChan (instCh []) 0 p = some (p, chanRec true p ([1, 1, 64].getD p 0) ([0, 10, 1].getD p 0)))
    ∧ (∀ p ∈ [0, 1, 2], outChan (instCh []) 0 (16 + p) = some (3 + p, chanRec false p ([1, 1, 64].getD p 0) ([0, 10, 1].getD p 0)))
    ∧ s.fir.region = none ∧ (15 : Nat) < 16 ∧ (16 : Nat) ≤ 16 := by decide +kernel
theorem wit_recvg : (chanRec true 1 1 10).fmtc ≠ 0 ∧ (chanRec true 0 1 0).fmtc = 0
    ∧ (chanRec true 0 1 0).cn < tgetD 0 0 (portState [] [(0, 1)] []).fir.moved + 1
    ∧ tgetD 0 0 (portState [] [] []).fir.moved + 1 ≤ (chanRec true 0 1 0).cn
    ∧ (fifo [tok 5]).seenToks = [tok 5] ∧ (fifo []).seenToks = [] ∧ (fifo []).closed = false
    ∧ { fifo [] with closed := true }.closed = true ∧ { fifo [] with closed := true }.left = 0 := by decide +kernel
theorem wit_recv : (chanRec true 2 64 1).fmtc ≠ 10 ∧ (activeSlots 1 (BitVec.allOnes 64)).length = 2 ∧ 62 + 2 ≤ (chanRec true 2 64 1).cn
    ∧ (activeSlots 1 (BitVec.allOnes 64)).length ≤ (fifo [tok 1, tok 2]).seenToks.length
    ∧ (fifo [tok 1]).seenToks.length < (activeSlots 1 (BitVec.allOnes 64)).length ∧ (fifo [tok 1]).closed = false
    ∧ (chanRec true 1 1 10).fmtc = 10 ∧ ((portState [] [] []).rowPart 1).p = 0
    ∧ ((portState [] [] [⟨1, 1, 0, 0⟩]).rowPart 1).p ≠ 0 ∧ (inRegion Regs.zero).fir.region.isSome = true := by decide +kernel
theorem wit_sendg : (chanRec false 1 1 10).fmtp ≠ 0 ∧ (chanRec false 0 1 0).fmtp = 0
    ∧ (chanRec false 0 1 0).pn < tgetD 16 0 (portState [] [(16, 1)] []).fir.moved + 1
    ∧ roomOf (instCh []) (chanRec false 0 1 0) (sent 4) = 0 ∧ 0 < roomOf (instCh []) (chanRec false 0 1 0) (sent 3) := by decide +kernel
theorem wit_send : (layOut 1 (BitVec.allOnes 64) 0 0).length = 2 ∧ 62 + 2 ≤ (chanRec false 2 64 1).pn
    ∧ (layOut 1 (BitVec.allOnes 64) 0 0).length ≤ roomOf (instCh []) (chanRec false 2 64 1) (sent 2)
    ∧ roomOf (instCh []) (chanRec false 2 64 1) (sent 3) < (layOut 1 (BitVec.allOnes 64) 0 0).length
    ∧ ((portState [] [] []).rowPart 0x11).p = 0 ∧ 0 < roomOf (instCh []) (chanRec false 1 1 10) (sent 3)
    ∧ ((portState [] [] [⟨17, 1, 0, 0⟩]).rowPart 0x11).p = 1 ∧ ((portState [] [] [⟨17, 2, 0, 0⟩]).rowPart 0x11).p = 2
    ∧ bits (2 ^ 43) 47 43 ≠ 0 ∧ bits (2 ^ 42) 47 43 = 0 ∧ bits (2 ^ 48) 47 43 = 0 := by decide +kernel

/-! ### Commands and privileged instructions -/

/-- A command word: its operation code and the rest. -/
def cmdWord (opc rest : Nat) : KWord := BitVec.ofNat 128 (opc * 2 ^ 122 + rest)
/-- A COLL of one bay (SCOPE 4, X, OP 3 over the whole field) and its extension. -/
def collWord : KWord := cmdWord 0x0F (4 * 2 ^ 119 + 2 ^ 85 + 3 * 2 ^ 16)
def collExt : KWord := BitVec.ofNat 128 (0xE00000 * 2 ^ 40)
def nopcWord : KWord := cmdWord 0x12 0
/-- A FILL of the first granule of the bay's scratchpad. -/
def fillWord : KWord := cmdWord 0x06 (2 ^ 8)
def cmdOf (w e : KWord) (ph : Phase) (pos : Nat) : Cmd := ⟨0, w, e, 0, 0, 0, 0, ph, pos, cPtr w, false, false, [], 0, 0, 0, 0, 0, 0⟩
/-- Bay 0 runs the tests' instance. -/
def bayState (f : Bay → Bay) (l : Table Chan) : State := { withCh l Regs.zero with
  islands := [(0, { Island.reset with k := 64, tgtk := 64 })], bays := [(0, f { Bay.idle with inst := some (0, 1) })] }
def cmdState (p : Nat) (c : Cmd) (l : Table Chan) : State := bayState (fun b => { b with queues := [(p, [c])] }) l

theorem wit_command_registers_memory :
    (small.loadAddr small.firCtx 16 16 = .ok (small, [⟨win + 16, 16⟩]) ∧ (win + 16) % 16 = 0 ∧ small.sbBlocks small.firCtx [⟨win + 16, 16⟩] = false)
    ∧ (small.loadAddr small.firCtx 8 16 = .ok (small, [⟨win + 8, 16⟩]) ∧ (win + 8) % 16 ≠ 0)
    ∧ (small.storeAddr small.firCtx 16 16 = .ok (small, [⟨win + 16, 16⟩]) ∧ small.fir.region = none) := by decide +kernel
/-- Ports 0x1F and 0x2D, an extended command in an odd register, a code that its port does not take, NOPC at both ends of the range. -/
theorem wit_kissue_checks : ¬ (0x20 ≤ (0x1F : Port).toNat ∧ (0x1F : Port).toNat ≤ 0x2C) ∧ ¬ (0x2D : Port).toNat ≤ 0x2C
    ∧ (cX collWord = true ∧ (1 : R3).toNat % 2 ≠ 0) ∧ (cX nopcWord = false ∧ (Regs.zero.wk 1 nopcWord false).rkp 1 = false)
    ∧ headerBad 0x20 fillWord = true ∧ headerBad 0x20 nopcWord = false ∧ headerBad 0x2C nopcWord = false
    ∧ small.payloadBad 0 0x20 1 1 nopcWord 0 = false ∧ (small.queueWaiters 0 = []) ∧ cOpc nopcWord ≠ 0x0F := by decide +kernel
theorem wit_kissue_region : let s := inRegion Regs.zero
    s.fir.region.isSome = true ∧ headerBad 0x28 fillWord = false ∧ s.payloadBad 0 0x28 1 1 fillWord 0 = false
    ∧ s.regionAllows s.firCtx fillWord 0 = false ∧ s.regionAllows s.firCtx nopcWord 0 = true := by decide +kernel
theorem wit_kissue_queue : small.ownRange small.firCtx nopcWord 0 = none ∧ (small.queue 0 0x20).length < Config.queueDepth
    ∧ Config.queueDepth ≤ ((bayState (fun b => { b with queues := [(0x20, List.replicate 16 (cmdOf nopcWord 0 .tokens 0))] }) []).queue 0 0x20).length
    ∧ small.ownRange small.firCtx fillWord 0 = some (0, 32) ∧ small.sbFree 0 = true
    ∧ (bayState (fun b => { b with scoreboard := List.replicate 16 ⟨0, 32, 0, 0x28, 0⟩ }) []).sbFree 0 = false := by decide +kernel
theorem wit_kissue_coll : headerBad 0x2C collWord = false ∧ small.payloadBad 0 0x2C 1 1 collWord collExt = false ∧ cOpc collWord = 0x0F
    ∧ small.fir.region = none ∧ small.queueWaiters 0 = [] ∧ (small.queue 0 0x2C).length < Config.queueDepth := by decide +kernel
theorem wit_kwait : (∀ c ∈ small.queue 0 0x20, ¬ (c.actor = small.fir.actor ∧ c.fidx = small.fir.fidx))
    ∧ (∃ c ∈ (cmdState 0x20 (cmdOf nopcWord 0 .tokens 0) []).queue 0 0x20, c.actor = 0 ∧ c.fidx = 0) := by decide +kernel

/-- g1 names an island, g2 points to a save area in HBM4E; handle 19 of tenant 0 is as 16 with a bound of 2^24. -/
def phys19 : BitVec 256 := BitVec.ofNat 256 (2 ^ 137 + 2 ^ 132 + 2 ^ 131 + 2 ^ 128 + 2 ^ 88)
def saveState (island : Nat) (lofts : Table Loft) : State := { at_ (two (BitVec.ofNat 64 island) (mkPtr 19 0x10000)) with
  mem := [(0x26B, 0x01), (0x270, 0x19), (0x271, 0x02)], lofts := lofts
  bays := [(0, { Bay.idle with inst := some (0, 1), hcache := [(19, phys19)] })] }
/-- The loft of island 511 in every state, and an island past the last. -/
def saves : List State := [saveState 511 [], saveState 511 [(511, .restoring 0)], saveState 511 [(511, .full 0)]]
theorem save_address (s : State) (wr : Bool) (hs : s ∈ saves) :
    s.addressOf s.firCtx (mkPtr 19 0x10000) saveArea wr = .ok (s, [⟨s.ga ((entOf phys19.toNat).base + ptrOff (mkPtr 19 0x10000)), saveArea⟩]) := by
  have hh : ptrH (mkPtr 19 0x10000) = 19 := by decide
  have he : s.entry s.firCtx (ptrH (mkPtr 19 0x10000)) = some (s, entOf phys19.toNat) := by
    rw [hh]; simp only [saves, List.mem_cons, List.not_mem_nil, or_false] at hs
    rcases hs with h | h | h <;> subst h <;> exact entry_hit _ _ _ phys19 rfl (by decide) (by decide) (by decide) (by decide)
  refine phys_address _ _ _ _ _ _ _ he (by decide) (by cases wr <;> decide) (by decide) (by decide) ?_ ?_ <;>
    · simp only [saves, List.mem_cons, List.not_mem_nil, or_false] at hs
      rcases hs with h | h | h <;> subst h <;> decide +kernel
theorem wit_privileged : small.firCtx.tenant = 0 ∧ ({ small with fields := [{ oneField 0 with tenant := 1 }] } : State).firCtx.tenant ≠ 0
    ∧ (mkPtr 19 0x10020).toNat % 64 ≠ 0 ∧ (mkPtr 19 0x10000).toNat % 64 = 0
    ∧ (512 : Nat) ≤ 512 ∧ (511 : Nat) < 512 ∧ (saveState 511 []).loft 511 = .empty
    ∧ (saveState 511 [(511, .restoring 0)]).loft 511 = .restoring 0 ∧ (saveState 511 [(511, .full 0)]).loft 511 = .full 0
    ∧ (∀ s ∈ saves, s.sbBlocks s.firCtx [⟨0x10000, saveArea⟩] = false) ∧ (∀ s ∈ saves, gaMod 0x10000 = s.own)
    ∧ small.liveOf 0 ≠ [] ∧ small.liveOf 1 = [] := by decide +kernel

/-! ### Firings -/

def fir0 (st : Status) (rg : Option Region) : Firing := { small.fir with status := st, slot := false, region := rg }
def parked0 : Firing := fir0 (.parked (.room 16 1) true) none
theorem wit_fire_actor : let s := bayState id []
    let s1 : State := { s with insts := [inst8], fir := Firing.none }
    s1.bayRuns 0 = true ∧ s1.slots 0 < 4 ∧ s1.nextReady 0 = none ∧ ((s1.refresh 0).bay 0).fireOrder = [0]
    ∧ (s1.refresh 0).bayInst 0 = some inst8
    ∧ ((s1.refresh 0).bayActors inst8 0).find? (fun q => q.2.idx == 0) = some (0, ⟨0, 32, 0, 0, 0, 0, false, 0, 1, 1, 0, 0xFFFF⟩) := by
  decide +kernel
theorem wit_firing_resume : let s := bayState (fun b => { b with firings := [parked0] }) []
    s.bayRuns 0 = true ∧ s.slots 0 < 4 ∧ s.nextReady 0 = some parked0 ∧ small.bayRuns 0 = false
    ∧ 4 ≤ (bayState (fun b => { b with firings := List.replicate 4 { small.fir with slot := true } }) []).slots 0 := by decide +kernel
theorem wit_resume_kinds : parked0.status = .parked (.room 16 1) true ∧ (fir0 (.parked (.room 16 1) false) none).status = .parked (.room 16 1) false
    ∧ (∀ e a, Park.room 16 1 ≠ .page e a)
    ∧ (fir0 (.parked (.page 0 5) false) (some region0)).status = .parked (.page 0 5) false
    ∧ (fir0 (.parked (.page 0 5) false) (some region0)).region = some region0 :=
  ⟨rfl, rfl, (by intro _ _ h; cases h), rfl, rfl⟩
/-- An actor whose inputs and outputs are all met. -/
def fullChans : Table Chan := [(0, fifo [tok 1]), (1, fifo [tok 1]), (2, fifo (List.replicate 64 (tok 1)))]
def wide6 : Inst := { instCh fullChans with image := { inst8.image with chans := [chanRec true 0 1 0, chanRec false 0 4 0] } }
theorem wit_fireable : ({ bayState id [] with insts := [wide6], fir := Firing.none } : State).fireable 0 wide6 0 ⟨0, 32, 0, 0, 0, 0, false, 0, 1, 1, 0, 0xFFFF⟩ = true := by
  decide +kernel

/-! ### The steps of a command -/

/-- An edge from port 0x20 to port 0x24 of bay 0. -/
def edge0 : EdgeRec := ⟨0, 0, 0x20, 0, 0, 0, 0x24⟩
def edgeInst : Inst := { inst8 with image := { inst8.image with edges := [edge0] } }
def edgeState (p : Nat) (c : Cmd) (n : BitVec 16) : State := { cmdState p c [] with
  insts := [edgeInst], bays := [(0, { Bay.idle with inst := some (0, 1), queues := [(p, [c])], edges := [(0, n)] })] }
/-- A wait on semaphore 7 for 3. -/
def waitWord : KWord := cmdWord 0x12 (7 * 2 ^ 110 + 3 * 2 ^ 98)
theorem wit_command_steps :
    (small.head 0 0x20 = none ∧ (bayState (fun b => { b with stuck := [0x20] }) []).head 0 0x20 = none)
    ∧ (let s := edgeState 0x24 (cmdOf nopcWord 0 .tokens 0) 1
       (s.head 0 0x24).map Cmd.phase = some .tokens ∧ s.bayInst 0 = some edgeInst ∧ (∀ h ∈ (s.bay 0).held, h.1 ≠ 0x24)
       ∧ s.inEdges edgeInst 0 0x24 = [(0, edge0)] ∧ 0 < s.edgeCount 0 0 ∧ (edgeState 0x24 (cmdOf nopcWord 0 .tokens 0) 0).edgeCount 0 0 = 0)
    ∧ ((cmdOf nopcWord 0 .sema 0).phase = .sema ∧ cWthr nopcWord = 0)
    ∧ (cWthr waitWord = 3 ∧ (cmdOf waitWord 0 .sema 0).waiting = false ∧ { cmdOf waitWord 0 .sema 0 with waiting := true }.waiting = true)
    ∧ (let s := bayState (fun b => { b with queues := [(0x24, [cmdOf waitWord 0 .sema 0])], sems := [(7, 3)] }) []
       (s.head 0 0x24).map Cmd.phase = some .sema ∧ (s.bay 0).semWaiters = [] ∧ cWthr waitWord ≤ s.sem 0 (cWsem waitWord))
    ∧ ((cmdState 0x24 (cmdOf nopcWord 0 .run 0) []).head 0 0x24 = some (cmdOf nopcWord 0 .run 0) ∧ cOpc nopcWord = 0x12)
    ∧ (let s := cmdState 0x24 (cmdOf nopcWord 0 .finish 0) []
       s.head 0 0x24 = some (cmdOf nopcWord 0 .finish 0) ∧ s.bayInst 0 = some (instCh []) ∧ s.outEdges (instCh []) 0 0x24 = []
       ∧ cScope nopcWord < 3 ∧ cSinc nopcWord = 0 ∧ (∀ q ∈ s.pairs, q.who ≠ .cmd 0 0x24))
    ∧ ((edgeState 0x20 (cmdOf nopcWord 0 .finish 0) 0xFFFE).edgeCount ((edgeState 0x20 (cmdOf nopcWord 0 .finish 0) 0xFFFE).plotBay edgeInst 0 0) 0
        < 0xFFFF)
    ∧ 0xFFFF ≤ (edgeState 0x20 (cmdOf nopcWord 0 .finish 0) 0xFFFF).edgeCount 0 0 := by decide +kernel

/-! ### Tokens that commands move -/

/-- How many bytes a read gave, and the cause of its fault. -/
def gotLen : Got → Option Nat
  | .ok _ l => some l.length
  | _ => none
def gotFlt : Got → Option Nat
  | .flt f => some f.code
  | _ => none
/-- LDS of one token into port 0, and one whose pointer leaves its window. -/
def ldsWord : KWord := cmdWord 0x01 1
def ldsBad : KWord := cmdWord 0x01 (0xFFFF9 * 2 ^ 20 + 1)
theorem wit_lds : let c := cmdOf ldsWord 0 .run 0; let s := cmdState 0x20 c []
    running s 0 0x20 0x01 c ∧ s.extIn 0 (cb c.word 19 13) = some (instCh [], 0, chanRec true 0 1 0) ∧ c.pos < cb c.word 12 0
    ∧ s.feedGated (instCh []) (chanRec true 0 1 0) ((instCh []).chan 0) = false ∧ tokenPtr c 0 8 = some 0
    ∧ gotLen (s.load (s.cmdCtx 0 0x20) 0 8) = some 8
    ∧ feedRoom (instCh []) (chanRec true 0 1 0) ((instCh []).chan 0) false = true
    ∧ feedRoom (instCh [(0, sent 4)]) (chanRec true 0 1 0) (sent 4) false = false := by unfold running; decide +kernel
theorem wit_lds_ends : let c := cmdOf ldsWord 0 .run 1; running (cmdState 0x20 c []) 0 0x20 0x01 c ∧ cb c.word 12 0 ≤ c.pos := by
  unfold running; decide +kernel
theorem wit_lds_faults : let c := cmdOf ldsBad 0 .run 0; let s := cmdState 0x20 c []
    running s 0 0x20 0x01 c ∧ gotFlt (s.load (s.cmdCtx 0 0x20) 0xFFFF9 8) = some 0x08
    ∧ tokenPtr c 0 8 = some 0xFFFF9 := by unfold running; decide +kernel
/-- LDL at node 8, its next pointer in word 0; and the end of a list, by a null pointer and by its count. -/
def ldlWord (n : Nat) (p : Nat) : KWord := cmdWord 0x03 (p * 2 ^ 20 + n)
theorem wit_ldl : let c := cmdOf (ldlWord 1 8) 0 .run 0; let s := cmdState 0x20 c []
    running s 0 0x20 0x03 c ∧ ptrOff c.ptr ≠ 0 ∧ c.pos < cb c.word 6 0
    ∧ gotLen (s.load (s.cmdCtx 0 0x20) c.ptr 8) = some 8
    ∧ ptrOff (cmdOf (ldlWord 1 0) 0 .run 0).ptr = 0
    ∧ (cb (ldlWord 1 8) 6 0 ≠ 0 ∧ cb (ldlWord 1 8) 6 0 ≤ (cmdOf (ldlWord 1 8) 0 .run 1).pos) := by unfold running; decide +kernel
/-- SPLRD from the ring of channel 6, which stands at offset 0x100 of the bay's window and holds one token. -/
def ringRec : ChanRec := { chanRec true 3 1 0 with spix := 0 }
def ringInst : Inst := { inst8 with
  image := { inst8.image with chans := chans6 ++ [ringRec], spills := [⟨0x100, 64, 6⟩] }, chans := [(6, { Chan.empty with ringCount := 1 })] }
def splrdWord : KWord := cmdWord 0x10 (6 * 2 ^ 68 + 1)
theorem wit_splrd : let c := cmdOf splrdWord 0 .run 0; let s : State := { cmdState 0x20 c [] with insts := [ringInst] }
    running s 0 0x20 0x10 c ∧ s.extIn 0 (cb c.word 19 13) = some (ringInst, 0, chanRec true 0 1 0) ∧ c.pos < cb c.word 12 0
    ∧ ringInst.image.chans[cb c.word 83 68]? = some ringRec ∧ (ringInst.chan 6).ringCount ≠ 0
    ∧ ((s.ringPop ringInst 6 ringRec).map fun x => x.2) = some (tok 0) ∧ cb c.word 12 0 ≤ (cmdOf splrdWord 0 .run 1).pos := by
  unfold running; decide +kernel
/-- STS of one token from port 16. -/
def stsWord (p : Nat) : KWord := cmdWord 0x02 (p * 2 ^ 20 + 16 * 2 ^ 13 + 1)
theorem wit_sts : let c := cmdOf (stsWord 8) 0 .run 0; let s := cmdState 0x24 c [(3, fifo [tok 5])]
    running s 0 0x24 0x02 c ∧ c.pos < cb c.word 12 0
    ∧ s.drainHead 0 (cb c.word 19 13) = some (instCh [(3, fifo [tok 5])], 3, chanRec false 0 1 0, tok 5) ∧ tokenPtr c 0 8 = some 8
    ∧ s.storeAddr (s.cmdCtx 0 0x24) 8 8 = .ok (s, [⟨win + 8, 8⟩]) ∧ s.sbBlocks (s.cmdCtx 0 0x24) [⟨win + 8, 8⟩] = false
    ∧ codeOf (s.storeAddr (s.cmdCtx 0 0x24) 0xFFFF9 8) = 0x08 ∧ tokenPtr (cmdOf (stsWord 0xFFFF9) 0 .run 0) 0 8 = some 0xFFFF9
    ∧ cb c.word 12 0 ≤ (cmdOf (stsWord 8) 0 .run 1).pos := by unfold running; decide +kernel
/-- SCT and UPDS from port 19, which carries 16-byte pairs: offset 8 and value 5. -/
def pairInst : Inst := { inst8 with
  image := { inst8.image with chans := [chanRec false 3 4 12] }, chans := [(0, fifo [tok (5 * 2 ^ 64 + 8)])] }
def sctWord : KWord := cmdWord 0x07 (19 * 2 ^ 13 + 2 * 2 ^ 11 + 1)
theorem wit_sct : ∀ p ∈ [0x24, 0x2B], let c := cmdOf sctWord 0 .run 0; let s : State := { cmdState p c [] with insts := [pairInst] }
    running s 0 p 0x07 c ∧ c.pos < cb c.word 10 0
    ∧ s.drainHead 0 (cb c.word 19 13) = some (pairInst, 0, chanRec false 3 4 12, tok (5 * 2 ^ 64 + 8))
    ∧ offsetAdd (cPtr c.word) 8 = some 8 ∧ s.storeAddr (s.cmdCtx 0 p) 8 4 = .ok (s, [⟨win + 8, 4⟩])
    ∧ cb c.word 10 0 ≤ (cmdOf sctWord 0 .run 1).pos := by unfold running; decide +kernel
/-- UPDS of one pair through handle 18. -/
def updsWord : KWord := cmdWord 0x09 (18 * 2 ^ 72 + 19 * 2 ^ 54 + 1)
def updsState : State := { updState Regs.zero none with
  insts := [{ pairInst with chans := [(0, fifo [tok (5 * 2 ^ 64 + 0x1000)])] }]
  islands := [(0, { Island.reset with k := 64, tgtk := 64 })]
  bays := [(0, { Bay.idle with inst := some (0, 1), hcache := [(18, virt18)], queues := [(0x2A, [cmdOf updsWord 0 .run 0])] })] }
theorem wit_upds : running updsState 0 0x2A 0x09 (cmdOf updsWord 0 .run 0) ∧ (0 : Nat) < cb updsWord 15 0 ∧ updsWord.getLsbD 71 = false
    ∧ (updsState.drainHead 0 (cb updsWord 60 54)).map (fun x => x.2.2.2) = some (tok (5 * 2 ^ 64 + 0x1000))
    ∧ mkPtr (cb updsWord 83 72) 0x1000 = ptr18 0x1000 ∧ cb updsWord 15 0 ≤ (cmdOf updsWord 0 .run 1).pos
    ∧ (cmdState 0x24 (cmdOf updsWord 0 .run 0) []).drainHead 0 (cb updsWord 60 54) = none := by unfold running; decide +kernel
theorem wit_upds_pair : ∃ x, updsState.pairOf (updsState.cmdCtx 0 0x2A) (ptr18 0x1000) (updVal 5) false = .ok (updsState, x) := by
  have hh : ptrH (ptr18 0x1000) = 18 := by decide
  have he : updsState.entry (updsState.cmdCtx 0 0x2A) (ptrH (ptr18 0x1000)) = some (updsState, entOf virt18.toNat) := by
    rw [hh]; exact entry_hit _ _ _ virt18 rfl (by decide) (by decide) (by decide) (by decide)
  exact ⟨_, pair_of _ _ _ _ _ _ _ _ 0x1000 { pairInst with chans := [(0, fifo [tok (5 * 2 ^ 64 + 0x1000)])] } he
    (virt_address _ _ _ _ _ 4 0x1000 _ _ he (by decide) (by decide) (by decide)
      (trans_hit _ _ _ _ 0x1000 4 0 ⟨0, 0, 0, 2 ^ 33, 0, true⟩ (by decide +kernel) (by decide +kernel) rfl (by decide) (by decide)
        (by decide) (by decide +kernel) (by decide +kernel)))
    (by decide) (by decide) (by decide +kernel) (by decide +kernel) (by decide)⟩

/-! ### Copies, gathers and the array -/

/-- The ranges an address formation gives, and the cause of its fault. -/
def segsOf : Except Flt (State × List Seg) → Option (List Seg)
  | .ok x => some x.2
  | .error _ => none
/-- CPY of 64 bytes from offset 0 of the window to offset 128, half done; a FILL of two granules, half done. -/
def cpyWord : KWord := cmdWord 0x04 (2 ^ 16 + 4)
def fill2 : KWord := cmdWord 0x06 (2 * 2 ^ 8 + 0x5A)
theorem wit_copies : let c := cmdOf cpyWord 0 .run 32; let s := cmdState 0x28 c []; let ctx := s.cmdCtx 0 0x28
    running s 0 0x28 0x04 c ∧ 0 < c.pos ∧ c.pos < cpyLen c ∧ cpyLen c = 64
    ∧ segsOf (s.cpyDest 0 0x28 c 32 1) = some [⟨win + 160, 1⟩] ∧ pieceLen (win + 160) 32 = 32 ∧ offsetAdd (cPtr c.word) 32 = some 32
    ∧ s.loadAddr ctx 32 32 = .ok (s, [⟨win + 32, 32⟩]) ∧ reaches s ctx [⟨win + 32, 32⟩] ∧ reaches s ctx [⟨win + 160, 32⟩]
    ∧ segsOf ((s.readSegs ctx [⟨win + 32, 32⟩]).1.cpyDest 0 0x28 c 32 32) = some [⟨win + 160, 32⟩] ∧ gaMod (win + 160) = s.own
    ∧ s.addressOf ctx (cPtr c.word) 64 false = .ok (s, [⟨win, 64⟩]) ∧ segsOf (s.cpyDest 0 0x28 c 0 64) = some [⟨win + 128, 64⟩]
    ∧ win + 64 ≤ win + 128 ∧ cpyLen c ≤ (cmdOf cpyWord 0 .run 64).pos := by unfold running reaches; decide +kernel
theorem wit_fill : let c := cmdOf fill2 0 .run 32; let s := cmdState 0x28 c []; let ctx := s.cmdCtx 0 0x28
    running s 0 0x28 0x06 c ∧ 0 < c.pos ∧ c.pos < 32 * cb c.word 19 8 ∧ offsetAdd (cPtr c.word) 32 = some 32
    ∧ s.copyAddr ctx 32 1 = .ok (s, [⟨win + 32, 1⟩]) ∧ pieceLen (win + 32) 32 = 32 ∧ s.copyAddr ctx 32 32 = .ok (s, [⟨win + 32, 32⟩])
    ∧ reaches s ctx [⟨win + 32, 32⟩] ∧ 32 * cb c.word 19 8 ≤ (cmdOf fill2 0 .run 64).pos := by unfold running reaches; decide +kernel
/-- CPYM of two granules to the bay itself: with no receiver, before its stream, with granule 1 due, and with all of it held. -/
def cpymWord : KWord := cmdWord 0x05 (2 ^ 85 + 2)
def cpymExt (m : Nat) : KWord := BitVec.ofNat 128 (m * 2 ^ 64 + 0xE00000 * 2 ^ 40)
def stream (n : Nat) : McStream := ⟨1, 0, [], 2, n, false, 0, 1, false⟩
theorem wit_cpym : let c (m n : Nat) := { cmdOf cpymWord (cpymExt m) .run 0 with stream := n }
    running (cmdState 0x28 (c 0 0) []) 0 0x28 0x05 (c 0 0) ∧ cb (c 0 0).ext 127 64 = 0
    ∧ (cmdState 0x28 (c 1 0) []).streams = [] ∧ (c 1 0).stream = 0 ∧ running (cmdState 0x28 (c 1 0) []) 0 0x28 0x05 (c 1 0)
    ∧ (∀ k ∈ [1, 2], let s : State := { cmdState 0x28 (c 1 1) [] with streams := [stream k] }
        running s 0 0x28 0x05 (c 1 1) ∧ cb (c 1 1).ext 127 64 ≠ 0 ∧ cb (c 1 1).word 19 0 ≠ 0
        ∧ s.streams.find? (fun m => m.id == (c 1 1).stream) = some (stream k))
    ∧ (stream 1).read < (stream 1).len + (c 1 1).joined
    ∧ (stream 2).len + (c 1 1).joined ≤ (stream 2).read ∧ (stream 2).read < (stream 2).len + (stream 2).replayTo := by
  unfold running; decide +kernel
/-- GTH of one element of 8 bytes into slot 0: its index of 4 bytes is the word at 64, its table stands at 0x100. -/
def gthWord (p : Nat) : KWord := cmdWord 0x08 (2 ^ 85 + p * 2 ^ 20 + 2 ^ 16)
def gthExt : KWord := BitVec.ofNat 128 (0x100 * 2 ^ 64 + 2 ^ 48 + 8 * 2 ^ 32)
def gthCmd (p pos : Nat) (l : Table (Byte × Bool)) : Cmd := { cmdOf (gthWord p) gthExt .run pos with lines := l }
/-- The state and the bytes of a read, when its bytes are at once there. -/
def gotOk (g : Got) (n : Nat) : Bool := match g with
  | .ok t l => decide (t.ga 0 = 0) && l == List.replicate n (0, false)
  | _ => false
theorem wit_gth : let c := gthCmd 64 0 []; let s := cmdState 0x2B c []
    running s 0 0x2B 0x08 c ∧ c.word.getLsbD 16 = true ∧ c.word.getLsbD 17 = false ∧ c.lines = [] ∧ c.pos < gthN c ∧ gthN c = 1
    ∧ offsetAdd (cPtr c.word) ((gthIsz c * c.pos : Nat) : Int) = some 64 ∧ gotOk (s.load (s.cmdCtx 0 0x2B) 64 (gthIsz c)) 4 = true
    ∧ gthIndex c 0 = some 0 ∧ offsetAdd (ePtr c.ext) 0 = some 0x100 ∧ gotOk (s.load (s.cmdCtx 0 0x2B) 0x100 (gthEsz c)) 8 = true
    ∧ gaMod (win + 0) = s.own ∧ gthN c ≤ (gthCmd 64 1 []).pos := by unfold running; decide +kernel
theorem wit_gth_faults : let c := gthCmd 0xFFFFE 0 []; let s := cmdState 0x2B c []
    running s 0 0x2B 0x08 c ∧ c.word.getLsbD 16 = true ∧ c.pos < gthN c ∧ offsetAdd (cPtr c.word) 0 = some 0xFFFFE
    ∧ gotFlt (s.load (s.cmdCtx 0 0x2B) 0xFFFFE (gthIsz c)) = some 0x08 := by unfold running; decide +kernel
theorem wit_landing : ({ Bay.idle with halted := true }).halted = true
    ∧ (let s : State := { small with rwq := [⟨1, 8, 0, 0, false, .unit, 0, 0⟩, ⟨0, 8, 5, 0, false, .unit, 0, 0⟩] }
       (s.bay 0).halted = false ∧ findAt (fun z => z.bay == 0) s.rwq = some (1, ⟨0, 8, 5, 0, false, .unit, 0, 0⟩))
    ∧ (let s : State := { bayState id [] with insts := [ringInst] }
       s.inst? 0 1 = some ringInst ∧ ringInst.image.chans[6]? = some ringRec ∧ (ringInst.chan 6).fifo.length < ringRec.depth
       ∧ s.bayRuns (s.consBay ringInst ringRec) = true ∧ ((s.ringPop ringInst 6 ringRec).map fun x => x.2) = some (tok 0)) := by
  decide +kernel
/-- The array of bay 0 with a mode and a valid slot 3 in the cells. -/
def arr0 (winnow : Bool) : Flail :=
  { Bay.idle.array with winnow := winnow, slots := [(3, ⟨true, 0, [], false, false⟩)], resident := some 3, ksel := 2 }
def arrState (winnow : Bool) (c : Cmd) : State := bayState (fun b => { b with queues := [(0x29, [c])], array := arr0 winnow }) []
/-- APNL into slot 3 (KIND 0) or scale entry 3 (KIND 1). -/
def apnlWord (kind p : Nat) : KWord := cmdWord 0x0A (p * 2 ^ 20 + 3 * 2 ^ 12 + kind * 2 ^ 11)
theorem wit_apnl : let c (k : Nat) := cmdOf (apnlWord k 0) 0 .run 0
    (∀ k ∈ [0, 1], let s := arrState false (c k)
      running s 0 0x29 0x0A (c k) ∧ (c k).word.getLsbD 11 = decide (k = 1) ∧ gotLen (s.readRange (s.cmdCtx 0 0x29) (cPtr (c k).word) 128 State.readVia) = some 128)
    ∧ (let s := arrState false (c 0); gotLen (s.readRange (s.cmdCtx 0 0x29) (cPtr (c 0).word) 6144 State.readVia) = some 6144)
    ∧ (let c := cmdOf (apnlWord 0 0xFFFFF) 0 .run 0; let s := arrState false c
       running s 0 0x29 0x0A c ∧ c.word.getLsbD 11 = false ∧ gotFlt (s.readRange (s.cmdCtx 0 0x29) (cPtr c.word) 6144 State.readVia) = some 0x08) := by
  unfold running; decide +kernel
/-- ARUN of one row in the scratchpad, which the predicate z turns off, on a slot. -/
def arunWord (slot zen : Nat) : KWord := cmdWord 0x0B (2 ^ 83 + slot * 2 ^ 58 + 2 ^ 21 + zen * 2 ^ 19)
theorem wit_arun : (let c := cmdOf (arunWord 3 0) 0 .run 1; let s := arrState false c
       running s 0 0x29 0x0B c ∧ cb c.word 32 21 ≤ c.pos ∧ s.arunSkips 0 c = false)
    ∧ (let c := cmdOf (arunWord 3 1) 0 .run 0
       running (arrState true c) 0 0x29 0x0B c ∧ c.pos < cb c.word 32 21 ∧ ((arrState true c).bay 0).array.winnow = true)
    ∧ (let c := cmdOf (arunWord 4 1) 0 .run 0; let s := arrState false c
       running s 0 0x29 0x0B c ∧ (s.bay 0).array.winnow = false ∧ ((s.bay 0).array.slot (cb c.word 65 58)).valid = false)
    ∧ (let c := cmdOf (arunWord 3 1) 0 .run 0; let s := arrState false c
       running s 0 0x29 0x0B c ∧ ((s.bay 0).array.slot (cb c.word 65 58)).valid = true ∧ (s.bay 0).array.resident = some (cb c.word 65 58)
       ∧ (match s.arunNext 0 c with
          | .row t none => t.data == 0
          | _ => false) = true
       ∧ arunOff c = true ∧ bits (rowTag 0) 47 43 = 0 ∧ (c.word.getLsbD 20 && nbit (rowTag 0) 41) = false) := by
  unfold running; decide +kernel
def adrnWord (dstm : Nat) : KWord := cmdWord 0x0C (dstm * 2 ^ 83 + 2 ^ 21)
def asortWord : KWord := cmdWord 0x0D (2 ^ 32)
theorem wit_adrn_asort_acfg :
    (let c := cmdOf (adrnWord 1) 0 .run 1; let s := arrState false c
     running s 0 0x29 0x0C c ∧ cb c.word 32 21 ≤ c.pos ∧ c.word.getLsbD 83 = true)
    ∧ (let c := cmdOf (adrnWord 0) 0 .run 2; let s := arrState false c
       running s 0 0x29 0x0C c ∧ cb c.word 32 21 ≤ c.pos / 2 ∧ c.word.getLsbD 83 = false
       ∧ s.extIn 0 (cb c.word 72 66) = some (instCh [], 0, chanRec true 0 1 0))
    ∧ (let c := cmdOf asortWord 0 .run 1; let s := arrState true c
       running s 0 0x29 0x0D c ∧ (s.bay 0).array.winnow = true ∧ cb c.word 47 32 ≤ c.pos ∧ 0 < c.pos ∧ c.word.getLsbD 31 = false)
    ∧ (let c := cmdOf asortWord 0 .run 0; running (arrState false c) 0 0x29 0x0D c)
    ∧ (∀ m ∈ [0, 1], let c := cmdOf (cmdWord 0x0E m) 0 .run 0; running (arrState (m == 0) c) 0 0x29 0x0E c ∧ c.word.getLsbD 0 = decide (m = 1)) := by
  unfold running; decide +kernel
/-- A BCAST of one word from offset 0 to offset 128 by the bays of the field's plot, and its collective. -/
def bcastExt (n : Nat) : KWord := BitVec.ofNat 128 (128 * 2 ^ 64 + 0xE00000 * 2 ^ 40 + n)
def bcast (n : Nat) : Cmd := cmdOf collWord (bcastExt n) .run 0
def coll (bays : List Nat) (m : Bool) : Coll := ⟨0, 0, 0xE00000, 0, bays, m⟩
/-- A field of one bay, or of two. -/
def wideField (n : Nat) : Field := { oneField 0 with packet := BitVec.ofNat 512 (n * 2 ^ 296 + 2 ^ 304) }
/-- The bays' COLLs have the counts of a list, and there are some collectives. -/
def collState (l : List Nat) (k : List Coll) : State := { bayState id [] with
  fields := [wideField l.length]
  bays := l.zipIdx.map fun (n, b) => (b, { Bay.idle with inst := some (0, 1), queues := [(0x2C, [bcast n])] })
  colls := k }
theorem wit_coll : (collState [1] []).colls = [] ∧ ((collState [1] []).bay 0).inst = some (0, 1)
    ∧ running (collState [1] []) 0 0x2C 0x0F (bcast 1)
    ∧ running (collState [1, 1] [coll [1] false]) 0 0x2C 0x0F (bcast 1)
    ∧ (∃ x ∈ (collState [1, 1] [coll [1] false]).colls, x.field = 0 ∧ x.grp = cb (bcast 1).word 11 10
        ∧ x.plot = cb (bcast 1).ext 63 40 ∧ x.seq = (bcast 1).seq) := by unfold running; decide +kernel
/-- A partner that is not there yet; parameters that differ; a match; one that has matched; and its end. -/
theorem wit_collective : let two (l : List Nat) (k : Coll) := collState l [k]
    (two [1, 1] (coll [1] false)).collLocal (wideField 2) 0 0xE00000 = [0, 1] ∧ (0 : Nat) ∉ (coll [1] false).bays
    ∧ (two [1, 1] (coll [0, 1] true)).colls[0]? = some (coll [0, 1] true) ∧ (coll [0, 1] true).matched = true
    ∧ (∀ l ∈ [[1, 2], [1, 1]], (two l (coll [0, 1] false)).field? 0 = some (wideField 2)
        ∧ ∀ b ∈ [0, 1], b ∈ (coll [0, 1] false).bays ∧ ((two l (coll [0, 1] false)).collOf (coll [0, 1] false) b).isSome = true)
    ∧ ((two [1, 2] (coll [0, 1] false)).collOf (coll [0, 1] false) 1).map collParams ≠ ((two [1, 2] (coll [0, 1] false)).collOf (coll [0, 1] false) 0).map collParams
    ∧ ((two [1, 1] (coll [0, 1] false)).collOf (coll [0, 1] false) 1).map collParams = ((two [1, 1] (coll [0, 1] false)).collOf (coll [0, 1] false) 0).map collParams
    ∧ (coll [0, 1] false).grp ≠ 2 := by decide +kernel
theorem wit_collective_complete : let x := coll [0] true; let s := collState [1] [x]
    s.colls[0]? = some x ∧ s.field? x.field = some (wideField 1) ∧ s.collLocal (wideField 1) x.grp x.plot = [0] ∧ x.matched = true ∧ x.grp ≠ 2
    ∧ s.collOf x 0 = some (bcast 1) ∧ cb (bcast 1).word 19 16 = 3 ∧ cb (bcast 1).ext 39 24 = 0 ∧ collL (bcast 1) = 4
    ∧ s.collSegs 0 (bcast 1) (4, 4) = .ok (s, [⟨win, 4⟩], [⟨win + 128, 4⟩]) := by decide +kernel

/-! ### The graph sequencer -/

/-- Handle 17 of tenant 0: the first MiB of the window of bay 0, which holds the nodes of the tests. -/
def phys17 : BitVec 256 := BitVec.ofNat 256 (2 ^ 137 + 2 ^ 131 + 2 ^ 128 + 2 ^ 84 + win)
def ptr17 (a : Nat) : Word := mkPtr 17 a
/-- A frame at the node at 0x1000, a task and a field that walks it. -/
def frame0 : Frame := ⟨ptr17 0x1000, 0, none, false, 0⟩
def task0 (base : Nat) (l : List Frame) (st : TaskState) : Task := ⟨0, none, base, l, st⟩
def walkField (l : List Task) : Field := { oneField 0 with tasks := l, nextTask := l.length }
/-- The word at 0x1000 of HBM4E holds 5; in the window a leaf SECTION stands at 0x1020 and a list of switch targets at 0x1040. -/
def walkState (fd : Field) : State := { small with
  mem := [(0x20A, 0x10), (0x210, 0x19), (0x211, 0x02), (0x225, 0x40), (0x22A, 0x10), (0x230, 0x09), (0x231, 0x02), (0x1000, 5),
    (win + 0x1020, 1), (win + 0x1034, 2)]
  seqCache := [(16, phys16), (17, phys17)], fields := [fd], insts := [] }
/-- The state that visits a node whose record is known. -/
def nodeState (r : Nat) : State := walkState (walkField [task0 0 [frame0] (.visit (some (BitVec.ofNat 256 r)))])

theorem visits_known (s : State) (f t typ : Nat) (fd : Field) (x : Task) (fr : Frame) (rest : List Frame) (w : BitVec 256)
    (hw : s.walking f t = some (fd, x)) (hf : x.frames = fr :: rest) (hp : fr.ptr ≠ 0) (hs : x.st = .visit (some w))
    (ht : nodeType w.toNat = typ) (hb : recordBad fr.ptr w.toNat = false)
    (hl : if typ = 10 then x.top = true else x.top = true → (linkOf fr.ptr w.toNat 1).isSome = true) :
    Visits s s f t typ fd x fr rest w.toNat :=
  ⟨⟨hw, hf, fun h => absurd h hp, .inl ⟨w, hs, rfl, rfl⟩⟩, ht, hb, hl⟩

theorem seq_entry_hit (s : State) (c : Ctx) (h : Nat) (e : BitVec 256) (hb : c.isBay = false) (h16 : 15 < h)
    (hc : tget (bayDie c.bay * 65536 + c.tenant * 4096 + h) s.seqCache = some e) (hf : s.tableEntry c.tenant h = (e.toNat, false))
    (hv : (entValid e.toNat && !entMalformed c.tenant e.toNat) = true) : s.entry c h = some (s, entOf e.toNat) := by
  have hk : s.cachedEntry c h = some (s, e.toNat) := by
    unfold State.cachedEntry; simp only [hb, Bool.false_eq_true, if_false, hc, hf]; simp
  unfold State.entry
  rw [if_neg (by omega), hk]
  have : (decide (h ≤ 15) && decide (c.tenant ≠ 0)) = false := by simp; omega
  simp only [this]; simp_all

theorem seq_word (s : State) (c : Ctx) (p : Word) (a : Nat) (x : Word) (ha : s.addressOf c p 8 false = .ok (s, [⟨a, 8⟩])) (h8 : a % 8 = 0)
    (hw : isWindow (gaLocal a) = false) (hr : s.routeFor c [⟨a, 8⟩] = (s, none)) (hx : s.readWord c a = (s, x, false))
    (hs : s.syncSets = []) : s.seqAddr c p = .ok (s, a) ∧ s.seqWord c p = .ok s (putBytes 8 x.toNat false) := by
  have h : s.seqAddr c p = .ok (s, a) := by unfold State.seqAddr; rw [ha]; simp [h8, hw, hr]
  refine ⟨h, ?_⟩
  unfold State.seqWord; rw [h]
  simp [hx, State.acquire, State.acquireReady, State.syncSet, hs, tgetD, tget]

/-- Records: a SECTION of 3 tiles on the field's plot, one whose plot is invalid, one with a table of tile counts; COND, WHILE,
SWITCH over 5 and 6 targets, WAITF, RATE, END; a controller with a COUNT. -/
def secRec (plot : Nat) : Nat := 1 + 2 ^ 8 + plot * 2 ^ 32 + 3 * 2 ^ 128
def tabRec : Nat := 1 + 2 ^ 4 + 2 ^ 8 + 0xE00000 * 2 ^ 32 + (ptr16 0x1000).toNat * 2 ^ 128
def wordRec (typ rest : Nat) : Nat := typ + 2 ^ 8 + rest + (ptr16 0x1000).toNat * 2 ^ 128
def ctrlRec (typ n : Nat) : Nat := typ + 2 ^ 8 + 2 ^ 32 + (if typ = 3 then 2 ^ 56 else 0) + n * 2 ^ 64
def visitRecs : List (Nat × Nat) := [(1, secRec 0xE00000), (1, secRec 0xFFFFFF), (1, tabRec), (5, wordRec 5 0), (6, wordRec 6 (2 ^ 32)),
  (7, wordRec 7 (2 ^ 32 + 5 * 2 ^ 96)), (7, wordRec 7 (2 ^ 32 + 6 * 2 ^ 96)), (8, wordRec 8 (2 * 2 ^ 32)), (9, 9 + 2 ^ 8), (10, 10),
  (2, ctrlRec 2 0), (3, ctrlRec 3 0), (4, ctrlRec 4 0), (2, ctrlRec 2 1), (3, ctrlRec 3 1), (4, ctrlRec 4 1)]
theorem wit_visits : ∀ q ∈ visitRecs, let w := BitVec.ofNat 256 q.2; let x := task0 0 [frame0] (.visit (some w))
    Visits (nodeState q.2) (nodeState q.2) 0 0 q.1 (walkField [x]) x frame0 [] w.toNat ∧ x.tooDeep = false := by
  intro q hq
  simp only [visitRecs, List.mem_cons, List.not_mem_nil, or_false] at hq
  rcases hq with h | h | h | h | h | h | h | h | h | h | h | h | h | h | h | h <;> subst h <;>
    exact ⟨visits_known _ _ _ _ _ _ _ _ _ rfl rfl (by decide) rfl (by decide) (by decide) (by decide), by decide⟩
/-- The state after such a visit, and its sequencer's context. -/
def taskOf (r : Nat) : Task := task0 0 [frame0] (.visit (some (BitVec.ofNat 256 r)))
def vState (r : Nat) : State := visited (nodeState r) 0 0 (taskOf r) frame0 [] (BitVec.ofNat 256 r).toNat
def vCtx (r : Nat) : Ctx := (vState r).walkCtx (walkField [taskOf r]) 0
/-- The nodes that read the word at 0x1000. -/
def wordRecs : List Nat := [tabRec, wordRec 5 0, wordRec 6 (2 ^ 32), wordRec 7 (2 ^ 32 + 5 * 2 ^ 96), wordRec 7 (2 ^ 32 + 6 * 2 ^ 96),
  wordRec 8 (2 * 2 ^ 32)]
theorem vword (r : Nat) (hr : r ∈ wordRecs) : (vState r).seqAddr (vCtx r) (ptr16 0x1000) = .ok (vState r, 0x1000)
    ∧ (vState r).seqWord (vCtx r) (ptr16 0x1000) = .ok (vState r) (putBytes 8 5 false) := by
  have hh : ptrH (ptr16 0x1000) = 16 := by decide
  have he : (vState r).entry (vCtx r) (ptrH (ptr16 0x1000)) = some (vState r, entOf phys16.toNat) := by
    rw [hh]
    simp only [wordRecs, List.mem_cons, List.not_mem_nil, or_false] at hr
    rcases hr with h | h | h | h | h | h <;> subst h <;>
      exact seq_entry_hit _ _ _ phys16 (by decide +kernel) (by decide) (by decide +kernel) (by decide +kernel) (by decide)
  have hg : (vState r).ga ((entOf phys16.toNat).base + ptrOff (ptr16 0x1000)) = 0x1000 := by
    have h0 : (vState r).own = 0 := by
      simp only [wordRecs, List.mem_cons, List.not_mem_nil, or_false] at hr
      rcases hr with h | h | h | h | h | h <;> subst h <;> decide +kernel
    have h1 : (entOf phys16.toNat).base + ptrOff (ptr16 0x1000) = 0x1000 := by decide
    simp only [State.ga, h0, h1, Nat.zero_mul, Nat.zero_add]
  have h2 : gaMod 0x1000 = (vState r).own := by
    simp only [wordRecs, List.mem_cons, List.not_mem_nil, or_false] at hr
    rcases hr with h | h | h | h | h | h <;> subst h <;> decide +kernel
  have ha := phys_address _ _ _ _ 8 false _ he (by decide) (by decide) (by decide) (by decide) (by rw [hg]; exact h2) (by rw [hg]; decide)
  rw [hg] at ha
  refine seq_word _ _ _ _ 5 ha (by decide) (by decide) ?_ ?_ ?_ <;>
    · simp only [wordRecs, List.mem_cons, List.not_mem_nil, or_false] at hr
      rcases hr with h | h | h | h | h | h <;> subst h <;> decide +kernel
/-- What the statement asks of those words: the pointer, the tile count, the two sides of a switch, its list, and a WHILE that
tests again. -/
theorem wit_node_words : (∀ r ∈ wordRecs.tail, nodePtr (BitVec.ofNat 256 r).toNat = ptr16 0x1000)
    ∧ offsetAdd (BitVec.ofNat 64 (nodeField tabRec 16 8)) ((8 * (nodeField tabRec 24 4 + 0) : Nat) : Int) = some (ptr16 0x1000)
    ∧ nbit tabRec 4 = true ∧ nbit (secRec 0xE00000) 4 = false ∧ plotValid 1 1 (nodeField (secRec 0xE00000) 4 3) = true
    ∧ plotValid 1 1 (nodeField (secRec 0xFFFFFF) 4 3) = false ∧ gotNat (putBytes 8 5 false) = 5
    ∧ (let r := wordRec 7 (2 ^ 32 + 5 * 2 ^ 96); nodeField r 12 2 ≤ 5)
    ∧ (let r := wordRec 7 (2 ^ 32 + 6 * 2 ^ 96)
       5 < nodeField r 12 2 ∧ (linkOf frame0.ptr r 4).bind (fun q => offsetAdd q ((4 * 5 : Nat) : Int)) = some (ptr17 0x1034)
       ∧ (match (vState r).seqRead (vCtx r) (ptr17 0x1034) 4 with
          | .ok _ m => gotNat m == 2 && !gotPoison m
          | _ => false) = true
       ∧ bits 2 31 24 = 0 ∧ (match nodeLink frame0.ptr (2 * 256) 1 with
          | .ok k => k == some (ptr17 0x1040)
          | .error _ => false) = true) := by decide +kernel
theorem wit_node_fields : (∀ r ∈ [9 + 2 ^ 8, 10], ((vState r).field? 0).isSome = true ∧ ∀ i ∈ (vState r).insts, i.field ≠ 0)
    ∧ (∃ i ∈ small.insts, i.field = 0) ∧ (task0 16 [frame0] (.visit none)).tooDeep = true
    ∧ (∀ k ∈ [2, 3, 4], nodeField (ctrlRec k 0) 8 4 = 0 ∧ nodeField (ctrlRec k 1) 8 4 ≠ 0
        ∧ (match (vState (ctrlRec k 1)).readKids (vCtx (ctrlRec k 1)) 65536 (linkOf frame0.ptr (ctrlRec k 1) 4) with
          | .ok _ l => l == [ptr17 0x1020]
          | _ => false) = true
        ∧ ((vState (ctrlRec k 1)).field? 0).isSome = true) := by decide +kernel
/-- A malformed END, a record that is no node, and a record read at its visit. -/
theorem wit_node_reads : (let s := nodeState (10 + 2 ^ 8); s.walking 0 0 = some (walkField [taskOf (10 + 2 ^ 8)], taskOf (10 + 2 ^ 8))
        ∧ recordBad frame0.ptr (10 + 2 ^ 8) = true)
    ∧ nodeType 0 = 0 ∧ 10 < nodeType 11 ∧ nodeType 0 ≠ 1 ∧ (1 ≤ nodeType 10 ∧ nodeType 10 ≤ 10)
    ∧ (let x := task0 0 [{ frame0 with ptr := ptr17 0x1020 }] (.visit none); let s := walkState (walkField [x])
       s.walking 0 0 = some (walkField [x], x) ∧ ptr17 0x1020 ≠ 0
       ∧ (match s.readNode (s.walkCtx (walkField [x]) 0) (ptr17 0x1020) with
          | .ok _ l => nodeType (gotNat l) == 1
          | _ => false) = true) := by decide +kernel
/-- A task at the end of the body of a WHILE. -/
def againTask : Task := task0 0 [⟨0, 1, none, true, 0⟩, { frame0 with record := BitVec.ofNat 256 (wordRec 6 (2 ^ 32)) }] (.visit none)
theorem wit_while_again : let s := walkState (walkField [againTask])
    s.walking 0 0 = some (walkField [againTask], againTask)
    ∧ s.seqWord (s.walkCtx (walkField [againTask]) 0) (nodePtr (BitVec.ofNat 256 (wordRec 6 (2 ^ 32))).toNat) = .ok s (putBytes 8 5 false) := by
  refine ⟨by decide +kernel, ?_⟩
  have hp : nodePtr (BitVec.ofNat 256 (wordRec 6 (2 ^ 32))).toNat = ptr16 0x1000 := by decide
  rw [hp]
  have hh : ptrH (ptr16 0x1000) = 16 := by decide
  have he := seq_entry_hit (walkState (walkField [againTask])) ((walkState (walkField [againTask])).walkCtx (walkField [againTask]) 0) 16 phys16
    (by decide +kernel) (by decide) (by decide +kernel) (by decide +kernel) (by decide)
  rw [← hh] at he
  have h1 : (entOf phys16.toNat).base + ptrOff (ptr16 0x1000) = 0x1000 := by decide
  have ha := phys_address _ _ _ _ 8 false _ he (by decide) (by decide) (by decide) (by decide) (by decide +kernel) (by decide +kernel)
  have hg : (walkState (walkField [againTask])).ga ((entOf phys16.toNat).base + ptrOff (ptr16 0x1000)) = 0x1000 := by decide +kernel
  rw [hg] at ha
  exact (seq_word _ _ _ _ 5 ha (by decide) (by decide) (by decide +kernel) (by decide +kernel) (by decide +kernel)).2
theorem wit_walk_and_permits : frame0.nxt = none ∧ ({ frame0 with nxt := some 32 } : Frame).nxt = some 32 ∧ frame0.body = false
    ∧ (∀ k ∈ [CtrlKind.seq, .pipe, .stream], (⟨k, [32, 64], 3, 1, [0, 0], [0, 0]⟩ : CtrlState).permits 0 = true)
    ∧ (⟨.seq, [32, 64], 3, 1, [1, 0], [1, 0]⟩ : CtrlState).permits 1 = true := by decide
/-- An image of one actor whose code is FEND (R142-R144): its header, its actor at byte 96, its word at byte 128. -/
def imgBytes : List Byte := natLe 160 (0x3144524B + 2 ^ 32 + 160 * 2 ^ 64 + 96 * 2 ^ 128 + 2 ^ 160 + 128 * 2 ^ 640 + 2 ^ 672
  + (4 * 2 ^ 32 + 2 ^ 128 + 2 ^ 160 + 0xFFFF * 2 ^ 208) * 2 ^ 768 + 2 ^ 1024)
theorem test_parse_image : (parseImage imgBytes (List.replicate 160 false) 0 0 1 1).map (fun i => (i.code, i.actors.map ActorRec.clen)) =
    some ([1], [4]) := by decide +kernel
/-- A task that waits to be armed on plot (0, 0), with the image at a pointer. -/
def armTask (p : Nat) : Task := task0 0 [{ frame0 with record := BitVec.ofNat 256 (secRec 0 + p * 2 ^ 64) }] (.arm 3)
def armState (p : Nat) : State := { walkState (walkField [armTask p]) with
  images := [⟨0, 0, 0x40, imgBytes.map fun x => (x, false)⟩], bays := [] }
theorem wit_arm : (∀ p ∈ [0x40, 0x41], let s := armState p
      s.walking 0 0 = some (walkField [armTask p], armTask p) ∧ (armTask p).st = .arm 3
      ∧ s.plotFree (walkField [armTask p]) 0 = true ∧ s.armFirst (walkField [armTask p]) 0 = true)
    ∧ (let s := armState 0x40; match s.image (walkField [armTask 0x40]) (s.walkCtx (walkField [armTask 0x40]) 0) 0x40 0 with
      | .ok u img => img.panels == [] && u.own == 0
      | _ => false) = true
    ∧ (let s := armState 0x41; match s.image (walkField [armTask 0x41]) (s.walkCtx (walkField [armTask 0x41]) 0) 0x41 0 with
      | .bad _ => true
      | _ => false) = true
    ∧ ({ armState 0x40 with insts := small.insts, bays := small.bays } : State).plotFree (walkField [armTask 0x40]) 0 = false := by
  decide +kernel
/-- A placed field whose ROOT is a node, or no pointer to one; and a running one. -/
def startField (root : Nat) (st : FieldStage) : Field := { oneField 0 with packet := BitVec.ofNat 512 (2 ^ 296 + 2 ^ 304 + root), stage := st }
theorem wit_field_start : (∀ r ∈ [(ptr17 0x1020).toNat, 1], let x := startField r .placed; let s := walkState x
      s.field? 0 = some x ∧ pktGang x.packet = false ∧ x.stage = .placed ∧ pktStart x.packet ≤ s.dtime.toNat ∧ (s.tenant x.tenant).stop = .idle)
    ∧ (startField 1 .running).stage ≠ .placed
    ∧ (let x := startField (ptr17 0x1020).toNat .placed; let s := walkState x
       match s.readNode (s.walkCtx x 0) (pktRoot x.packet) with
       | .ok _ l => gotNat l == 1 + 2 * 2 ^ 160
       | _ => false) = true
    ∧ (let x := startField 1 .placed; let s := walkState x; match s.readNode (s.walkCtx x 0) (pktRoot x.packet) with
      | .bad _ => true
      | _ => false) = true := by decide +kernel
/-- An instance with no actor left to fire; and the one of the tests, whose firing is under way. -/
def doneInst : Inst := { inst8 with image := { inst8.image with actors := [], chans := [] } }
theorem wit_section_end : (let s : State := { small with insts := [doneInst], fir := Firing.none }
      s.field? 0 = some (oneField 0) ∧ s.inst? 0 1 = some doneInst ∧ (oneField 0).fault = none ∧ (s.tenant 0).pre < 2
      ∧ s.quiet doneInst = true ∧ s.sourcesDone doneInst = true)
    ∧ small.quiet (oneInst 0 1) = false ∧ small.inst? 0 1 = some (oneInst 0 1) := by decide +kernel
/-- A controller of one child with `n` iterations, and the child's task. -/
def ctrl1 (n : Nat) : CtrlState := ⟨.seq, [32], n, 0, [0], [1]⟩
def childField (n : Nat) (st : TaskState) : Field := walkField [task0 0 [frame0] (.ctrl (ctrl1 n)), ⟨1, some (0, 0, 0), 1, [frame0], st⟩]
theorem wit_child_done : (∀ n ∈ [1, 2], ∀ st ∈ [TaskState.done, .visit none], let fd := childField n st; let s := walkState fd
      s.field? 0 = some fd ∧ (fd.task? 1).map Task.st = some st ∧ (fd.task? 1).map Task.parent = some (some (0, 0, 0))
      ∧ (fd.task? 0).map Task.st = some (.ctrl (ctrl1 n)) ∧ fd.fault = none
      ∧ ((s.setField fd).tenant fd.tenant).stop = .idle)
    ∧ ({ ctrl1 1 with done := [1] }).finished = true ∧ ({ ctrl1 2 with done := [1] }).finished = false := by decide +kernel
theorem wit_waitf : (∀ m ∈ [true, false], let x := task0 0 [frame0] (.waitf 0x1000 5 true m true); let s := walkState (walkField [x])
      s.walking 0 0 = some (walkField [x], x) ∧ x.frames = frame0 :: [] ∧ ∀ k, k < 8 → s.mpoison.read (0x1000 + k) = 0)
    ∧ ({ walkState (walkField []) with mpoison := [(0x1003, 1)] } : State).mpoison.read (0x1000 + 3) ≠ 0 := by decide +kernel
/-- A field with a fault, and one that has ended. -/
def badField (st : FieldStage) : Field := { oneField 0 with fault := some ⟨0x19, 0, 0, 0, 0, 0x7FF, true⟩, stage := st }
theorem wit_sequencer_fault : (∀ st ∈ [FieldStage.running, .ended], let s := walkState (badField st)
      s.field? 0 = some (badField st) ∧ (badField st).fault.isSome = true ∧ (s.tenant 0).pre < 2)
    ∧ (badField .ended).stage ≠ .running ∧ (badField .running).stage = .running ∧ (oneField 0).fault = none := by decide +kernel

/-! ### Launches, the way and the links -/

/-- The machine in service with a tenant 0 and some writes that the host has outstanding. -/
def hostState (x : Tenant) (w : Table (List HostWrite)) : State := { State.reset with
  modnum := 0, bootst := 3, tenants := [(0, x)], hostWrites := w }
def fn0 : HostFn := ⟨0, 0⟩
def hw (sent : Nat) : HostWrite := ⟨[(0x1000, 8)], [1, 2, 3, 4, 5, 6, 7, 8], false, sent⟩
theorem wit_packet_write : let s := hostState Tenant.reset []
    (s.served = true ∧ s.pendingWrites fn0 = []) ∧ (s.tenant 0).free ≠ 0
    ∧ ((hostState { Tenant.reset with launches := List.replicate Config.launchQueue onePacket } []).tenant 0).free = 0
    ∧ State.reset.served = false ∧ (hostState Tenant.reset [(0, [hw 1])]).pendingWrites fn0 ≠ [] := by decide +kernel
/-- A packet of `w` by 1 bays; a gang packet of two modules with a start time. -/
def packet (w : Nat) : BitVec 512 := BitVec.ofNat 512 (w * 2 ^ 296 + 2 ^ 304)
def gang (start : Nat) : BitVec 512 := BitVec.ofNat 512 (2 ^ 296 + 2 ^ 304 + 2 ^ 336 + 2 * 2 ^ 352 + start * 2 ^ 64)
def queued (p : BitVec 512) : State := hostState { Tenant.reset with launches := [p] } []
theorem wit_distribute_head (p : BitVec 512) : ((queued p).tenant 0).launches.head? = some p ∧ (queued p).distributes 0 = true := ⟨rfl, rfl⟩
theorem wit_distribute : (hostState Tenant.reset []).distributes 0 = true ∧ State.reset.distributes 0 = false
    ∧ ((hostState Tenant.reset []).tenant 0).launches = []
    ∧ pktMalformed (packet 0) = true
    ∧ (let g := (queued (packet 65)).gridOf 0; pktMalformed (packet 65) = false ∧ pktTooBig g.1 g.2 (packet 65) = true)
    ∧ (let s := queued (gang 100); let g := s.gridOf 0
       pktMalformed (gang 100) = false ∧ pktTooBig g.1 g.2 (gang 100) = false ∧ s.gangLate (gang 100) = true)
    ∧ pktMalformed (packet 1) = false ∧ pktTooBig 64 32 (packet 1) = false ∧ (queued (packet 1)).gangLate (packet 1) = false := by
  decide +kernel
/-- A packet fixed at (0, 0) where a field lies. -/
def fixed0 : BitVec 512 := BitVec.ofNat 512 (2 ^ 296 + 2 ^ 304 + 2 ^ 337)
theorem wit_distribute_place : let s := queued fixed0; let t : State := { s with fields := [oneField 0] }
    pktMalformed fixed0 = false ∧ pktTooBig (s.gridOf 0).1 (s.gridOf 0).2 fixed0 = false ∧ s.gangLate fixed0 = false
    ∧ (origins (s.gridOf 0).1 (s.gridOf 0).2 fixed0).find? (fun o => s.freeRect 0 (pktFw fixed0) (pktFh fixed0) o.1 o.2) = some (0, 0)
    ∧ origins (t.gridOf 0).1 (t.gridOf 0).2 fixed0 = [(0, 0)] ∧ t.freeRect 0 (pktFw fixed0) (pktFh fixed0) 0 0 = false := by decide +kernel
def gangField (st : FieldStage) : Field := { oneField 0 with packet := gang 100, stage := st }
theorem wit_gang_deadline : let due (p : BitVec 512) : Prop := pktGang p = true ∧ pktStart p ≤ (hostState Tenant.reset []).dtime.toNat + 2000
    due (gang 100) ∧ ¬ due (packet 1) ∧ ({ hostState Tenant.reset [] with fields := [gangField .placed] } : State).field? 0 = some (gangField .placed)
    ∧ (gangField .placed).tenant = (0 : BitVec 4).toNat ∧ (gangField .placed).stage = .placed ∧ (gangField .cleared).stage ≠ .placed
    ∧ ((queued (gang 100)).tenant 0).launches[0]? = some (gang 100) ∧ pktMalformed (gang 100) = false
    ∧ ((queued (packet 1)).tenant 0).launches[0]? = some (packet 1) := by decide +kernel
theorem wit_launch_complete : (let x : Field := { oneField 0 with stage := .ended }; let s : State := { small with fields := [x], insts := [] }
      s.field? 0 = some x ∧ x.stage = .ended ∧ (s.tenant x.tenant).pre < 2 ∧ (∀ i ∈ s.insts, i.field ≠ 0)
      ∧ pktDone x.packet = 0 ∧ nbit x.packet.toNat 338 = false)
    ∧ small.field? 0 = some (oneField 0) ∧ (oneField 0).stage ≠ .ended := by decide +kernel

/-- A pair of an actor on its way to a line, and a batch that holds it. -/
def pair0 (pa : Nat) : Pair := ⟨0, 18, 1, 0, 0x1000, pa, 5, false, 0, 0, 1, .actor 0 0⟩
theorem wit_pairs : (let s : State := { small with pairs := [pair0 0x1000] }
      s.pairs[0]? = some (pair0 0x1000) ∧ s.pairs.take 0 = [] ∧ gaMod (pair0 0x1000).pa = s.own)
    ∧ (let s : State := { small with pairs := [pair0 0x1000, pair0 0x1000] }
       s.pairs[1]? = some (pair0 0x1000) ∧ pair0 0x1000 ∈ s.pairs.take 1)
    ∧ (small.slice 0).batch = [] ∧ (({ small with slices := [(0, { Slice.empty with batch := [pair0 0x1000] })] } : State).slice 0).batch ≠ [] := by
  decide +kernel
/-- A message to the instance of bay 0, to one that has ended, and to one that lives on another bay. -/
def flight (b i : Nat) : MsgFlight := ⟨0, i, b, ⟨2, 0, 0, 0, []⟩, .actor 0 0⟩
def flightState (l : List MsgFlight) (q : List Msg) : State := { msgState q Regs.zero with msgs := l }
theorem wit_message_deliver : (let s := flightState [flight 0 1] []
      s.msgs[0]? = some (flight 0 1) ∧ (s.bay 0).inst = some (0, 1) ∧ (s.bay 0).halted = false ∧ (s.bay 0).msgs.length < Config.messageQueue
      ∧ s.msgs.take 0 = [])
    ∧ Config.messageQueue ≤ ((flightState [] (List.replicate 16 ⟨2, 0, 0, 0, []⟩)).bay 0).msgs.length
    ∧ (let s := flightState [flight 0 2] []; (s.bay 0).inst ≠ some (0, 2) ∧ s.inst? 0 2 = none)
    ∧ (let s := flightState [flight 1 1] []; (s.bay 1).inst ≠ some (0, 1) ∧ (s.inst? 0 1).isSome = true) := by decide +kernel
/-- A channel of the tests whose producer runs on bay 0, with a token on its way. -/
theorem wit_channel_events : let s := bayState id [(0, { Chan.empty with flight := [tok 1] })]; let x := instCh [(0, { Chan.empty with flight := [tok 1] })]
    s.inst? 0 1 = some x ∧ x.image.chans[0]? = some (chanRec true 0 1 0) ∧ (x.chan 0).flight = [tok 1]
    ∧ s.bayRuns (s.consBay x (chanRec true 0 1 0)) = true ∧ s.bayRuns (s.prodBay x (chanRec true 0 1 0)) = true
    ∧ small.bayRuns (small.consBay x (chanRec true 0 1 0)) = false := by decide +kernel
/-- Lanes 8, 4 and 2. -/
theorem wit_link_lanes : let x (n : BitVec 4) : Link := { Link.reset with lanes := n }
    4 < (x 8).lanes.toNat ∧ (2 < (x 4).lanes.toNat ∧ (x 4).lanes.toNat ≤ 4) ∧ (x 2).lanes.toNat ≤ 2 := by decide +kernel
def far0 : Pair := pair0 (2 ^ 47)
theorem wit_routes : (let s : State := { small with routeWaits := [⟨.actor 0 0, 1, false⟩] }; 0 < s.routeWaits.length)
    ∧ (let s : State := { small with pairs := [far0] }
       s.routeWaits.length ≤ 0 ∧ s.pairs[0]? = some far0 ∧ gaMod far0.pa ≠ s.own ∧ (tget (gaMod far0.pa) s.routes).isSome = false)
    ∧ ((1 : Nat) < 320 ∧ 1 ≠ small.own ∧ (0 : Nat) < 18) ∧ (320 : Nat) ≤ 320 ∧ small.own = 0 ∧ (18 : Nat) ≤ 18
    ∧ gaMod 0x1000 = small.own ∧ ErrKind.cleanLine ≠ .hbm := by decide +kernel

/-! ### The solver -/

def solveState (x : Tenant) : State := { State.reset with tenants := [(1, x)], islands := [(0, { Island.reset with ten := 1 })] }
theorem wit_solve : let x : Tenant := { Tenant.reset with solve := some 2, partcfg := 2 ^ 63, pmap := [0], prestat := 0 }
    ((solveState x).tenant 1).solve = some 2 ∧ ((solveState Tenant.reset).tenant 1).solve = none
    ∧ (solveState Tenant.reset).onIslands 1 = false ∧ (hostState { Tenant.reset with solve := some 2 } []).onIslands 0 = true := by decide +kernel
/-- A lower ratio; a higher one whose voltage has arrived, is on its way and is not yet commanded; a rail that stands and one
that moves. -/
theorem wit_islands : let lower : Island := { Island.reset with k := 64, tgtk := 32 }; let upper : Island := { Island.reset with k := 32, tgtk := 64 }
    lower.tgtk < lower.k ∧ (upper.k < upper.tgtk ∧ upper.tgtv ≤ upper.sense 0)
    ∧ (let x : Island := { upper with tgtv := 3, vcode := 3 }; x.sense 100 < x.tgtv ∧ x.tgtv ≤ x.sense 400 ∧ x.vcode = x.tgtv ∧ x.railPos 100 ≠ 125 * x.vcode)
    ∧ (let x : Island := { upper with tgtv := 3 }; x.sense 100 < x.tgtv ∧ x.vcode ≠ x.tgtv)
    ∧ Island.reset.k = Island.reset.tgtk ∧ Island.reset.state = 0 ∧ Island.reset.railPos 0 = 125 * Island.reset.vcode
    ∧ (let x : Island := { Island.reset with state := 2 }; x.railPos 0 = 125 * x.vcode ∧ x.k = x.tgtk ∧ x.state ≠ 0)
    ∧ (Island.reset.railPos 0 ≤ 125 * 3 ∧ ({ Island.reset with vcode := 3 } : Island).railPos 1000 = 375) := by
  decide +kernel
/-- The least ratio that meets a demand is stated of ratios in 1 to 64: a demand of nothing, and one no ratio meets. -/
theorem wit_ratio : (ratioFor ⟨0, 1⟩) = (1, false) ∧ (ratioFor ⟨2 ^ 40, 1⟩).2 = true := by decide +kernel

/-! ### Tenants and the host -/

/-- Tenant 1 with a resident partition of island 0. -/
def ten1 : Tenant := { Tenant.reset with partcfg := BitVec.ofNat 64 (2 ^ 63 + 2 ^ 62 + 2 * 2 ^ 55 + 2 * 2 ^ 49), pmap := [0] }
def tenState (x : Tenant) (lofts : Table Loft) : State := { small with
  fields := [], tenants := [(1, x)], dtime := 200000, lofts := lofts, ctxs := [⟨1, 0, 1, 3, 0, [], [], [], [], []⟩] }
theorem wit_partition : let v : Word := BitVec.ofNat 64 (2 * 2 ^ 55 + 2 * 2 ^ 49); let w := wset v 63 63 1; let g := wget w 61 55 * wget w 54 49
    let l := (tenState Tenant.reset []).readMap (wget w 46 12) (g / 4)
    ((1 : BitVec 4).toNat ≠ 0 ∧ wget w 48 47 = 0 ∧ wget w 11 0 = 0 ∧ 0 < g ∧ g ≤ 2048 ∧ wget w 61 55 % 2 = 0 ∧ wget w 54 49 % 2 = 0
      ∧ (∀ e ∈ l, e ≤ 511) ∧ distinct l = true)
    ∧ ((tenState Tenant.reset []).tenant 1).valid = false ∧ ((tenState ten1 []).tenant 1).valid = true
    ∧ ¬ 0 < wget (0 : Word) 61 55 * wget (0 : Word) 54 49 ∧ (0 : BitVec 4).toNat = 0 := by decide +kernel
theorem wit_stop : (tenState ten1 []).stoppable 1 = true ∧ (tenState ten1 []).stoppable 0 = false
    ∧ (∀ st ∈ [StopStage.rung1, .rung2], let s := tenState { ten1 with stop := st, prestat := 1 } []
        s.stoppable 1 = false ∧ (s.tenant 1).stop = st)
    ∧ ten1.slice = 0
    ∧ (let x := { ten1 with stop := .rung1, prestat := 1 }; x.stopAt + 1000 * wget x.slicecfg 47 32 ≤ (200000 : Word).toNat
        ∧ (99999 : Word).toNat < x.stopAt + 1000 * wget x.slicecfg 47 32)
    ∧ (let x := { ten1 with stop := .rung2, prestat := 1 }; x.stopAt + 1000 * wget x.slicecfg 63 48 ≤ (200000 : Word).toNat
        ∧ (49999 : Word).toNat < x.stopAt + 1000 * wget x.slicecfg 63 48)
    ∧ ten1.stop ≠ .rung1 ∧ ten1.stop ≠ .rung2 ∧ ten1.stop ≠ .rung3
    ∧ (let s := tenState { ten1 with stop := .rung3, prestat := 1 } []
       (s.tenant 1).stop = .rung3 ∧ 0 ∈ s.partBays 1 ∧ (s.bay 0).inst.isSome = true) := by decide +kernel
/-- A slice is over at some time, whatever the floor of slices is. -/
theorem wit_slice : let x := { ten1 with slicecfg := 1 }
    x.slice ≠ 0 ∧ x.sliceAt + x.slice ≤ (BitVec.ofNat 64 (2 ^ 40)).toNat ∧ (0 : Word).toNat < x.sliceAt + x.slice := by
  have h1 : wget (1 : Word) 31 0 = 1 := by decide
  have h2 : Config.slicemin.toNat < 2 ^ 32 := Config.slicemin.isLt
  have h3 : (BitVec.ofNat 64 (2 ^ 40)).toNat = 2 ^ 40 := by decide
  have h4 : ten1.sliceAt = 0 := rfl
  simp only [Tenant.slice, h1, sliceFloor, h3, h4]
  simp
  omega
theorem wit_stop_complete : let s := tenState { ten1 with stop := .halted, prestat := 1 } []
    s.stopRung 1 = some 3 ∧ (s.tenant 1).pmap = [0] ∧ s.loft 0 = .empty ∧ (tenState ten1 []).stopRung 1 = none
    ∧ (tenState ten1 [(0, .full 0)]).loft 0 ≠ .empty := by decide +kernel
/-- A saved tenant whose share is in the loft, one whose share is not, and one that is being restored. -/
def saved1 (n : Nat) : Tenant := { ten1 with prestat := BitVec.ofNat 64 n, stop := .halted, partcfg := BitVec.ofNat 64 (2 ^ 63 + 2 * 2 ^ 55 + 2 * 2 ^ 49) }
theorem wit_resume : ((tenState (saved1 2) []).tenant 1).pre = 2 ∧ (tenState (saved1 2) []).canResume 1 = false
    ∧ (tenState (saved1 2) [(0, .full 0)]).canResume 1 = true ∧ ten1.pre ≠ 2 ∧ ten1.pre ≠ 3
    ∧ (let s := tenState (saved1 3) [(0, .restoring 0)]
       (s.tenant 1).pre = 3 ∧ (match ((restored s 1).foldl State.putContext s).reloadAll 1 (s.partBays 1) with
         | .ok w => w.own == 0
         | .error _ => false) = true) := by decide +kernel

def req (taken : Bool) : PageReq := ⟨0, 0, 0, [], 1, 1, 0x2000, 0, taken⟩
theorem wit_page_requests : let s (n : Nat) : State := { small with prqWaiting := [req false], prq := (List.range n).map fun i => (i, req true) }
    (findAt (fun q => q.tenant == (0 : BitVec 4).toNat) (s 0).prqWaiting = some (0, req false))
    ∧ (s 0).leafReady (req false) = false ∧ ({ s 0 with mem := [(0x2000, 1)] } : State).leafReady (req false) = true
    ∧ (s 0).prqSlot 0 = some 0 ∧ (s 8).prqSlot 0 = none
    ∧ (∀ e ∈ (s 1).prq, e.2.taken = true)
    ∧ (let t : State := { small with prq := [(0, req false)] }
       t.oldestUntaken = some (0, req false) ∧ t.c2hRoom = true ∧ ({ t with c2hprod := 64 } : State).c2hRoom = false
       ∧ ({ t with bootst := 3 } : State).pfSettled 0 = true ∧ t.pfSettled 1 = false ∧ t.prq.find? (fun x => x.2.seq == 1) = some (0, req false) ∧ (∀ e ∈ t.prq, e.2.seq ≠ 2))
    ∧ (hostState Tenant.reset [(0, [hw 1])]).pfSettled 0 = false ∧ (hostState Tenant.reset [(0, [hw 1])]).pfSettled 1 = true := by decide +kernel
theorem wit_mailbox : small.h2cHead = none
    ∧ (let s : State := { small with h2cprod := 1 }; s.h2cHead.isSome = true ∧ (∀ l ∈ s.h2cHead, isInvalidate l = false) ∧ s.c2hRoom = true)
    ∧ (let s : State := { small with h2cprod := 1, mbox := [(0x3000, 2)] }
       s.h2cHead.isSome = true ∧ (∀ l ∈ s.h2cHead, isInvalidate l = true) ∧ s.c2hRoom = true) := by decide +kernel
theorem wit_boot : (let s : State := { small with bootst := 2 }; wget s.bootst 1 0 = 2 ∧ s.modnum ≠ 0x1FF)
    ∧ State.reset.modnum = 0x1FF ∧ (320 : BitVec 9).toNat = 320 ∧ small.fields ≠ []
    ∧ (let s : State := { State.reset with bootst := 2 }
       (319 : BitVec 9).toNat < 320 ∧ s.fields = [] ∧ (319 : BitVec 9).toNat ∉ s.members ∧ 2 ≤ wget s.bootst 1 0) := by decide +kernel
/-- A BAR2 access of the physical function to the first 2^26 bytes; one past the end of memory. -/
theorem wit_bar2 (wr : Bool) : let s := hostState Tenant.reset []
    s.served = true ∧ s.pendingWrites fn0 = [] ∧ s.barSegs fn0 0x1000 8 wr = some (s, [⟨s.ga 0x1000, 8⟩])
    ∧ s.barSegs fn0 (2 ^ 60) 8 wr = none ∧ (hostState Tenant.reset [(0, [hw 1])]).pendingWrites fn0 = [hw 1] ∧ (hw 1).sent ≠ 0
    ∧ State.reset.served = false := by
  have hu : 2 ^ 27 ≤ (hostState Tenant.reset []).usable (hostState Tenant.reset []).own := by
    have := some_channel
    unfold State.usable; rw [if_pos rfl]; omega
  have ht : (fn0.vf).toNat = 0 := rfl
  have hp : (2 : Nat) ^ 27 = 134217728 := by decide
  refine ⟨by decide +kernel, rfl, ?_, ?_, rfl, by decide, by decide +kernel⟩
  · unfold State.barSegs; simp only [ht, if_true]
    rw [if_pos ⟨by omega, by decide⟩]
  · unfold State.barSegs; simp only [ht, if_true]
    rw [if_neg (fun h => absurd h.2 (by decide))]
theorem wit_registers : regAccess 8 0x20 = true ∧ regAccess 4 0x24 = true ∧ regAccess 8 0x24 = false ∧ regAccess 2 0x20 = false
    ∧ (⟨0, 1⟩ : HostFn).vf ≠ 0 ∧ 0x3F < 0x40 ∧ (0x150 : Nat) / 8 * 8 ≠ 0x158
    ∧ (0x7FFFFFE0000 : Word) &&& 0xFFFF80000001FFFF = 0 ∧ (0x10000 : Word) &&& 0xFFFF80000001FFFF ≠ 0
    ∧ setsReserved 0x7FF (span 20 11) = false ∧ setsReserved 0xFFFF (span 47 16) = false ∧ small.fields ≠ [] := by decide +kernel

/-! ### A context moved back into a loft -/

theorem read_writeList (l : List Byte) : ∀ {m : Memory} (a i : Nat), m.wf = true →
    (m.writeList a l).read i = if a ≤ i ∧ i < a + l.length then l.getD (i - a) 0 else m.read i := by
  induction l with
  | nil => intro m a i _; simp [Memory.writeList]
  | cons b l ih =>
    intro m a i h
    rw [Memory.writeList, ih _ _ (Memory.wf_write h a b), Memory.read_write h]
    by_cases e : i = a
    · subst e; simp
    · by_cases c : a + 1 ≤ i ∧ i < a + 1 + l.length
      · have hk : i - a = (i - (a + 1)) + 1 := by omega
        rw [if_pos c, if_pos ⟨by omega, by simp only [List.length_cons]; omega⟩, hk]; rfl
      · rw [if_neg c, if_neg e, if_neg]; simp only [List.length_cons]; omega
theorem readList_below (l : List Byte) {m : Memory} (h : m.wf = true) (b : Nat) : ∀ n a, a + n ≤ b →
    (m.writeList b l).readList a n = m.readList a n := by
  intro n
  induction n with
  | zero => intro a _; rfl
  | succ n ih =>
    intro a hb
    rw [Memory.readList, Memory.readList, ih _ (by omega), read_writeList _ _ _ h, if_neg (by omega)]
theorem readSegs_quiet (s : State) (c : Ctx) (a n : Nat) (hp : s.pairs = []) (hs : s.slices = []) (hv : s.veils = []) (hi : s.insts = [])
    (hw : ∀ k, k < n → isWindow (gaLocal (a + k)) = false) :
    s.readSegs c [⟨a, n⟩] = (s, (List.range n).map fun k => (s.mem.read (a + k), decide (s.mpoison.read (a + k) ≠ 0))) := by
  unfold State.readSegs
  have h1 : s.drainLines c [⟨a, n⟩] = s := by unfold State.drainLines; simp [hp]
  have h2 : s.applySegs [⟨a, n⟩] = s := by unfold State.applySegs; simp [hs]
  rw [h1, h2]
  simp only [segBytes, List.flatMap_cons, List.flatMap_nil, List.append_nil, List.map_map]
  refine congrArg _ (List.map_congr_left fun k hk => ?_)
  have hk' : k < n := List.mem_range.mp hk
  simp only [Function.comp, State.readByte, hw k hk', hv, State.viewByte, hi]
  simp

theorem leNat_zeros (l : List Byte) (h : ∀ x ∈ l, x = 0) : leNat l = 0 := by
  induction l with
  | nil => rfl
  | cons b l ih =>
    rw [leNat, ih fun x hx => h x (List.mem_cons_of_mem _ hx), h b (List.mem_cons_self ..)]; rfl
theorem leNat_natLe : ∀ n x, leNat (natLe n x) = x % 256 ^ n := by
  intro n
  induction n with
  | zero => intro x; simp [natLe, leNat]; omega
  | succ n ih =>
    intro x
    have h : 256 ^ (n + 1) = 256 * 256 ^ n := by rw [Nat.pow_succ, Nat.mul_comm]
    rw [natLe, leNat, ih, BitVec.toNat_ofNat, h, Nat.mod_mul]
theorem natLe_length : ∀ n x, (natLe n x).length = n := by
  intro n
  induction n with
  | zero => intro x; rfl
  | succ n ih => intro x; simp [natLe, ih]

/-- Island 511 belongs to tenant 1, which is saved; the loft is empty and a save area stands at 0x10000. -/
def ctx1 : LoftCtx := ⟨1, 511, 1, 3, 0, [], [], [], [], []⟩
def table19 : Memory := [(0x26B, 0x01), (0x270, 0x19), (0x271, 0x02)]
def loadState (l : List Byte) : State := { saveState 511 [] with
  mem := Memory.writeList table19 0x10000 l, insts := [], ctxs := [ctx1], tenants := [(1, { saved1 2 with pmap := [511] })] }
theorem load_address (l : List Byte) : (loadState l).addressOf (loadState l).firCtx (mkPtr 19 0x10000) saveArea false =
    .ok (loadState l, [⟨0x10000, saveArea⟩]) := by
  have hh : ptrH (mkPtr 19 0x10000) = 19 := by decide
  have h0 : (loadState l).firCtx.tenant = 0 := rfl
  have hm : (loadState l).mem = Memory.writeList table19 0x10000 l := rfl
  have hp : (loadState l).mpoison = [] := rfl
  have hx : ((loadState l).tenant 0).htbase.toNat = 0 := rfl
  have ho : (loadState l).own = 0 := rfl
  have hc : ((loadState l).bay (loadState l).firCtx.bay).hcache = [(19, phys19)] := rfl
  have ht : (loadState l).tableEntry (loadState l).firCtx.tenant 19 = (phys19.toNat, false) := by
    unfold State.tableEntry State.ga
    rw [h0, hm, hp, hx, ho]; dsimp only
    rw [readList_below l (m := table19) (by decide) _ _ _ (by omega)]; decide +kernel
  have he : (loadState l).entry (loadState l).firCtx (ptrH (mkPtr 19 0x10000)) = some (loadState l, entOf phys19.toNat) := by
    rw [hh]; exact entry_hit _ _ _ phys19 rfl (by decide) (by rw [hc, h0]; decide) ht (by rw [h0]; decide)
  have hg : (loadState l).ga ((entOf phys19.toNat).base + ptrOff (mkPtr 19 0x10000)) = 0x10000 := by
    have h0 : (loadState l).own = 0 := rfl
    have h1 : (entOf phys19.toNat).base + ptrOff (mkPtr 19 0x10000) = 0x10000 := by decide
    rw [State.ga, h0, h1, Nat.zero_mul, Nat.zero_add]
  have h2 : gaMod 0x10000 = (loadState l).own := by show _ = 0; decide
  have ha := phys_address _ _ _ _ saveArea false _ he (by decide) (by decide) (by decide) (by decide) (by rw [hg]; exact h2) (by rw [hg]; decide)
  rw [hg] at ha
  exact ha
theorem load_bytes (l : List Byte) (hl : l.length = saveArea) :
    (loadState l).readSegs (loadState l).firCtx [⟨0x10000, saveArea⟩] = (loadState l, l.map fun b => (b, false)) := by
  rw [readSegs_quiet _ _ _ _ rfl rfl rfl rfl]
  · refine congrArg _ (List.ext_getElem (by simp [hl]) fun k h1 h2 => ?_)
    have hk : k < saveArea := by simpa using h1
    have hm : (loadState l).mem.read (0x10000 + k) = l[k]'(by omega) := by
      show (Memory.writeList table19 0x10000 l).read (0x10000 + k) = _
      rw [read_writeList _ _ _ (by decide), if_pos ⟨by omega, by omega⟩, Nat.add_sub_cancel_left, List.getD_eq_getElem]
    have hq : (loadState l).mpoison.read (0x10000 + k) = 0 := rfl
    simp only [List.getElem_map, List.getElem_range, hm, hq]; simp
  · intro k hk
    have h : k < 0x580000 := hk
    have hg : gaLocal (0x10000 + k) = 0x10000 + k := by unfold gaLocal; exact Nat.mod_eq_of_lt (by omega)
    rw [hg]; unfold isWindow Config.windowBase; simp; omega
theorem four_parts {α : Type} (a b c d : List α) (n : Nat) (ha : a.length = n) (hb : b.length = n) (hc : c.length = n) (hd : d.length = n) :
    ∀ j, j < 4 → ((a ++ (b ++ (c ++ d))).drop (n * j)).take n = [a, b, c, d].getD j [] := by
  intro j hj
  have e1 : n * 1 = a.length + 0 := by omega
  have e2 : n * 2 = a.length + (b.length + 0) := by omega
  have e3 : n * 3 = a.length + (b.length + (c.length + 0)) := by omega
  rcases (by omega : j = 0 ∨ j = 1 ∨ j = 2 ∨ j = 3) with h | h | h | h <;> subst h
  · rw [Nat.mul_zero, List.drop_zero, List.take_left' ha]; rfl
  · rw [e1, List.drop_length_add_append, List.drop_zero, List.take_left' hb]; rfl
  · rw [e2, List.drop_length_add_append, List.drop_length_add_append, List.drop_zero, List.take_left' hc]; rfl
  · rw [e3, List.drop_length_add_append, List.drop_length_add_append, List.drop_length_add_append, List.drop_zero, List.take_of_length_le (by omega)]; rfl
theorem body_length (n : Nat) : (natLe 8 n ++ List.replicate (0x15FFC0 - 8) (0 : Byte)).length = 0x15FFC0 := by
  rw [List.length_append, natLe_length, List.length_replicate]
theorem trailer_length (j : Nat) (k : BitVec 32) : (trailer ctx1 j k).length = 64 := by
  simp only [trailer, List.length_append, natLe_length]
theorem share_length (j : Nat) : (shareBytes 0 ctx1 j).length = Config.shareSize := by
  unfold shareBytes; dsimp only; rw [List.length_append, body_length, trailer_length]; rfl
theorem share_reads (j : Nat) (hj : j < 4) : shareRead 511 j (shareBytes 0 ctx1 j) = some (0, 1) := by
  have hb := body_length 0
  unfold shareRead shareBytes
  dsimp only
  rw [List.take_left' hb, List.drop_left' hb]
  have h8 : leNat ((natLe 8 0 ++ List.replicate (0x15FFC0 - 8) (0 : Byte)).take 8) = 0 := by
    rw [List.take_left' (natLe_length 8 0)]; decide
  rw [h8]
  generalize crc32c (natLe 8 0 ++ List.replicate (0x15FFC0 - 8) (0 : Byte)) = k
  have hk : leNat (((trailer ctx1 j k).drop 60).take 4) = k.toNat := by
    have h1 : ((trailer ctx1 j k).drop 60).take 4 = natLe 4 k.toNat := rfl
    rw [h1, leNat_natLe]; exact Nat.mod_eq_of_lt k.isLt
  have h1 : ((trailer ctx1 j k).drop 4).take 1 = [1] := rfl
  have h2 : ((trailer ctx1 j k).drop 0).take 4 = natLe 4 0x31585443 := rfl
  have h3 : ((trailer ctx1 j k).drop 5).take 1 = natLe 1 j := rfl
  have h4 : ((trailer ctx1 j k).drop 6).take 2 = natLe 2 511 := rfl
  have h5 : ((trailer ctx1 j k).drop 9).take 3 = natLe 3 0 := rfl
  have h6 : ((trailer ctx1 j k).drop 24).take 36 = natLe 36 0 := rfl
  rw [if_pos]
  · rw [h1]; rfl
  · rw [h1, h2, h3, h4, h5, h6, hk, leNat_natLe 1 j]
    exact ⟨by decide, by decide, Nat.mod_eq_of_lt (by omega), by decide, by decide, by decide, rfl⟩
/-- The save area of that context, and one that holds nothing. -/
def saved0 : List Byte := shareBytes 0 ctx1 0 ++ (shareBytes 0 ctx1 1 ++ (shareBytes 0 ctx1 2 ++ shareBytes 0 ctx1 3))
theorem saved_length : saved0.length = saveArea := by
  simp only [saved0, List.length_append, share_length]; decide
/-- What a save area of bytes `l` holds for share `j`. -/
def shareOf (i j : Nat) (l : List Byte) : Option (Nat × Nat) :=
  let x := ((l.map fun b => (b, false)).drop (Config.shareSize * j)).take Config.shareSize
  if gotPoison x then none else shareRead i j (x.map Prod.fst)
theorem saved_ctx (s : State) (i n t : Nat) (l : List Byte) (hr : ∀ j, j < 4 → shareOf i j l = some (n, t))
    (hm : s.mapsIdle t i = true) (hc : (s.ctxs[n]?).isSome = true) : s.savedCtx i (l.map fun b => (b, false)) = some (s, n) := by
  have h0 := hr 0 (by omega)
  have h1 := hr 1 (by omega)
  have h2 := hr 2 (by omega)
  have h3 := hr 3 (by omega)
  unfold shareOf at h0 h1 h2 h3
  dsimp only at h0 h1 h2 h3
  unfold State.savedCtx
  dsimp only
  have h4 : List.range 4 = [0, 1, 2, 3] := rfl
  rw [h4]
  simp only [List.map_cons, List.map_nil, h0, h1, h2, h3]
  simp [hm, hc]
theorem saved_ctx_none (s : State) (i : Nat) (l : List Byte) (hr : shareOf i 0 l = none) : s.savedCtx i (l.map fun b => (b, false)) = none := by
  unfold shareOf at hr
  dsimp only at hr
  unfold State.savedCtx
  dsimp only
  have h4 : List.range 4 = [0, 1, 2, 3] := rfl
  rw [h4]
  simp only [List.map_cons, List.map_nil, hr]
  simp
theorem share_of (i j : Nat) (l x : List Byte) (h : (l.drop (Config.shareSize * j)).take Config.shareSize = x) :
    shareOf i j l = shareRead i j x := by
  have h1 : ((l.map fun b => (b, false)).drop (Config.shareSize * j)).take Config.shareSize = x.map fun b => (b, false) := by
    rw [← List.map_drop, ← List.map_take, h]
  have h2 : gotPoison (x.map fun b => (b, false)) = false := by simp [gotPoison]
  have h3 : (x.map fun b => ((b, false) : Byte × Bool)).map Prod.fst = x := by rw [List.map_map]; exact List.map_id _
  unfold shareOf
  dsimp only
  rw [h1, h2, h3]; rfl
theorem load_maps (l : List Byte) : (loadState l).mapsIdle 1 511 = true ∧ ((loadState l).ctxs[0]?).isSome = true := by
  have ht : (loadState l).tenant 1 = { saved1 2 with pmap := [511] } := rfl
  refine ⟨?_, rfl⟩
  unfold State.mapsIdle; rw [ht]; decide
theorem saved_shares (j : Nat) (hj : j < 4) : shareOf 511 j saved0 = some (0, 1) := by
  rw [share_of 511 j saved0 (shareBytes 0 ctx1 j), share_reads j hj]
  rw [saved0, four_parts _ _ _ _ _ (share_length 0) (share_length 1) (share_length 2) (share_length 3) j hj]
  rcases (by omega : j = 0 ∨ j = 1 ∨ j = 2 ∨ j = 3) with h | h | h | h <;> subst h <;>
    simp only [List.getD_cons_zero, List.getD_cons_succ]
theorem wit_ctxload_good : (loadState saved0).addressOf (loadState saved0).firCtx (mkPtr 19 0x10000) saveArea false =
      .ok (loadState saved0, [⟨0x10000, saveArea⟩])
    ∧ (let r := (loadState saved0).readSegs (loadState saved0).firCtx [⟨0x10000, saveArea⟩]; r.1.savedCtx 511 r.2 = some (loadState saved0, 0)) := by
  refine ⟨load_address _, ?_⟩
  rw [load_bytes _ saved_length]
  exact saved_ctx _ 511 0 1 saved0 saved_shares (load_maps _).1 (load_maps _).2
theorem bad_area (l : List Byte) (h0 : ∀ b ∈ l, b = 0) (hl : l.length = saveArea) :
    (loadState l).addressOf (loadState l).firCtx (mkPtr 19 0x10000) saveArea false = .ok (loadState l, [⟨0x10000, saveArea⟩])
    ∧ (let r := (loadState l).readSegs (loadState l).firCtx [⟨0x10000, saveArea⟩]; r.1.savedCtx 511 r.2 = none) := by
  refine ⟨load_address _, ?_⟩
  rw [load_bytes l hl]
  refine saved_ctx_none _ _ _ ?_
  rw [share_of 511 0 l _ rfl]
  unfold shareRead; dsimp only
  rw [if_neg]
  rintro ⟨h1, -⟩
  rw [leNat_zeros _ fun b hb => h0 b (List.mem_of_mem_drop (List.mem_of_mem_take (List.mem_of_mem_drop (List.mem_of_mem_drop (List.mem_of_mem_take hb)))))] at h1
  exact absurd h1 (by decide)
theorem wit_ctxload_bad : ∃ l : List Byte,
    (loadState l).addressOf (loadState l).firCtx (mkPtr 19 0x10000) saveArea false = .ok (loadState l, [⟨0x10000, saveArea⟩])
    ∧ (let r := (loadState l).readSegs (loadState l).firCtx [⟨0x10000, saveArea⟩]; r.1.savedCtx 511 r.2 = none) :=
  ⟨List.replicate saveArea 0, bad_area _ (fun _ h => List.eq_of_mem_replicate h) (List.length_replicate ..)⟩
theorem wit_ctxload : (loadState saved0).loft 511 = .empty ∧ (loadState saved0).firCtx.tenant = 0
    ∧ (loadState saved0).sbBlocks (loadState saved0).firCtx [⟨0x10000, saveArea⟩] = false ∧ gaMod 0x10000 = 0 := ⟨rfl, rfl, rfl, by decide⟩

/-! ### Waits for a route, windows and overflow -/

/-- A pair of the firing to a module that no route reaches; the word of `wordIs 5` with that pair pending. -/
def farPair : Pair := { pair18 with pa := 5 * 2 ^ 47 }
def farWord : State := { wordIs 5 with pairs := [farPair] }
theorem wit_release_waits : ¬ Claims.sent farWord ∧ routed farWord 0x1000 ∧ farWord.fir.region = none
    ∧ fits (farWord.regs.rg 1) 0 ∧ moved (farWord.regs.rg 1) 0 = ptr16 0x1000
    ∧ farWord.syncAddr farWord.firCtx (ptr16 0x1000) true = .ok (farWord, 0x1000) := by
  refine ⟨by unfold Claims.sent; decide, by unfold routed; decide, rfl, by unfold fits; decide, by decide, ?_⟩
  have hh : ptrH (ptr16 0x1000) = 16 := by decide
  have he : farWord.entry farWord.firCtx (ptrH (ptr16 0x1000)) = some (farWord, entOf phys16.toNat) := by
    rw [hh]; exact entry_hit _ _ _ phys16 rfl (by decide) (by decide) (by decide) (by decide)
  have ha := phys_address _ _ _ _ 8 true _ he (by decide) (by decide) (by decide) (by decide) (by decide) (by decide)
  have hg : farWord.ga ((entOf phys16.toNat).base + ptrOff (ptr16 0x1000)) = 0x1000 := by decide
  rw [hg] at ha
  exact sync_address _ _ _ _ _ _ ha (by decide) (by decide)
theorem wit_sync_ready : Claims.sent (wordIs 5) ∧ routed (wordIs 5) 0x1000 ∧ (wordIs 0).pairsHeld small.firCtx.who = false
    ∧ ∀ y, (wordIs 5).inst? small.firCtx.field small.firCtx.inst = some y → y.versioned = false := by
  unfold Claims.sent routed; decide
/-- A waiter of 3 and a younger one of 2 at a count of 2; a waiter passed over 63 times by at most one younger one. -/
theorem wit_semaphore_passes : let w (n p : Nat) : SemWaiter := ⟨7, n, .actor 0 0, p⟩
    (w 3 0).sem = 7 ∧ 2 < (w 3 0).thr ∧ (w 3 0).passed < 64 ∧ (w 2 0).thr ≤ 2
    ∧ ∀ y ∈ [w 3 63], y.sem = 7 → y.passed + [w 3 63].length ≤ 64 := by decide
/-- An update into the register window, through handle 2. -/
theorem wit_update_window : let p := mkPtr 2 0
    ∃ e l, small.entry small.firCtx (ptrH p) = some (small, e) ∧ small.addressOf small.firCtx p (opSize e.op) true = .ok (small, l)
      ∧ segsTouchReg l = true :=
  ⟨⟨4, windowAddr 0 Config.regBase, 0x40000, true, true, 0, 0, 0, 0⟩, [⟨windowAddr 0 Config.regBase, opSize 0⟩], by decide +kernel,
    by decide +kernel, by decide +kernel⟩
theorem updv_skips (s : State) (c : Ctx) (base : Word) (va vb : VReg) (vp : Word) :
    ∀ l : List Nat, (∀ i ∈ l, lane va i = 0xFFFFFFFF) → s.updvPairs c base va vb vp l = .ok (s, []) := by
  intro l h
  induction l with
  | nil => rfl
  | cons i l ih =>
    rw [State.updvPairs]
    rw [if_pos (h i (List.mem_cons_self ..)), ih fun j hj => h j (List.mem_cons_of_mem _ hj)]
/-- UPDV with lane 0 alone active: one pair, past the last room of a full stage. -/
def updvRegs : Regs := (((two (ptr18 0x1000) 5).wv 1 (BitVec.allOnes 2048 <<< 32) 0).wv 2 5 0)
/-- A full stage, and what UPDV finds with it. -/
def fullStage : State := updState updvRegs (some ⟨Regs.zero, List.replicate 4096 pair18⟩)
theorem full_stage_lanes : (∀ i ∈ (List.range 63).map (· + 1), lane (fullStage.regs.rv 1) i = 0xFFFFFFFF) ∧ lane (fullStage.regs.rv 1) 0 = 0
    ∧ fullStage.regs.rg 1 = ptr18 0x1000 ∧ (fullStage.regs.rvp 2).getLsbD 0 = false ∧ gaMod 0x1000 = fullStage.own
    ∧ fullStage.inst? fullStage.firCtx.field fullStage.firCtx.inst = some (oneInst 0 1) := by decide +kernel
theorem full_stage_entry : fullStage.entry fullStage.firCtx (ptrH (ptr18 0x1000)) = some (fullStage, entOf virt18.toNat) :=
  entry_hit _ _ (ptrH (ptr18 0x1000)) virt18 rfl (by decide) (by decide) (by decide) (by decide)
theorem full_stage_addr : fullStage.addressOf fullStage.firCtx (ptr18 0x1000) 4 true = .ok (fullStage, [⟨0x1000, 4⟩]) :=
  virt_address fullStage fullStage fullStage fullStage.firCtx (ptr18 0x1000) 4 0x1000 true _ full_stage_entry (by decide) (by decide) (by decide)
    (trans_hit fullStage _ (ptr18 0x1000) true 0x1000 4 0 ⟨0, 0, 0, 2 ^ 33, 0, true⟩ (by decide +kernel) (by decide +kernel) rfl rfl
      (by decide) (by decide) (by dsimp only; exact full_stage_lanes.2.2.2.2.1) (by decide +kernel))
theorem full_stage_pair : ∃ x, fullStage.pairOf fullStage.firCtx (ptr18 0x1000) (updvVal (lane (fullStage.regs.rv 2) 0)) false =
    .ok (fullStage, x) :=
  ⟨_, pair_of _ _ fullStage fullStage.firCtx (ptr18 0x1000) (updvVal (lane (fullStage.regs.rv 2) 0)) false _ 0x1000 (oneInst 0 1)
    full_stage_entry full_stage_addr (by decide) (by decide) (by decide +kernel) full_stage_lanes.2.2.2.2.2 (by decide)⟩
theorem full_stage_region : fullStage.fir.region = some ⟨Regs.zero, List.replicate 4096 pair18⟩
    ∧ (⟨Regs.zero, List.replicate 4096 pair18⟩ : Region).staged.length = Config.stageSize :=
  ⟨rfl, by show (List.replicate 4096 pair18).length = 4096; rw [List.length_replicate]⟩
theorem updv_one (s : State) (c : Ctx) (base : Word) (va vb : VReg) (vp : Word) (x : Pair)
    (hk : ∀ i ∈ (List.range 63).map (· + 1), lane va i = 0xFFFFFFFF) (h0 : lane va 0 = 0) (ho : offsetAdd base 0 = some base)
    (h : s.pairOf c base (updvVal (lane vb 0)) (vp.getLsbD 0) = .ok (s, x)) :
    s.updvPairs c base va vb vp (List.range 64) = .ok (s, [(base, x)]) := by
  have hr : List.range 64 = 0 :: (List.range 63).map (· + 1) := by decide
  rw [hr, State.updvPairs, h0, if_neg (by decide)]
  simp only [Nat.cast_zero, ho, h, updv_skips _ _ _ _ _ _ _ hk]
theorem wit_updv_overflow : ∃ g x, fullStage.fir.region = some g ∧ g.staged.length = Config.stageSize
    ∧ fullStage.updvPairs fullStage.firCtx (ptr18 0x1000) (fullStage.regs.rv 1) (fullStage.regs.rv 2) (fullStage.regs.rvp 2)
      (List.range 64) = .ok (fullStage, [x]) := by
  obtain ⟨w, h⟩ := full_stage_pair
  exact ⟨_, _, full_stage_region.1, full_stage_region.2, updv_one _ _ _ _ _ _ w full_stage_lanes.1 full_stage_lanes.2.1 (by decide)
    (by rw [full_stage_lanes.2.2.2.1]; exact h)⟩
/-- Lane 0 leaves the pointer's offset range. -/
theorem wit_updv_faults :
    codeOf ((at_ (((two 0xFFFFFFFFFFFFF 5).wv 1 1 0))).updvPairs small.firCtx 0xFFFFFFFFFFFFF 1 0 0 (List.range 64)) = 0x08 := by decide +kernel

/-! ### Commands: full queues, settled commands, tokens of other windows, first pieces -/

/-- A queue of 16 commands with the scoreboard free; a KISSUE that is parked for an entry; the range of a far access is open. -/
def fullQueue : State := bayState (fun b => { b with queues := [(0x28, List.replicate 16 (cmdOf fillWord 0 .tokens 0))] }) []
theorem wit_kissue_full : Config.queueDepth ≤ (fullQueue.queue 0 0x28).length ∧ fullQueue.sbFree 0 = true
    ∧ fullQueue.ownRange fullQueue.firCtx fillWord 0 = some (0, 32)
    ∧ (let c := cmdOf fillWord 0 .tokens 0
       ∃ f ∈ (bayState (fun b => { b with firings := [fir0 (.parked (.queue 0x28 c none) false) none] }) []).queueWaiters 0,
         ∃ c r, f.status = .parked (.queue 0x28 c r) false)
    ∧ (small.sbBlocks small.firCtx [⟨win + 16, 16⟩] = false ∧ ∀ x ∈ [(⟨win + 16, 16⟩ : Seg)], small.noRoute small.firCtx.who x.addr = false) := by
  refine ⟨by decide +kernel, by decide +kernel, by decide +kernel, ?_, by decide +kernel⟩
  exact ⟨_, List.mem_of_elem_eq_true (by decide +kernel : List.elem (fir0 (.parked (.queue 0x28 (cmdOf fillWord 0 .tokens 0) none) false) none) _ = true),
    _, _, rfl⟩
/-- The save area of a context move is open. -/
theorem wit_save_opens : ∀ s ∈ saves, opens s s.firCtx [⟨0x10000, saveArea⟩] := by unfold opens; decide +kernel
/-- One ready firing, which is the next to issue. -/
theorem wit_slots_in_turn : ∃ f, (running1 1).ready 0 = [f] ∧ (running1 1).issuable 0 0 = some f := by
  have h : ((running1 1).ready 0).length = 1 ∧ (running1 1).issuable 0 0 = ((running1 1).ready 0).head? := by decide +kernel
  obtain ⟨h1, h2⟩ := h
  match hl : (running1 1).ready 0 with
  | [f] => exact ⟨f, rfl, by rw [h2, hl]; rfl⟩
  | [] => rw [hl] at h1; exact absurd h1 (by decide)
  | _ :: _ :: _ => rw [hl] at h1; simp at h1
theorem wit_no_resume : (bayState id []).bayRuns 0 = true ∧ (bayState id []).slots 0 < 4 ∧ (bayState id []).nextReady 0 = none := by decide +kernel
/-- A command whose accesses are performed, and one whose register-window unit has not landed. -/
theorem wit_settled : let c := cmdOf nopcWord 0 .finish 0; let s := cmdState 0x24 c []
    s.head 0 0x24 = some c ∧ c.phase = .finish ∧ s.cmdSettled 0 0x24 c = true
    ∧ ({ s with rwq := [⟨0, 8, 5, 0, false, .cmd 0 0x24, 0, 0⟩] } : State).cmdSettled 0 0x24 c = false := by decide +kernel
/-- LDS from accumulator memory is no local load; one from the bay's scratchpad is. -/
theorem wit_lds_far : let c := cmdOf (cmdWord 0x01 (2 ^ 72 + 1)) 0 .run 0; let s := cmdState 0x20 c []
    running s 0 0x20 0x01 c ∧ s.extIn 0 (cb c.word 19 13) = some (instCh [], 0, chanRec true 0 1 0) ∧ c.pos < cb c.word 12 0
    ∧ s.feedGated (instCh []) (chanRec true 0 1 0) ((instCh []).chan 0) = false ∧ tokenPtr c 0 8 = some (mkPtr 1 0)
    ∧ gotLen (s.load (s.cmdCtx 0 0x20) (mkPtr 1 0) 8) = some 8 ∧ s.localHead 0 0x20 = false
    ∧ (cmdState 0x20 (cmdOf ldsWord 0 .run 0) []).localHead 0 0x20 = true := by unfold running; decide +kernel
theorem wit_lds_no_pointer : let c := cmdOf (cmdWord 0x01 (0xFFFFFFFFFFFFF * 2 ^ 20 + 2)) 0 .run 1; let s := cmdState 0x20 c []
    running s 0 0x20 0x01 c ∧ c.pos < cb c.word 12 0 ∧ tokenPtr c c.pos 8 = none := by unfold running; decide +kernel
theorem wit_store_opens : (let s := cmdState 0x24 (cmdOf (stsWord 8) 0 .run 0) []; opens s (s.cmdCtx 0 0x24) [⟨win + 8, 8⟩])
    ∧ ∀ p ∈ [0x24, 0x2B], let s : State := { cmdState p (cmdOf sctWord 0 .run 0) [] with insts := [pairInst] }
      opens s (s.cmdCtx 0 p) [⟨win + 8, 4⟩] := by unfold opens; decide +kernel
/-- The fault of a copy's destination range, before its first byte; of a FILL of two granules. -/
def cpyBad (s : State) (c : Cmd) : Option Flt :=
  spanFlt (!cX c.word) (ePtr c.ext) (s.cpyRange 0 0x28 c).2
    (if cX c.word then s.rangeOut (s.cmdCtx 0 0x28) c (ePtr c.ext) (cpyLen c) else none)
def fillBad (s : State) (c : Cmd) : Option Flt :=
  spanFlt false (cPtr c.word) (s.formed (s.cmdCtx 0 0x28) true (cPtr c.word) 34 0 64).2 (s.rangeOut (s.cmdCtx 0 0x28) c (cPtr c.word) 64)
/-- A CPY and a FILL before their first byte: the range is one window's, or spans two, and the inbound entry is there or not. -/
theorem wit_copy_starts : let c := cmdOf cpyWord 0 .run 0; let s := cmdState 0x28 c []; let w := s.cpyRange 0 0x28 c
    running s 0 0x28 0x04 c ∧ c.pos = 0 ∧ 0 < cpyLen c ∧ cpyBad s c = none ∧ (w.1.takeInbound 0 0x28 c w.2).2 = true
    ∧ (let c := cmdOf fill2 0 .run 0; let s := cmdState 0x28 c []; let w := s.formed (s.cmdCtx 0 0x28) true (cPtr c.word) 34 0 64
       running s 0 0x28 0x06 c ∧ 32 * cb c.word 19 8 = 64 ∧ fillBad s c = none ∧ (w.1.takeInbound 0 0x28 c w.2).2 = true) := by
  unfold running; decide +kernel

/-! ### Copies before their first byte, and the streams of CPYM -/

/-- Handle 20 of tenant 0: 2 MiB from a base, and a state of a command with that entry. -/
def phys20 (base : Nat) : BitVec 256 := BitVec.ofNat 256 (2 ^ 137 + 2 ^ 132 + 2 ^ 131 + 2 ^ 128 + 2 ^ 85 + base)
def at20 (p base : Nat) (c : Cmd) : State := { cmdState p c [] with
  mem := Memory.writeList [] 0x280 (natLe 32 (phys20 base).toNat)
  bays := [(0, { Bay.idle with inst := some (0, 1), hcache := [(20, phys20 base)], queues := [(p, [c])] })] }
/-- A CPY and a FILL of 64 bytes that span accumulator memory and the register window; a CPY to bay 1, whose scoreboard is full. -/
theorem wit_copy_spans : (let c := cmdOf (cmdWord 0x04 (2 ^ 16 + 0x9FFF)) 0 .run 0; let s := cmdState 0x28 c []
      running s 0 0x28 0x04 c ∧ c.pos = 0 ∧ 0 < cpyLen c
      ∧ cpyBad s c = some (.mk0 0x0B (BitVec.ofNat 64 (win + Config.regBase))))
    ∧ (let c := cmdOf (cmdWord 0x06 ((mkPtr 20 0x13FFE0).toNat * 2 ^ 20 + 2 * 2 ^ 8)) 0 .run 0; let s := at20 0x28 win c
       running s 0 0x28 0x06 c ∧ c.pos = 0 ∧ 32 * cb c.word 19 8 = 64 ∧ fillBad s c = some (.mk0 0x0B (mkPtr 20 0x13FFE0)))
    ∧ (let c := cmdOf (cmdWord 0x04 (2 ^ 85 + 2 ^ 16)) (BitVec.ofNat 128 ((mkPtr 20 0).toNat * 2 ^ 64 + 64 * 2 ^ 32)) .run 0
       let s0 := at20 0x28 (windowAddr 1 0) c
       let s : State := { s0 with bays := s0.bays ++ [(1, { Bay.idle with scoreboard := List.replicate 16 ⟨0, 32, 1, 0x28, 1⟩ })] }
       let w := s.cpyRange 0 0x28 c
       running s 0 0x28 0x04 c ∧ 0 < cpyLen c ∧ cpyBad s c = none ∧ (w.1.takeInbound 0 0x28 c w.2).2 = false) := by
  unfold running; decide +kernel
/-- A CPYM of the two granules at 0x1000 of HBM4E, whose stream has a granule for another bay. -/
def farCpym (n : Nat) : Cmd := { cmdOf (cmdWord 0x05 (2 ^ 85 + (ptr16 0x1000).toNat * 2 ^ 20 + 2)) (cpymExt 1) .run 0 with stream := n }
def farStream : McStream := ⟨1, 0, [(0x1000, 64)], 2, 1, false, 0, 1, false⟩
def farState (n : Nat) (l : List McStream) : State := { hbmAt Regs.zero 0 [] with
  streams := l, islands := [(0, { Island.reset with k := 64, tgtk := 64 })]
  bays := [(0, { Bay.idle with inst := some (0, 1), hcache := [(16, phys16)], queues := [(0x28, [farCpym n])] }),
    (1, { Bay.idle with queues := [(0x28, [farCpym 1])] })] }
def farStates : List (Nat × State) := [(0, farState 0 []), (0, farState 0 [farStream]), (5, farState 5 [])]
theorem wit_cpym_source (q : Nat × State) (hq : q ∈ farStates) :
    q.2.cpymSource 0 (farCpym q.1) = .ok (q.2, [⟨0x1000, 64⟩]) := by
  have hh : ptrH (ptr16 0x1000) = 16 := by decide
  have he : q.2.entry (q.2.cmdCtx 0 0x28) (ptrH (ptr16 0x1000)) = some (q.2, entOf phys16.toNat) := by
    rw [hh]; simp only [farStates, List.mem_cons, List.not_mem_nil, or_false] at hq
    rcases hq with h | h | h <;> subst h <;>
      exact entry_hit _ _ _ phys16 rfl (by decide) (by decide +kernel) (by decide +kernel) (by decide +kernel)
  have hg : q.2.ga ((entOf phys16.toNat).base + ptrOff (ptr16 0x1000)) = 0x1000 ∧ gaMod 0x1000 = q.2.own ∧ q.2.cpymBad 0 (farCpym q.1) = none
      ∧ cPtr (farCpym q.1).word = ptr16 0x1000 ∧ 32 * cb (farCpym q.1).word 19 0 = 64 := by
    simp only [farStates, List.mem_cons, List.not_mem_nil, or_false] at hq
    rcases hq with h | h | h <;> subst h <;> decide +kernel
  obtain ⟨hg, h2, hb, hp, hc⟩ := hg
  have ha := phys_address _ _ _ _ 64 false _ he (by decide) (by decide) (by decide) (by decide) (by rw [hg]; exact h2) (by rw [hg]; decide)
  rw [hg] at ha
  unfold State.cpymSource
  rw [hb, hp, hc, ha]
  simp [isWindow, gaLocal, Config.windowBase]
theorem wit_cpym_request : (∀ n ∈ [0, 1, 5], running (farState n []) 0 0x28 0x05 (farCpym n) ∧ cb (farCpym n).ext 127 64 ≠ 0
      ∧ cb (farCpym n).word 19 0 ≠ 0)
    ∧ (farState 0 []).streams.find? ((farState 0 []).joinable 0 2 [(0x1000, 64)]) = none
    ∧ (farState 0 [farStream]).streams.find? ((farState 0 [farStream]).joinable 0 2 [(0x1000, 64)]) = some farStream
    ∧ (farState 5 []).streams.find? (fun m => m.id == (farCpym 5).stream) = none
    ∧ (let c := cmdOf cpymWord (cpymExt 1) .run 0; let s := cmdState 0x28 c []
       running s 0 0x28 0x05 c ∧ cb c.ext 127 64 ≠ 0 ∧ cb c.word 19 0 ≠ 0 ∧ s.streams.find? (fun m => m.id == c.stream) = none
       ∧ (match s.cpymSource 0 c with
          | .error f => f.code
          | .ok _ => 0) = 0x0B) := by unfold running; decide +kernel
/-- UPDS of one pair that stands at the start of the bay's scratchpad. -/
def updsScr : Cmd := cmdOf (cmdWord 0x09 (18 * 2 ^ 72 + 2 ^ 71 + 1)) 0 .run 0
def updsScrState : State := { updsState with
  mem := Memory.writeList updsState.mem win (natLe 16 (5 * 2 ^ 64 + 0x1000))
  bays := [(0, { Bay.idle with inst := some (0, 1), hcache := [(18, virt18)], queues := [(0x2A, [updsScr])] })] }
theorem wit_upds_scratch : running updsScrState 0 0x2A 0x09 updsScr ∧ updsScr.pos < cb updsScr.word 15 0 ∧ updsScr.word.getLsbD 71 = true
    ∧ opens updsScrState (updsScrState.cmdCtx 0 0x2A) [⟨updsScrState.ga (windowAddr 0 (8 * cb updsScr.word 70 54 + 16 * updsScr.pos)), 16⟩]
    ∧ (let u := updsScrState.readSegs (updsScrState.cmdCtx 0 0x2A) [⟨updsScrState.ga (windowAddr 0 0), 16⟩]
       mkPtr (cb updsScr.word 83 72) (gotNat (u.2.take 8)) = ptr18 0x1000 ∧ gotNat (u.2.drop 8) = 5 ∧ gotPoison (u.2.drop 8) = false
       ∧ (u.1.bay 0).hcache = [(18, virt18)] ∧ u.1.tlb = updsScrState.tlb) := by unfold running opens; decide +kernel

/-! ### Gathers -/

/-- A read that gives its bytes, and what they meet. -/
def gotAll (g : Got) (f : State → List (Byte × Bool) → Bool) : Bool := match g with
  | .ok t l => f t l
  | _ => false
theorem got_all (g : Got) (f : State → List (Byte × Bool) → Bool) (h : gotAll g f = true) : ∃ t l, g = .ok t l ∧ f t l = true := by
  cases g with
  | ok t l => exact ⟨t, l, rfl, h⟩
  | _ => exact absurd h (by simp [gotAll])
/-- `Gathers` as a test, with a test of the state it leaves. -/
def gathers? (s : State) (b : Nat) (c : Cmd) (n : Nat) (f : State → Bool) : Bool :=
  match offsetAdd (cPtr c.word) ((gthIsz c * n : Nat) : Int) with
  | none => false
  | some q => gotAll (s.load (s.cmdCtx b 0x2B) q (gthIsz c)) fun t w =>
    match gthIndex c (gotNat (fromBuffer c (indexKey n) w)) with
    | none => f t
    | some v => match offsetAdd (ePtr c.ext) ((v * gthStride c : Nat) : Int) with
      | none => false
      | some p => gotAll (t.load (t.cmdCtx b 0x2B) p (gthEsz c)) fun u m =>
        f u && !(gthKv c && kvBad (fromBuffer c (elemKey c n) m))
theorem gathers_of (s : State) (b : Nat) (c : Cmd) (n : Nat) (f : State → Bool) (h : gathers? s b c n f = true) :
    ∃ u l, Gathers s u b c n l ∧ f u = true := by
  unfold gathers? at h
  split at h
  · cases h
  · next q hq =>
    obtain ⟨t, w, hl, h⟩ := got_all _ _ h
    split at h
    · next hi => exact ⟨t, _, ⟨q, t, w, hq, hl, .inl ⟨hi, rfl, rfl⟩⟩, h⟩
    · next v hi =>
      split at h
      · cases h
      · next p hp =>
        obtain ⟨u, m, hm, h⟩ := got_all _ _ h
        simp only [Bool.and_eq_true, Bool.not_eq_true', Bool.and_eq_false_iff] at h
        refine ⟨u, _, ⟨q, t, w, hq, hl, .inr ⟨v, p, m, hi, hp, hm, rfl, fun hk => ?_⟩⟩, h.1⟩
        rcases h.2 with h2 | h2
        · rw [hk] at h2; cases h2
        · exact h2
/-- A GTH of `n` elements of `e` bytes, with low bits of its word: its indexes stand at 64 and its table at 0x1000. -/
def gthOf (n e low pos : Nat) : Cmd :=
  cmdOf (cmdWord 0x08 (2 ^ 85 + 64 * 2 ^ 20 + low)) (BitVec.ofNat 128 (0x1000 * 2 ^ 64 + n * 2 ^ 48 + e * 2 ^ 32)) .run pos
/-- Its state, with some bytes at an offset of the window. -/
def gthState (c : Cmd) (o : Nat) (l : List Byte) : State := { cmdState 0x2B c [] with mem := Memory.writeList [] (win + o) l }
/-- Into the scratchpad; with a null index; a KV page record; the first and the second token of an element into port 0. -/
theorem wit_gathers : (∀ q ∈ [(gthOf 1 8 (2 ^ 16) 0, 64, []), (gthOf 1 8 (2 ^ 16) 0, 64, [255, 255, 255, 255]),
      (gthOf 1 1024 (2 ^ 16 + 2 ^ 17) 0, 0x1000, natLe 4 0x3147564B)], let s := gthState q.1 q.2.1 q.2.2
      running s 0 0x2B 0x08 q.1 ∧ q.1.word.getLsbD 16 = true ∧ q.1.pos < gthN q.1
      ∧ gathers? s 0 q.1 q.1.pos (fun u => !u.noRoute (u.cmdCtx 0 0x2B).who (u.ga (windowAddr 0 0))
        && !u.frozenAt (u.cmdCtx 0 0x2B) [⟨u.ga (windowAddr 0 (16 * cb q.1.word 15 0 + gthEsz q.1 * q.1.pos)), gthEsz q.1⟩]) = true)
    ∧ (∀ p ∈ [0, 1], let c := gthOf 1 16 0 p; let s := gthState c 64 []
       running s 0 0x2B 0x08 c ∧ c.word.getLsbD 16 = false ∧ s.extIn 0 (cb c.word 6 0) = some (instCh [], 0, chanRec true 0 1 0)
       ∧ c.pos / gthPer c (chanRec true 0 1 0) < gthN c ∧ c.pos % gthPer c (chanRec true 0 1 0) = p)
    ∧ (let c := gthOf 1 16 0 0; gathers? (gthState c 64 []) 0 c 0 (fun _ => true) = true)
    ∧ (let c := gthOf 1 16 0 2; gthN c ≤ c.pos / gthPer c (chanRec true 0 1 0)) := by unfold running; decide +kernel
/-- An element that leaves its window, and one that is no KV page record. -/
theorem wit_gth_element_faults : (let c := gthOf 1 8 (2 ^ 16) 0; let s := gthState c 64 [0xFF, 0xFF, 0xFF]
      running s 0 0x2B 0x08 c ∧ c.word.getLsbD 16 = true ∧ c.pos < gthN c ∧ gotAll (s.load (s.cmdCtx 0 0x2B) 64 4) (fun t w =>
        decide (gthIndex c (gotNat (fromBuffer c (indexKey 0) w)) = some 0xFFFFFF)
          && decide (gotFlt (t.load (t.cmdCtx 0 0x2B) (0x1000 + 8 * 0xFFFFFF) 8) = some 0x08)) = true
      ∧ offsetAdd (ePtr c.ext) ((0xFFFFFF * gthStride c : Nat) : Int) = some (0x1000 + 8 * 0xFFFFFF))
    ∧ (let c := gthOf 1 1024 (2 ^ 16 + 2 ^ 17) 0; let s := gthState c 64 []
       running s 0 0x2B 0x08 c ∧ gthKv c = true ∧ gotAll (s.load (s.cmdCtx 0 0x2B) 64 4) (fun t w =>
         decide (gthIndex c (gotNat (fromBuffer c (indexKey 0) w)) = some 0) && gotAll (t.load (t.cmdCtx 0 0x2B) 0x1000 1024) (fun _ l =>
           kvBad (fromBuffer c (elemKey c 0) l))) = true) := by unfold running; decide +kernel
/-- Line 0 of element 1, ahead of the one line of element 0; a line past the share, and elements delivered or past the last. -/
theorem wit_line_reply : let c := gthOf 2 8 (2 ^ 16) 0; let s := gthState c 64 []
    running s 0 0x2B 0x08 c ∧ s.gthNext 0 c ≤ 1 ∧ 1 < gthN c ∧ tget (lineKey 1 0) c.lines = none ∧ s.gthAhead 0 c 1 = some 1
    ∧ 1 + 0 < s.gthShare 0 ∧ (match s.gthBytes 0 c 1 with
      | some (t, _, bytes) => match (bytes.map lineOf).dedup[0]? with
        | some ln => let l : List Seg := ((List.range bytes.length).filter fun i => lineOf (bytes.getD i 0) == ln).map fun i => ⟨bytes.getD i 0, 1⟩
          !(t.sbBlocks (t.cmdCtx 0 0x2B) l) && l.all fun x => !t.noRoute (t.cmdCtx 0 0x2B).who x.addr
        | none => false
      | none => false) = true
    ∧ s.gthShare 0 ≤ 1 + 256 ∧ gthN c ≤ 2 ∧ 0 < s.gthNext 0 { c with pos := 1 } := by unfold running; decide +kernel
theorem wit_landing_waits : small.inst? 0 9 = none ∧ (small.bay 0).halted = false ∧ (∀ z ∈ small.rwq, z.bay ≠ 0)
    ∧ (let s : State := { bayState id [] with insts := [{ ringInst with chans := [] }] }
       ∃ x r, s.inst? 0 1 = some x ∧ x.image.chans[6]? = some r ∧ (x.chan 6).ringCount = 0) :=
  ⟨by decide, by decide, by decide, { ringInst with chans := [] }, ringRec, by decide⟩

/-! ### The array: loads that wait, rows, records and keys -/

/-- The bay with a command of the array port, an array, some channels and a range that another command holds. -/
def arrWith (c : Cmd) (a : Flail) (l : Table Chan) (hold : List (Nat × Nat)) : State :=
  bayState (fun b => { b with queues := [(0x29, [c])], array := a, scoreboard := hold.map fun q => ⟨q.1, q.2, 0, 0x28, 9⟩ }) l
/-- A load of a scale entry that leaves its window, and one that waits for its range. -/
theorem wit_apnl_stops : (let c := cmdOf (apnlWord 1 0xFFFFF) 0 .run 0; let s := arrState false c
      running s 0 0x29 0x0A c ∧ c.word.getLsbD 11 = true ∧ gotFlt (s.readRange (s.cmdCtx 0 0x29) (cPtr c.word) 128 State.readVia) = some 0x08)
    ∧ (let c := cmdOf (apnlWord 1 0) 0 .run 0; let s := arrWith c (arr0 false) [] [(0, 32)]
       running s 0 0x29 0x0A c ∧ (match s.readRange (s.cmdCtx 0 0x29) (cPtr c.word) (if c.word.getLsbD 11 then 128 else 6144) State.readVia with
         | .wait _ => true
         | _ => false) = true) := by unfold running; decide +kernel
/-- ARUN of one row from port 16: a slot with an illegal byte; no token, the end of the stream, a bad tag; a row of zeros. -/
def arunPort : Cmd := cmdOf (cmdWord 0x0B (16 * 2 ^ 66 + 3 * 2 ^ 58 + 2 ^ 21)) 0 .run 0
def arrBad : Flail := { arr0 false with slots := [(3, ⟨true, 0, [(7, 243)], false, false⟩)], resident := none }
def arunState (l : Table Chan) : State := arrWith arunPort (arr0 false) l []
def nextIs (s : State) (f : NextRow → Bool) : Bool := f (s.arunNext 0 arunPort)
theorem wit_arun_rows : running (arunState []) 0 0x29 0x0B arunPort ∧ arunPort.pos < cb arunPort.word 32 21 ∧ cb arunPort.word 65 58 = 3
    ∧ arrBad.winnow = false ∧ (arrBad.slot 3).valid = true ∧ (arrBad.slot 3).stale = false ∧ arrBad.resident ≠ some 3
    ∧ (arrBad.slot 3).bytes.find? (fun x => x.2.toNat ≥ 243) = some (7, 243)
    ∧ ((arr0 false).winnow = false ∧ ((arr0 false).slot 3).valid = true ∧ (arr0 false).resident = some 3)
    ∧ nextIs (arunState []) (fun | .absent => true | _ => false) = true
    ∧ nextIs (arunState [(3, { Chan.empty with closed := true })]) (fun | .ended => true | _ => false) = true
    ∧ nextIs (arunState [(3, fifo [tok (2 ^ 3883)])]) (fun | .row t (some _) => decide (bits (rowTag t.data) 47 43 ≠ 0) | _ => false) = true
    ∧ nextIs (arunState [(3, fifo [tok 1])]) (fun | .row t (some _) => decide (bits (rowTag t.data) 47 43 = 0) | _ => false) = true
    ∧ arunOff arunPort = false := by unfold running; decide +kernel
theorem wit_arun_dispatch : (let c := cmdOf (arunWord 3 1) 0 .run 0; (arrState false c).arunSkips 0 c = true)
    ∧ (arunState [(3, fifo [tok 1])]).arunSkips 0 arunPort = false
    ∧ (let v := arunState [(3, fifo [tok 1])]; let s1 : List Seg := [⟨v.ga (windowAddr 0 Config.accBase), 256⟩]
       let z := v.writeSegs (v.cmdCtx 0 0x29) s1 ((List.replicate 64 0).flatMap fun x => putBytes 4 x false)
       opens v (v.cmdCtx 0 0x29) s1 ∧ opens z (v.cmdCtx 0 0x29) [⟨v.ga (windowAddr 0 Config.accBase), 8⟩]) := by unfold opens; decide +kernel
/-- ADRN of one row: turned off; its records there, with and without a bad tag; held by another command. -/
def adrnZen : KWord := cmdWord 0x0C (2 ^ 83 + 2 ^ 21 + 2 ^ 14)
theorem wit_adrn_records : (let c := cmdOf adrnZen 0 .run 0
      running (arrState false c) 0 0x29 0x0C c ∧ c.pos < cb c.word 32 21 ∧ rowOff (c.word.getLsbD 14) c.zcap (cb c.word 9 4) 0 = true)
    ∧ (∀ d ∈ [0, 1], let c := cmdOf (adrnWord d) 0 .run 0; let s := arrState false c
       running s 0 0x29 0x0C c ∧ 0 < cb c.word 32 21 ∧ rowOff (c.word.getLsbD 14) c.zcap (cb c.word 9 4) 0 = false ∧ cb c.word 20 17 = 0
       ∧ (match s.adrnRecs 0 c 0 1 with
          | .ok (t, l) => l.all (fun y => decide (bits (gotNat y.2) 47 43 = 0)) && (d == 0 || !t.sbBlocks (t.cmdCtx 0 0x29) [⟨t.ga (windowAddr 0 0), 256⟩])
          | .error _ => false) = true)
    ∧ (let c := cmdOf (adrnWord 1) 0 .run 0; let s : State := { arrState false c with mem := [(win + Config.accBase + 5, 8)] }
       (match s.adrnRecs 0 c 0 1 with
        | .ok (_, l) => l.any (fun y => decide (bits (gotNat y.2) 47 43 ≠ 0))
        | .error _ => false) = true)
    ∧ (let c := cmdOf (adrnWord 1) 0 .run 0; let s := arrWith c (arr0 false) [] [(Config.accBase, Config.accBase + 32)]
       running s 0 0x29 0x0C c ∧ (match s.adrnRecs 0 c 0 1 with
        | .ok _ => false
        | .error _ => true) = true) := by unfold running; decide +kernel
/-- ASORT of one key: of the scratchpad, legal and not; of port 16, absent, legal and not. -/
def asortOf (src emit dstm dst pos : Nat) : Cmd :=
  cmdOf (cmdWord 0x0D (src * 2 ^ 83 + 16 * 2 ^ 66 + dstm * 2 ^ 65 + dst * 2 ^ 48 + 2 ^ 32 + emit * 2 ^ 31)) 0 .run pos
def illegalKey (a : Flail) (x : BitVec 128) : Prop := bits x.toNat 127 96 ≠ 0 ∨ bits x.toNat 63 0 / 2 ^ (8 * a.len) ≠ 0
def arr8 : Flail := { arr0 true with len := 8 }
theorem wit_asort_keys : (∀ q ∈ [0, 0xFF], let c := cmdOf (cmdWord 0x0D (2 ^ 83 + 2 ^ 32)) 0 .run 0
      let s : State := { arrWith c (arr8) [] [] with mem := Memory.write [] (win + 15) q }
      running s 0 0x29 0x0D c ∧ (s.bay 0).array.winnow = true ∧ c.pos < cb c.word 47 32 ∧ c.word.getLsbD 83 = true ∧ c.word.getLsbD 31 = false
      ∧ opens s (s.cmdCtx 0 0x29) [⟨win, 16⟩]
      ∧ (illegalKey (arr8) (BitVec.ofNat 128 (gotNat (s.readSegs (s.cmdCtx 0 0x29) [⟨win, 16⟩]).2)) ↔ q ≠ 0))
    ∧ (∀ l ∈ [[], [tok 5], [tok (2 ^ 96)]], let c := asortOf 0 0 0 0 0; let s := arrWith c (arr8) [(3, fifo l)] []
       running s 0 0x29 0x0D c ∧ c.word.getLsbD 83 = false ∧ (s.drainHead 0 (cb c.word 72 66)).map (fun y => y.2.2.2) = l.head?)
    ∧ ¬ illegalKey (arr8) ((tok 5).data.setWidth 128) ∧ illegalKey (arr8) ((tok (2 ^ 96)).data.setWidth 128) := by
  unfold running opens illegalKey; decide +kernel
/-- The set emitted to the scratchpad, past its end, and to port 0, with a key left and with none. -/
theorem wit_asort_emits : (let c := asortOf 0 1 1 0 1; let s := arrWith c (arr0 true) [] []
      running s 0 0x29 0x0D c ∧ cb c.word 47 32 ≤ c.pos ∧ c.word.getLsbD 31 = true ∧ c.word.getLsbD 65 = true
      ∧ opens s (s.cmdCtx 0 0x29) [⟨s.ga (windowAddr 0 (8 * cb c.word 64 48)), 16 * (arr0 true).running.length⟩])
    ∧ (let c := asortOf 0 1 1 0x1FFFF 0
       running (arrWith c (arr0 true) [] []) 0 0x29 0x0D c ∧ c.pos = 0 ∧ c.word.getLsbD 31 = true ∧ c.word.getLsbD 65 = true
       ∧ scratchSize < 8 * cb c.word 64 48 + 16 * (arr0 true).ksel)
    ∧ (∀ a ∈ [arr0 true, { arr0 true with running := [5] }], let c := asortOf 0 1 0 0 1; let s := arrWith c a [] []
       running s 0 0x29 0x0D c ∧ cb c.word 47 32 ≤ c.pos ∧ c.word.getLsbD 31 = true ∧ c.word.getLsbD 65 = false
       ∧ s.extIn 0 (cb c.word 54 48) = some (instCh [], 0, chanRec true 0 1 0) ∧ a.running[c.pos - cb c.word 47 32]? = a.running.head?) := by
  unfold running opens; decide +kernel

/-! ### Collectives of more than one module, and their ends -/

/-- A COLL over a gang of two modules, whose other module is whichever the configuration names, with some routes and waits. -/
def gangCmd : Cmd := cmdOf (cmdWord 0x0F (4 * 2 ^ 119 + 2 ^ 85 + 3 * 2 ^ 16 + 2 ^ 11)) (bcastExt 1) .run 0
def gangFd : Field := { oneField 0 with packet := gang 100 }
def farMod : Nat := Config.gangMember 0 (1 - collPos gangFd 2) % 320
def gangColl : Coll := ⟨0, 2, 0xE00000, 0, [0], false⟩
def gangState (routes : Table Nat) (w : List RouteWait) : State := { bayState id [] with
  fields := [gangFd], colls := [gangColl], modnum := if farMod = 0 then 1 else 0, routes := routes, routeWaits := w
  bays := [(0, { Bay.idle with inst := some (0, 1), queues := [(0x2C, [gangCmd])] })] }
theorem far_one : collFar gangFd 2 = [farMod] := by
  have hm : collModules gangFd 2 = 2 := by decide +kernel
  have h : collPos gangFd 2 < 2 := by unfold collPos; rw [hm]; exact Nat.mod_lt _ (by decide)
  unfold collFar farMod
  rw [hm]
  have h2 : collPos gangFd 2 = 0 ∨ collPos gangFd 2 = 1 := by omega
  rcases h2 with h2 | h2 <;> rw [h2] <;> rfl
theorem far_is_not_own (r : Table Nat) (w : List RouteWait) : farMod ≠ (gangState r w).own := by
  show farMod ≠ (if farMod = 0 then 1 else 0 : BitVec 9).toNat
  split <;> (simp_all; try omega)
theorem no_route_far (w : List RouteWait) : (gangState [] w).unreachable farMod 0 = true := by
  unfold State.unreachable
  rw [show (farMod != (gangState [] w).own) = true by simpa using far_is_not_own [] w, Bool.true_and, List.all_eq_true]
  intro k _; rfl
theorem module_route (m : Nat) : tget (routeKey m 0 0) [(m, 0)] = none ∧ tget m [(m, 0)] = some 0 := by
  have h : m ≠ routeKey m 0 0 := by unfold routeKey; omega
  simp [tget, h]
theorem a_route_far : (gangState [(farMod, 0)] []).unreachable farMod 0 = false := by
  have h0 : ((gangState [(farMod, 0)] []).routePort farMod 0 0).isNone = false := by
    unfold State.routePort
    show (match tget (routeKey farMod 0 0) [(farMod, 0)] with
      | some p => if p < 18 then some p else none
      | none => tget farMod [(farMod, 0)]).isNone = false
    rw [(module_route farMod).1, (module_route farMod).2]; rfl
  unfold State.unreachable
  rw [Bool.and_eq_false_iff]
  right
  rw [List.all_eq_false]
  exact ⟨0, List.mem_range.2 (by decide), by rw [h0]; decide⟩
def farWait : RouteWait := ⟨.cmd 0 0x2C, farMod, false⟩
def gangStates : List State := [gangState [] [], gangState [] [farWait], gangState [(farMod, 0)] []]
/-- The collective is met here; its remote draw is one of the two; the module has no route, waits for one, or has one. -/
theorem wit_collective_far : (∀ s ∈ gangStates, s.colls[0]? = some gangColl ∧ s.field? gangColl.field = some gangFd
      ∧ s.collLocal gangFd 2 0xE00000 = [0] ∧ gangColl.matched = false ∧ s.collOf gangColl 0 = some gangCmd)
    ∧ (∀ s ∈ gangStates, (∃ m ∈ collFar gangFd 2, s.pick 7 m % 2 = 1) ∨ ∀ m ∈ collFar gangFd 2, s.pick 7 m % 2 ≠ 1)
    ∧ (∀ w, (collFar gangFd 2).find? (fun m => [0].any fun b => (gangState [] w).unreachable m (bayDie b)) = some farMod)
    ∧ [farWait].find? (fun r => r.who == .cmd 0 0x2C && r.module == farMod) = some farWait
    ∧ (gangState [(farMod, 0)] []).unreachable farMod (bayDie 0) = false := by
  refine ⟨by decide +kernel, fun s _ => ?_, fun w => ?_, by simp [farWait], ?_⟩
  · by_cases h : s.pick 7 farMod % 2 = 1
    · exact .inl ⟨farMod, by rw [far_one]; exact List.mem_singleton_self _, h⟩
    · exact .inr fun m hm => by rw [far_one, List.mem_singleton] at hm; rw [hm]; exact h
  · rw [far_one, List.find?_cons, List.any_cons, show bayDie 0 = 0 from rfl, no_route_far]; rfl
  · exact a_route_far
/-- A BCAST to itself whose buffers can be formed, and one whose source cannot. -/
theorem wit_collective_ends : (let s := collState [1] [coll [0] true]
      s.collRoutes [(0, [⟨win, 4⟩, ⟨win + 128, 4⟩])] = (s, true)
      ∧ ∀ a ∈ segBytes [⟨win + 128, 4⟩], collOverlap 3 [⟨win, 4⟩] [⟨win + 128, 4⟩] a = false)
    ∧ (let c := cmdOf (cmdWord 0x0F (4 * 2 ^ 119 + 2 ^ 85 + 3 * 2 ^ 16 + 0xFFFFE * 2 ^ 20)) (bcastExt 1) .run 0
       let s : State := { collState [1] [coll [0] true] with
         bays := [(0, { Bay.idle with inst := some (0, 1), queues := [(0x2C, [c])] })] }
       s.collOf (coll [0] true) 0 = some c ∧ (match s.collSegs 0 c (collSizes 3 (collL c) 1 true) with
         | .error g => g.code
         | .ok _ => 0) = 0x08) := by decide +kernel

/-! ### Orders, ways and their ends -/

/-- A field placed after another; one placed alone. A wait for a flag whose set names no module, and one whose module has no route. -/
theorem wit_starts_in_order : (walkState (startField 1 .placed)).startsLater (startField 1 .placed) = false
    ∧ (let x : Field := { startField 1 .placed with id := 1 }
       let s : State := { walkState x with fields := [startField 1 .placed, x] }
       s.field? 1 = some x ∧ x.stage = .placed ∧ s.startsLater x = true)
    ∧ (walkState (walkField [])).acquireReady (.walk 0 0) 0 0x1000 = true
    ∧ ({ walkState (walkField []) with syncSets := [(syncKey 0 0x1000, 2)] } : State).acquireReady (.walk 0 0) 0 0x1000 = false := by
  decide +kernel
/-- A pair of an ended field without a route, one of another path, and one behind a pair of its path. -/
theorem wit_pair_paths : small.noRoute far0.who far0.pa = true ∧ far0.field = 0 ∧ small.noRoute (pair0 0x1000).who (pair0 0x1000).pa = false
    ∧ small.samePath (pair0 0x1000) (pair0 0x1000) = true ∧ small.samePath (pair0 0x1000) far0 = false
    ∧ (∀ p ∈ small.pairs, ¬ (p.field = 0 ∧ small.noRoute p.who p.pa = true)) := by decide +kernel
/-- A token that may arrive, one behind a token of its way, one of a bay whose clock stands. -/
theorem wit_token_order : let c : Chan := { Chan.empty with flight := [tok 1] }; let r := chanRec true 0 1 0
    let x := { instCh [(0, c)] with sends := [0] }; let y := { instCh [(0, c)] with sends := [2, 0] }
    (bayState id []).tokenReady x 0 r = true ∧ x.image.chans[2]? = some (chanRec true 2 64 1)
    ∧ (bayState id []).sameWay y r (chanRec true 2 64 1) = true ∧ (bayState id []).tokenReady y 0 r = false
    ∧ small.tokenReady x 0 r = false ∧ (small.bayRuns (small.prodBay x r) && small.bayRuns (small.consBay x r)) = false
    ∧ ((bayState id []).bayRuns ((bayState id []).prodBay x r) && (bayState id []).bayRuns ((bayState id []).consBay x r)) = true := by
  decide +kernel
/-- Port 1 up and port 0 going down, with a route; all others down; a route for one die and slice. -/
theorem wit_port_moves : let s : State := { small with links := [(1, { Link.reset with up := true })], routes := [(5, 0), (routeKey 5 0 3, 0)] }
    ((∃ q, q < 18 ∧ q ≠ 0 ∧ (s.link q).up = true) ∧ (s.link 1).up = true ∧ (5, 0) ∈ s.routes)
    ∧ (∀ q, q < 18 → q ≠ 1 → (s.link q).up = false)
    ∧ routeModule (routeKey 5 0 3) = 5 ∧ 512 ≤ routeKey 5 0 3 ∧ small.noRoute far0.who far0.pa = true
    ∧ ({ small with pairs := [pair0 0x1000] } : State).noRoute (pair0 0x1000).who (pair0 0x1000).pa = false :=
  ⟨⟨⟨1, by decide, by decide, by decide⟩, by decide, by decide⟩, by decide +kernel, by decide, by decide, by decide, by decide⟩
/-- Storage with something in it: cells, a slot, the merge buffer, a FIFO. -/
theorem wit_storage : ((arrState false (cmdOf nopcWord 0 .run 0)).bay 0).array.resident = some 3
    ∧ (∃ x, (3, x) ∈ ((arrState false (cmdOf nopcWord 0 .run 0)).bay 0).array.slots)
    ∧ (cmdState gleanerPort (cmdOf nopcWord 0 .run 0) []).head 0 gleanerPort = some (cmdOf nopcWord 0 .run 0)
    ∧ (let x := instCh [(0, fifo [tok 1])]; (bayState id [(0, fifo [tok 1])]).inst? 0 1 = some x ∧ (x.chan 0).fifo[0]? = some (tok 1))
    ∧ (∃ x ∈ [(⟨0, 0, 5, []⟩ : CachedImage)], x.ptr.toNat = 5) :=
  ⟨by decide +kernel, ⟨_, List.mem_singleton_self _⟩, by decide +kernel, by decide +kernel, _, List.mem_singleton_self _, by decide⟩
/-- A sample and a power interval that are due at tick 200,000, and neither at tick 1. -/
theorem wit_due : let s : State := { small with dtime := 200000, sampleLen := 100 }; let t : State := { s with dtime := 1 }
    (s.dtime.toNat % (1000 * max 1 s.sampleLen) = 0 ∧ s.dtime.toNat ≠ s.snapAt) ∧ t.dtime.toNat % (1000 * max 1 t.sampleLen) ≠ 0
    ∧ (s.dtime.toNat % 100000 = 0 ∧ s.dtime.toNat ≠ s.powerAt) ∧ t.dtime.toNat % 100000 ≠ 0 := by decide +kernel
/-- Islands that no other tenant keeps busy, and one that tenant 0's field does. -/
theorem wit_busy : (tenState Tenant.reset []).busyIslands = [] ∧ 0 ∈ small.busyIslands := by decide +kernel
/-- A tenant whose array holds a slot in a page that is not there. -/
theorem wit_reload_waits : let y := { Flail.armed with slots := [(3, ⟨true, mkPtr 18 0, [], false, false⟩)] }
    let s : State := { tenState (saved1 3) [(0, .restoring 0)] with
      mem := [(0x24A, 0x10), (0x250, 0x19), (0x2000, 0x01), (0x2001, 0x30), (0x3000, 0x0F)]
      tenants := [(0, { Tenant.reset with xroot := 0x2000 }), (1, { saved1 3 with partcfg := ten1.partcfg })], bays := [(0, { Bay.idle with inst := some (0, 1), array := y })] }
    (s.tenant 1).pre = 3 ∧ (match ((restored s 1).foldl State.putContext s).reloadAll 1 (s.partBays 1) with
      | .ok _ => false
      | .error w => decide (w.prq.length = 1)) = true := by decide +kernel
/-- A full ring to the host, or one behind which messages wait; an entry and an image to invalidate. -/
theorem wit_messages_wait : let s : State := { small with prq := [(0, req false)] }
    s.oldestUntaken = some (0, req false) ∧ ({ s with c2hprod := 64 } : State).c2hRoom = false
    ∧ ({ s with c2hWait := [[]] } : State).c2hWait ≠ []
    ∧ (∀ k ∈ [0, 1, 2], let s : State := { small with h2cprod := 1, mbox := Memory.writeList [] 0x3000 [2, 0, 0, 0, 0, 0, 0, 0, 0, k] }
       s.h2cHead.isSome = true ∧ (∀ l ∈ s.h2cHead, isInvalidate l = true ∧ msgByte l 9 = k.toNat) ∧ s.c2hRoom = true) := by decide +kernel
/-- Two writes that were sent, of which one may arrive next. -/
theorem wit_arrivable : small.arrivable [hw 1, hw 2] ≠ [] := by decide +kernel
/-- The worked example of R59, on a part with no channel disabled. -/
theorem test_pseudo_channel (h : Config.enabledChannels = List.range 16384) :
    pseudoChannelOf 0x8000A7C0 = 41 ∧ rowBlockOf 0x8000A7C0 = 128 ∧ stackOf 41 = (0, 41) := by
  simp [pseudoChannelOf, rowBlockOf, stackOf, h]
/-- An access of bay 0 to the scratchpad of bay 1 waits while bay 1 is frozen (R378). -/
theorem test_frozen_window :
    (small.setBay 1 { Bay.idle with halted := true }).frozenAt small.firCtx [⟨small.ga (windowAddr 1 8), 8⟩] = true
    ∧ small.frozenAt small.firCtx [⟨small.ga (windowAddr 1 8), 8⟩] = false
    ∧ (small.setBay 0 { Bay.idle with halted := true }).frozenAt small.firCtx [⟨small.ga (windowAddr 0 8), 8⟩] = false := by
  decide +kernel

/-! ### The spaces of an entry, held stores -/

/-- Turns that are no issue. -/
theorem wit_step_turns : ({ small with agenda := [.perform 0 0] } : State).turn = .perform 0 0
    ∧ ({ small with agenda := [.regRead fn0 8 8] } : State).turn = .regRead fn0 8 8
    ∧ ({ small with agenda := [.peer 1 0 (.read [(0, 8)])] } : State).turn = .peer 1 0 (.read [(0, 8)]) := by decide
/-- An entry with all rights and a bound of 2^20, by space and base; handle 16 of tenant 0 has it, and one table page maps
virtual address 0 by a level-0 entry. -/
def entWord (space base : Nat) : BitVec 256 := BitVec.ofNat 256 (space * 2 ^ 136 + 2 ^ 132 + 2 ^ 131 + 2 ^ 128 + 2 ^ 84 + base)
def entState (space base leaf : Nat) : State := { small with
  mem := Memory.writeList (Memory.writeList [(0x2000, 0x01), (0x2001, 0x30)] 0x3000 (natLe 8 leaf)) 0x200 (natLe 32 (entWord space base).toNat)
  tenants := [(0, { Tenant.reset with xroot := 0x2000 })]
  bays := [(0, { Bay.idle with inst := some (0, 1), hcache := [(16, entWord space base)] })] }
/-- What the statement asks of an entry of handle 16 for 8 bytes at an offset. -/
def entOk (space base leaf o : Nat) : Prop := let s := entState space base leaf; let p := ptr16 o
  s.entry s.firCtx (ptrH p) = some (s, entOf (entWord space base).toNat) ∧ (entOf (entWord space base).toNat).space = space
    ∧ (entOf (entWord space base).toNat).wr = true ∧ (entOf (entWord space base).toNat).base + ptrOff p = base + o
    ∧ ptrOff p + 8 ≤ (entOf (entWord space base).toNat).bound
theorem wit_spaces : ∀ q ∈ [(1, 0, 0, 8), (1, 0x400000, 0, 8), (1, 0x17FFF8, 0, 1), (2, 2 ^ 47, 0, 0), (2, 0, 0, 8), (3, 0, 0, 8), (3, 2 ^ 47, 0, 8),
    (0, 0, 0, 8), (0, 0, 3, 8), (0, 0, 0xF, 8), (0, 0, 2 ^ 47 + 7, 8), (0, 0, 7, 8)],
    entOk q.1 q.2.1 q.2.2.1 q.2.2.2 := by
  intro q hq
  simp only [List.mem_cons, List.not_mem_nil, or_false] at hq
  rcases hq with h | h | h | h | h | h | h | h | h | h | h | h <;> subst h <;>
    exact ⟨entry_hit _ _ _ _ rfl (by decide) (by decide) (by decide +kernel) (by decide), by decide, by decide, by decide, by decide⟩
theorem wit_field_space : let s := small; let c := s.firCtx
    (c.fw * c.fh ≤ 0x400000 / 0x400000 ∧ 8 / 0x400000 < c.fw * c.fh ∧ 0x180000 < 0x17FFF9 + 8 ∧ 8 + 8 ≤ 0x180000)
    ∧ s.moduleBay c.tenant (c.ox + 0) (c.oy + 0) < 2048 := by decide
theorem wit_checked_space : (entState 3 (2 ^ 47) 0).checkSegs false [⟨2 ^ 47 + 8, 8⟩] = some 8
    ∧ (entState 0 0 (2 ^ 47 + 7)).checkSegs false [⟨2 ^ 47 + 8, 8⟩] = some 8
    ∧ (∀ q ∈ [(3, 0, 0), (2, 0, 0), (0, 0, 7)], (entState q.1 q.2.1 q.2.2).checkSegs false [⟨8, 8⟩] = none) :=
  ⟨by decide +kernel, by decide +kernel, fun _ _ => low_is_usable _ _ _ rfl (by decide)⟩
/-- A walk that finds no entry, a page without W, one that is in flash, one past the module's memory, and a good one. -/
def leafOf (w : Walk) : Option (Nat × Nat × Bool × Bool) := match w with
  | .leaf a z x fl => some (a, z, x, fl.isSome)
  | .bad => none
theorem wit_virtual_space : let r (leaf va : Nat) := (entState 0 0 leaf).translate State.atHome (entState 0 0 leaf).firCtx.walker 0 va
    leafOf (r 0 8).2 = none ∧ leafOf (r 3 8).2 = some (0, 2 ^ 33, false, false) ∧ leafOf (r 0xF 8).2 = some (0, 2 ^ 33, true, true)
    ∧ leafOf (r (2 ^ 47 + 7) 8).2 = some (2 ^ 47, 2 ^ 33, true, false) ∧ leafOf (r 7 8).2 = some (0, 2 ^ 33, true, false) := by decide +kernel
/-- A page of 64 KiB, at whose end an access goes over to the next. -/
def pageState : State := { entState 0 0xFFF8 0x4001 with mem := Memory.writeList [(0x2000, 0x01), (0x2001, 0x30), (0x3000, 0x01), (0x3001, 0x40),
  (0x4000, 0x01), (0x4001, 0x50), (0x5000, 0x01), (0x5001, 0x60), (0x6000, 7)] 0x200 (natLe 32 (entWord 0 0xFFF8).toNat) }
theorem wit_page_crossing : (let e := entOf (entWord 0 0xFFF8).toNat
      pageState.entry pageState.firCtx (ptrH (ptr16 4)) = some (pageState, e) ∧ e.wr = true ∧ ptrOff (ptr16 4) + 8 ≤ e.bound
      ∧ e.base + ptrOff (ptr16 4) = 0xFFFC)
    ∧ leafOf (pageState.translate State.atHome pageState.firCtx.walker 0 0xFFFC).2 = some (0, 0x10000, true, false) ∧ 0x10000 - 0xFFFC < 8
    ∧ pageState.checkSegs false [⟨0xFFFC, 4⟩] = none :=
  ⟨⟨entry_hit _ _ _ (entWord 0 0xFFF8) rfl (by decide) (by decide) (by decide +kernel) (by decide), by decide, by decide, by decide⟩,
    by decide +kernel, by decide, low_is_usable _ _ _ rfl (by decide)⟩

theorem wit_register_window : ptrH (mkPtr 2 0x3FFF8) = 2 ∧ ptrOff (mkPtr 2 0x3FFF8) + 8 ≤ 2 ^ 18 ∧ 2 ^ 18 < ptrOff (mkPtr 2 0x3FFF9) + 8
    ∧ ptrH (mkPtr 3 0x15FFF8) = 3 ∧ ptrOff (mkPtr 3 0x15FFF8) + 8 ≤ 0x160000 := by decide

/-- A store of the firing of 8 bytes to offset 8 of its window, held in the forwarding table, and a table with `n` of them. -/
def heldAt (o : Nat) : HeldStore := ⟨0, 0, [(win + o, 8)], (natLe 8 5).map fun x => (x, false), [], [], 0⟩
def holding (r : Regs) (l : List HeldStore) : State := { at_ r with bays := [(0, { Bay.idle with inst := some (0, 1), fwd := l })] }
/-- A bay whose scoreboard records the first 32 bytes of its window. -/
def recorded (r : Regs) : State := { at_ r with bays := [(0, { Bay.idle with inst := some (0, 1), scoreboard := [⟨0, 32, 0, 0x28, 9⟩] })] }
theorem wit_held_load : let s := holding (two 8 0) [heldAt 8]
    s.loadAddr s.firCtx (moved (s.regs.rg 1) 0) 8 = .ok (s, [⟨win + 8, 8⟩])
    ∧ (∀ x ∈ segBytes [⟨win + 8, 8⟩], (heldByte (s.ownHeld s.firCtx) x).isSome = true) ∧ segBytes [⟨win + 8, 8⟩] ≠ [] := by
  decide +kernel
/-- A load and a vector load of a page that is not there, in an open region. -/
theorem wit_load_page : let e := entWord 0 0
    let s : State := { entState 0 0 0xF with fir := { small.fir with regs := two (ptr16 0) 0, region := some region0 } }
    s.entry s.firCtx 16 = some (s, entOf e.toNat) ∧ codeOf (s.loadAddr s.firCtx (ptr16 0) 8) = 0x0A
    ∧ codeOf (s.laneAddrs s.firCtx (ptr16 0) false (fun n => 4 * (n : Int)) [0]) = 0x0A ∧ s.fir.region.isSome = true := by
  decide +kernel
/-- A store with room in the table and without; held behind the scoreboard, and for want of a route. -/
theorem wit_store_room : roomy (holding Regs.zero (List.replicate 7 (heldAt 8))) ∧ ¬ roomy (holding (two 8 5) (List.replicate 8 (heldAt 8)))
    ∧ (let s := recorded (two 8 5)
       s.storeAddr s.firCtx 8 8 = .ok (s, [⟨win + 8, 8⟩]) ∧ roomy s ∧ s.sbBlocks s.firCtx [⟨win + 8, 8⟩] = true)
    ∧ (let s := holding (two 8 5) (List.replicate 8 (heldAt 8)); s.storeAddr s.firCtx 8 8 = .ok (s, [⟨win + 8, 8⟩])) := by
  unfold roomy; decide +kernel
/-- Whether a write waits. -/
def putWaits (p : Put) : Bool := match p with
  | .wait _ => true
  | _ => false
theorem wit_store_far : putWaits (small.writeOpen small.firCtx [⟨5 * 2 ^ 47, 1⟩] [(7, false)]) = true
    ∧ small.sbBlocks small.firCtx [⟨5 * 2 ^ 47, 1⟩] = false := by decide +kernel
/-- A held store that may be performed, and one whose range is recorded. -/
theorem wit_perform : (let s := holding Regs.zero [heldAt 8]
      (s.bay 0).fwd[0]? = some (heldAt 8) ∧ s.performable 0 0 (heldAt 8) = true ∧ reaches s (s.heldCtx 0 (heldAt 8)) (asSegs (heldAt 8).segs))
    ∧ (let s : State := { recorded Regs.zero with bays := [(0, { (recorded Regs.zero).bay 0 with fwd := [heldAt 8] })] }
       (s.bay 0).fwd[0]? = some (heldAt 8) ∧ s.performable 0 0 (heldAt 8) = false) := by unfold reaches; decide +kernel
theorem wit_nothing_sent : nothingSent (semIs9 (two 7 9)) ∧ nothingSent (yardIs 1 (two 23 0)) := by unfold nothingSent; decide

/-- The word of `wordIs 5` behind a store of the firing to it. -/
def heldWord : State := { wordIs 5 with bays := [(0, { (wordIs 5).bay 0 with fwd := [⟨0, 0, [(0x1000, 8)], List.replicate 8 (1, false), [], [], 16⟩] })] }
theorem wit_held_word : heldWord.heldBlocks heldWord.firCtx [⟨0x1000, 8⟩] = true ∧ heldWord.fir.region = none
    ∧ heldWord.syncAddr heldWord.firCtx (ptr16 0x1000) true = .ok (heldWord, 0x1000) := by
  refine ⟨by decide +kernel, rfl, ?_⟩
  have hh : ptrH (ptr16 0x1000) = 16 := by decide
  have he : heldWord.entry heldWord.firCtx (ptrH (ptr16 0x1000)) = some (heldWord, entOf phys16.toNat) := by
    rw [hh]; exact entry_hit _ _ _ phys16 rfl (by decide) (by decide) (by decide) (by decide)
  have ha := phys_address _ _ _ _ 8 true _ he (by decide) (by decide) (by decide) (by decide) (by decide) (by decide)
  have hg : heldWord.ga ((entOf phys16.toNat).base + ptrOff (ptr16 0x1000)) = 0x1000 := by decide
  rw [hg] at ha
  exact sync_address _ _ _ _ _ _ ha (by decide) (by decide)
/-- A message whose 64 bytes leave the window, in and out of a region. -/
theorem wit_message_faults : codeOf (small.loadAddr small.firCtx 0xFFFC1 64) = 0x08 ∧ (inRegion Regs.zero).fir.region.isSome = true := by
  decide +kernel

/-! ### Vector accesses, tile predicates and ports once more -/

theorem wit_vector_stores : let s := at_ (vecs (lo2 32 4 8) 0 2)
    (let u := recorded (vecs (lo2 32 4 8) 0 2)
     u.laneAddrs u.firCtx 0 true (fun n => 4 * (n : Int)) [1] = .ok (u, [⟨win + 4, 4⟩]) ∧ roomy u ∧ u.sbBlocks u.firCtx [⟨win + 4, 4⟩] = true)
    ∧ (let u := holding (vecs (lo2 32 4 8) 0 2) (List.replicate 8 (heldAt 8))
       u.laneAddrs u.firCtx 0 true (fun n => 4 * (n : Int)) [1] = .ok (u, [⟨win + 4, 4⟩]) ∧ ¬ roomy u)
    ∧ (∀ wr, codeOf (s.laneAddrs s.firCtx 0xFFFFC wr (fun n => 4 * (n : Int)) [1]) = 0x08
        ∧ codeOf (s.laneAddrs s.firCtx 0xFFFFC wr (fun n => (n : Int) * (5 : Word).toInt) [1]) = 0x08
        ∧ codeOf (s.laneAddrs s.firCtx 0xFFFFC wr (fun n => (lane (s.regs.rv 1) n : Int)) [1]) = 0x08)
    ∧ codeOf (s.laneAddrs s.firCtx 0xFFFFD false (fun _ => 0) [0]) = 0x08
    ∧ s.regs.rm 2 = 0 ∧ s.regs.rm 1 ≠ 0 := by unfold roomy; decide +kernel
theorem wit_tile_faults : codeOf (small.loadAddr small.firCtx 0xFFFF9 8) = 0x08 ∧ codeOf (small.storeAddr small.firCtx 0xFFFF9 8) = 0x08
    ∧ (inRegion (two (mkPtr 2 0) 0)).fir.region.isSome = true ∧ 1 < ptrH ((inRegion (two (mkPtr 2 0) 0)).regs.rg 1) := by decide +kernel
/-- Counts at the end of a firing's rate; a closed channel with tokens still on their way. -/
theorem wit_port_rates : (let s := portState [] [(1, 1), (2, 63), (17, 1), (18, 63)] []
      (chanRec true 2 64 1).cn < tgetD 2 0 s.fir.moved + (activeSlots 1 (BitVec.allOnes 64)).length
      ∧ (chanRec true 1 1 10).cn < tgetD 1 0 s.fir.moved + 1 ∧ (s.rowPart 1).p = 0
      ∧ (chanRec false 2 64 1).pn < tgetD 18 0 s.fir.moved + (layOut 1 (BitVec.allOnes 64) 0 0).length
      ∧ (chanRec false 1 1 10).pn < tgetD 17 0 s.fir.moved + 1)
    ∧ (let c : Chan := { fifo [tok 1] with closed := true }; c.seenToks.length < 2 ∧ c.left < 2)
    ∧ (let c : Chan := { Chan.empty with closed := true, flight := [tok 1, tok 2] }; c.seenToks = [] ∧ c.closed = true ∧ 2 ≤ c.left)
    ∧ roomOf (instCh []) (chanRec false 1 1 10) (sent 4) = 0 ∧ (portState [] [] [⟨17, 1, 0, 0⟩]).fir.region = none
    ∧ (let s : State := { withCh [] Regs.zero with fir := { small.fir with region := some region0 } }
       s.fir.region.isSome = true ∧ (s.actorNo 0 0).map (fun x => (x.1, x.2.1)) = some (instCh [], 0)) := by decide +kernel

/-! ### Commands, privileged instructions and firings once more -/

theorem wit_kissue_coll_full :
    Config.queueDepth ≤ ((bayState (fun b => { b with queues := [(0x2C, List.replicate 16 (cmdOf collWord collExt .tokens 0))] }) []).queue 0 0x2C).length
    ∧ codeOf (small.storeAddr small.firCtx 0xFFFF1 16) = 0x08 ∧ codeOf (small.loadAddr small.firCtx 0xFFFF1 16) = 0x08
    ∧ small.storeAddr small.firCtx 8 16 = .ok (small, [⟨win + 8, 16⟩]) ∧ (win + 8) % 16 ≠ 0
    ∧ (inRegion (two (mkPtr 2 0) 0)).fir.region.isSome = true ∧ 1 < ptrH ((inRegion (two (mkPtr 2 0) 0)).regs.rg 1) := by decide +kernel
/-- The save areas are no part of a register window; save areas that leave their window. -/
theorem wit_save_area : (∀ s ∈ saves, s.regSegsOk [⟨0x10000, saveArea⟩] = true) ∧ segsTouchReg [⟨0x10000, saveArea⟩] = false
    ∧ (∀ s ∈ saves, s.ga ((entOf phys19.toNat).base + ptrOff (mkPtr 19 0x10000)) = 0x10000)
    ∧ codeOf (small.storeAddr small.firCtx 0 saveArea) = 0x08 ∧ codeOf (small.loadAddr small.firCtx 0 saveArea) = 0x08 := by decide +kernel
theorem save_formed (s : State) (hs : s ∈ saves) : s.storeAddr s.firCtx (mkPtr 19 0x10000) saveArea = .ok (s, [⟨0x10000, saveArea⟩])
    ∧ s.loadAddr s.firCtx (mkPtr 19 0x10000) saveArea = .ok (s, [⟨0x10000, saveArea⟩]) := by
  have h := wit_save_area
  unfold State.storeAddr State.loadAddr
  rw [save_address s true hs, save_address s false hs, h.2.2.1 s hs]
  simp only [h.2.1, h.1 s hs]
  simp
/-- A firing that waits at in port 0 for the token that its RECVG takes: the token is there, or it is not. -/
def recvWord : IWord := 0b101010#6 ++ 3#5 ++ 0#7 ++ 0#3 ++ 0#5 ++ 0b000001#6
def portFiring : Firing := { fir0 (.parked (.tokens 0 1) false) none with regs := Regs.zero }
def portWaits (l : Table Chan) : State := { bayState (fun b => { b with firings := [portFiring] }) l with
  insts := [{ instCh l with image := { (instCh l).image with code := [recvWord, 0, 0, 0, 0, 0, 0, 0] } }] }
theorem test_decode_recvg : decode recvWord = .ok (.recvg 3 0 0) := by decide
theorem wit_port_done : ((portWaits [(0, fifo [tok 5])]).bay 0).firings = [portFiring] ∧ portFiring.atPort = true
    ∧ (portWaits [(0, fifo [tok 5])]).parkReady portFiring = true ∧ (portWaits []).parkReady portFiring = false
    ∧ (let u := (portWaits [(0, fifo [tok 5])]).load_ { portFiring with status := .ready }
       u.fetch = .word recvWord ∧ (nextOf (exec (.recvg 3 0 0) u)).map (fun t => t.fir.status) = some .ready) := by decide +kernel

/-! ### Granules that several tokens cover -/

/-- The bytes a read with granules gives and how many it holds; the cause of its fault. -/
def aheadOk (a : Ahead) : Option (Nat × Nat) := match a with
  | .ok _ l rest => some (l.length, rest.length)
  | _ => none
def aheadFlt (a : Ahead) : Option Nat := match a with
  | .flt f => some f.code
  | _ => none
/-- What `reads` of the statement gives for a command at port 0x20. -/
def ldsReads (s : State) (c : Cmd) (q : Word) : Ahead :=
  s.readAhead (s.cmdCtx 0 0x20) State.readVia q 8 c.held (tokensFollow c (cb c.word 12 0) 8 q)
theorem wit_granules : (let s := cmdState 0x20 (cmdOf ldsWord 0 .run 0) []
      s.loadAddr (s.cmdCtx 0 0x20) 0 8 = .ok (s, [⟨win, 8⟩]) ∧ granuleRest [⟨win, 8⟩] = 24
      ∧ s.loadAddr (s.cmdCtx 0 0x20) 0 (8 + 24) = .ok (s, [⟨win, 32⟩]) ∧ granuleRest [⟨win, 32⟩] = 0
      ∧ gotLen (State.readVia s (s.cmdCtx 0 0x20) (dropRuns 0 [⟨win, 32⟩])) = some 32
      ∧ gotLen (State.readVia s (s.cmdCtx 0 0x20) (dropRuns 0 [⟨win, 8⟩])) = some 8)
    ∧ (let c := cmdOf ldsWord 0 .run 0; aheadOk (ldsReads (cmdState 0x20 c []) c 0) = some (8, 0))
    ∧ (let c := cmdOf (cmdWord 0x01 4) 0 .run 0; aheadOk (ldsReads (cmdState 0x20 c []) c 0) = some (8, 24))
    ∧ (let c := cmdOf (cmdWord 0x01 (2 ^ 72 + 1)) 0 .run 0; aheadOk (ldsReads (cmdState 0x20 c []) c (mkPtr 1 0)) = some (8, 0))
    ∧ (let c := cmdOf ldsBad 0 .run 0; aheadFlt (ldsReads (cmdState 0x20 c []) c 0xFFFF9) = some 0x08) := by decide +kernel
/-- STS of four tokens at a pointer, of which the first waits for its granule and the last completes it. -/
def sts4 (p pos h : Nat) : Cmd :=
  Cmd.hold (List.replicate h (0, false)) (cmdOf (cmdWord 0x02 (p * 2 ^ 20 + 16 * 2 ^ 13 + 4)) 0 .run pos)
def stsState (c : Cmd) (ch : Chan) : State := cmdState 0x24 c [(3, ch)]
/-- The premises of an STS at its token: the token, its pointer and the start of what it holds, and the two stores. -/
def stsAt (c : Cmd) (q q0 : Word) (n m : Nat) : Prop := let s := stsState c (fifo [tok 5])
  running s 0 0x24 0x02 c ∧ c.pos < cb c.word 12 0 ∧ (s.drainHead 0 (cb c.word 19 13)).map (fun y => y.2.2.2) = some (tok 5)
    ∧ tokenPtr c c.pos 8 = some q ∧ codeOf (s.storeAddr (s.cmdCtx 0 0x24) q 8) = 0 ∧ offsetAdd q (-(c.held.length : Int)) = some q0
    ∧ (c.held ++ tokOut 8 (tok 5)).length = n
    ∧ (match s.storeAddr (s.cmdCtx 0 0x24) q0 n with
      | .ok (_, l) => decide (granuleRest l = m) && !s.sbBlocks (s.cmdCtx 0 0x24) (cutRuns (l.map fun y => (y.addr, y.len)) 0 n)
      | .error _ => false) = true
    ∧ codeOf (s.storeAddr (s.cmdCtx 0 0x24) q0 (n + m)) = 0
theorem wit_sts_granules : stsAt (sts4 0 0 0) 0 0 8 24 ∧ stsAt (sts4 0 3 24) 24 0 32 0 ∧ stsAt (cmdOf (stsWord 0) 0 .run 0) 0 0 8 24
    ∧ tokensFollow (sts4 0 0 0) 4 8 0 24 = true ∧ tokensFollow (cmdOf (stsWord 0) 0 .run 0) 1 8 0 24 = false := by
  refine ⟨?_, ?_, ?_, by decide, by decide⟩ <;> unfold stsAt running <;> decide +kernel
theorem wit_sts_holds : (let c := sts4 0xFFFF0 2 16; let s := stsState c (fifo [tok 5])
       running s 0 0x24 0x02 c ∧ c.pos < cb c.word 12 0 ∧ tokenPtr c c.pos 8 = some 0x100000
       ∧ codeOf (s.storeAddr (s.cmdCtx 0 0x24) 0x100000 8) = 0x08 ∧ offsetAdd 0x100000 (-(c.held.length : Int)) = some 0xFFFF0
       ∧ s.storeAddr (s.cmdCtx 0 0x24) 0xFFFF0 c.held.length = .ok (s, [⟨win + 0xFFFF0, 16⟩]) ∧ opens s (s.cmdCtx 0 0x24) [⟨win + 0xFFFF0, 16⟩])
    ∧ (let c := sts4 8 0 0; let s := stsState c (fifo []); running s 0 0x24 0x02 c ∧ (s.drainHead 0 (cb c.word 19 13)).isNone = true ∧ c.held = [])
    ∧ (let c := sts4 8 1 8; let ch : Chan := { Chan.empty with closed := true }; let s := stsState c ch
       running s 0 0x24 0x02 c ∧ c.pos < cb c.word 12 0 ∧ s.extOut 0 (cb c.word 19 13) = some (instCh [(3, ch)], 3, chanRec false 0 1 0)
       ∧ ch.seenToks = [] ∧ ch.closed = true ∧ ch.left = 0 ∧ tokenPtr c c.pos 8 = some 16 ∧ offsetAdd 16 (-(c.held.length : Int)) = some 8
       ∧ s.storeAddr (s.cmdCtx 0 0x24) 8 8 = .ok (s, [⟨win + 8, 8⟩]) ∧ opens s (s.cmdCtx 0 0x24) [⟨win + 8, 8⟩]) := by
  unfold running opens; decide +kernel

/-! ### Pieces of a copy that fail -/

/-- The cause of a fault of a read with granules; its length when it gives bytes. -/
def aheadIs (a : Ahead) (n : Nat) (f : Option Nat) : Bool := aheadFlt a == f && (f.isSome || (aheadOk a).map Prod.fst == some n)
/-- A CPY from 0xFFFD0 whose second piece leaves the window after 16 bytes, and one to the register window that has 4 bytes
left of its unit. -/
theorem wit_copy_pieces : (let c := cmdOf cpyWord 0 .run 32; let s := cmdState 0x28 c []
      aheadIs (s.readAhead (s.cmdCtx 0 0x28) State.readOpen 32 32 c.held fun _ => true) 32 none = true)
    ∧ (let c := cmdOf (cmdWord 0x04 (0xFFFD0 * 2 ^ 20 + 2 ^ 16 + 4)) 0 .run 32; let s := cmdState 0x28 c []; let ctx := s.cmdCtx 0 0x28
       running s 0 0x28 0x04 c ∧ c.pos < cpyLen c ∧ offsetAdd (cPtr c.word) 32 = some 0xFFFF0
       ∧ codeOf (s.loadAddr ctx 0xFFFF0 1) = 0 ∧ segsOf (s.cpyDest 0 0x28 c 32 1) = some [⟨win + 160, 1⟩]
       ∧ pieceLen (win + 160) 32 = 32 ∧ unitLen (win + 160) 32 = 1
       ∧ aheadIs (s.readAhead ctx State.readOpen 0xFFFF0 32 c.held fun _ => true) 0 (some 0x08) = true
       ∧ aheadIs (s.readAhead ctx State.readOpen 0xFFFF0 1 c.held fun _ => true) 1 none = true
       ∧ segsOf (s.cpyDest 0 0x28 c 32 1) = some [⟨win + 160, 1⟩] ∧ reaches s ctx [⟨win + 160, 1⟩])
    ∧ (let c := cmdOf (cmdWord 0x04 (2 ^ 85 + 0xFFFF4 * 2 ^ 20 + 2 ^ 16)) (BitVec.ofNat 128 ((mkPtr 2 0).toNat * 2 ^ 64 + 64 * 2 ^ 32)) .run 8
       let s := cmdState 0x28 c []; let ctx := s.cmdCtx 0 0x28; let a := win + Config.regBase + 8
       running s 0 0x28 0x04 c ∧ c.pos < cpyLen c ∧ offsetAdd (cPtr c.word) 8 = some 0xFFFFC ∧ codeOf (s.loadAddr ctx 0xFFFFC 1) = 0
       ∧ segsOf (s.cpyDest 0 0x28 c 8 1) = some [⟨a, 1⟩] ∧ pieceLen a 56 = 24 ∧ unitLen a 56 = 8
       ∧ ∀ n ∈ [8, 24], aheadIs (s.readAhead ctx State.readOpen 0xFFFFC n c.held fun _ => true) 0 (some 0x08) = true) := by
  unfold running reaches; decide +kernel
/-- Handle 20 names `n` bytes of the register window; a FILL of 64 bytes through it. -/
def regWord (n : Nat) : BitVec 256 :=
  BitVec.ofNat 256 (2 ^ 137 + 2 ^ 132 + 2 ^ 131 + 2 ^ 128 + n * 2 ^ 64 + (win + Config.regBase))
def regFill (n : Nat) (c : Cmd) : State := { cmdState 0x28 c [] with
  mem := Memory.writeList [] 0x280 (natLe 32 (regWord n).toNat)
  bays := [(0, { Bay.idle with inst := some (0, 1), hcache := [(20, regWord n)], queues := [(0x28, [c])] })] }
theorem wit_fill_pieces : ∀ q ∈ [(16, 0), (12, 0x08)],
    let c := cmdOf (cmdWord 0x06 ((mkPtr 20 0).toNat * 2 ^ 20 + 2 * 2 ^ 8)) 0 .run 8; let s := regFill q.1 c; let ctx := s.cmdCtx 0 0x28
    let a := win + Config.regBase + 8
    running s 0 0x28 0x06 c ∧ c.pos < 64 ∧ offsetAdd (cPtr c.word) 8 = some (mkPtr 20 8) ∧ segsOf (s.copyAddr ctx (mkPtr 20 8) 1) = some [⟨a, 1⟩]
      ∧ pieceLen a 56 = 24 ∧ unitLen a 56 = 8 ∧ codeOf (s.copyAddr ctx (mkPtr 20 8) 24) = 0x08
      ∧ codeOf (s.copyAddr ctx (mkPtr 20 8) 8) = q.2 ∧ reaches s ctx [⟨a, 8⟩] := by unfold running reaches; decide +kernel

/-- A CPYM of two granules of module 1, a member with some memory, which no route reaches; its wait may have run out. -/
def farWord3 : BitVec 256 := entWord 3 (2 ^ 47)
def farSource : Cmd := cmdOf (cmdWord 0x05 (2 ^ 85 + (ptr16 0x1000).toNat * 2 ^ 20 + 2)) (cpymExt 1) .run 0
def farSourceState (w : List RouteWait) : State := { cmdState 0x28 farSource [] with
  members := [1], routeWaits := w, mem := Memory.writeList [] 0x200 (natLe 32 farWord3.toNat)
  bays := [(0, { Bay.idle with inst := some (0, 1), hcache := [(16, farWord3)], queues := [(0x28, [farSource])] })] }
theorem wit_cpym_far (w : List RouteWait) (hw : w = [] ∨ w = [⟨.cmd 0 0x28, 1, true⟩]) (hm : 2 ^ 26 ≤ Config.remoteHbm 1) :
    let s := farSourceState w
    running s 0 0x28 0x05 farSource ∧ cb farSource.ext 127 64 ≠ 0 ∧ cb farSource.word 19 0 ≠ 0 ∧ farSource.stream = 0
      ∧ s.cpymSource 0 farSource = .ok (s, [⟨2 ^ 47 + 0x1000, 64⟩])
      ∧ (s.routeFor (s.cmdCtx 0 0x28) [⟨2 ^ 47 + 0x1000, 64⟩]).2 = some !w.isEmpty := by
  have he : (farSourceState w).entry ((farSourceState w).cmdCtx 0 0x28) (ptrH (ptr16 0x1000)) = some (farSourceState w, entOf farWord3.toNat) := by
    rcases hw with h | h <;> subst h <;> exact entry_hit _ _ _ farWord3 rfl (by decide) (by decide +kernel) (by decide +kernel) (by decide)
  have hu : (farSourceState w).usable 1 = Nat.min (Config.remoteHbm 1) Config.hbmTop := by
    rcases hw with h | h <;> subst h <;> rfl
  have hk : (farSourceState w).checkSegs false [⟨2 ^ 47 + 0x1000, 64⟩] = none := by
    have h1 : gaMod (2 ^ 47 + 0x1000) = 1 := by decide
    have h2 : gaLocal (2 ^ 47 + 0x1000) = 0x1000 := by decide
    have h3 : isWindow 0x1000 = false := by decide
    have h4 : localBad (Nat.min (Config.remoteHbm 1) Config.hbmTop) 0x1000 64 = none := by
      unfold localBad
      have : (2 : Nat) ^ 26 ≤ Config.hbmTop := by decide
      have : 2 ^ 26 ≤ Nat.min (Config.remoteHbm 1) Config.hbmTop := Nat.le_min.2 ⟨hm, this⟩
      rw [h3, if_neg (by simp), if_neg (by omega), if_neg (by omega)]
    have h5 : (farSourceState w).members.contains 1 = true := by rcases hw with h | h <;> subst h <;> decide
    simp only [State.checkSegs, h1, h2, hu, h4, h5]; simp
  have hp : cPtr farSource.word = ptr16 0x1000 ∧ 32 * cb farSource.word 19 0 = 64 := by decide +kernel
  have hb : (farSourceState w).cpymBad 0 farSource = none := by rcases hw with h | h <;> subst h <;> decide +kernel
  refine ⟨by rcases hw with h | h <;> subst h <;> unfold running <;> decide +kernel, by decide, by decide, rfl, ?_, ?_⟩
  · unfold State.cpymSource
    rw [hb, hp.1, hp.2]
    have ha : (farSourceState w).addressOf ((farSourceState w).cmdCtx 0 0x28) (ptr16 0x1000) 64 false =
        .ok (farSourceState w, [⟨2 ^ 47 + 0x1000, 64⟩]) := by
      have h1 : (entOf farWord3.toNat).space = 3 ∧ (entOf farWord3.toNat).rd = true ∧ ¬ (entOf farWord3.toNat).bound < ptrOff (ptr16 0x1000) + 64
          ∧ (entOf farWord3.toNat).base + ptrOff (ptr16 0x1000) = 2 ^ 47 + 0x1000 := by decide
      unfold State.addressOf
      rw [he]
      simp only [h1.1, h1.2.1, h1.2.2.2, gt_iff_lt, if_neg h1.2.2.1]
      have h2 : bits (2 ^ 47 + 0x1000) 51 47 * 2 ^ 47 + (2 ^ 47 + 0x1000) % 2 ^ 47 = 2 ^ 47 + 0x1000 := by decide
      simp only [h2, hk]; rfl
    rw [ha]
    simp [isWindow, gaLocal, Config.windowBase]
  · rcases hw with h | h <;> subst h <;> decide +kernel

/-! ### The merge buffer -/

/-- Bay 4 gathers behind four older gathers of the die that hold 256 lines of later elements each. -/
def fullBuffer : State :=
  let c (k : Nat) : Cmd := { gthOf 2 8 (2 ^ 16) 0 with started := k }
  let full (k : Nat) : Cmd := { c k with lines := (List.range 256).map fun i => (lineKey 1 (i + 8), (0, false)) }
  { cmdState 0x2B (full 0) [] with
    islands := (List.range 3).map fun i => (i, { Island.reset with k := 64, tgtk := 64 })
    bays := (List.range 4).map (fun b => (b, { Bay.idle with inst := some (0, 1), queues := [(0x2B, [full b])] }))
      ++ [(4, { Bay.idle with inst := some (0, 1), queues := [(0x2B, [c 4])] })] }
theorem wit_no_line : let c : Cmd := { gthOf 2 8 (2 ^ 16) 0 with started := 4 }
    running fullBuffer 4 0x2B 0x08 c ∧ c.word.getLsbD 16 = true ∧ c.pos < gthN c ∧ fullBuffer.olderReady 4 c = false
    ∧ ((List.range ((fullBuffer.gthLines 4 c c.pos).getD []).length).all fun k => (tget (lineKey c.pos k) c.lines).isSome) = false
    ∧ (fullBuffer.yieldLines 4).gthShare 4 = 0 := by unfold running; decide +kernel
/-- Bay 1 gathers behind an older gather of the die whose next element stands ready. -/
def readyBuffer : State :=
  let c (k : Nat) : Cmd := { gthOf 1 8 (2 ^ 16) 0 with started := k }
  { cmdState 0x2B (c 0) [] with
    bays := [(0, { Bay.idle with inst := some (0, 1), queues := [(0x2B, [{ c 0 with lines := (List.range 8).map fun k => (lineKey 0 k, (0, false)) }])] }),
      (1, { Bay.idle with inst := some (0, 1), queues := [(0x2B, [c 1])] })] }
theorem wit_older_ready : let c : Cmd := { gthOf 1 8 (2 ^ 16) 0 with started := 1 }
    running readyBuffer 1 0x2B 0x08 c ∧ readyBuffer.olderReady 1 c = true := by unfold running; decide +kernel
theorem wit_turn : (let c := gthOf 1 8 (2 ^ 16) 0; (gthState c 64 []).olderReady 0 c = false ∧ (gthState c 64 []).gthShare 0 ≠ 0)
    ∧ (let c := gthCmd 64 0 []; (cmdState 0x2B c []).olderReady 0 c = false)
    ∧ (∀ p ∈ [0, 1, 2], let c := gthOf 1 16 0 p; (gthState c 64 []).olderReady 0 c = false) := by decide +kernel
/-- `Fills` as a test, with a test of the state it leaves. -/
def fills? (s : State) (b : Nat) (c : Cmd) (n lo k : Nat) (f : State → Bool) : Bool :=
  match offsetAdd (cPtr c.word) ((gthIsz c * n : Nat) : Int) with
  | none => false
  | some q => gotAll (s.load (s.cmdCtx b 0x2B) q (gthIsz c)) fun t w =>
    let w' := fromBuffer c (indexKey n) w
    let holds (o : State) (m : Table (Byte × Bool)) : State :=
      o.modHead b 0x2B fun z => { z with lines := bufferPut (indexKey n) w' m }
    match gthIndex c (gotNat w') with
    | none => f (holds t (bufferPut (elemKey c n) (List.replicate (gthEsz c) (0, false)) c.lines))
    | some v => match offsetAdd (ePtr c.ext) ((v * gthStride c : Nat) : Int) with
      | none => false
      | some p => match t.loadAddr (t.cmdCtx b 0x2B) p (gthEsz c) with
        | .error _ => false
        | .ok (t', segs) =>
          let y := t'.yieldLines b
          let at_ := segBytes segs
          let ls := (((at_.drop lo).map lineOf).dedup).take (y.gthShare b)
          let hi := lo + ((at_.drop lo).takeWhile fun a => ls.contains (lineOf a)).length
          let kv := gthKv c && decide (lo = 0)
          let miss := (List.range (hi - lo)).map (lo + ·) |>.filter fun j => (tget (elemKey c n j) c.lines).isNone
          decide (lo + (if kv then max k 1024 else k) ≤ hi)
            && gotAll (y.readVia (y.cmdCtx b 0x2B) (addrRuns (miss.map fun j => at_.getD j 0))) fun o got =>
              let m := fillLines c n lo hi at_ (miss.zip got)
              !(kv && kvBad ((List.range 1024).map fun j => tgetD (elemKey c n j) (0, false) (bufferPut (indexKey n) w' m))) && f (holds o m)
theorem fills_of (s : State) (b : Nat) (c : Cmd) (n lo k : Nat) (f : State → Bool) (h : fills? s b c n lo k f = true) :
    ∃ u, Fills s u b c n lo k ∧ f u = true := by
  unfold fills? at h
  split at h
  · cases h
  · next q hq =>
    obtain ⟨t, w, hl, h⟩ := got_all _ _ h
    dsimp only at h
    split at h
    · next hi => exact ⟨_, ⟨q, t, w, hq, hl, .inl ⟨hi, rfl⟩⟩, h⟩
    · next v hi =>
      split at h
      · cases h
      · next p hp =>
        split at h
        · cases h
        · next t' segs ha =>
          rw [Bool.and_eq_true, decide_eq_true_eq] at h
          obtain ⟨h1, h⟩ := h
          obtain ⟨o, got, hr, h⟩ := got_all _ _ h
          rw [Bool.and_eq_true, Bool.not_eq_true', Bool.and_eq_false_iff] at h
          refine ⟨_, ⟨q, t, w, hq, hl, .inr ⟨v, p, t', segs, o, got, hi, hp, ha, h1, hr, fun hk => ?_, rfl⟩⟩, h.2⟩
          rcases h.1 with h2 | h2
          · rw [hk] at h2; cases h2
          · exact h2
/-- The head of the gather's queue is the command with its lines. -/
def sameHead (c : Cmd) (u : State) : Bool := match u.head 0 0x2B with
  | some z => z.word == c.word && z.ext == c.ext && z.region == c.region
  | none => false
/-- The tokens of an element into port 0: from memory, with a null index, and the second from the buffer. -/
theorem wit_fills : (∀ l ∈ [[], [255, 255, 255, 255]], let c := gthOf 1 16 0 0; let s := gthState c 64 l
      running s 0 0x2B 0x08 c ∧ fills? s 0 c 0 0 8 (sameHead c) = true)
    ∧ (let c : Cmd := { gthOf 1 16 0 1 with lines := (List.range 16).map fun i => (elemKey (gthOf 1 16 0 1) 0 i, (0, false)) }
       let s := gthState c 64 []
       running s 0 0x2B 0x08 c ∧ c.pos % gthPer c (chanRec true 0 1 0) ≠ 0
       ∧ ∀ i ∈ List.range 8, (tget (elemKey c 0 (8 * 1 + i)) c.lines).isSome = true) := by unfold running; decide +kernel
/-- A unit of a tenant that is not on its islands does not land. -/
theorem wit_unit_lands : let u (t : Nat) : RwUnit := ⟨0, 8, 5, 0, false, .unit, t, 0⟩
    small.unitLands (u 0) = true ∧ small.unitLands (u 1) = false ∧ ({ small with rwq := [u 1] } : State).rwq = [u 1] := by decide +kernel

/-- A wait for the other module that has run out; a collective of a gang that has matched. -/
theorem wit_collective_expired : (let r : RouteWait := ⟨.cmd 0 0x2C, farMod, true⟩
      [r].find? (fun r => r.who == .cmd 0 0x2C && r.module == farMod) = some r ∧ r.expired = true)
    ∧ (let x : Coll := { gangColl with matched := true }; let s : State := { gangState [] [] with colls := [x] }
       s.colls[0]? = some x ∧ s.field? x.field = some gangFd ∧ s.collLocal gangFd 2 0xE00000 = [0] ∧ (s.collOf x 0).isSome = true) :=
  ⟨by simp, by decide +kernel⟩

/-! ### The granaries -/

/-- Slice 0 with some contents; a bin, an entry and a run of tenant 0 on the line at 0x1000. -/
def sliceState (x : Slice) : State := { small with slices := [(0, x)] }
def entry0 (pa : Nat) : Entry := ⟨pa, pa, [⟨0, 1, 5⟩], false⟩
def bin0 (op line n : Nat) : Bin := ⟨0, 18, op, 0, 0, 0, line, (List.range n).map fun i => entry0 (64 * line + 4 * i)⟩
def run0 : Run := ⟨0, 18, 1, 0, 0, 0, [(0x8000, 48)], [(0x4000, 64)], 48, [entry0 0x1000]⟩
def copy0 (q spill : Nat) : RegionCopy := ⟨0, 18, q, spill, 0⟩
theorem wit_pair_stays : (let e : HeldStore := { heldAt 8 with segs := [(0x1000, 8)] }; let s := holding Regs.zero [e]
      s.stays (pair0 0x1000) = true ∧ s.stays { pair0 0x1000 with who := .unit } = false)
    ∧ small.stays far0 = true ∧ small.stays (pair0 0x1000) = false ∧ (pair0 0x1000).tag = 0
    ∧ (small.slice (small.sliceKey 0x1000)).closed = false ∧ small.streams = [] ∧ small.waiters = [] := by decide +kernel
theorem wit_insert : (let s := sliceState { Slice.empty with bins := [bin0 1 64 1] }; let p := pair0 0x1000
      lineOf p.pa = 64 ∧ (∃ b ∈ (s.slice 0).bins, b.line = 64 ∧ b.alike p.bin = true)
        ∧ ∀ b ∈ (s.slice 0).bins, b.line = 64 → b.line = 64 ∧ b.alike p.bin = true)
    ∧ (let s := sliceState { Slice.empty with copies := [copy0 0 0] }
       (∀ b ∈ (s.slice 0).bins, b.line ≠ 64) ∧ ∃ c ∈ (s.slice 0).copies, c.tenant = (pair0 0x1000).tenant ∧ c.handle = (pair0 0x1000).handle)
    ∧ (bin0 2 64 1).alike (pair0 0x1000).bin = false
    ∧ (let s := sliceState { Slice.empty with bins := [bin0 2 64 1] }
       bin0 2 64 1 ∈ (s.slice 0).bins ∧ ((s.applyLines State.atHome 0 (fun n => n == 64) []).slice 0).bins.all (fun b => b.line != 64) = true)
    ∧ (∀ x ∈ [entry0 0x1000], x.pa ≠ 0x1004) ∧ [entry0 0x1000] = [] ++ entry0 0x1000 :: [] ∧ opFloat 3 = true ∧ opFloat 1 = false := by
  decide +kernel
theorem wit_limits : (let s := sliceState { Slice.empty with bins := [bin0 1 64 4] }
      binEntries ((s.slice 0).bins.filter fun b => b.inRegion 0 18) ≤ 4 ∧ (3 : Nat) < binEntries ((s.slice 0).bins.filter fun b => b.inRegion 0 18)
      ∧ binEntries (s.slice 0).bins ≤ 14336)
    ∧ ∀ b ∈ [bin0 1 64 4], b.tenant < 16 := by decide +kernel
/-- A spill area at 0xF000, at the end of a page of 64 KiB, whose header says where the next run goes. -/
def spillState (next n : Nat) : State := { small with
  mem := Memory.writeList (Memory.writeList pageState.mem 0x200 (natLe 32 (entWord 0 0xF000).toNat)) 0xF000 (natLe 8 next)
  tenants := pageState.tenants, tlb := [⟨2048, 0, 0, 0x10000, 0, true⟩]
  slices := [(0, { Slice.empty with bins := [bin0 1 64 1], copies := [copy0 0 16], runs := List.replicate n run0 })] }
theorem wit_spill : (let s := sliceState { Slice.empty with bins := [bin0 1 64 1] }; (∀ x ∈ [bin0 1 64 1], x ∈ (s.slice 0).bins) ∧ (s.slice 0).copies = [])
    ∧ (let s := sliceState { Slice.empty with bins := [bin0 1 64 1], copies := [copy0 0 16] }; s.spillArea 0 16 = none)
    ∧ (∀ n ∈ [0, 64], (spillState 0x40 n).spillArea 0 16 = some (0xF000, 2 ^ 20)
        ∧ (((spillState 0x40 n).slice 0).runs.filter fun r => r.tenant == 0 && r.handle == 18).length = n) := by decide +kernel
/-- The header of such an area, and a run after it, are formed. -/
theorem spill_segs (q : Nat × Nat × Nat) (hq : q ∈ [(0x40, 0, 64), (0x1000, 0, 64), (2 ^ 20, 0, 64), (0x40, 0x40, 48)]) :
    (spillState q.1 0).spillSegs State.atHome 0 0 0xF000 q.2.1 q.2.2 = some (spillState q.1 0, [⟨0xF000 + q.2.1, q.2.2⟩]) := by
  unfold State.spillSegs
  simp only [List.mem_cons, List.not_mem_nil, or_false] at hq
  rcases hq with h | h | h | h <;> subst h <;> dsimp only
  all_goals
    rw [show (64 / 65536 + 2 : Nat) = 0 + 2 from rfl]
    rw [trans_hit _ _ _ true _ _ 0 ⟨2048, 0, 0, 0x10000, 0, true⟩ (by decide +kernel) (by decide +kernel) rfl rfl (by decide) (by decide)
      (by decide +kernel) (by decide +kernel)]
    rfl
theorem wit_runs : (∀ n ∈ [0x40, 0x1000, 2 ^ 20], AtHome.all State.atHome (spillState n 0) [⟨0xF000, 64⟩] = spillState n 0
        ∧ (spillState n 0).headerGet [⟨0xF000, 64⟩] 0 = n)
    ∧ 0x40 + (32 + 16 * 1) ≤ 2 ^ 20 ∧ 2 ^ 20 < 2 ^ 20 + (32 + 16 * 1) ∧ 0x1000 + (32 + 16 * 1) ≤ 2 ^ 20
    ∧ (spillState 0x1000 0).spillSegs State.atHome 0 0 0xF000 0x1000 48 = none
    ∧ (chooseRuns (fun r => r.size == 48) [run0, run0]).1 = [run0, run0] := by decide +kernel
/-- Pairs of the open batch on a line that an access wants, and the values they bring to an element. -/
theorem wit_apply : (let x : Slice := { Slice.empty with batch := [pair0 0x1000, pair0 0x1000] }; let s := sliceState x
      tget 0 s.slices = some x ∧ x.closed = false ∧ x.runs = [] ∧ x.bins = [] ∧ x.batch ≠ [] ∧ ∀ p ∈ x.batch, (fun n => n == 64) (lineOf p.pa) = true)
    ∧ (let l := [pair0 0x1000, pair0 0x1000].map Pair.pend
       (∀ y ∈ l, y.pa = 0x1000 ∧ y.op = 1) ∧ l ≠ [] ∧ ∀ p ∈ l, p.tag = 0)
    ∧ (∀ x ∈ small.insts, x.versioned = false) ∧ small.mem.wf = true ∧ small.mpoison.wf = true
    ∧ (∃ p ∈ [({ pair0 0x1000 with poison := true } : Pair).pend], p.poison = true) := by decide +kernel
/-- A section that is quiet with a pair on its way to no route. -/
theorem wit_section_waits : let s : State := { small with insts := [doneInst], fir := Firing.none, pairs := [farPair] }
    (oneField 0).fault = none ∧ s.field? 0 = some (oneField 0) ∧ s.quiet doneInst = true ∧ s.sourcesDone doneInst = true
      ∧ (s.settleInst doneInst).instBusy doneInst = true := by decide +kernel

/-! ### Errors, the solver and the ladder once more -/

theorem wit_error_places : gaMod 0x1000 = small.own ∧ (∀ x ∈ small.insts, ∀ y ∈ x.overlay, lineOf y.1 ≠ lineOf 0x1000) ∧ small.mpoison.wf = true
    ∧ isWindow (gaLocal 0x1000) = false
    ∧ (let n := win + Config.regBase + 8
       gaMod n = small.own ∧ isWindow (gaLocal n) = true ∧ isRegOff (windowOff (gaLocal n)) = true
       ∧ ∀ x ∈ small.insts, ∀ y ∈ x.overlay, lineOf y.1 ≠ lineOf n)
    ∧ bayDie 1 = bayDie 0 ∧ (small.inst? 0 1).isSome = true
    ∧ (∀ p ∈ [pair0 0x1000], lineOf p.pa ≠ 65) := by decide +kernel
/-- Two islands at ratio 1, and a crossing channel between them that asks for more, or for nothing. -/
def choices : List Choice := [⟨0, 1, 0, false⟩, ⟨1, 1, 0, false⟩]
theorem wit_crossing_pass : ∀ q ∈ [(⟨2, 1⟩ : Ratio), ⟨0, 1⟩, ⟨2 ^ 40, 1⟩], let h : List (Nat × Nat × Ratio) := [(0, 1, q)]
    (∀ x ∈ choices, x.k ≤ 64) ∧ (choices.map Choice.island).Nodup ∧ (∀ x ∈ h, x.1 ∈ choices.map Choice.island ∧ x.2.1 ∈ choices.map Choice.island)
      ∧ 64 * choices.length < 129 := by decide
/-- A cost that is over a grant of 0, one that is not, and an island that can be reduced. -/
def costly : State := { small with costt := [(3, 64)] }
theorem wit_power_pass : 0 < costly.costSum [⟨0, 2, 3, false⟩] ∧ costly.costSum [] ≤ 0 ∧ 0 < costly.costSum [⟨0, 64, 3, false⟩]
    ∧ costly.reduceStep [⟨0, 0, 0, false⟩] = none ∧ ∃ m e, costly.reduceStep [⟨0, 2, 3, false⟩] = some (m, e) := by
  refine ⟨by decide, by decide, by decide, by decide, ?_⟩
  unfold State.reduceStep
  have h : (sortBy Choice.island ([(⟨0, 2, 3, false⟩ : Choice)].filter fun x => decide (x.k ≠ 0) && !(x.k == 1 && x.c == Config.vmin x.island 1))).find?
      (fun x => costly.cost x.k x.c == ([(⟨0, 2, 3, false⟩ : Choice)].filter fun x =>
        decide (x.k ≠ 0) && !(x.k == 1 && x.c == Config.vmin x.island 1)).foldl (fun m x => Nat.max m (costly.cost x.k x.c)) 0)
      = some ⟨0, 2, 3, false⟩ := by decide +kernel
  simp only [h]
  split <;> exact ⟨_, _, rfl⟩
/-- A tenant with an island and no instance; an instance with a rate and one without, on island 0. -/
theorem wit_solve_tenant : (let x : Tenant := { Tenant.reset with pmap := [0], partcfg := 2 ^ 63 }; let s := solveState x
      (s.islandsOf 1).Nodup ∧ s.liveOf 1 = [] ∧ s.crossings (s.liveOf 1) = [] ∧ s.firstRatio [] 0 = (0, false)
      ∧ ¬ wget (s.tenant 1).pwrgnt 59 40 < s.costSum [⟨0, 0, 0, false⟩]) := by decide +kernel
/-- The field of the tests at a rate of 1, whose instance has a rate point, and one that has none. -/
def rated : Inst := { oneInst 0 1 with image := { oneImage 1 with rates := [⟨(oneField 0).rpn, false, 0, 1⟩] } }
def ratedState : State := { small with fields := [{ oneField 0 with rate := 1 }], insts := [rated] }
theorem wit_pinned : (small.liveOf 0).length = 1 ∧ (small.rho (oneInst 0 1)).isNone = true ∧ (small.instIslands (oneInst 0 1)).contains 0 = true
    ∧ (small.plotIslands (oneInst 0 1)).contains 0 = true ∧ (ratedState.rho rated).isSome = true
    ∧ (ratedState.instIslands rated).contains 0 = true := by decide +kernel
/-- A tenant in service: whether it may stop, may resume, and what it holds. -/
def inService (x : Tenant) (l : Table Loft) : State := { tenState x l with bootst := 3 }
theorem wit_in_service : (inService ten1 []).served = true ∧ (inService ten1 []).stoppable 1 = true ∧ (inService ten1 []).stoppable 0 = false
    ∧ (let s := inService { ten1 with stop := .rung2, prestat := 1 } []; s.stoppable 1 = false ∧ (s.tenant 1).stop = .rung2)
    ∧ ((inService (saved1 2) []).tenant 1).pre = 2 ∧ (inService (saved1 2) []).canResume 1 = false
    ∧ (inService (saved1 2) [(0, .full 0)]).canResume 1 = true ∧ (tenState ten1 []).served = false
    ∧ ((inService ten1 []).tenant 1).valid = true ∧ ((inService Tenant.reset []).tenant 1).valid = false
    ∧ (let s := inService { ten1 with stop := .rung3, prestat := 1 } []; s.partBays 1 ≠ [] ∧ ∀ b ∈ s.partBays 1, (s.bay b).fwd = [])
    ∧ (∀ y ∈ (inService ten1 []).liveOf 1, ∀ k r, y.image.chans[k]? = some r → r.k = 15 → (y.chan k).ringCount = 0) := by
  have h : (inService ten1 []).liveOf 1 = [] := by decide +kernel
  refine ⟨by decide +kernel, by decide +kernel, by decide +kernel, by decide +kernel, by decide +kernel, by decide +kernel, by decide +kernel,
    by decide +kernel, by decide +kernel, by decide +kernel, by decide +kernel, ?_⟩
  rw [h]; intro y hy; cases hy
/-- A share in error: the bay of share 2 of island 0. -/
theorem wit_bad_share : let s := tenState (saved1 3) [(0, .restoring 0)]
    ((restored s 1).flatMap s.badBays) = []
    ∧ (let t : State := { s with mpoison := [(s.shareAddr 0 2 + 8, 1)] }
       (t.tenant 1).pre = 3 ∧ (restored t 1).flatMap t.badBays = [islandBay 0 2]) := by decide +kernel
/-- Page requests in service; the mailbox with an invalidation that waits. -/
theorem wit_pages_in_service : let s : State := { small with bootst := 3 }
    s.served = true ∧ small.served = false ∧ (∀ e ∈ ({ s with prq := [(0, req true)] } : State).prq, e.2.taken = true)
    ∧ (let t : State := { s with prq := [(0, req false)] }
       t.oldestUntaken = some (0, req false) ∧ t.c2hRoom = true ∧ t.c2hWait = [] ∧ t.pfSettled 1 = true
       ∧ ({ t with c2hprod := 64 } : State).c2hRoom = false ∧ ({ t with c2hWait := [[]] } : State).c2hWait ≠ [])
    ∧ (let m : State := { small with h2cprod := 1, mbox := [(0x3000, 2)], mboxInval := some ⟨[], [], [], [], []⟩ }
       m.mboxInval = some ⟨[], [], [], [], []⟩ ∧ m.h2cHead.isSome = true ∧ m.c2hRoom = true) := by decide +kernel
/-- Register accesses of a physical and a virtual function, before and in service, with and without Relaxed Ordering. -/
theorem wit_register_ready : let s := hostState Tenant.reset []; let t := hostState Tenant.reset [(0, [hw 1])]
    (s.served = true ∧ s.pendingWrites fn0 = [] ∧ s.pendingWrites ⟨0, 1⟩ = []) ∧ t.pendingWrites fn0 ≠ []
    ∧ ¬ (fn0.vf = 0 ∧ 0x20 / 8 * 8 = 0x2008) ∧ (fn0.vf = 0 ∧ 0x2008 / 8 * 8 = 0x2008)
    ∧ State.reset.served = false ∧ State.reset.pendingWrites fn0 = [] ∧ (0x18 : Nat) / 8 * 8 = 0x18
    ∧ regAccess 8 0x158 = true ∧ (0x158 : Nat) / 8 * 8 = 0x158 ∧ 0x40 ≤ 0x158 ∧ regAccess 8 0x2000 = true ∧ (0x2000 : Nat) / 8 * 8 = 0x2000 := by
  decide +kernel

end Sys2Proof.Tests
end

section
/-! The registers of the module at reset: no table lists an entry, so every link, island and tenant reads as its own
default, and the claim is about those defaults. -/

namespace Sys2Proof.Machine

/-! ### A table that lists nothing -/

@[simp] theorem tget_nil {α : Type} (k : Nat) : tget k ([] : Table α) = none := rfl

@[simp] theorem tgetD_nil {α : Type} (k : Nat) (d : α) : tgetD k d [] = d := rfl

/-! ### Links, islands and tenants at reset -/

@[simp] theorem State.reset_link (n : Nat) : State.reset.link n = Link.reset := tgetD_nil n _

@[simp] theorem State.reset_island (i : Nat) : State.reset.island i = Island.reset := tgetD_nil i _

@[simp] theorem State.reset_tenant (t : Nat) : State.reset.tenant t = Tenant.reset := tgetD_nil t _

/-- A rail that is commanded to code 0 and stands at 0 is sensed at 0 at any time (R335, R343). -/
@[simp] theorem Island.reset_sense (now : Nat) : Island.reset.sense now = 0 := by
  simp [Island.sense, Island.railPos, Island.reset]

/-- ISLST of R343: all its fields are 0 at reset. -/
theorem State.reset_islst (i : Nat) : State.reset.islst i = 0 := by
  rw [State.islst, State.reset_island, Island.reset_sense]
  rfl

/-! ### The fields of a tenant's registers at reset -/

/-- QUOTA of PRQCFG (R318). -/
theorem Tenant.reset_prqcfg_quota : wget Tenant.reset.prqcfg 10 0 = 8 := by decide

/-- DRAIN, GRACE and SLICE of SLICECFG (R376). -/
theorem Tenant.reset_slicecfg_fields : wget Tenant.reset.slicecfg 63 48 = 50 ∧ wget Tenant.reset.slicecfg 47 32 = 100
    ∧ wget Tenant.reset.slicecfg 31 0 = 0 := by decide

/-- WEIGHT and TOKENS of PWRCFG (R344). -/
theorem Tenant.reset_pwrcfg_fields : wget Tenant.reset.pwrcfg 39 32 = 1 ∧ wget Tenant.reset.pwrcfg 19 0 = 0xFFFFF := by decide

/-- GRANT of PWRGNT (R344). -/
theorem Tenant.reset_pwrgnt_grant : wget Tenant.reset.pwrgnt 59 40 = 0xFFFFF := by decide

/-- Settles O5: the module's registers are fields of the reset state; a port, an island and a tenant are not listed in it
and read as their defaults, whose packed words are taken apart field by field. -/
theorem resetRegisters : Obligations.ResetRegisters := by
  unfold Obligations.ResetRegisters
  refine ⟨rfl, rfl, rfl, rfl, rfl, rfl, rfl, rfl, fun n => tgetD_nil n _, fun n => ?link, State.reset_islst, fun t => ?tenant⟩
  case link =>
    rw [State.reset_link]
    exact ⟨rfl, rfl, rfl⟩
  case tenant =>
    rw [State.reset_tenant]
    obtain ⟨drain, grace, slice⟩ := Tenant.reset_slicecfg_fields
    obtain ⟨weight, tokens⟩ := Tenant.reset_pwrcfg_fields
    exact ⟨rfl, rfl, rfl, rfl, rfl, rfl, rfl, rfl, rfl, rfl, rfl, Tenant.reset_prqcfg_quota, drain, grace, slice, weight, tokens,
      Tenant.reset_pwrgnt_grant⟩

end Sys2Proof.Machine
end

section
/-! Launches (R23-R32): what each launch event does, guard by guard, in the order in which the model tests the guards. -/

namespace Sys2Proof.Machine

/-! ### Frames of updates that run over a list -/

/-- What every step of a fold leaves alone, the fold leaves alone. -/
theorem State.foldl_keeps {α β : Type} (π : State → β) {g : State → α → State} (h : ∀ s a, π (g s a) = π s) (l : List α)
    (s : State) : π (l.foldl g s) = π s := by
  induction l generalizing s with
  | nil => rfl
  | cons a l ih => rw [List.foldl_cons, ih, h]

/-- Halting bays or letting them go leaves alone whatever a change of a bay leaves alone. -/
theorem State.setHalted_keeps {β : Type} (π : State → β) (h : ∀ (s : State) b f, π (s.modBay b f) = π s) (s : State) (v : Bool)
    (l : List Nat) : π (s.setHalted v l) = π s :=
  State.foldl_keeps π (g := fun s b => s.modBay b fun y => { y with halted := v }) (fun s b => h s b _) l s

@[simp] theorem State.setHalted_fields (s : State) (v : Bool) (l : List Nat) : (s.setHalted v l).fields = s.fields :=
  State.setHalted_keeps State.fields (fun _ _ _ => rfl) s v l
@[simp] theorem State.setHalted_nextField (s : State) (v : Bool) (l : List Nat) : (s.setHalted v l).nextField = s.nextField :=
  State.setHalted_keeps State.nextField (fun _ _ _ => rfl) s v l
@[simp] theorem State.setHalted_mem (s : State) (v : Bool) (l : List Nat) : (s.setHalted v l).mem = s.mem :=
  State.setHalted_keeps State.mem (fun _ _ _ => rfl) s v l
@[simp] theorem State.setHalted_tenants (s : State) (v : Bool) (l : List Nat) : (s.setHalted v l).tenants = s.tenants :=
  State.setHalted_keeps State.tenants (fun _ _ _ => rfl) s v l

/-! ### Fields and pairs -/

/-- A field is found under its own number. -/
theorem State.field?_id {s : State} {f : Nat} {x : Field} (h : s.field? f = some x) : x.id = f := by
  simpa using List.find?_some h

/-- Pairs on their way stay as they are when none of them is named. -/
theorem State.drainIf_none {s : State} {p : Pair → Bool} (h : ∀ x ∈ s.pairs, p x = false) : s.drainIf p = s := by
  have idle (x : Pair) (i : Nat) : ((s.pairs.drop i).any fun y => p y && s.samePath x y && !s.stays y) = false :=
    List.any_eq_false.mpr fun y hy => by simp [h y (List.mem_of_mem_drop hy)]
  have noneGo : ∀ l : List (Pair × Nat), (l.map fun x => (x.1, false)).filter Prod.snd = [] := fun l => by simp
  have allStay : ∀ l : List (Pair × Nat), (l.map fun x => (x.1, false)).filter (fun x => !x.2) = l.map fun x => (x.1, false) :=
    fun l => by simp
  simp only [State.drainIf, idle, noneGo, allStay, List.map_map, List.map_nil, List.foldl_nil, Function.comp_def]
  simp

/-- A completion that has no record to write, no message to send and no pair of its field to wait for changes nothing. -/
theorem State.complete_silent {s : State} (t : Nat) {p : BitVec 512} (code : Nat) {c : Ctx}
    (hp : ∀ x ∈ s.pairs, x.field ≠ c.field) (hd : pktDone p = 0) (hm : nbit p.toNat 338 = false) : s.complete t p code c = s := by
  have idle : s.drainIf (fun x => x.field == c.field) = s := State.drainIf_none fun x hx => by simpa using hp x hx
  simp [State.complete, idle, hd, hm]

/-! ### Packets -/

/-- The meanings of the launch events. -/
theorem exec_launchPacketWrite (fn : HostFn) (off size : Nat) (d : BitVec 512) (s : State) :
    exec (.launchPacketWrite fn off size d) s = execLaunchPacketWrite fn off size d s := rfl
theorem exec_launchDistribute (t : BitVec 4) (s : State) : exec (.launchDistribute t) s = execLaunchDistribute t s := rfl
theorem exec_gangDeadline (t : BitVec 4) (placed : Bool) (n : Nat) (s : State) :
    exec (.gangDeadline t placed n) s = execGangDeadline t placed n s := rfl
theorem exec_launchComplete (f : Nat) (s : State) : exec (.launchComplete f) s = execLaunchComplete f s := rfl

/-- A packet write waits until the functions are served and every earlier write of its own has passed (R25, R399). -/
theorem launchPacketWrite_blocked {s : State} {fn : HostFn} (off size : Nat) (d : BitVec 512)
    (h : ¬ (s.served = true ∧ s.pendingWrites fn = [])) : execLaunchPacketWrite fn off size d s = .next s := by
  have blocked : (!s.served || !(s.pendingWrites fn).isEmpty) = true := by
    rw [not_and_or] at h
    rcases h with h | h <;> simp [h]
  simp only [execLaunchPacketWrite, blocked, if_true]

/-- Past that wait, its offset, its size and the room in the queue decide (R23, R394). -/
theorem launchPacketWrite_open {s : State} {fn : HostFn} (off size : Nat) (d : BitVec 512)
    (h : s.served = true ∧ s.pendingWrites fn = []) : execLaunchPacketWrite fn off size d s =
      if off ≠ 0 ∨ size ≠ 64 then .next (s.modTenant fn.vf.toNat fun x => { x with lqdisc := wadd x.lqdisc 31 0 1 })
      else if (s.tenant fn.vf.toNat).free = 0 then
        .next (s.modTenant fn.vf.toNat fun x => { x with lqdisc := wadd x.lqdisc 63 32 1 })
      else .next (s.modTenant fn.vf.toNat fun x => { x with launches := x.launches ++ [d] }) := by
  obtain ⟨served, none_pending⟩ := h
  simp [execLaunchPacketWrite, served, none_pending]

/-! ### The distributor -/

/-- The distributor does nothing for a tenant with no packet, or at which it does not look. -/
theorem launchDistribute_idle {s : State} {t : BitVec 4} (h : (s.tenant t.toNat).launches = [] ∨ s.distributes t.toNat = false) :
    execLaunchDistribute t s = .next s := by
  unfold execLaunchDistribute
  rcases h with h | h
  · simp [h]
  · cases hd : (s.tenant t.toNat).launches.head? <;> simp [hd, h]

/-- A tenant that has a packet and is looked at: the checks of R26 in their order, then the first free origin. -/
theorem launchDistribute_head {s : State} {t : BitVec 4} {p : BitVec 512} (hp : (s.tenant t.toNat).launches.head? = some p)
    (hd : s.distributes t.toNat = true) : execLaunchDistribute t s =
      if pktMalformed p then .next (s.reject t.toNat p 0x0001)
      else if pktTooBig (s.gridOf t.toNat).1 (s.gridOf t.toNat).2 p then .next (s.reject t.toNat p 0x0002)
      else if s.gangLate p then .next (s.reject t.toNat p 0x0004)
      else ((origins (s.gridOf t.toNat).1 (s.gridOf t.toNat).2 p).find?
          fun o => s.freeRect t.toNat (pktFw p) (pktFh p) o.1 o.2).elim (.next s) fun o => .next (s.place t.toNat p o.1 o.2) := by
  simp only [execLaunchDistribute, hp, hd, Bool.not_true, Bool.false_eq_true, if_false]
  cases (origins (s.gridOf t.toNat).1 (s.gridOf t.toNat).2 p).find? fun o => s.freeRect t.toNat (pktFw p) (pktFh p) o.1 o.2 <;> rfl

/-- The field that a placed packet becomes (R26). -/
def State.placedField (s : State) (t : Nat) (p : BitVec 512) (ox oy : Nat) : Field where
  id := s.nextField
  tenant := t
  packet := p
  ox := ox
  oy := oy
  stage := .placed
  code := 0
  tasks := []
  nextTask := 1
  yards := []
  rate := BitVec.ofNat 32 (pkt p 287 256)
  rpn := pkt p 291 288
  nextInst := 1
  fault := none
  faults := 0
  colls := []
  yielded := false
  rung := 0

section
variable (s : State) (t : Nat) (p : BitVec 512) (ox oy : Nat)

theorem State.place_fields : (s.place t p ox oy).fields = s.fields ++ [s.placedField t p ox oy] := by
  unfold State.place; dsimp only; split <;> simp [State.placedField]
theorem State.place_nextField : (s.place t p ox oy).nextField = s.nextField + 1 := by
  unfold State.place; dsimp only; split <;> simp
theorem State.place_mem : (s.place t p ox oy).mem = s.mem := by
  unfold State.place; dsimp only; split <;> simp
/-- The packet leaves its queue. -/
theorem State.place_launches : ((s.place t p ox oy).tenant t).launches = (s.tenant t).launches.drop 1 := by
  have placed : (s.place t p ox oy).tenants = tput t { s.tenant t with
      launches := (s.tenant t).launches.drop 1
      sliceAt := if s.fields.all fun f => f.tenant ≠ t then s.dtime.toNat else (s.tenant t).sliceAt } s.tenants := by
    unfold State.place; dsimp only; split <;> simp
  rw [State.tenant, placed, tgetD_tput, if_pos rfl]
end

/-! ### Gangs and completions -/

/-- A placed field whose deadline passes: only a gang of the tenant that is still placed is touched (R28). -/
theorem gangDeadline_placed {s : State} {n : Nat} {f : Field} (t : BitVec 4) (hf : s.field? n = some f) :
    execGangDeadline t true n s =
      if f.tenant ≠ t.toNat ∨ f.stage ≠ .placed ∨ ¬ (pktGang f.packet = true ∧ pktStart f.packet ≤ s.dtime.toNat + 2000) then .next s
      else if s.domcfg.getLsbD 32 then .next (s.setField { f with stage := .cleared })
      else .next (s.setField { f with stage := .ended, code := 0x0004 }) := by
  simp [execGangDeadline, hf]

/-- A packet still queued whose deadline passes. -/
theorem gangDeadline_queued {s : State} {n : Nat} {p : BitVec 512} {t : BitVec 4} (hp : (s.tenant t.toNat).launches[n]? = some p) :
    execGangDeadline t false n s =
      if ¬ (pktGang p = true ∧ pktStart p ≤ s.dtime.toNat + 2000) ∨ pktMalformed p = true then .next s
      else
        let z := s.modTenant t.toNat fun x => { x with launches := dropAt x.launches n }
        .next (z.complete t.toNat p 0x0004 (z.unitCtx t.toNat 0 0 0 0 0)) := by
  simp [execGangDeadline, hp]

/-- A field may complete: it has ended, its tenant is not stopped, none of its sections lives and no pair of it waits for a
route. -/
def State.completes (s : State) (f : Nat) (x : Field) : Prop :=
  x.stage = .ended ∧ (s.tenant x.tenant).pre < 2 ∧ (∀ i ∈ s.insts, i.field ≠ f)
    ∧ ∀ p ∈ s.pairs, ¬ (p.field = f ∧ s.noRoute p.who p.pa = true)

theorem launchComplete_waits {s : State} {f : Nat} {x : Field} (hf : s.field? f = some x) (h : ¬ s.completes f x) :
    execLaunchComplete f s = .next s := by
  have : x.stage ≠ .ended ∨ (s.tenant x.tenant).pre ≥ 2 ∨ s.insts.any (fun i => i.field == f) = true
      ∨ s.pairs.any (fun p => p.field == f && s.noRoute p.who p.pa) = true := by
    by_contra c
    refine h ?_
    simp only [not_or] at c
    obtain ⟨ended, running, noInst, noPair⟩ := c
    refine ⟨not_not.mp ended, by omega, by simpa using noInst, by simpa using noPair⟩
  simp only [execLaunchComplete, hf, if_pos this]

theorem launchComplete_goes {s : State} {f : Nat} {x : Field} (hf : s.field? f = some x) (h : s.completes f x) :
    execLaunchComplete f s = .next ((s.complete x.tenant x.packet x.code (s.fieldCtx x)).dropField f) := by
  obtain ⟨ended, running, noInst, noPair⟩ := h
  have : ¬ (x.stage ≠ .ended ∨ (s.tenant x.tenant).pre ≥ 2 ∨ s.insts.any (fun i => i.field == f) = true
      ∨ s.pairs.any (fun p => p.field == f && s.noRoute p.who p.pa) = true) := by
    simp only [not_or]
    exact ⟨not_not.mpr ended, by omega, by simpa using noInst, by simpa using noPair⟩
  simp only [execLaunchComplete, hf, if_neg this]

/-- Settles O55: each event is taken through its guards in the model's order; a silent completion is no change because a
drain that names no pair leaves the way as it is. -/
theorem launches : Obligations.Launches := by
  unfold Obligations.Launches
  refine ⟨fun s fn off size d => ?write, fun s t p => ?distribute, fun s t n => ?gang, fun s f x hf => ?complete⟩
  case write =>
    simp only [exec_launchPacketWrite]
    refine ⟨launchPacketWrite_blocked off size d, fun go h => ?_, fun go ho hs h => ?_, fun go ho hs h => ?_⟩
    · rw [launchPacketWrite_open off size d go, if_pos h]
    · rw [launchPacketWrite_open off size d go, if_neg (by simp [ho, hs]), if_pos h]
    · rw [launchPacketWrite_open off size d go, if_neg (by simp [ho, hs]), if_neg h]
  case distribute =>
    simp only [exec_launchDistribute]
    refine ⟨fun h => launchDistribute_idle (.inl h), fun h => launchDistribute_idle (.inr h), fun hp hd => ?_⟩
    rw [launchDistribute_head hp hd]
    refine ⟨fun bad => if_pos bad, fun bad big => by simp [bad, big], fun bad big late => by simp [bad, big, late],
      fun bad big late => ⟨fun full => ?_, fun o free => ?_⟩⟩
    · have none_free : (origins (s.gridOf t.toNat).1 (s.gridOf t.toNat).2 p).find?
          (fun o => s.freeRect t.toNat (pktFw p) (pktFh p) o.1 o.2) = none := List.find?_eq_none.mpr fun o ho => by simp [full o ho]
      simp [bad, big, late, none_free]
    · refine ⟨s.place t.toNat p o.1 o.2, s.placedField t.toNat p o.1 o.2, by simp [bad, big, late, free], State.place_fields .., rfl,
        State.place_nextField .., rfl, rfl, rfl, rfl, rfl, rfl, State.place_launches .., State.place_mem ..⟩
  case gang =>
    simp only [exec_gangDeadline]
    refine ⟨fun f hf mine placed due => ?_, fun f hf h => ?_, fun p hp due good => ?_, fun p hp early => ?_⟩
    · rw [gangDeadline_placed t hf, if_neg (by simp [mine, placed, due])]
      split <;> rfl
    · rw [gangDeadline_placed t hf, if_pos h]
    · rw [gangDeadline_queued hp, if_neg (by simp [due, good])]
    · rw [gangDeadline_queued hp, if_pos (.inl early)]
  case complete =>
    simp only [exec_launchComplete]
    refine ⟨launchComplete_waits hf, launchComplete_goes hf, fun go noPair noRecord noMessage => ?_⟩
    have apart : ∀ p ∈ s.pairs, p.field ≠ (s.fieldCtx x).field := by
      rw [State.fieldCtx, State.unitCtx, State.field?_id hf]
      exact noPair
    rw [launchComplete_goes hf go, State.complete_silent x.tenant x.code apart noRecord noMessage]
    rfl

end Sys2Proof.Machine
end

section
/-! Firings (R35-R37, R153, R178): who takes a free slot of a bay, what a firing starts with, and what a parked one resumes
with. -/

namespace Sys2Proof.Machine

/-! ### The meanings of the two events -/

theorem exec_fireActor (b : Nat) (s : State) : exec (.fireActor b) s = execFireActor b s := rfl
theorem exec_firingResume (b : Nat) (s : State) : exec (.firingResume b) s = execFiringResume b s := rfl

/-! ### A firing begins -/

/-- FIRE_ACTOR does nothing on a bay that stands still or has no free slot, or where a parked firing is ready. -/
theorem fireActor_waits {s : State} {b : Nat} (h : s.bayRuns b = false ∨ 4 ≤ s.slots b ∨ (s.nextReady b).isSome = true) :
    execFireActor b s = .next s := by
  unfold execFireActor
  rcases h with h | h | h <;> simp [h, Config.issueSlots]

/-- Else the actor that has been fireable longest fires. -/
theorem fireActor_fires {s : State} {b i n : Nat} {cy : Word} {x : Inst} {a : ActorRec} (runs : s.bayRuns b = true)
    (free : s.slots b < 4) (idle : s.nextReady b = none) (first : ((s.refresh b).bay b).fireOrder.head? = some (i, cy))
    (live : (s.refresh b).bayInst b = some x)
    (actor : ((s.refresh b).bayActors x b).find? (fun q => q.2.idx == i) = some (n, a)) :
    execFireActor b s = .next ((s.refresh b).fire b x a) := by
  simp only [execFireActor, runs, idle, first, live, actor, Config.issueSlots]
  simp [free]

/-- Bringing the order of the fireable actors up to date changes nothing else. -/
theorem State.refresh_bay (s : State) (b : Nat) : ∃ l, (s.refresh b).bay b = { s.bay b with fireOrder := l } :=
  ⟨_, (State.bay_modBay s b b _).trans (if_pos rfl)⟩
@[simp] theorem State.refresh_mem (s : State) (b : Nat) : (s.refresh b).mem = s.mem := rfl

/-- What every firing starts with, whatever message it is for (R37). -/
structure Begins (f : Firing) (x : Inst) (a : ActorRec) (p : Persist) : Prop where
  actor : f.actor = a.idx
  status : f.status = .ready
  slot : f.slot = true
  pc : f.regs.pc = BitVec.ofNat 64 ((codeRange x a).1 + a.entry)
  flags : f.regs.flags = 0
  rmode : f.regs.rmode = 0
  depth : f.regs.depth = 0
  region : f.region = none
  moved : f.moved = []
  g : ∀ k : Fin 8, f.regs.g[16 + k.val] = p.g[k]
  v : ∀ k : Fin 8, f.regs.v[24 + k.val] = p.v[k]

/-- The persistent registers at entry (R37). -/
theorem entryRegs_g (draw : Nat) (p : Persist) (pc : Word) (m : Option Msg) (k : Fin 8) :
    (entryRegs draw p pc m).g[16 + k.val] = p.g[k] := by
  simp only [entryRegs, Vector.getElem_ofFn]
  rw [if_neg (by omega), if_pos (by omega), Nat.add_sub_cancel_left]
  simp
theorem entryRegs_v (draw : Nat) (p : Persist) (pc : Word) (m : Option Msg) (k : Fin 8) :
    (entryRegs draw p pc m).v[24 + k.val] = p.v[k] := by
  simp only [entryRegs, Vector.getElem_ofFn]
  rw [if_pos (by omega), Nat.add_sub_cancel_left]
  simp

/-- A firing that starts stands on its bay, is counted, and touches no memory. -/
theorem State.fire_spec (s : State) (b : Nat) (x : Inst) (a : ActorRec) : ∃ f, f ∈ ((s.fire b x a).bay b).firings
    ∧ Begins f x a (tgetD a.idx Persist.zero (s.bay b).persist)
    ∧ tgetD a.idx 0 ((s.fire b x a).bay b).fired = tgetD a.idx 0 (s.bay b).fired + 1 ∧ (s.fire b x a).mem = s.mem := by
  unfold State.fire
  dsimp only
  generalize (if a.handler then (s.bay b).nextMsg a else none) = msg
  refine ⟨_, by rw [State.bay_modBay, if_pos rfl]; exact List.mem_append_right _ (List.mem_singleton_self _), ?begins, ?count, ?mem⟩
  case begins =>
    exact ⟨rfl, rfl, rfl, rfl, rfl, rfl, rfl, rfl, rfl, entryRegs_g _ _ _ _, entryRegs_v _ _ _ _⟩
  case count => rw [State.bay_modBay, if_pos rfl, tgetD_tput, if_pos rfl]
  case mem => cases msg <;> rfl

/-! ### The ports of a bay -/

/-- Ports at which nothing can go on do nothing. -/
theorem State.portsDone_idle {s : State} {b : Nat} (h : ∀ f ∈ (s.bay b).firings, f.atPort = false ∨ s.parkReady f = false) :
    s.portsDone b = s := by
  have still : ∀ l : List Firing, (∀ f ∈ l, f.atPort = false ∨ s.parkReady f = false) →
      l.foldl (fun s f => if f.atPort && s.parkReady f then s.atPortDone f else s) s = s := by
    intro l hl
    induction l with
    | nil => rfl
    | cons f l ih =>
      have blocked : (f.atPort && s.parkReady f) = false := by
        rcases hl f List.mem_cons_self with h | h <;> simp [h]
      rw [List.foldl_cons, blocked, if_neg Bool.false_ne_true]
      exact ih fun g hg => hl g (List.mem_cons_of_mem _ hg)
  exact still _ h

/-- The only firing of a bay goes on at its port. -/
theorem State.portsDone_one {s : State} {b : Nat} {f : Firing} (only : (s.bay b).firings = [f]) (port : f.atPort = true)
    (ready : s.parkReady f = true) : s.portsDone b = s.atPortDone f := by
  simp [State.portsDone, only, port, ready]

/-- The instructions that wait at a port (R202, R203). -/
def portInstr (i : Instr) : Prop :=
  (∃ d p k, i = .recv d p k) ∨ (∃ d p k, i = .send d p k) ∨ (∃ d p k, i = .recvg d p k) ∨ (∃ d p k, i = .sendg d p k)
    ∨ ∃ d p k, i = .peektag d p k

/-- A port does the work of its instruction as the issue stage would. -/
theorem State.portWork_exec {u t : State} {i : Instr} {x : IWord} (fetched : u.fetch = .word x) (decoded : decode x = .ok i)
    (port : portInstr i) (done : exec i u = .next t) : u.portWork = some t := by
  rcases port with ⟨d, p, k, rfl⟩ | ⟨d, p, k, rfl⟩ | ⟨d, p, k, rfl⟩ | ⟨d, p, k, rfl⟩ | ⟨d, p, k, rfl⟩ <;>
    · simp only [exec] at done
      simp [State.portWork, fetched, decoded, done]

/-- An instruction that has gone on at its port is marked retired; its firing stays parked, at the PC and in the loops it
had. -/
theorem State.atPortDone_ready {s t : State} {f : Firing} {w : Park} (parked : f.status = .parked w false)
    (work : (s.load_ { f with status := .ready }).portWork = some t) (ready : t.fir.status = .ready) :
    s.atPortDone f = { ({ t with fir := { t.fir with
        status := .parked w true
        regs := { t.fir.regs with pc := f.regs.pc, depth := f.regs.depth, lc0 := f.regs.lc0, lc1 := f.regs.lc1 } } } : State).unload
      with fir := s.fir } := by
  simp only [State.atPortDone, work, ready, parked]

/-! ### A parked firing goes on -/

/-- FIRING_RESUME does nothing on a bay that stands still. -/
theorem firingResume_stands {s : State} {b : Nat} (h : s.bayRuns b = false) : execFiringResume b s = .next s := by
  simp [execFiringResume, h]

/-- On a bay that runs, the ports come first; then the ready firing that parked earliest takes a free slot. -/
theorem firingResume_runs {s : State} {b : Nat} (h : s.bayRuns b = true) : execFiringResume b s =
    if 4 ≤ (s.portsDone b).slots b then .next (s.portsDone b)
    else ((s.portsDone b).nextReady b).elim (.next ((s.portsDone b).noteSweeps b)) fun f =>
      .next ((((s.portsDone b).resumeAcquire f).modFiring b f.actor Firing.resume).modBay b fun y =>
        { y with firings := (y.firings.filter fun z => z.actor ≠ f.actor) ++ y.firings.filter fun z => z.actor == f.actor }) := by
  simp only [execFiringResume, h, Config.issueSlots, Bool.not_true, Bool.false_eq_true, if_false, ge_iff_le]
  cases (s.portsDone b).nextReady b <;> rfl

/-- Its instruction is retired when it has completed, and issued again when it has not, unless a page request of a region
parked it (R153). -/
theorem Firing.resume_parked {f : Firing} {p : Park} {q : Bool} (parked : f.status = .parked p q) (h : ∀ e a, p ≠ .page e a) :
    f.resume.regs = (if q then f.regs.endChecks f.regs.pc else f.regs) ∧ f.resume.status = .ready ∧ f.resume.slot = true := by
  unfold Firing.resume
  rw [parked]
  cases p with
  | page e a => exact absurd rfl (h e a)
  | _ => cases q <;> exact ⟨rfl, rfl, rfl⟩

/-- A region goes back to its checkpoint with nothing staged (R178). -/
theorem Firing.resume_page {f : Firing} {e a : Word} {q : Bool} {r : Region} (parked : f.status = .parked (.page e a) q)
    (region : f.region = some r) : f.resume.regs = r.ckpt ∧ f.resume.region = some { r with staged := [] }
      ∧ f.resume.status = .ready ∧ f.resume.slot = true := by
  simp [Firing.resume, Firing.resumeRegion, parked, region]

/-! ### Fireable actors and turns of the slots -/

/-- An actor that is no handler is fireable only when its input and output conditions are met (R35). -/
theorem State.fireable_met {s : State} {b n : Nat} {x : Inst} {a : ActorRec} (plain : a.handler = false)
    (h : s.fireable b x n a = true) : s.inFiring b a.idx = false ∧ inputsMet x n = true ∧ outputsMet x n = true := by
  simp only [State.fireable, plain, Bool.false_eq_true, if_false, Bool.and_eq_true, Bool.not_eq_true'] at h
  exact ⟨h.1, h.2.1.1.1, h.2.1.1.2⟩

theorem inputsMet_chan {x : Inst} {n k : Nat} {c : ChanRec} (h : inputsMet x n = true) (hc : (c, k) ∈ x.image.chans.zipIdx)
    (mine : c.cact = n) : (if c.cvar then 1 else c.cn) ≤ (x.chan k).seenToks.length := by
  simpa [mine] using List.all_eq_true.mp h (c, k) hc
theorem outputsMet_chan {x : Inst} {n k : Nat} {c : ChanRec} (h : outputsMet x n = true) (hc : (c, k) ∈ x.image.chans.zipIdx)
    (mine : c.pact = n) : c.pn ≤ roomOf x c (x.chan k) := by
  simpa [mine] using List.all_eq_true.mp h (c, k) hc

/-- The firing that issues is ready, and either has just taken its slot or has waited longest since its last instruction
(R36). -/
theorem State.issuable_turn {s : State} {b a : Nat} {f g : Firing} {rest : List Firing} (first : s.ready b = g :: rest)
    (h : s.issuable b a = some f) :
    s.bayRuns b = true ∧ f ∈ s.ready b ∧ f.actor = a ∧ (f.fresh = true ∨ g.actor = a) := by
  unfold State.issuable at h
  cases runs : s.bayRuns b with
  | false => simp [runs] at h
  | true =>
    cases found : (s.ready b).find? (fun f => f.actor == a) with
    | none => simp [runs, found] at h
    | some f' =>
      simp only [runs, found, Bool.not_true, Bool.false_eq_true, if_false, Option.ite_none_right_eq_some, Option.some.injEq] at h
      obtain ⟨turn, rfl⟩ := h
      refine ⟨rfl, List.mem_of_find?_eq_some found, by simpa using List.find?_some found, ?_⟩
      simpa [first] using turn

/-- Settles O46: a firing that starts is the one built from the bay's persistent set, and a port's work is that of `exec` on the
instruction that waits there. -/
theorem firingScheduling : Obligations.FiringScheduling := by
  unfold Obligations.FiringScheduling
  simp only [exec_fireActor, exec_firingResume]
  refine ⟨fun s b i n cy x a runs free idle first live actor => ?fires, fun s b f runs free next => ?resumes,
    fun s b f next => fireActor_waits (.inr (.inr (by simp [next]))), fun s b => ⟨firingResume_stands, fun runs full => ?full,
      fun h => fireActor_waits (h.imp_right .inl)⟩,
    fun s b runs free none_ready => ?notes, fun s b => State.portsDone_idle, fun s b f => State.portsDone_one,
    fun s t f w i x parked _ fetched decoded port done ready =>
      State.atPortDone_ready parked (State.portWork_exec fetched decoded port done) ready,
    fun f p parked h => by simpa using Firing.resume_parked parked h, fun f p parked h => by simpa using Firing.resume_parked parked h,
    fun f e a q r => Firing.resume_page, fun s b n x a plain fireable => ?fireable, fun s b a f g rest => State.issuable_turn⟩
  case fires =>
    obtain ⟨f, on, new, count, mem⟩ := (s.refresh b).fire_spec b x a
    obtain ⟨l, order⟩ := s.refresh_bay b
    rw [order] at new count
    exact ⟨_, f, fireActor_fires runs free idle first live actor, on, new.actor, new.status, new.slot, new.pc, new.flags, new.rmode,
      new.depth, new.region, new.moved, Regs.rg_zero _, if_pos rfl, fun k => ⟨new.g k, new.v k⟩, count, mem⟩
  case resumes => rw [firingResume_runs runs, if_neg (by omega), next]; rfl
  case full => rw [firingResume_runs runs, if_pos full]
  case notes => rw [firingResume_runs runs, if_neg (by omega), none_ready]; rfl
  case fireable =>
    obtain ⟨notFiring, inputs, outputs⟩ := State.fireable_met plain fireable
    exact ⟨notFiring, fun c k => inputsMet_chan inputs, fun c k => outputsMet_chan outputs⟩

end Sys2Proof.Machine
end

section
/-! A section armed on a plot that names one bay twice (R241, R262): the arm sets every bay of the plot in turn, so a bay named
twice is set again after it has cached the image's code, and goes on with the cached copy. -/

namespace Sys2Proof.Machine

/-- An image of one actor whose code is FEND, for the whole field as its plot (R142-R144). -/
def foldedBytes : List Byte := natLe 160 (0x3144524B + 2 ^ 32 + 7 * 2 ^ 40 + 160 * 2 ^ 64 + 96 * 2 ^ 128 + 2 ^ 160 + 128 * 2 ^ 640
  + 2 ^ 672 + (4 * 2 ^ 32 + 2 ^ 128 + 2 ^ 160 + 0xFFFF * 2 ^ 208) * 2 ^ 768 + 2 ^ 1024)
def foldedImage : Image where
  lw := 7
  lh := 0
  actors := [⟨0, 4, 0, 0, 0, 0, false, 0, 1, 1, 0, 0xFFFF⟩]
  chans := []
  routes := []
  rates := []
  edges := []
  panels := []
  regions := []
  spills := []
  codeOff := 128
  code := [1]
  codePoison := []

/-- A task at a SECTION on the whole field whose image is at 0x40, with three tiles to arm. -/
def foldedFrame : Frame := ⟨0x20, 0, none, false, BitVec.ofNat 256 (1 + 0xE00000 * 2 ^ 32 + 0x40 * 2 ^ 64 + 3 * 2 ^ 128)⟩
def foldedTask : Task := ⟨0, none, 0, [foldedFrame], .arm 3⟩
/-- A running field of three bays in a row, of a tenant whose partition map lists no island: its virtual bays 0 and 2 are both
module bay 0. No partition is created with such a map (R373); the statement is about every state. -/
def foldedField : Field := { oneField 0 with
  tenant := 1, packet := BitVec.ofNat 512 (3 * 2 ^ 296 + 2 ^ 304), tasks := [foldedTask], nextTask := 1 }
def foldedState : State := { State.reset with
  fields := [foldedField], images := [⟨0, 1, 0x40, foldedBytes.map fun x => (x, false)⟩] }

/-- The plot names module bay 0 twice. -/
theorem folded_plotBays : foldedState.plotBays foldedField (framePlot foldedFrame) = [0, 1, 0] := by decide +kernel

theorem folded_parse : parseImage ((foldedBytes.map fun x => (x, false)).map Prod.fst) ((foldedBytes.map fun x => (x, false)).map Prod.snd)
    7 0 3 1 = some foldedImage := by decide +kernel

/-- The section may be armed now. -/
theorem folded_ready : foldedState.walking 0 0 = some (foldedField, foldedTask)
    ∧ foldedState.plotFree foldedField (framePlot foldedFrame) = true ∧ foldedState.armFirst foldedField 0 = true := by decide +kernel

/-- Its image is the cached one. -/
theorem folded_image : foldedState.image foldedField (foldedState.walkCtx foldedField 0) 0x40 (framePlot foldedFrame)
    = .ok foldedState foldedImage := by
  have cached : foldedState.imageBytes (foldedState.walkCtx foldedField 0) 0x40
      = .ok foldedState (foldedBytes.map fun x => (x, false)) := rfl
  have plot : plotLW (framePlot foldedFrame) = 7 ∧ plotLH (framePlot foldedFrame) = 0
      ∧ plotRect (pktFw foldedField.packet) (pktFh foldedField.packet) (framePlot foldedFrame) = (0, 0, 3, 1) := by decide +kernel
  obtain ⟨lw, lh, rect⟩ := plot
  simp only [State.image, cached, lw, lh, rect, folded_parse]
  rfl

/-- The state that an outcome goes on with. -/
def outState : Out → Option State
  | .next t => some t
  | _ => none

/-- Once the section is armed, bay 0 goes on with cached code. -/
theorem folded_armed :
    (outState (exec (.sectionArm 0 0) foldedState)).map (fun z => (z.bay 0).code.isSome) = some true := by decide +kernel

/-- Refutes O54: the second visit of bay 0 finds the code that the first has cached, where the statement has the bay armed with
the image's own. -/
theorem not_sequencerTasks : ¬ Obligations.SequencerTasks := by
  unfold Obligations.SequencerTasks
  rintro ⟨-, arm, -⟩
  obtain ⟨walks, free, first⟩ := folded_ready
  obtain ⟨-, -, armed⟩ := arm foldedState foldedState foldedState 0 0 3 foldedField foldedTask foldedFrame [] foldedImage [] walks rfl rfl
  have pointer : BitVec.ofNat 64 (nodeField foldedFrame.record.toNat 8 8) = 0x40 := by decide +kernel
  rw [pointer] at armed
  obtain ⟨z, y, run, -, -, -, -, -, -, -, -, -, -, -, -, bays, -⟩ := armed ⟨free, first⟩ folded_image rfl
  obtain ⟨-, -, -, -, -, -, code⟩ := bays 0 (by rw [folded_plotBays]; exact List.mem_cons_self)
  have own : ((foldedState.bay 0).cacheCode foldedField.tenant 0x40 foldedImage).2 = none := by decide +kernel
  have cached := folded_armed
  rw [run, outState, Option.map_some, code, own] at cached
  exact absurd cached (by decide)

end Sys2Proof.Machine
end

section
/-! Address formation (R45-R56, R62): what each kind of handle and each space of an entry answers. -/

namespace Sys2Proof.Machine

/-- Settles O6: nothing is listed at reset. -/
theorem resetMemoryForm : Obligations.ResetMemoryForm := State.reset_memOk

/-! ### Own windows -/

theorem gaMod_ga (s : State) {a : Nat} (h : a < 2 ^ 47) : gaMod (s.ga a) = s.own := by
  unfold gaMod State.ga
  omega
theorem gaLocal_ga (s : State) {a : Nat} (h : a < 2 ^ 47) : gaLocal (s.ga a) = a := by
  unfold gaLocal State.ga
  omega

/-- A run of this module that its map holds. -/
theorem checkSegs_own {s : State} {x n : Nat} (own : gaMod x = s.own) (held : localBad (s.usable s.own) (gaLocal x) n = none) :
    s.checkSegs false [⟨x, n⟩] = none := by
  simp only [State.checkSegs, own, held]
  simp

/-- The map holds every byte of a bay's window below the end of the loft share (R53, R54). -/
theorem checkSegs_windowAddr (s : State) {b w n : Nat} (hb : b < 2048) (hn : 0 < n) (hw : w + n ≤ Config.loftTop) :
    s.checkSegs false [⟨s.ga (windowAddr b w), n⟩] = none := by
  unfold Config.loftTop at hw
  have low : windowAddr b w < 2 ^ 47 := by unfold windowAddr Config.windowBase Config.windowSize; omega
  have window : isWindow (windowAddr b w) = true := by
    unfold isWindow windowAddr Config.windowBase Config.windowSize
    simp only [Bool.and_eq_true, decide_eq_true_eq]
    omega
  have off : windowOff (windowAddr b w) = w := by
    unfold windowOff windowAddr Config.windowBase Config.windowSize
    omega
  have here : localBad (s.usable s.own) (windowAddr b w) n = none := by
    unfold localBad Config.loftTop
    rw [if_pos window, off, if_neg (by omega), if_neg (by omega)]
  exact checkSegs_own (gaMod_ga s low) (by rw [gaLocal_ga s low, here])

/-! ### The steps of AddressOf -/

section
variable {s u : State} {c : Ctx} {p : Word} {n : Nat} {wr : Bool} {e : Ent}

theorem State.addressOf_noEntry (h : s.entry c (ptrH p) = none) :
    s.addressOf c p n wr = .error ((s.touch c (ptrH p)).flt c 0x06 p) := by
  unfold State.addressOf; rw [h]

theorem State.addressOf_noRight (h : s.entry c (ptrH p) = some (u, e)) (no : (if wr then e.wr else e.rd) = false) :
    s.addressOf c p n wr = .error (u.flt c 0x07 p) := by
  unfold State.addressOf
  cases wr <;> simp_all

theorem State.addressOf_pastBound (h : s.entry c (ptrH p) = some (u, e)) (ok : (if wr then e.wr else e.rd) = true)
    (past : e.bound < ptrOff p + n) : s.addressOf c p n wr = .error (u.flt c 0x08 p) := by
  unfold State.addressOf
  cases wr <;> simp_all

omit s u c p n in
theorem right_given (ok : (if wr then e.wr else e.rd) = true) : (if wr then !e.wr else !e.rd) = false := by
  cases wr <;> simp_all

/-- A run that a map answers for: the access, or the address fault of the first byte that no range holds (R53, R54). -/
def Mapped (u : State) (c : Ctx) (l : List Seg) (r : Except Flt (State × List Seg)) : Prop :=
  (u.checkSegs false l = none → r = .ok (u, l)) ∧ ∀ z, u.checkSegs false l = some z → r = .error (u.flt c 0x0C z)

section
variable (h : s.entry c (ptrH p) = some (u, e)) (ok : (if wr then e.wr else e.rd) = true) (within : ptrOff p + n ≤ e.bound)
include h ok within

theorem State.addressOf_virt (sp : e.space = 0) : s.addressOf c p n wr =
    u.transRange State.atHome c p wr (n / 65536 + 2) (e.base + ptrOff p) n := by
  simp [State.addressOf, h, right_given ok, Nat.not_lt.mpr within, sp]

theorem State.addressOf_fieldOut (sp : e.space = 1)
    (out : c.fw * c.fh ≤ (e.base + ptrOff p) / Config.windowSize
      ∨ Config.loftBase < (e.base + ptrOff p) % Config.windowSize + n) :
    s.addressOf c p n wr = .error (u.flt c 0x0B p) := by
  simp [State.addressOf, h, right_given ok, Nat.not_lt.mpr within, sp, out]

theorem State.addressOf_field (sp : e.space = 1) (b : (e.base + ptrOff p) / Config.windowSize < c.fw * c.fh)
    (w : (e.base + ptrOff p) % Config.windowSize + n ≤ Config.loftBase) :
    Mapped u c [⟨u.ga (windowAddr (u.moduleBay c.tenant (c.ox + (e.base + ptrOff p) / Config.windowSize % c.fw)
      (c.oy + (e.base + ptrOff p) / Config.windowSize / c.fw)) ((e.base + ptrOff p) % Config.windowSize)), n⟩]
      (s.addressOf c p n wr) := by
  constructor <;> intros <;>
    simp_all [State.addressOf, Nat.not_lt.mpr within, Nat.not_le.mpr b, Nat.not_lt.mpr w]

theorem State.addressOf_window (sp : e.space = 4) :
    Mapped u c [⟨u.ga (e.base + ptrOff p), n⟩] (s.addressOf c p n wr) := by
  constructor <;> intros <;> simp_all [State.addressOf, Nat.not_lt.mpr within]

theorem State.addressOf_global (sp : e.space = 3) :
    Mapped u c [⟨bits (e.base + ptrOff p) 51 47 * 2 ^ 47 + (e.base + ptrOff p) % 2 ^ 47, n⟩] (s.addressOf c p n wr) := by
  constructor <;> intros <;> simp_all [State.addressOf, Nat.not_lt.mpr within]

theorem State.addressOf_physOut (sp : e.space = 2) (out : 2 ^ 47 ≤ e.base + ptrOff p) :
    s.addressOf c p n wr = .error (u.flt c 0x0C (BitVec.ofNat 64 (e.base + ptrOff p))) := by
  simp only [State.addressOf, h, right_given ok, gt_iff_lt, Nat.not_lt.mpr within, sp, ge_iff_le, out, if_true,
    Bool.false_eq_true, if_false]

theorem State.addressOf_phys (sp : e.space = 2) (low : e.base + ptrOff p < 2 ^ 47) :
    Mapped u c [⟨u.ga (e.base + ptrOff p), n⟩] (s.addressOf c p n wr) := by
  constructor <;> intros <;>
    simp only [State.addressOf, right_given ok, gt_iff_lt, Nat.not_lt.mpr within, ge_iff_le, Nat.not_le.mpr low,
      Bool.false_eq_true, if_false, *]

end
/-! ### Handles that name no entry -/

theorem State.addressOf_ownWindow {off bound : Nat}
    (h : s.entry c (ptrH p) = some (s, ⟨4, windowAddr c.bay off, bound, true, true, 0, 0, 0, 0⟩)) (hb : c.bay < 2048)
    (hn : 0 < n) (top : off + bound ≤ Config.loftTop) : s.addressOf c p n wr =
      if ptrOff p + n ≤ bound then .ok (s, [⟨s.ga (windowAddr c.bay (off + ptrOff p)), n⟩]) else .error (s.flt c 0x08 p) := by
  split
  · next within =>
    have addr : windowAddr c.bay off + ptrOff p = windowAddr c.bay (off + ptrOff p) := by unfold windowAddr; omega
    have run := (State.addressOf_window (wr := wr) h (ite_self true) within rfl).1
    dsimp only at run
    rw [addr] at run
    exact run (checkSegs_windowAddr s hb hn (by omega))
  · next past => exact State.addressOf_pastBound h (ite_self true) (by dsimp only; omega)

theorem State.touch_reserved (h : ptrH p ≤ 3 ∨ (ptrH p ≤ 15 ∧ c.tenant ≠ 0)) : s.touch c (ptrH p) = s := by
  unfold State.touch
  rw [if_pos (by simpa using h)]

theorem State.addressOf_reserved (h : s.entry c (ptrH p) = none) (r : ptrH p ≤ 3 ∨ (ptrH p ≤ 15 ∧ c.tenant ≠ 0)) :
    s.addressOf c p n wr = .error (s.flt c 0x06 p) := by
  rw [State.addressOf_noEntry h, State.touch_reserved r]

/-! ### Virtual ranges -/

/-- The first page of a virtual range decides, or leaves the rest of the range. -/
theorem State.transRange_bad {pre : AtHome} {v : State} {a fuel : Nat} (hn : 0 < n)
    (h : u.translate pre c.walker c.tenant a = (v, .bad)) :
    u.transRange pre c p wr (fuel + 1) a n = .error (v.flt c 0x09 (BitVec.ofNat 64 a)) := by
  unfold State.transRange
  rw [if_neg (by omega), h]

section
variable {pre : AtHome} {v : State} {a fuel pa z k : Nat} {x : Bool} {fl : Option (Nat × Nat × Nat)}

theorem State.transRange_noWrite (hn : 0 < n) (h : u.translate pre c.walker c.tenant a = (v, .leaf pa z false fl)) :
    u.transRange pre c p true (fuel + 1) a n = .error (v.flt c 0x07 p) := by
  unfold State.transRange
  simp only [if_neg (Nat.pos_iff_ne_zero.mp hn), h]
  rfl

theorem State.transRange_page {q : Nat × Nat × Nat} (hn : 0 < n) (may : wr = false ∨ x = true)
    (h : u.translate pre c.walker c.tenant a = (v, .leaf pa z x (some q))) :
    u.transRange pre c p wr (fuel + 1) a n = .error { v.flt c 0x0A (BitVec.ofNat 64 a) with page := some q } := by
  have writes : (wr && !x) = false := by rcases may with rfl | rfl <;> simp
  unfold State.transRange
  simp only [if_neg (Nat.pos_iff_ne_zero.mp hn), h, writes, Bool.false_eq_true, if_false]

theorem State.transRange_unheld {q : Word} (hn : 0 < n) (hk : Nat.min n (z - a % z) = k) (may : wr = false ∨ x = true)
    (h : u.translate pre c.walker c.tenant a = (v, .leaf pa z x none))
    (bad : v.checkSegs (c.tenant ≠ 0) [⟨pa + a % z, k⟩] = some q) :
    u.transRange pre c p wr (fuel + 1) a n = .error (v.flt c 0x0C q) := by
  have writes : (wr && !x) = false := by rcases may with rfl | rfl <;> simp
  unfold State.transRange
  simp only [if_neg (Nat.pos_iff_ne_zero.mp hn), h, writes, hk, bad, Bool.false_eq_true, if_false]

theorem State.transRange_rest (hn : 0 < n) (hk : Nat.min n (z - a % z) = k) (may : wr = false ∨ x = true)
    (h : u.translate pre c.walker c.tenant a = (v, .leaf pa z x none))
    (good : v.checkSegs (c.tenant ≠ 0) [⟨pa + a % z, k⟩] = none) :
    u.transRange pre c p wr (fuel + 1) a n =
      (v.transRange pre c p wr fuel (a + k) (n - k)).map fun q => (q.1, ⟨pa + a % z, k⟩ :: q.2) := by
  have writes : (wr && !x) = false := by rcases may with rfl | rfl <;> simp
  conv_lhs => unfold State.transRange
  simp only [if_neg (Nat.pos_iff_ne_zero.mp hn), h, writes, hk, good, Bool.false_eq_true, if_false]
  cases v.transRange pre c p wr fuel (a + k) (n - k) <;> rfl

end
theorem State.transRange_none {pre : AtHome} {a fuel : Nat} : u.transRange pre c p wr fuel a 0 = .ok (u, []) := by
  cases fuel <;> unfold State.transRange <;> rfl

end

/-- Settles O28: handle, rights and bound in that order; a window of the bay's own lies in the map, so its check finds no fault;
each space of an entry gives its run, which the map answers for; a virtual range is decided by its first page
or goes on after it. -/
theorem addressFormation : Obligations.AddressFormation := by
  unfold Obligations.AddressFormation
  intro s c p n wr hb hn _ o
  refine ⟨State.addressOf_noEntry, fun u e => State.addressOf_noRight, fun u e => State.addressOf_pastBound,
    ?scratchpad, ?accumulators, ?registers, ?loft, ?noLoft, ?sequencer, ?reserved, ?spaces⟩
  case scratchpad =>
    intro bay hp
    have entry : s.entry c (ptrH p) = some (s, ⟨4, windowAddr c.bay 0, 0x100000, true, true, 0, 0, 0, 0⟩) := by
      simp [State.entry, hp, bay]
    simpa using State.addressOf_ownWindow entry hb hn (by decide)
  case accumulators =>
    intro bay hp
    have entry : s.entry c (ptrH p) = some (s, ⟨4, windowAddr c.bay 0x100000, 0x40000, true, true, 0, 0, 0, 0⟩) := by
      simp [State.entry, hp, bay, Config.accBase]
    exact State.addressOf_ownWindow entry hb hn (by decide)
  case registers =>
    intro bay hp
    have entry : s.entry c (ptrH p) = some (s, ⟨4, windowAddr c.bay 0x140000, 0x40000, true, true, 0, 0, 0, 0⟩) := by
      simp [State.entry, hp, bay, Config.regBase]
    exact State.addressOf_ownWindow entry hb hn (by decide)
  case loft =>
    intro bay hp t
    have entry : s.entry c (ptrH p) = some (s, ⟨4, windowAddr c.bay 0x180000, 0x160000, true, true, 0, 0, 0, 0⟩) := by
      simp [State.entry, hp, bay, t, Config.loftBase]
    exact State.addressOf_ownWindow entry hb hn (by decide)
  case noLoft =>
    intro bay hp t
    exact State.addressOf_reserved (by simp [State.entry, hp, bay, t]) (by omega)
  case sequencer =>
    intro bay hp
    exact State.addressOf_reserved (by simp [State.entry, hp, bay]) (by omega)
  case reserved =>
    intro lo hi t
    exact State.addressOf_reserved (by simp [State.entry, Nat.not_le.mpr (by omega : 3 < ptrH p), hi, t]) (.inr ⟨hi, t⟩)
  case spaces =>
    intro u e h ok within a b w bay g r
    have global : g = bits a 51 47 * 2 ^ 47 + a % 2 ^ 47 := by
      show a / 2 ^ 47 % 32 * 2 ^ 47 + _ = _
      rw [bits, Nat.shiftRight_eq_div_pow]
      rfl
    refine ⟨fun sp => State.addressOf_fieldOut h ok within sp, fun sp hb' hw hbay => ?_,
      fun sp => State.addressOf_physOut h ok within sp,
      fun sp low => (State.addressOf_phys h ok within sp low).1, fun z sp low => (State.addressOf_phys h ok within sp low).2 z,
      fun sp => ?_, fun z sp => ?_, fun v sp bad => ?_, fun v pa z x fl sp leaf => ?_⟩
    · exact (State.addressOf_field h ok within sp hb' hw).1 (checkSegs_windowAddr u hbay hn (Nat.le_trans hw (by decide)))
    · rw [global]; exact (State.addressOf_global h ok within sp).1
    · rw [global]; exact (State.addressOf_global h ok within sp).2 z
    · rw [State.addressOf_virt h ok within sp]; exact State.transRange_bad hn bad
    · intro k y
      rw [State.addressOf_virt h ok within sp]
      refine ⟨?_, fun may q found => ?_, fun may noPage q bad => ?_, fun may noPage good whole => ?_,
        fun may noPage good cut => ?_⟩
      · rintro rfl rfl
        exact State.transRange_noWrite hn leaf
      · subst found
        exact State.transRange_page hn may leaf
      · subst noPage
        exact State.transRange_unheld hn rfl may leaf bad
      · subst noPage
        have all : n - k = 0 := by omega
        rw [State.transRange_rest hn (k := k) rfl may leaf good, all, State.transRange_none]
        rfl
      · subst noPage
        exact State.transRange_rest hn rfl may leaf good

end Sys2Proof.Machine
end

section
/-! Scalar loads (R61, R155, R167): what a load answers when its bytes come from memory, from held stores, or not at all. -/

namespace Sys2Proof.Machine

/-! ### Moved pointers (R165, R167) -/

/-- A pointer that stays in its field moves by its offset. -/
theorem movePtr_fits {p : Word} {x : Int} (h : Claims.fits p x) : movePtr p x = .ok (Claims.moved p x) := by
  obtain ⟨lo, hi⟩ := h
  have moved : mkPtr (ptrH p) ((ptrOff p : Int) + x).toNat = Claims.moved p x := by
    apply BitVec.eq_of_toNat_eq
    have word : p.toNat < 2 ^ 64 := p.isLt
    simp only [mkPtr, ptrH, ptrOff, Claims.moved, BitVec.toNat_ofNat, BitVec.toNat_add, BitVec.toNat_ofInt,
      Nat.shiftRight_eq_div_pow]
    omega
  unfold movePtr offsetAdd
  rw [if_neg (by unfold ptrOff; omega)]
  exact congrArg Except.ok moved

theorem movePtr_leaves {p : Word} {x : Int} (h : ¬ Claims.fits p x) : movePtr p x = .error (.mk0 0x08 p) := by
  unfold movePtr offsetAdd
  rw [if_pos (by unfold Claims.fits at h; unfold ptrOff; omega)]

/-! ### Held stores in front of a load (R61) -/

/-- The stores of a list are asked from the youngest on. -/
theorem heldByte_append (h : List HeldStore) (e : HeldStore) (a : Nat) : heldByte (h ++ [e]) a =
    (((segBytes (asSegs e.segs)).zip e.bytes).lookup a).orElse fun _ => heldByte h a := by
  have first (l : List (Nat × Byte × Bool)) : (l.findSome? fun x => if x.1 = a then some x.2 else none) = l.lookup a := by
    induction l with
    | nil => rfl
    | cons x l ih =>
      obtain ⟨b, q⟩ := x
      by_cases e : b = a
      · simp [List.lookup, e]
      · have : (a == b) = false := by simpa using fun k => e k.symm
        simp [List.lookup, e, this, ih]
  unfold heldByte
  rw [List.reverse_append, List.reverse_singleton, List.singleton_append, List.findSome?_cons, first]
  cases List.lookup a ((segBytes (asSegs e.segs)).zip e.bytes) <;> rfl

/-- A byte that a store of the list holds lies in the store's runs. -/
theorem mem_of_heldByte {f : List HeldStore} {a : Nat} (h : (heldByte f a).isSome = true) :
    ∃ e ∈ f, a ∈ segBytes (asSegs e.segs) := by
  obtain ⟨r, hr⟩ := Option.isSome_iff_exists.mp h
  obtain ⟨e, he, found⟩ := List.exists_of_findSome?_eq_some hr
  obtain ⟨x, hx, eq⟩ := List.exists_of_findSome?_eq_some found
  split at eq
  · next same => exact ⟨e, List.mem_reverse.mp he, same ▸ (List.of_mem_zip hx).1⟩
  · exact absurd eq (by simp)

theorem mem_segBytes {l : List Seg} {a : Nat} : a ∈ segBytes l ↔ ∃ x ∈ l, x.addr ≤ a ∧ a < x.addr + x.len := by
  unfold segBytes
  simp only [List.mem_flatMap, List.mem_map, List.mem_range]
  constructor
  · rintro ⟨x, hx, k, hk, rfl⟩
    exact ⟨x, hx, by omega, by omega⟩
  · rintro ⟨x, hx, lo, hi⟩
    exact ⟨x, hx, a - x.addr, by omega, by omega⟩

/-- Runs with a byte in common overlap. -/
theorem laps_of_mem {l m : List Seg} {a : Nat} (hl : a ∈ segBytes l) (hm : a ∈ segBytes m) : laps l m = true := by
  obtain ⟨x, hx, _, _⟩ := mem_segBytes.mp hl
  obtain ⟨y, hy, _, _⟩ := mem_segBytes.mp hm
  simp only [laps, List.any_eq_true, Bool.and_eq_true, decide_eq_true_eq]
  exact ⟨x, hx, y, hy, by omega, by omega⟩

/-- Runs of one list overlap those of a larger list too. -/
theorem laps_mono {l k m : List Seg} (sub : ∀ x ∈ l, x ∈ k) (h : laps l m = true) : laps k m = true := by
  simp only [laps, List.any_eq_true] at *
  obtain ⟨x, hx, rest⟩ := h
  exact ⟨x, sub x hx, rest⟩

/-- An access that the scoreboard and the held stores let through overlaps no store of its own firing. -/
theorem State.ownHeld_clear {s : State} {b a : Nat} {c : Ctx} {l : List Seg} (who : c.who = .actor b a)
    (h : s.sbBlocks c l = false) :
    laps ((s.ownHeld c).flatMap fun e => asSegs e.segs) l = false := by
  by_contra hit
  rw [Bool.not_eq_false] at hit
  have held : s.heldBlocks c l = true := by
    simp only [laps, List.any_eq_true, List.mem_flatMap, State.ownHeld, who, List.mem_filter, Bool.and_eq_true, beq_iff_eq] at hit
    obtain ⟨x, ⟨e, ⟨he, ha, -⟩, hx⟩, both⟩ := hit
    simp only [State.heldBlocks, who, List.any_eq_true, Bool.and_eq_true, beq_iff_eq, State.afterHeld, Bool.or_eq_true]
    exact ⟨e, he, ha, .inl (List.any_eq_true.mpr ⟨x, hx, List.any_eq_true.mpr (by simpa using both)⟩)⟩
  simp [State.sbBlocks, held] at h

/-- A load all of whose bytes its firing has stored takes them from the forwarding table. -/
theorem State.readVia_held {s : State} {c : Ctx} {l : List Seg}
    (all : ∀ x ∈ segBytes l, (heldByte (s.ownHeld c) x).isSome = true)
    (some_ : segBytes l ≠ []) :
    s.readVia c l = .ok s ((segBytes l).map fun x => (heldByte (s.ownHeld c) x).getD (0, false)) := by
  have hit : laps ((s.ownHeld c).flatMap fun e => asSegs e.segs) l = true := by
    obtain ⟨x, hx⟩ := List.exists_mem_of_ne_nil _ some_
    obtain ⟨e, he, hm⟩ := mem_of_heldByte (all x hx)
    exact laps_mono (fun y hy => List.mem_flatMap.mpr ⟨e, he, hy⟩) (laps_of_mem hm hx)
  simp only [State.readVia, hit, Bool.not_true, Bool.false_eq_true, if_false, List.all_eq_true.mpr all, if_true]

/-! ### Accesses that nothing keeps back (R60, R361) -/

theorem State.routeFor_near {s : State} {c : Ctx} {l : List Seg} (h : ∀ x ∈ l, s.noRoute c.who x.addr = false) :
    s.routeFor c l = (s, none) := by
  unfold State.routeFor
  rw [List.find?_eq_none.mpr (by simpa using h)]

theorem State.readOpen_near {s : State} {c : Ctx} {l : List Seg} (h : Claims.reaches s c l) :
    s.readOpen c l = .ok (s.readSegs c l).1 (s.readSegs c l).2 := by
  unfold State.readOpen
  rw [h.1, State.routeFor_near h.2]
  rfl

theorem State.writeOpen_near {s : State} {c : Ctx} {l : List Seg} (h : Claims.reaches s c l) (bs : List (Byte × Bool)) :
    s.writeOpen c l bs = .ok (s.writeSegs c l bs) := by
  unfold State.writeOpen
  rw [h.1, State.routeFor_near h.2]
  rfl

/-- What may be accessed now is at no frozen bay's port. -/
theorem reaches_of_opens {t : State} {c : Ctx} {l : List Seg} (h : Claims.opens t c l) : Claims.reaches t c l := by
  obtain ⟨free, near⟩ := h
  refine ⟨?_, near⟩
  simp only [State.sbBlocks, State.portBlocks, Bool.or_eq_false_iff] at free
  exact free.1.1

/-- A load whose bytes may be read now, and that no held store precedes, reads memory. -/
theorem State.readVia_opens {s : State} {b a : Nat} {c : Ctx} {l : List Seg} (who : c.who = .actor b a) (h : Claims.opens s c l) :
    s.readVia c l = .ok (s.readSegs c l).1 (s.readSegs c l).2 := by
  rw [State.readVia_clear s c l (State.ownHeld_clear who h.1), h.1, if_neg (by decide), State.readOpen_near (reaches_of_opens h)]

theorem State.firCtx_who (s : State) : s.firCtx.who = .actor s.fir.bay s.fir.actor := by
  unfold State.firCtx State.ctxOf
  split <;> rfl
theorem State.firCtx_bay (s : State) : s.firCtx.bay = s.fir.bay := by
  unfold State.firCtx State.ctxOf
  split <;> rfl

theorem State.load_formed {s t : State} {c : Ctx} {q : Word} {n : Nat} {l : List Seg} (h : s.loadAddr c q n = .ok (t, l)) :
    s.load c q n = t.readVia c l := by
  unfold State.load; rw [h]
theorem State.load_unformed {s : State} {c : Ctx} {q : Word} {n : Nat} {f : Flt} (h : s.loadAddr c q n = .error f) :
    s.load c q n = .flt f := by
  unfold State.load; rw [h]

/-! ### Faults of a load (R152, R178) -/

theorem memFault_taken {b : Bool} {f : Flt} {s : State} (h : b = false ∨ f.code ≠ 0x0A ∨ s.fir.region = none) :
    memFault b f s = Claims.memFaults s f := by
  unfold memFault
  rw [if_neg (by rcases h with h | h | h <;> simp [h])]
  rfl
theorem memFault_page {f : Flt} {s : State} (code : f.code = 0x0A) (open_ : s.fir.region.isSome = true) :
    memFault true f s = .next (s.regionPage f) := by
  unfold memFault
  rw [if_pos (by simp [code, open_])]
theorem memFault_mk0 {b : Bool} {code : Nat} {p : Word} {s : State} (h : code ≠ 0x0A) :
    memFault b (.mk0 code p) s = Claims.faults s code p := memFault_taken (.inr (.inl h))

/-! ### What a load writes (R167) -/

theorem finish_wg (s : State) (d : R5) (v : Word) (q : Regs → Bool) :
    finish s (fun r => r.wg d v (q r)) = Claims.wrote s d v (q s.regs) := by
  have regs : (s.regs.wg d v (q s.regs)).endChecks (s.regs.wg d v (q s.regs)).pc
      = (s.regs.wg d v (q s.regs)).endChecks s.regs.pc := by
    rw [Regs.wg_pc]
  exact congrArg (fun r => Host.Outcome.next { s with fir := { s.fir with regs := r } }) regs

theorem readSegs_noPairs {t : State} {c : Ctx} {l : List Seg} (slices : t.slices = []) (pairs : t.pairs = []) :
    t.readSegs c l = (t, (segBytes l).map (t.readByte c)) := by
  unfold State.readSegs State.drainLines State.applySegs
  simp [slices, pairs]

theorem readByte_committed {t : State} (c : Ctx) {x : Nat} (memory : isWindow (gaLocal x) = false) (veils : t.veils = [])
    (none_ : ∀ y ∈ t.insts, y.versioned = false) : t.readByte c x = (t.mem.read x, decide (t.mpoison.read x ≠ 0)) := by
  have view : (t.insts.findSome? fun y => if y.field = c.field ∧ y.versioned then tget x y.overlay else none) = none := by
    simp only [List.findSome?_eq_none_iff]
    intro y hy
    simp [none_ y hy]
  unfold State.readByte State.viewByte
  simp [memory, veils, view]

/-! ### LD and LDX -/

section
variable {s t : State} {w : Width} {d a : R5} {off : BitVec 14} {l : List (Byte × Bool)}

theorem loadThen_leaves {p : Word} {x : Int} {n : Nat} {k : State → List (Byte × Bool) → Out} (h : ¬ Claims.fits p x) :
    loadThen s p x n k = Claims.faults s 0x08 p := by
  unfold loadThen; rw [movePtr_leaves h]
  exact memFault_mk0 (by decide)

theorem execLd_read (h : Claims.fits (s.regs.rg a) off.toInt)
    (read : s.load s.firCtx (Claims.moved (s.regs.rg a) off.toInt) (widthBytes w) = .ok t l) :
    exec (.ld w d a off) s = Claims.wrote t d (BitVec.ofNat 64 (gotNat l)) (gotPoison l || t.regs.rgp a) := by
  refine (loadThen_ok s t _ _ _ _ _ l (movePtr_fits h) read).trans ?_
  exact finish_wg t d _ fun r => gotPoison l || r.rgp a

theorem execLdx_read (h : Claims.fits (s.regs.rg a) off.toInt)
    (read : s.load s.firCtx (Claims.moved (s.regs.rg a) off.toInt) (widthBytes w) = .ok t l) :
    exec (.ldx w d a off) s =
      Claims.wrote t d ((BitVec.ofNat (8 * widthBytes w) (gotNat l)).signExtend 64) (gotPoison l || t.regs.rgp a) := by
  refine (loadThen_ok s t _ _ _ _ _ l (movePtr_fits h) read).trans ?_
  exact finish_wg t d _ fun r => gotPoison l || r.rgp a

/-- Sign extension to 64 bits keeps the signed value of 1, 2, 4 or 8 bytes. -/
theorem toInt_signExtend_width (w : Width) (x : Nat) :
    ((BitVec.ofNat (8 * widthBytes w) x).signExtend 64).toInt = (x : Int).bmod (2 ^ (8 * widthBytes w)) := by
  rw [BitVec.toInt_signExtend_of_le (by cases w <;> decide)]
  exact BitVec.toInt_ofNat' x

/-- A load whose address cannot be formed takes its fault. -/
theorem exec_load_unformed {f : Flt} (h : Claims.fits (s.regs.rg a) off.toInt)
    (bad : s.loadAddr s.firCtx (Claims.moved (s.regs.rg a) off.toInt) (widthBytes w) = .error f) :
    exec (.ld w d a off) s = memFault true f s ∧ exec (.ldx w d a off) s = memFault true f s := by
  exact ⟨loadThen_flt s _ _ _ _ _ f (movePtr_fits h) (State.load_unformed bad),
    loadThen_flt s _ _ _ _ _ f (movePtr_fits h) (State.load_unformed bad)⟩

end

/-- Settles O29: a load that may go reads memory behind no store of its own firing; one all of whose bytes its firing holds
takes them from the forwarding table; a load without an address takes the fault it has found. -/
theorem scalarLoads : Obligations.ScalarLoads := by
  unfold Obligations.ScalarLoads
  intro s t w d a off l p q r bad
  refine ⟨fun fit addr may => ?memory, fun out => ⟨loadThen_leaves out, loadThen_leaves out⟩,
    fun f fit addr taken => ?fault, fun fit addr all some_ => ?held, heldByte_append,
    fun f fit addr code open_ => ?page, readSegs_noPairs, fun c x => readByte_committed c⟩
  case memory =>
    have read := State.load_formed addr
    rw [State.readVia_opens s.firCtx_who may] at read
    exact ⟨⟨_, execLd_read fit read, BitVec.toNat_ofNat _ _⟩, _, execLdx_read fit read, toInt_signExtend_width w _⟩
  case fault =>
    rw [← memFault_taken (b := true) (.inr taken)]
    exact exec_load_unformed fit addr
  case held =>
    have read := State.load_formed addr
    rw [State.readVia_held all some_] at read
    exact ⟨_, execLd_read fit read, BitVec.toNat_ofNat _ _⟩
  case page =>
    rw [← memFault_page code open_]
    exact exec_load_unformed fit addr

end Sys2Proof.Machine
end

section
/-! The privileged instructions (R52, R263, R264, R342, R385): whom they serve, and what each drops, moves or posts. -/

namespace Sys2Proof.Machine

/-! ### Fields of a register -/

theorem wget_low (x : Word) (n : Nat) {m : Nat} (h : 2 ^ (n + 1) = m) : wget x n 0 = x.toNat % m := by
  subst h
  simp [wget, bits]

/-! ### Who may use them (R107, R151) -/

theorem wordFault_eq (code : Nat) (i : Instr) (s : State) : wordFault code i s = Claims.faultsWord s code i := by
  have word : BitVec.ofNat 64 ((encode i).getD 0).toNat = ((encode i).getD 0).setWidth 64 := by
    apply BitVec.eq_of_toNat_eq
    simp
  unfold wordFault Claims.faultsWord
  rw [word]
  rfl

theorem privileged_other {i : Instr} {s : State} {k : State → Out} (h : s.firCtx.tenant ≠ 0) :
    privileged i s k = Claims.faultsWord s 0x03 i := by
  unfold privileged
  rw [if_pos h, wordFault_eq]
theorem privileged_system {i : Instr} {s : State} {k : State → Out} (h : s.firCtx.tenant = 0) : privileged i s k = k s := by
  unfold privileged
  rw [if_neg (by simp [h])]

/-! ### What the invalidations leave (R52, R263, R264) -/

theorem mem_dropImages {s : State} {t : Nat} {all : Bool} {p : Word} {e : CachedImage} (h : e ∈ (s.dropImages t all p).images)
    (mine : e.tenant = t) : all = false ∧ e.ptr ≠ p := by
  have kept := (List.mem_filter.mp h).2
  simpa [mine] using kept

theorem mem_dropTlb {s : State} {t va : Nat} {all : Bool} {e : TlbEntry} (h : e ∈ (s.dropTlb t all va).tlb)
    (mine : e.tenant = t) : all = false ∧ ¬ (e.va ≤ va ∧ va < e.va + e.size) := by
  have kept := (List.mem_filter.mp h).2
  have out : all = false ∧ (va < e.va ∨ e.va + e.size ≤ va) := by simpa [mine] using kept
  exact ⟨out.1, by omega⟩

theorem mem_dropTlb_walks {s : State} {t va : Nat} {all : Bool} {e : WalkEntry} (h : e ∈ (s.dropTlb t all va).walks)
    (mine : e.tenant = t) : all = false ∧ e.page ≠ va / 2 ^ e.lo := by
  have kept := (List.mem_filter.mp h).2
  simpa [mine] using kept

theorem tget_map {α β : Type} (f : α → β) (k : Nat) (t : Table α) :
    tget k (t.map fun (j, a) => (j, f a)) = (tget k t).map f := by
  induction t with
  | nil => rfl
  | cons q t ih =>
    obtain ⟨j, a⟩ := q
    simp only [List.map_cons, tget, ih]
    split
    · rfl
    · split <;> rfl

/-- The bay record after an invalidation of its cached handle entries of tenant `t`: of handle `h`, or of all. -/
def Bay.dropCached (t h : Nat) (all : Bool) (x : Bay) : Bay :=
  { x with hcache := x.hcache.filter fun e => !(e.1 / 4096 == t && (all || e.1 % 4096 == h)) }

theorem mem_dropHandles {s : State} {t h n k : Nat} {all : Bool} {e : BitVec 256}
    (he : (k, e) ∈ ((s.dropHandles t all h).bay n).hcache)
    (mine : k / 4096 = t) : all = false ∧ k % 4096 ≠ h := by
  have bay : (s.dropHandles t all h).bay n = ((tget n s.bays).map (Bay.dropCached t h all)).getD Bay.idle :=
    congrArg (Option.getD · Bay.idle) (tget_map (Bay.dropCached t h all) n s.bays)
  rw [bay] at he
  cases listed : tget n s.bays with
  | none =>
    rw [listed] at he
    exact absurd he (by simp [Bay.idle])
  | some x =>
    rw [listed] at he
    have kept := (List.mem_filter.mp he).2
    simpa [mine] using kept

/-! ### Context moves (R385) -/

theorem moveStatus_eq (d a b : R5) (n : Word) (s : State) :
    moveStatus d a b n s = Claims.wrote s d n (s.regs.rgp a || s.regs.rgp b) := finish_wg s d n fun r => r.rgp a || r.rgp b

theorem State.writeVia_opens {s : State} {c : Ctx} {l : List Seg} (h : Claims.opens s c l) (bs : List (Byte × Bool)) :
    s.writeVia c l bs = .ok (s.writeSegs c l bs) := by
  unfold State.writeVia
  rw [h.1, State.writeOpen_near (reaches_of_opens h)]
  rfl

section
variable {s t : State} {d a b : R5} {l : List Seg} (system : s.firCtx.tenant = 0)
include system

theorem execCtxsave_unaligned (h : (s.regs.rg b).toNat % 64 ≠ 0) :
    exec (.ctxsave d a b) s = Claims.faults s 0x0D (s.regs.rg b) := by
  show execCtxsave d a b s = _
  simp only [execCtxsave, privileged_system system, wget_low _ 5 (m := 64) rfl, ne_eq, h, not_false_eq_true, if_true]
  rfl

theorem execCtxload_unaligned (h : (s.regs.rg b).toNat % 64 ≠ 0) :
    exec (.ctxload d a b) s = Claims.faults s 0x0D (s.regs.rg b) := by
  show execCtxload d a b s = _
  simp only [execCtxload, privileged_system system, wget_low _ 5 (m := 64) rfl, ne_eq, h, not_false_eq_true, if_true]
  rfl

variable (aligned : (s.regs.rg b).toNat % 64 = 0)
include aligned

theorem execCtxsave_unformed {f : Flt} (bad : s.storeAddr s.firCtx (s.regs.rg b) saveArea = .error f) :
    exec (.ctxsave d a b) s = Claims.memFaults s f := by
  show execCtxsave d a b s = _
  simp only [execCtxsave, privileged_system system, wget_low _ 5 (m := 64) rfl, wget_low _ 8 (m := 512) rfl, ne_eq, aligned,
    not_true, if_false, bad]
  exact memFault_taken (.inl rfl)

theorem execCtxload_unformed {f : Flt} (bad : s.loadAddr s.firCtx (s.regs.rg b) saveArea = .error f) :
    exec (.ctxload d a b) s = Claims.memFaults s f := by
  show execCtxload d a b s = _
  simp only [execCtxload, privileged_system system, wget_low _ 5 (m := 64) rfl, wget_low _ 8 (m := 512) rfl, ne_eq, aligned,
    not_true, if_false, bad]
  exact memFault_taken (.inl rfl)

omit system aligned in
theorem island_small (x : Word) : ¬ Config.islands ≤ x.toNat % 512 := Nat.not_le.mpr (Nat.mod_lt _ (by decide))

section
variable (ok : s.storeAddr s.firCtx (s.regs.rg b) saveArea = .ok (t, l))
include ok

/-- A save of an island with no context, or of one that is being put back, moves nothing. -/
theorem execCtxsave_empty (loft : t.loft ((s.regs.rg a).toNat % 512) = .empty) :
    exec (.ctxsave d a b) s = Claims.wrote t d 1 (t.regs.rgp a || t.regs.rgp b) := by
  show execCtxsave d a b s = _
  simp only [execCtxsave, privileged_system system, wget_low _ 5 (m := 64) rfl, wget_low _ 8 (m := 512) rfl, ne_eq, aligned,
    not_true, if_false, ok, ge_iff_le, island_small, loft, moveStatus_eq]

theorem execCtxsave_restoring {n : Nat} (loft : t.loft ((s.regs.rg a).toNat % 512) = .restoring n) :
    exec (.ctxsave d a b) s = Claims.wrote t d 2 (t.regs.rgp a || t.regs.rgp b) := by
  show execCtxsave d a b s = _
  simp only [execCtxsave, privileged_system system, wget_low _ 5 (m := 64) rfl, wget_low _ 8 (m := 512) rfl, ne_eq, aligned,
    not_true, if_false, ok, ge_iff_le, island_small, loft, moveStatus_eq]

theorem execCtxsave_full {n : Nat} (loft : t.loft ((s.regs.rg a).toNat % 512) = .full n) (may : Claims.opens t s.firCtx l) :
    let u := (t.writeSegs s.firCtx l (t.loftBytes ((s.regs.rg a).toNat % 512))).setLoft ((s.regs.rg a).toNat % 512) .empty
    exec (.ctxsave d a b) s = Claims.wrote u d 0 (u.regs.rgp a || u.regs.rgp b) := by
  show execCtxsave d a b s = _
  simp only [execCtxsave, privileged_system system, wget_low _ 5 (m := 64) rfl, wget_low _ 8 (m := 512) rfl, ne_eq, aligned,
    not_true, if_false, ok, ge_iff_le, island_small, loft, moveStatus_eq, State.writeVia_opens may]

end

section
variable (ok : s.loadAddr s.firCtx (s.regs.rg b) saveArea = .ok (t, l))
include ok

theorem execCtxload_taken (loft : t.loft ((s.regs.rg a).toNat % 512) ≠ .empty) :
    exec (.ctxload d a b) s = Claims.wrote t d 4 (t.regs.rgp a || t.regs.rgp b) := by
  show execCtxload d a b s = _
  simp only [execCtxload, privileged_system system, wget_low _ 5 (m := 64) rfl, wget_low _ 8 (m := 512) rfl, ne_eq, aligned,
    not_true, if_false, ok, ge_iff_le, island_small]
  cases held : t.loft ((s.regs.rg a).toNat % 512) with
  | empty => exact absurd held loft
  | restoring n => exact moveStatus_eq d a b 4 t
  | full n => exact moveStatus_eq d a b 4 t

variable (loft : t.loft ((s.regs.rg a).toNat % 512) = .empty) (may : Claims.opens t s.firCtx l)
include loft may

theorem execCtxload_noContext
    (none_ : (t.readSegs s.firCtx l).1.savedCtx ((s.regs.rg a).toNat % 512) (t.readSegs s.firCtx l).2 = none) :
    let u := (t.readSegs s.firCtx l).1
    exec (.ctxload d a b) s = Claims.wrote u d 3 (u.regs.rgp a || u.regs.rgp b) := by
  show execCtxload d a b s = _
  simp only [execCtxload, privileged_system system, wget_low _ 5 (m := 64) rfl, wget_low _ 8 (m := 512) rfl, ne_eq, aligned,
    not_true, if_false, ok, ge_iff_le, island_small, loft, State.readVia_opens s.firCtx_who may, none_, moveStatus_eq]

theorem execCtxload_context {u : State} {n : Nat}
    (saved : (t.readSegs s.firCtx l).1.savedCtx ((s.regs.rg a).toNat % 512) (t.readSegs s.firCtx l).2 = some (u, n)) :
    let v := (u.putLoft ((s.regs.rg a).toNat % 512) (t.readSegs s.firCtx l).2).setLoft ((s.regs.rg a).toNat % 512) (.full n)
    exec (.ctxload d a b) s = Claims.wrote v d 0 (v.regs.rgp a || v.regs.rgp b) := by
  show execCtxload d a b s = _
  simp only [execCtxload, privileged_system system, wget_low _ 5 (m := 64) rfl, wget_low _ 8 (m := 512) rfl, ne_eq, aligned,
    not_true, if_false, ok, ge_iff_le, island_small, loft, State.readVia_opens s.firCtx_who may, saved, moveStatus_eq]

end
end

/-- SOLVREQ posts a solve while a live section of the tenant is there to be solved for (R342). -/
theorem execSolvreq_system {s : State} (a b : R5) (h : s.firCtx.tenant = 0) :
    let u := if (s.regs.rg b).getLsbD 0 then s.dropMeasures ((s.regs.rg a).toNat % 16) else s
    exec (.solvreq a b) s = retire (if (u.liveOf ((s.regs.rg a).toNat % 16)).isEmpty then u
      else u.postSolve ((s.regs.rg a).toNat % 16) 5) := by
  show execSolvreq a b s = _
  simp only [execSolvreq, privileged_system h, wget_low _ 3 (m := 16) rfl]

/-- Settles O45: another tenant's firing faults before the instruction's meaning is asked; for tenant 0 each meaning answers as
its guards say, and what an invalidation drops is a filter of the caches. -/
theorem privilegedInstructions : Obligations.Privileged := by
  unfold Obligations.Privileged
  intro s t d a b l x y tn all i c moved
  refine ⟨fun other => ⟨(privileged_other other : execHinv a b s = _), (privileged_other other : execImginv a b s = _),
    (privileged_other other : execTlbi a b s = _), (privileged_other other : execCtxsave d a b s = _),
    (privileged_other other : execCtxload d a b s = _), (privileged_other other : execSolvreq a b s = _)⟩,
    fun system => ⟨?hinv, ?imginv, ?tlbi, fun e => mem_dropImages,
    fun e => mem_dropTlb, fun e => mem_dropTlb_walks, fun n k e => mem_dropHandles,
    fun h => ⟨execCtxsave_unaligned system h, execCtxload_unaligned system h⟩,
    fun f h bad => execCtxsave_unformed system h bad, fun f h bad _ => execCtxload_unformed system h bad,
    fun h ok => ⟨fun big => absurd big (island_small x), fun _ => execCtxsave_empty system h ok,
      fun n _ => execCtxsave_restoring system h ok, fun n _ => execCtxsave_full system h ok⟩,
    fun h ok => ⟨fun big => absurd big (island_small x), fun _ => execCtxload_taken system h ok,
      fun _ => execCtxload_noContext system h ok, fun u n _ loft may => execCtxload_context system h ok loft may⟩, ?solve⟩⟩
  case hinv =>
    show execHinv a b s = _
    simp only [execHinv, privileged_system system, wget_low _ 3 (m := 16) rfl, wget_low _ 11 (m := 4096) rfl]
    rfl
  case imginv =>
    show execImginv a b s = _
    simp only [execImginv, privileged_system system, wget_low _ 3 (m := 16) rfl]
    rfl
  case tlbi =>
    show execTlbi a b s = _
    simp only [execTlbi, privileged_system system, wget_low _ 3 (m := 16) rfl, wget_low _ 51 (m := 2 ^ 52) rfl]
    rfl
  case solve =>
    intro u
    have run := execSolvreq_system a b system
    refine ⟨fun live => run.trans ?_, fun dead => run.trans ?_⟩
    · rw [if_neg (fun none_ => live (List.isEmpty_iff.mp none_))]; rfl
    · rw [if_pos (List.isEmpty_iff.mpr dead)]; rfl

end Sys2Proof.Machine
end

section
/-! What a step keeps of the state (R53, R150, R389, R398): the canonical form of both memories and of the mailbox window, and the
legal values of SAMPLEP and MODINFO; of the operations of the memory side, the firing in the issue stage too. -/

namespace Sys2Proof.Machine

/-- SAMPLEP.PERIOD and MODINFO.MODNUM hold values that their rules allow (R20, R150). -/
def State.legal (s : State) : Prop := (s.samplep ≠ 0 ∧ s.samplep.toNat ≤ 10000) ∧ (s.modnum = 0x1FF ∨ s.modnum.toNat < 320)

/-- The state `s` has kept what `o` had of these; `fix` says that the firing in the issue stage is the same too. -/
def State.upholds (o : State) (fix : Bool) (s : State) : Prop :=
  cond fix (s.fir = o.fir) True ∧ (o.memOk → s.memOk) ∧ (o.legal → s.legal)

/-- Every state in the answer of an instruction keeps it. -/
def Out.upholds (o : State) : Out → Prop
  | .next s => o.upholds false s
  | _ => True
/-- Every state in what a read of a party gives keeps it. -/
def Got.upholds (o : State) (fix : Bool) : Got → Prop
  | .ok s _ | .wait s => o.upholds fix s
  | .flt _ => True
/-- Every state in what a write of a party gives keeps it. -/
def Put.upholds (o : State) (fix : Bool) : Put → Prop
  | .ok s | .wait s => o.upholds fix s
  | .flt _ => True
/-- Every state in what a read ahead gives keeps it. -/
def Ahead.upholds (o : State) (fix : Bool) : Ahead → Prop
  | .ok s _ _ | .wait s => o.upholds fix s
  | .flt _ => True
/-- Every state in the search for the next row keeps it. -/
def NextRow.upholds (o : State) (fix : Bool) : NextRow → Prop
  | .wait s => o.upholds fix s
  | _ => True
/-- Every state in what a reload gives keeps it. -/
def Reload.upholds (o : State) (fix : Bool) : Reload → Prop
  | .ok s | .wait s => o.upholds fix s
  | .flt _ => True
/-- The state after one iteration of a command keeps it. -/
def Iter.upholds (o : State) (fix : Bool) : Iter → Prop
  | .go s | .wait s | .done s | .flt s _ => o.upholds fix s
/-- The state in what a read of the sequencer gives keeps it. -/
def SeqGot.upholds (o : State) (fix : Bool) : SeqGot → Prop
  | .ok s _ | .page s _ | .wait s | .bad s => o.upholds fix s
/-- The state in what a read of a node's children gives keeps it. -/
def KidsGot.upholds (o : State) (fix : Bool) : KidsGot → Prop
  | .ok s _ | .page s _ | .wait s | .bad s _ => o.upholds fix s
/-- The state in what a read of an image gives keeps it. -/
def ImageGot.upholds (o : State) (fix : Bool) : ImageGot → Prop
  | .ok s _ | .page s _ | .wait s | .bad s => o.upholds fix s
/-- The first of a pair keeps it. -/
def fstUpholds {α : Type} (o : State) (fix : Bool) (x : State × α) : Prop := o.upholds fix x.1
/-- The state of a good answer keeps it. -/
def okUpholds {ε α : Type} (o : State) (fix : Bool) : Except ε (State × α) → Prop
  | .ok r => o.upholds fix r.1
  | .error _ => True
/-- The state of a good answer keeps it, and of a bad one. -/
def bothUphold {α : Type} (o : State) (fix : Bool) : Except State (State × α) → Prop
  | .ok r => o.upholds fix r.1
  | .error s => o.upholds fix s
/-- The state of an answer keeps it, of a refusal too. -/
def eitherUpholds (o : State) (fix : Bool) : Except State State → Prop
  | .ok s | .error s => o.upholds fix s
/-- The state of an answer keeps it, and the one in what a read of the sequencer gives in its place. -/
def seqUpholds {α : Type} (o : State) (fix : Bool) : Except SeqGot (State × α) → Prop
  | .ok r => o.upholds fix r.1
  | .error g => g.upholds o fix
/-- The state of an answer, if there is one, keeps it. -/
def someUpholds {α : Type} (o : State) (fix : Bool) : Option (State × α) → Prop
  | some r => o.upholds fix r.1
  | none => True
/-- The state, if there is one, keeps it. -/
def mayUphold (o : State) (fix : Bool) : Option State → Prop
  | some s => o.upholds fix s
  | none => True

section
variable {o s t : State} {fix : Bool} {ε α β : Type}

theorem State.upholds_refl (s : State) : s.upholds fix s := ⟨by cases fix <;> trivial, id, id⟩
/-- Where the firing in the issue stage is not asked for, it may change. -/
theorem State.upholds.loose (h : o.upholds fix s) : o.upholds false s := ⟨trivial, h.2⟩
/-- A state that agrees with one that keeps it, but for memory in canonical form. -/
theorem State.upholds.mem (h : o.upholds fix s) (fir : t.fir = s.fir) (legal : s.legal → t.legal) (mem : s.memOk → t.memOk) :
    o.upholds fix t := by
  obtain ⟨hf, hm, hl⟩ := h
  exact ⟨by rw [fir]; exact hf, mem ∘ hm, legal ∘ hl⟩

/-- A state that agrees with one that keeps it keeps it. -/
theorem State.upholds_same (h : o.upholds fix t) (e : (s.fir, s.mem, s.mpoison, s.mbox, s.samplep, s.modnum) =
    (t.fir, t.mem, t.mpoison, t.mbox, t.samplep, t.modnum)) : o.upholds fix s := by
  simp only [Prod.mk.injEq] at e
  obtain ⟨hf, hm, hp, hb, hs, hn⟩ := e
  exact h.mem hf (by simp [State.legal, hs, hn]) (by simp [State.memOk, hm, hp, hb])

theorem fst_upholds {x : State × α} {a : α} (k : fstUpholds o fix x) (e : x = (t, a)) : o.upholds fix t := by subst e; exact k
theorem ok_upholds {x : Except ε (State × α)} {a : α} (k : okUpholds o fix x) (e : x = .ok (t, a)) :
    o.upholds fix t := by subst e; exact k
theorem some_upholds {x : Option (State × α)} {a : α} (k : someUpholds o fix x) (e : x = some (t, a)) :
    o.upholds fix t := by subst e; exact k
theorem some_mayUphold {x : Option State} (k : mayUphold o fix x) (e : x = some t) : o.upholds fix t := by subst e; exact k
theorem ok_bothUphold {x : Except State (State × α)} {a : α} (k : bothUphold o fix x) (e : x = .ok (t, a)) :
    o.upholds fix t := by subst e; exact k
theorem error_bothUphold {x : Except State (State × α)} (k : bothUphold o fix x) (e : x = .error t) :
    o.upholds fix t := by subst e; exact k
theorem ok_eitherUpholds {x : Except State State} (k : eitherUpholds o fix x) (e : x = .ok t) :
    o.upholds fix t := by subst e; exact k
theorem error_eitherUpholds {x : Except State State} (k : eitherUpholds o fix x) (e : x = .error t) :
    o.upholds fix t := by subst e; exact k
theorem ok_seqUpholds {x : Except SeqGot (State × α)} {a : α} (k : seqUpholds o fix x) (e : x = .ok (t, a)) :
    o.upholds fix t := by subst e; exact k
theorem Got.ok_upholds {x : Got} {l : List (Byte × Bool)} (k : x.upholds o fix) (e : x = .ok t l) :
    o.upholds fix t := by subst e; exact k
theorem Got.wait_upholds {x : Got} (k : x.upholds o fix) (e : x = .wait t) : o.upholds fix t := by subst e; exact k
theorem Put.ok_upholds {x : Put} (k : x.upholds o fix) (e : x = .ok t) : o.upholds fix t := by subst e; exact k
theorem Put.wait_upholds {x : Put} (k : x.upholds o fix) (e : x = .wait t) : o.upholds fix t := by subst e; exact k
theorem Ahead.ok_upholds {x : Ahead} {l r : List (Byte × Bool)} (k : x.upholds o fix) (e : x = .ok t l r) :
    o.upholds fix t := by subst e; exact k
theorem Ahead.wait_upholds {x : Ahead} (k : x.upholds o fix) (e : x = .wait t) : o.upholds fix t := by subst e; exact k
theorem NextRow.wait_upholds {x : NextRow} (k : x.upholds o fix) (e : x = .wait t) : o.upholds fix t := by subst e; exact k
theorem Reload.ok_upholds {x : Reload} (k : x.upholds o fix) (e : x = .ok t) : o.upholds fix t := by subst e; exact k
theorem Reload.wait_upholds {x : Reload} (k : x.upholds o fix) (e : x = .wait t) : o.upholds fix t := by subst e; exact k
theorem Iter.go_upholds {x : Iter} (k : x.upholds o fix) (e : x = .go t) : o.upholds fix t := by subst e; exact k
theorem Iter.wait_upholds {x : Iter} (k : x.upholds o fix) (e : x = .wait t) : o.upholds fix t := by subst e; exact k
theorem Iter.done_upholds {x : Iter} (k : x.upholds o fix) (e : x = .done t) : o.upholds fix t := by subst e; exact k
theorem Iter.flt_upholds {x : Iter} {f : Flt} (k : x.upholds o fix) (e : x = .flt t f) : o.upholds fix t := by subst e; exact k
theorem SeqGot.ok_upholds {x : SeqGot} {l : List (Byte × Bool)} (k : x.upholds o fix) (e : x = .ok t l) :
    o.upholds fix t := by subst e; exact k
theorem SeqGot.page_upholds {x : SeqGot} {p : Nat × Nat × Nat} (k : x.upholds o fix) (e : x = .page t p) :
    o.upholds fix t := by subst e; exact k
theorem SeqGot.wait_upholds {x : SeqGot} (k : x.upholds o fix) (e : x = .wait t) : o.upholds fix t := by subst e; exact k
theorem SeqGot.bad_upholds {x : SeqGot} (k : x.upholds o fix) (e : x = .bad t) : o.upholds fix t := by subst e; exact k
theorem KidsGot.ok_upholds {x : KidsGot} {l : List Word} (k : x.upholds o fix) (e : x = .ok t l) :
    o.upholds fix t := by subst e; exact k
theorem KidsGot.page_upholds {x : KidsGot} {p : Nat × Nat × Nat} (k : x.upholds o fix) (e : x = .page t p) :
    o.upholds fix t := by subst e; exact k
theorem KidsGot.wait_upholds {x : KidsGot} (k : x.upholds o fix) (e : x = .wait t) : o.upholds fix t := by subst e; exact k
theorem KidsGot.bad_upholds {x : KidsGot} {p : Word} (k : x.upholds o fix) (e : x = .bad t p) :
    o.upholds fix t := by subst e; exact k
theorem ImageGot.ok_upholds {x : ImageGot} {i : Image} (k : x.upholds o fix) (e : x = .ok t i) :
    o.upholds fix t := by subst e; exact k
theorem ImageGot.page_upholds {x : ImageGot} {p : Nat × Nat × Nat} (k : x.upholds o fix) (e : x = .page t p) :
    o.upholds fix t := by subst e; exact k
theorem ImageGot.wait_upholds {x : ImageGot} (k : x.upholds o fix) (e : x = .wait t) : o.upholds fix t := by subst e; exact k
theorem ImageGot.bad_upholds {x : ImageGot} (k : x.upholds o fix) (e : x = .bad t) : o.upholds fix t := by subst e; exact k

theorem seqUpholds_error {x : Except SeqGot (State × α)} {g : SeqGot} (k : seqUpholds o fix x) (e : x = .error g) :
    g.upholds o fix := by
  subst e; exact k
theorem toOption_upholds {x : Except ε (State × α)} (k : okUpholds o fix x) : someUpholds o fix x.toOption := by
  cases x with
  | ok r => exact k
  | error e => trivial

theorem ite_upholds {c : Prop} [Decidable c] (hs : o.upholds fix s) (ht : o.upholds fix t) :
    o.upholds fix (if c then s else t) := by
  split
  · exact hs
  · exact ht

/-- A fold keeps it when each of its steps does. -/
theorem State.foldl_upholds {f : State → α → State}
    (hf : ∀ {s}, o.upholds fix s → ∀ x, o.upholds fix (f s x)) (l : List α) :
    ∀ {s}, o.upholds fix s → o.upholds fix (l.foldl f s) := by
  induction l with
  | nil => intro s h; exact h
  | cons x l ih => intro s h; exact ih (hf h x)
theorem State.foldl_fst_upholds {f : State × β → α → State × β}
    (hf : ∀ {r}, fstUpholds o fix r → ∀ x, fstUpholds o fix (f r x))
    (l : List α) : ∀ {r}, fstUpholds o fix r → fstUpholds o fix (l.foldl f r) := by
  induction l with
  | nil => intro r h; exact h
  | cons x l ih => intro r h; exact ih (hf h x)

end

end Sys2Proof.Machine
end

section
/-! What a step keeps: the memory system and address formation.
One lemma for each function of the model that gives a state, in the model's order. -/

namespace Sys2Proof.Machine

variable {o s : State} {fix : Bool}

/-! ### Reset -/

theorem State.reset_upholds : o.upholds false State.reset :=
  ⟨trivial, fun _ => State.reset_memOk, fun _ => by constructor <;> decide⟩

/-! ### Records, caches and translation -/

theorem State.setBay_upholds (h : o.upholds fix s) (b x) : o.upholds fix (s.setBay b x) := h
theorem State.modBay_upholds (h : o.upholds fix s) (b f) : o.upholds fix (s.modBay b f) := State.setBay_upholds h ..
theorem State.setTenant_upholds (h : o.upholds fix s) (t x) : o.upholds fix (s.setTenant t x) := h
theorem State.modTenant_upholds (h : o.upholds fix s) (t f) : o.upholds fix (s.modTenant t f) := State.setTenant_upholds h ..
theorem State.setIsland_upholds (h : o.upholds fix s) (i x) : o.upholds fix (s.setIsland i x) := h
theorem State.setSlice_upholds (h : o.upholds fix s) (k x) : o.upholds fix (s.setSlice k x) := h
theorem State.setLink_upholds (h : o.upholds fix s) (n x) : o.upholds fix (s.setLink n x) := h
theorem State.setField_upholds (h : o.upholds fix s) (x) : o.upholds fix (s.setField x) := h
theorem State.setInst_upholds (h : o.upholds fix s) (x) : o.upholds fix (s.setInst x) := h

theorem State.keep_upholds (h : o.upholds fix s) (k) : o.upholds fix (s.keep k) := by
  unfold State.keep
  extract_lets +onlyGivenNames s1
  have h1 : o.upholds fix s1 := by
    unfold s1
    split
    · exact State.modBay_upholds h ..
    exact h
  exact h1

theorem State.keeping_upholds (h : o.upholds fix s) (f) : o.upholds fix (s.keeping f) := by
  unfold State.keeping
  cases f.kept with
  | none => exact h
  | some k => exact State.keep_upholds h ..

theorem State.walk_upholds (h : o.upholds fix s) {pre} (hpre : ∀ {t}, o.upholds fix t → ∀ a, o.upholds fix (pre t a))
    (u t va tbl ls) :
    fstUpholds o fix (State.walk pre s u t va tbl ls) := by
  induction ls generalizing s tbl with
  | nil => exact h
  | cons l ls ih =>
    obtain ⟨lo, w, al⟩ := l
    unfold State.walk
    extract_lets a read fresh mine old next e addr last
    have k : o.upholds fix next := by
      unfold next
      split
      · exact h
      · exact hpre h ..
    split
    · exact k
    · split
      · exact k
      · split
        · split <;> exact k
        · split
          · exact k
          · refine ih (State.upholds_same k (t := next) ?_) ..
            unfold last
            split <;> rfl

theorem State.translate_upholds (h : o.upholds fix s) {pre} (hpre : ∀ {t}, o.upholds fix t → ∀ a, o.upholds fix (pre t a))
    (u t va) :
    fstUpholds o fix (State.translate pre s u t va) := by
  unfold State.translate
  extract_lets +onlyGivenNames fresh1
  have h1 : fstUpholds o fix fresh1 := State.walk_upholds h hpre ..
  extract_lets +onlyGivenNames _ _ put2
  have h2 : o.upholds fix put2 := by
    unfold put2
    split <;> exact h1
  split
  · exact h2
  extract_lets +onlyGivenNames _
  split
  · exact h
  split
  · exact h
  exact h2

theorem State.transRange_upholds (h : o.upholds fix s) {pre} (hpre : ∀ {t}, o.upholds fix t → ∀ a, o.upholds fix (pre t a))
    (c p wr n va len) : okUpholds o fix (State.transRange pre s c p wr n va len) := by
  induction n generalizing s va len with
  | zero => exact h
  | succ n ih =>
    unfold State.transRange
    split
    · exact h
    · split
      · trivial
      · next e =>
          have k := fst_upholds (State.translate_upholds h hpre ..) e
          extract_lets off len'
          split
          · trivial
          · split
            · trivial
            · split
              · trivial
              · split
                · trivial
                · next e => exact ok_upholds (ih k ..) e

/-! ### The memory system: writes, waiters, versions and slices -/

theorem State.modFiring_upholds (h : o.upholds fix s) (b a f) : o.upholds fix (s.modFiring b a f) := State.modBay_upholds h ..
theorem State.retag_upholds (h : o.upholds fix s) (f i) : o.upholds fix (s.retag f i) := h

theorem State.rawWrite_upholds (h : o.upholds fix s) (l) : o.upholds fix (s.rawWrite l) := by
  induction l generalizing s with
  | nil => exact h
  | cons x l ih =>
    obtain ⟨a, b, q⟩ := x
    exact ih (h.mem rfl id fun k => State.rawWrite_memOk [(a, b, q)] k)

theorem State.endErrors_upholds (h : o.upholds fix s) (lines l) : o.upholds fix (s.endErrors lines l) := by
  refine h.mem ?_ ?_ fun k => State.endErrors_memOk k lines l
  · unfold State.endErrors
    split <;> rfl
  · unfold State.endErrors
    split <;> exact id

theorem State.plainWrite_upholds (h : o.upholds fix s) (f l) : o.upholds fix (s.plainWrite f l) := by
  unfold State.plainWrite
  extract_lets +onlyGivenNames s1
  have h1 : o.upholds fix s1 := State.rawWrite_upholds h ..
  extract_lets +onlyGivenNames _ _
  split
  · exact h1
  extract_lets +onlyGivenNames _
  exact State.modTenant_upholds (by exact h1) ..

theorem State.noteStreams_upholds (h : o.upholds fix s) (l) : o.upholds fix (s.noteStreams l) := by
  unfold State.noteStreams
  split <;> exact h

theorem State.putWord_upholds (h : o.upholds fix s) (f a x q) : o.upholds fix (s.putWord f a x q) :=
  State.plainWrite_upholds h ..

theorem State.wake_upholds (h : o.upholds fix s) (w x poison) : o.upholds fix (s.wake w x poison) := by
  unfold State.wake
  split
  · exact State.modFiring_upholds h ..
  · split
    · exact State.setField_upholds h ..
    exact h
  · exact h

theorem State.serveWaits_upholds (h : o.upholds fix s) (word) : o.upholds fix (s.serveWaits word) := by
  unfold State.serveWaits
  extract_lets +onlyGivenNames _ s1
  have h1 : o.upholds fix s1 := h
  exact State.foldl_upholds (fun h _ => State.wake_upholds h ..) _ h1

theorem State.commitLines_upholds (h : o.upholds fix s) (x) : o.upholds fix (s.commitLines x) := by
  unfold State.commitLines
  refine State.noteStreams_upholds (State.retag_upholds (State.modTenant_upholds (State.endErrors_upholds ?_ ..) ..) ..) ..
  exact h.mem rfl id fun k => ⟨(commitBytes_wf x.overlay k.1 k.2.1).1, (commitBytes_wf x.overlay k.1 k.2.1).2, k.2.2⟩

theorem State.countEarly_upholds (h : o.upholds fix s) (x) : o.upholds fix (s.countEarly x) := State.modTenant_upholds h ..

theorem State.noteFrom_upholds (h : o.upholds fix s) (n l) : o.upholds fix (State.noteFrom n s l) := by
  induction n generalizing s l with
  | zero => exact h
  | succ n ih =>
    unfold State.noteFrom
    split
    · exact h
    · refine State.foldl_upholds (fun h word => ?_) _ h
      extract_lets u
      have k : o.upholds fix u := State.serveWaits_upholds h word
      clear_value u
      split
      · exact k
      · extract_lets f v w
        split
        · exact k
        · have kv : o.upholds fix v := k
          clear_value v
          refine State.serveWaits_upholds (State.wake_upholds (State.noteStreams_upholds (State.putWord_upholds ?_ ..) ..) ..) ..
          unfold w
          split
          · split
            · exact ih (State.countEarly_upholds (State.commitLines_upholds kv ..) ..) ..
            · exact kv
          · exact kv

theorem State.noteWords_upholds (h : o.upholds fix s) (l) : o.upholds fix (s.noteWords l) := State.noteFrom_upholds h ..
theorem State.serve_upholds (h : o.upholds fix s) (word) : o.upholds fix (s.serve word) := State.noteWords_upholds h ..
theorem State.commit_upholds (h : o.upholds fix s) (x) : o.upholds fix (s.commit x) :=
  State.noteWords_upholds (State.commitLines_upholds h ..) ..

theorem State.earlyCommit_upholds (h : o.upholds fix s) (x) : o.upholds fix (s.earlyCommit x) := by
  unfold State.earlyCommit
  split
  · exact State.countEarly_upholds (State.commit_upholds h ..) ..
  exact h

theorem State.deposit_upholds (h : o.upholds fix s) (l) : o.upholds fix (s.deposit l) :=
  State.noteWords_upholds (State.noteStreams_upholds (State.rawWrite_upholds h ..) ..) ..

theorem AtHome.all_upholds (h : o.upholds fix s) {pre} (hpre : ∀ {t}, o.upholds fix t → ∀ a, o.upholds fix (pre t a)) (l) :
    o.upholds fix (AtHome.all pre s l) :=
  State.foldl_upholds (fun h _ => State.foldl_upholds (fun h _ => hpre h ..) _ h) _ h

theorem State.headerPut_upholds (h : o.upholds fix s) (l k v) : o.upholds fix (s.headerPut l k v) := State.deposit_upholds h ..
theorem State.headerAdd_upholds (h : o.upholds fix s) (l k n) : o.upholds fix (s.headerAdd l k n) := State.headerPut_upholds h ..

theorem State.spillSub_upholds (h : o.upholds fix s) {pre} (hpre : ∀ {t}, o.upholds fix t → ∀ a, o.upholds fix (pre t a)) (r) :
    o.upholds fix (State.spillSub pre s r) := by
  unfold State.spillSub
  extract_lets +onlyGivenNames _ s1
  have h1 : o.upholds fix s1 := AtHome.all_upholds h hpre ..
  extract_lets +onlyGivenNames _ s2
  have h2 : o.upholds fix s2 := State.headerPut_upholds h1 ..
  split
  · exact State.headerPut_upholds h2 ..
  exact h2

theorem State.claim_upholds (h : o.upholds fix s) (f i line) : o.upholds fix (s.claim f i line) := by
  unfold State.claim
  split
  · exact h
  split
  · exact h
  extract_lets +onlyGivenNames s1
  have h1 : o.upholds fix s1 := by
    unfold s1
    split
    · exact State.earlyCommit_upholds h ..
    exact h
  split
  · exact h1
  extract_lets +onlyGivenNames _ _ _
  split
  · exact State.earlyCommit_upholds h1 ..
  exact h1

theorem State.instWrite_upholds (h : o.upholds fix s) (f i a b q) : o.upholds fix (s.instWrite f i a b q) := by
  unfold State.instWrite
  split
  · exact State.plainWrite_upholds h ..
  extract_lets +onlyGivenNames s1
  have h1 : o.upholds fix s1 := by
    unfold s1
    split
    · exact State.claim_upholds h ..
    split
    · exact State.earlyCommit_upholds h ..
    exact h
  split
  · exact State.plainWrite_upholds h1 ..
  split
  · exact State.plainWrite_upholds h1 ..
  extract_lets +onlyGivenNames s2
  have h2 : o.upholds fix s2 := by
    unfold s2
    split
    · exact h1
    exact State.modTenant_upholds h1 ..
  exact State.setInst_upholds h2 ..

theorem State.noteBad_upholds (h : o.upholds fix s) (f i as) : o.upholds fix (s.noteBad f i as) := by
  unfold State.noteBad
  split
  · exact State.setInst_upholds h ..
  exact h

theorem State.applyElem_upholds (h : o.upholds fix s) (pa op l) : o.upholds fix (s.applyElem pa op l) := by
  unfold State.applyElem
  extract_lets +onlyGivenNames _ s1
  have h1 : o.upholds fix s1 := State.foldl_upholds (fun h _ => State.claim_upholds h ..) _ h
  extract_lets +onlyGivenNames _ _ _ s2
  have h2 : o.upholds fix s2 := by
    unfold s2
    split
    · exact h1
    exact State.rawWrite_upholds h1 ..
  extract_lets +onlyGivenNames s3
  have h3 : o.upholds fix s3 := by
    unfold s3
    refine State.foldl_upholds (fun h _ => State.foldl_upholds (fun h _ => ?_) _ h) _ h2
    split
    exact State.instWrite_upholds h ..
  extract_lets +onlyGivenNames s4
  have h4 : o.upholds fix s4 := State.foldl_upholds (fun h _ => State.noteBad_upholds h ..) _ h3
  exact State.noteWords_upholds h4 ..

theorem State.applyPend_upholds (h : o.upholds fix s) (n l) : o.upholds fix (State.applyPend n s l) := by
  induction n generalizing s l with
  | zero => unfold State.applyPend; exact h
  | succ n ih =>
    cases l with
    | nil => exact h
    | cons x l => exact ih (State.applyElem_upholds h ..) ..

theorem State.poisonRun_upholds (h : o.upholds fix s) (r) : o.upholds fix (s.poisonRun r) := by
  unfold State.poisonRun
  extract_lets +onlyGivenNames _ _ _ _ s1
  have h1 : o.upholds fix s1 := by
    unfold s1
    split
    · exact State.foldl_upholds (fun h _ => State.instWrite_upholds h ..) _ h
    exact State.upholds_same (State.deposit_upholds h ..) rfl
  exact State.foldl_upholds (fun h _ => State.noteBad_upholds h ..) _ h1

theorem State.applyWork_upholds (h : o.upholds fix s) {pre} (hpre : ∀ {t}, o.upholds fix t → ∀ a, o.upholds fix (pre t a))
    (k run bin more) :
    o.upholds fix (State.applyWork pre s k run bin more) := by
  unfold State.applyWork
  extract_lets +onlyGivenNames _ _ _
  split
  · exact h
  extract_lets +onlyGivenNames s1
  have h1 : o.upholds fix s1 := State.setSlice_upholds h ..
  extract_lets +onlyGivenNames s2
  have h2 : o.upholds fix s2 := State.foldl_upholds (fun h _ => AtHome.all_upholds h hpre ..) _ h1
  extract_lets +onlyGivenNames _ _ s3
  have h3 : o.upholds fix s3 := State.foldl_upholds (fun h _ => State.poisonRun_upholds h ..) _ (State.applyPend_upholds h2 ..)
  exact State.foldl_upholds (fun h _ => State.spillSub_upholds h hpre ..) _ h3

theorem State.applyRuns_upholds (h : o.upholds fix s) {pre} (hpre : ∀ {t}, o.upholds fix t → ∀ a, o.upholds fix (pre t a))
    (k run) :
    o.upholds fix (State.applyRuns pre s k run) :=
  State.applyWork_upholds h hpre ..

theorem State.applyLines_upholds (h : o.upholds fix s) {pre} (hpre : ∀ {t}, o.upholds fix t → ∀ a, o.upholds fix (pre t a))
    (k want more) :
    o.upholds fix (State.applyLines pre s k want more) :=
  State.applyWork_upholds h hpre ..

theorem State.insertPair_upholds (h : o.upholds fix s) {pre} (hpre : ∀ {t}, o.upholds fix t → ∀ a, o.upholds fix (pre t a))
    (k p) :
    o.upholds fix (State.insertPair pre s k p) := by
  unfold State.insertPair
  extract_lets +onlyGivenNames _ _ _ s1
  have h1 : o.upholds fix s1 := by
    unfold s1
    split
    · exact State.applyLines_upholds h hpre ..
    exact h
  extract_lets +onlyGivenNames _
  split
  · exact State.setSlice_upholds h1 ..
  extract_lets +onlyGivenNames _ s2
  have h2 : o.upholds fix s2 := by
    unfold s2
    split
    · exact h1
    exact hpre h1 ..
  exact State.setSlice_upholds h2 ..

theorem State.spillSegs_upholds (h : o.upholds fix s) {pre} (hpre : ∀ {t}, o.upholds fix t → ∀ a, o.upholds fix (pre t a))
    (k t base off n) :
    someUpholds o fix (State.spillSegs pre s k t base off n) :=
  toOption_upholds (State.transRange_upholds h hpre ..)

theorem State.writeRun_upholds (h : o.upholds fix s) {pre} (hpre : ∀ {t}, o.upholds fix t → ∀ a, o.upholds fix (pre t a))
    (k b spill merged es) :
    fstUpholds o fix (State.writeRun pre s k b spill merged es) := by
  unfold State.writeRun
  split
  · exact h
  split
  · exact h
  next e =>
    extract_lets +onlyGivenNames s1
    have h1 : o.upholds fix s1 := AtHome.all_upholds (some_upholds (State.spillSegs_upholds h hpre ..) e) hpre ..
    extract_lets +onlyGivenNames _ _ _
    split
    · exact State.headerAdd_upholds h1 ..
    next e1 =>
      extract_lets +onlyGivenNames s2
      have h2 : o.upholds fix s2 := by
        unfold s2
        refine State.headerAdd_upholds (State.headerAdd_upholds (State.headerAdd_upholds (some_upholds ?_ e1) ..) ..) ..
        split
        · exact trivial
        exact State.spillSegs_upholds h1 hpre ..
      extract_lets +onlyGivenNames s3
      have h3 : o.upholds fix s3 := State.deposit_upholds (AtHome.all_upholds h2 hpre ..) ..
      exact State.setSlice_upholds h3 ..

theorem State.grn_upholds (h : o.upholds fix s) (k t hi lo n) : o.upholds fix (s.grn k t hi lo n) := by
  unfold State.grn
  split
  · exact h
  exact State.modTenant_upholds h ..

theorem State.inPlace_upholds (h : o.upholds fix s) {pre} (hpre : ∀ {t}, o.upholds fix t → ∀ a, o.upholds fix (pre t a)) (k l) :
    o.upholds fix (State.inPlace pre s k l) :=
  State.grn_upholds (State.applyLines_upholds h hpre ..) ..

theorem State.dropBins_upholds (h : o.upholds fix s) (k l) : o.upholds fix (s.dropBins k l) := State.setSlice_upholds h ..

theorem State.mergeRuns_upholds (h : o.upholds fix s) {pre} (hpre : ∀ {t}, o.upholds fix t → ∀ a, o.upholds fix (pre t a))
    (k b spill l) :
    o.upholds fix (State.mergeRuns pre s k b spill l) := by
  unfold State.mergeRuns
  extract_lets +onlyGivenNames _ _ _ s1
  have h1 : o.upholds fix s1 := State.applyRuns_upholds h hpre ..
  extract_lets +onlyGivenNames _ _ r2
  have h2 : fstUpholds o fix r2 := State.writeRun_upholds h1 hpre ..
  split
  · extract_lets +onlyGivenNames s3
    have h3 : o.upholds fix s3 := State.dropBins_upholds h2 ..
    extract_lets +onlyGivenNames _ s4
    have h4 : o.upholds fix s4 := State.setSlice_upholds h3 ..
    split
    · exact h4
    extract_lets +onlyGivenNames _ s5
    have h5 : o.upholds fix s5 := State.headerAdd_upholds h4 ..
    exact State.headerPut_upholds h5 ..
  exact State.inPlace_upholds (State.applyRuns_upholds h2 hpre ..) hpre ..

theorem State.spillBins_upholds (h : o.upholds fix s) {pre} (hpre : ∀ {t}, o.upholds fix t → ∀ a, o.upholds fix (pre t a)) (k l) :
    o.upholds fix (State.spillBins pre s k l) := by
  unfold State.spillBins
  split
  · exact h
  extract_lets +onlyGivenNames _ _ s1
  have h1 : o.upholds fix s1 := by
    unfold s1
    split
    · exact h
    exact hpre h ..
  split
  · exact State.inPlace_upholds h1 hpre ..
  split
  · exact State.mergeRuns_upholds h1 hpre ..
  extract_lets +onlyGivenNames r2
  have h2 : fstUpholds o fix r2 := State.writeRun_upholds h1 hpre ..
  split
  · exact State.dropBins_upholds h2 ..
  exact State.inPlace_upholds h2 hpre ..

theorem State.spillAll_upholds (h : o.upholds fix s) {pre} (hpre : ∀ {t}, o.upholds fix t → ∀ a, o.upholds fix (pre t a))
    (k n l) :
    o.upholds fix (State.spillAll pre k n s l) := by
  induction n generalizing s l with
  | zero => unfold State.spillAll; exact h
  | succ n ih =>
    cases l with
    | nil => exact h
    | cons b l => exact ih (State.spillBins_upholds h hpre ..) ..

theorem State.quotaTest_upholds (h : o.upholds fix s) {pre} (hpre : ∀ {t}, o.upholds fix t → ∀ a, o.upholds fix (pre t a)) (k c) :
    o.upholds fix (State.quotaTest pre s k c) := by
  unfold State.quotaTest
  extract_lets +onlyGivenNames _ _
  split
  · exact h
  exact State.spillAll_upholds (State.grn_upholds h ..) hpre ..

theorem State.storeTest_upholds (h : o.upholds fix s) {pre} (hpre : ∀ {t}, o.upholds fix t → ∀ a, o.upholds fix (pre t a)) (k) :
    o.upholds fix (State.storeTest pre s k) := by
  unfold State.storeTest
  extract_lets +onlyGivenNames _
  split
  · exact h
  extract_lets +onlyGivenNames _ s1
  have h1 : o.upholds fix s1 := State.foldl_upholds (fun h _ => State.grn_upholds h ..) _ h
  exact State.spillAll_upholds h1 hpre ..

theorem State.insertBatch_upholds (h : o.upholds fix s) {pre} (hpre : ∀ {t}, o.upholds fix t → ∀ a, o.upholds fix (pre t a)) (k) :
    o.upholds fix (State.insertBatch pre s k) := by
  unfold State.insertBatch
  extract_lets +onlyGivenNames _ s1
  have h1 : o.upholds fix s1 := State.setSlice_upholds h ..
  extract_lets +onlyGivenNames s2
  have h2 : o.upholds fix s2 := State.foldl_upholds (fun h _ => State.insertPair_upholds h hpre ..) _ h1
  extract_lets +onlyGivenNames s3
  have h3 : o.upholds fix s3 := State.foldl_upholds (fun h _ => State.quotaTest_upholds h hpre ..) _ h2
  exact State.storeTest_upholds h3 hpre ..

theorem State.settleN_upholds (h : o.upholds fix s) (n k) : o.upholds fix (State.settleN n s k) := by
  induction n generalizing s k with
  | zero => exact h
  | succ n ih =>
    unfold State.settleN
    split
    · refine State.insertBatch_upholds h (fun h _ => ?_) ..
      split
      · exact h
      · exact ih h ..
    · exact h

theorem State.settle_upholds (h : o.upholds fix s) (k) : o.upholds fix (s.settle k) := State.settleN_upholds h ..

theorem State.atHome_upholds (h : o.upholds fix s) (a) : o.upholds fix (s.atHome a) := by
  unfold State.atHome
  split
  · exact h
  exact State.settle_upholds h ..

theorem State.applyAt_upholds (h : o.upholds fix s) (k want) : o.upholds fix (s.applyAt k want) := by
  unfold State.applyAt
  split
  · exact h
  extract_lets +onlyGivenNames s1
  have h1 : o.upholds fix s1 := State.settle_upholds h ..
  extract_lets +onlyGivenNames _ _ s2
  have h2 : o.upholds fix s2 := by
    unfold s2
    split
    · exact h1
    exact State.foldl_upholds (fun h _ => State.insertPair_upholds h (fun h _ => State.atHome_upholds h ..) ..) _
        (State.setSlice_upholds h1 ..)
  exact State.applyLines_upholds h2 (fun h _ => State.atHome_upholds h ..) ..

theorem State.applySegs_upholds (h : o.upholds fix s) (l) : o.upholds fix (s.applySegs l) := by
  unfold State.applySegs
  split
  · exact h
  refine State.foldl_upholds (fun h _ => State.foldl_upholds (fun h _ => ?_) _ h) _ h
  extract_lets +onlyGivenNames _
  split
  · exact h
  exact State.applyAt_upholds h ..

theorem State.serialise_upholds (h : o.upholds fix s) (p) : o.upholds fix (s.serialise p) := by
  unfold State.serialise
  extract_lets +onlyGivenNames _ s1
  have h1 : o.upholds fix s1 := by
    unfold s1
    split
    · split
      · exact State.earlyCommit_upholds h ..
      exact h
    exact h
  extract_lets +onlyGivenNames _ s2
  have h2 : o.upholds fix s2 := State.noteStreams_upholds h1 ..
  extract_lets +onlyGivenNames _ s3
  have h3 : o.upholds fix s3 := State.settle_upholds h2 ..
  extract_lets +onlyGivenNames _ s4
  have h4 : o.upholds fix s4 := State.setSlice_upholds h3 ..
  split
  · exact State.applySegs_upholds h4 ..
  exact h4

theorem State.drainIf_upholds (h : o.upholds fix s) (p) : o.upholds fix (s.drainIf p) := by
  unfold State.drainIf
  extract_lets +onlyGivenNames _
  exact State.foldl_upholds (fun h _ => State.serialise_upholds h ..) _ h

theorem State.drain_upholds (h : o.upholds fix s) (w) : o.upholds fix (s.drain w) := State.drainIf_upholds h ..

theorem State.drainLines_upholds (h : o.upholds fix s) (c l) : o.upholds fix (s.drainLines c l) := by
  unfold State.drainLines
  split
  · exact h
  exact State.drainIf_upholds h ..

theorem State.discardVersion_upholds (h : o.upholds fix s) (x) : o.upholds fix (s.discardVersion x) := by
  unfold State.discardVersion
  extract_lets +onlyGivenNames _ _ _ s1
  have h1 : o.upholds fix s1 := State.foldl_upholds (fun h _ => State.spillSub_upholds h (fun h _ => State.atHome_upholds
      h ..) ..) _ (State.setInst_upholds h ..)
  extract_lets +onlyGivenNames base2
  have h2 : o.upholds fix base2 := State.modTenant_upholds h1 ..
  exact h2

theorem State.landUnit_upholds (h : o.upholds false s) (u) : o.upholds false (s.landUnit u) := by
  unfold State.landUnit
  extract_lets +onlyGivenNames _ _
  split
  · exact h
  split
  · exact State.modFiring_upholds h ..
  exact State.modBay_upholds h ..

theorem State.readSegs_upholds (h : o.upholds fix s) (c l) : fstUpholds o fix (s.readSegs c l) := by
  unfold State.readSegs
  extract_lets +onlyGivenNames s1
  have h1 : o.upholds fix s1 := State.applySegs_upholds (State.drainLines_upholds h ..) ..
  exact h1

theorem State.notePoison_upholds (h : o.upholds fix s) (c l) : o.upholds fix (s.notePoison c l) := State.noteBad_upholds h ..

theorem State.writeRunBytes_upholds (h : o.upholds fix s) (c l) : o.upholds fix (s.writeRunBytes c l) := by
  unfold State.writeRunBytes
  extract_lets +onlyGivenNames s1
  have h1 : o.upholds fix s1 := by
    unfold s1
    refine State.foldl_upholds (fun h _ => ?_) _ h
    split
    · exact State.plainWrite_upholds h ..
    exact State.instWrite_upholds h ..
  exact State.noteWords_upholds (State.noteStreams_upholds h1 ..) ..

theorem State.writeSegs_upholds (h : o.upholds fix s) (c l bs) : o.upholds fix (s.writeSegs c l bs) := by
  unfold State.writeSegs
  extract_lets +onlyGivenNames s1
  have h1 : o.upholds fix s1 := State.applySegs_upholds (State.drainLines_upholds h ..) ..
  extract_lets +onlyGivenNames _ _ s2
  have h2 : o.upholds fix s2 := State.foldl_upholds (fun h _ => State.writeRunBytes_upholds h ..) _ h1
  extract_lets +onlyGivenNames _ s3
  have h3 : o.upholds fix s3 := State.endErrors_upholds h2 ..
  extract_lets +onlyGivenNames _ _ s4
  have h4 : o.upholds fix s4 := h3
  exact State.notePoison_upholds h4 ..

theorem State.sweepSlice_upholds (h : o.upholds fix s) (k key) : o.upholds fix (s.sweepSlice k key) := State.applyAt_upholds h ..
theorem State.sweepSet_upholds (h : o.upholds fix s) (key set lost) : o.upholds fix (s.sweepSet key set lost) :=
  State.foldl_upholds (fun h _ => State.sweepSlice_upholds h ..) _ h

theorem State.noteDrops_upholds (h : o.upholds fix s) (f i n addr) : o.upholds fix (s.noteDrops f i n addr) := by
  unfold State.noteDrops
  extract_lets u
  have k : o.upholds fix u := State.upholds_same h rfl
  clear_value u
  split
  · exact k
  · exact State.setInst_upholds k ..

theorem State.acquireWait_upholds (h : o.upholds fix s) (w t va) : o.upholds fix (s.acquireWait w t va) := h

theorem State.acquire_upholds (h : o.upholds fix s) (w t va) : o.upholds fix (s.acquire w t va) := by
  unfold State.acquire
  extract_lets +onlyGivenNames _ _
  split
  · exact h
  extract_lets +onlyGivenNames lost1 s2
  clear_value lost1
  have h2 : o.upholds fix s2 := h
  extract_lets +onlyGivenNames s3
  have h3 : o.upholds fix s3 := by
    unfold s3
    split
    · exact h2
    exact State.noteDrops_upholds h2 ..
  exact State.modTenant_upholds (State.sweepSet_upholds h3 ..) ..

theorem State.release_upholds (h : o.upholds fix s) (c scope word) : o.upholds fix (s.release c scope word) := by
  unfold State.release
  extract_lets +onlyGivenNames s1
  have h1 : o.upholds fix s1 := State.drain_upholds h ..
  extract_lets +onlyGivenNames s2
  have h2 : o.upholds fix s2 := by
    unfold s2
    split
    · split
      · exact State.earlyCommit_upholds h1 ..
      exact h1
    exact h1
  split
  · exact h2
  extract_lets +onlyGivenNames _ _
  split <;> exact h2

theorem State.addSent_upholds (h : o.upholds fix s) (x) : o.upholds fix (s.addSent x) := h

theorem State.passSent_upholds (h : o.upholds fix s) (t src dst keep) : o.upholds fix (s.passSent t src dst keep) := by
  unfold State.passSent
  extract_lets +onlyGivenNames _
  split
  · exact h
  extract_lets +onlyGivenNames s1
  have h1 : o.upholds fix s1 := by
    unfold s1
    split <;> exact h
  exact State.foldl_upholds (fun h _ => State.foldl_upholds (fun h _ => State.addSent_upholds h ..) _ h) _ h1

theorem State.sendPair_upholds (h : o.upholds fix s) (p) : o.upholds fix (s.sendPair p) := by
  unfold State.sendPair
  extract_lets +onlyGivenNames _ s1
  have h1 : o.upholds fix s1 := h
  split
  · exact h1
  exact State.addSent_upholds h1 ..

/-! ### Address formation -/

theorem State.cachedEntry_upholds (h : o.upholds fix s) (c hd) : someUpholds o fix (s.cachedEntry c hd) := by
  unfold State.cachedEntry
  extract_lets key cached put u fresh read
  have hp {t} (h : o.upholds fix t) (e) : o.upholds fix (put t e) := by
    unfold put
    split
    · exact State.modBay_upholds h ..
    · exact h
  have hu : o.upholds fix u := State.atHome_upholds h ..
  clear_value key cached put
  have hr : someUpholds o fix read := by
    unfold read
    clear_value fresh u
    split
    · trivial
    · exact hp hu _
  clear_value read
  cases cached with
  | none => exact hr
  | some e =>
    dsimp only
    split
    · exact h
    · exact hr

theorem State.touch_upholds (h : o.upholds fix s) (c hd) : o.upholds fix (s.touch c hd) := by
  unfold State.touch
  split
  · exact h
  split
  · next e => exact some_upholds (State.cachedEntry_upholds h ..) e
  exact h

theorem State.entry_upholds (h : o.upholds fix s) (c hd) : someUpholds o fix (s.entry c hd) := by
  unfold State.entry
  extract_lets +onlyGivenNames _
  split
  · split
    · exact trivial
    split
    · exact h
    · exact h
    · exact h
    · split
      · exact h
      exact trivial
  split
  · exact trivial
  split
  · exact trivial
  next e =>
    split
    · exact some_upholds (State.cachedEntry_upholds h ..) e
    exact trivial

theorem State.addressOf_upholds (h : o.upholds fix s) (c p len wr) : okUpholds o fix (s.addressOf c p len wr) := by
  unfold State.addressOf
  split
  · trivial
  · next u e he =>
      have k : o.upholds fix u := some_upholds (State.entry_upholds h ..) he
      by_cases hr : (if wr then !e.wr else !e.rd) = true
      · rw [if_pos hr]
        trivial
      · rw [if_neg hr]
        split
        · trivial
        · extract_lets a done
          have hd (l) : okUpholds o fix (done l) := by
            unfold done
            split
            · trivial
            · exact k
          clear_value done
          split
          · exact State.transRange_upholds k (fun h _ => State.atHome_upholds h ..) ..
          · split
            · trivial
            · exact hd _
          · exact hd _
          · exact hd _
          · split
            · trivial
            · exact hd _

theorem State.loadAddr_upholds (h : o.upholds fix s) (c p len) : okUpholds o fix (s.loadAddr c p len) := by
  unfold State.loadAddr
  split
  · exact trivial
  next e =>
    split
    · exact ok_upholds (State.addressOf_upholds h ..) e
    exact trivial

theorem State.storeAddr_upholds (h : o.upholds fix s) (c p len) : okUpholds o fix (s.storeAddr c p len) := by
  unfold State.storeAddr
  split
  · exact trivial
  next e =>
    split
    · exact trivial
    exact ok_upholds (State.addressOf_upholds h ..) e

theorem State.copyAddr_upholds (h : o.upholds fix s) (c p len) : okUpholds o fix (s.copyAddr c p len) := by
  unfold State.copyAddr
  split
  · exact trivial
  next e =>
    split
    · exact ok_upholds (State.addressOf_upholds h ..) e
    exact trivial

end Sys2Proof.Machine
end

section
/-! What a step keeps: the instructions of a firing that read and write memory, and its ports.
One lemma for each function of the model that gives a state, in the model's order. -/

namespace Sys2Proof.Machine

variable {o s : State} {fix : Bool}

/-! ### The end of an instruction -/

theorem State.mapRegs_upholds (h : o.upholds false s) (f) : o.upholds false (s.mapRegs f) := h
theorem retire_upholds (h : o.upholds false s) : Out.upholds o (retire s) := State.mapRegs_upholds h ..
theorem finish_upholds (h : o.upholds false s) (f) : Out.upholds o (finish s f) := retire_upholds (State.mapRegs_upholds h ..) ..

theorem State.report_upholds (h : o.upholds fix s) (f r) : o.upholds fix (s.report f r) := by
  unfold State.report
  split
  · exact h
  split <;> exact State.setField_upholds h ..

theorem State.bayFault_upholds (h : o.upholds fix s) (b f i code epc faddr) : o.upholds fix (s.bayFault b f i code epc faddr) :=
  State.report_upholds (State.modBay_upholds h ..) ..

theorem State.faultAt_upholds (h : o.upholds false s) (code faddr) : o.upholds false (s.faultAt code faddr) := by
  unfold State.faultAt
  extract_lets +onlyGivenNames s1
  have h1 : o.upholds false s1 := State.bayFault_upholds h ..
  exact h1

theorem takeFault_upholds (h : o.upholds false s) (code faddr) : Out.upholds o (takeFault code faddr s) :=
  State.faultAt_upholds h ..
theorem wordFault_upholds (h : o.upholds false s) (code i) : Out.upholds o (wordFault code i s) := takeFault_upholds h ..

theorem outsideRegion_upholds (h : o.upholds false s) {k} (hk : ∀ {t}, o.upholds false t → Out.upholds o (k t)) (i) :
    Out.upholds o (outsideRegion i s k) := by
  unfold outsideRegion
  split
  · exact wordFault_upholds h ..
  exact hk h ..

theorem State.park_upholds (h : o.upholds false s) (p done) : o.upholds false (s.park p done) := h
theorem parkAt_upholds (h : o.upholds false s) (p) : Out.upholds o (parkAt p s) := State.park_upholds h ..

/-! ### Branches and loops -/

theorem jumpTo_upholds (h : o.upholds false s) (t link) : Out.upholds o (jumpTo t s link) := by
  unfold jumpTo
  split
  · exact State.mapRegs_upholds h ..
  exact takeFault_upholds h ..

theorem branch_upholds (h : o.upholds false s) (c a b off) : Out.upholds o (branch c a b off s) := by
  unfold branch
  split
  · exact jumpTo_upholds h ..
  exact retire_upholds h ..

theorem execBeq_upholds (h : o.upholds false s) (a b off) : Out.upholds o (execBeq a b off s) := branch_upholds h ..
theorem execBne_upholds (h : o.upholds false s) (a b off) : Out.upholds o (execBne a b off s) := branch_upholds h ..
theorem execBlt_upholds (h : o.upholds false s) (a b off) : Out.upholds o (execBlt a b off s) := branch_upholds h ..
theorem execBge_upholds (h : o.upholds false s) (a b off) : Out.upholds o (execBge a b off s) := branch_upholds h ..
theorem execBltu_upholds (h : o.upholds false s) (a b off) : Out.upholds o (execBltu a b off s) := branch_upholds h ..
theorem execBgeu_upholds (h : o.upholds false s) (a b off) : Out.upholds o (execBgeu a b off s) := branch_upholds h ..
theorem execJ_upholds (h : o.upholds false s) (off) : Out.upholds o (execJ off s) := jumpTo_upholds h ..
theorem execJal_upholds (h : o.upholds false s) (off) : Out.upholds o (execJal off s) := jumpTo_upholds h ..

theorem regJump_upholds (h : o.upholds false s) (t link) : Out.upholds o (regJump t s link) := by
  unfold regJump
  split
  · exact takeFault_upholds h ..
  exact jumpTo_upholds h ..

theorem execJr_upholds (h : o.upholds false s) (a) : Out.upholds o (execJr a s) := regJump_upholds h ..
theorem execJalr_upholds (h : o.upholds false s) (d a) : Out.upholds o (execJalr d a s) := regJump_upholds h ..

theorem execLoop_upholds (h : o.upholds false s) (a off) : Out.upholds o (execLoop a off s) := by
  unfold execLoop
  extract_lets +onlyGivenNames _ _ _
  split
  · exact takeFault_upholds h ..
  split
  · exact takeFault_upholds h ..
  split
  · exact State.mapRegs_upholds h ..
  split
  · exact takeFault_upholds h ..
  split
  · exact takeFault_upholds h ..
  exact finish_upholds h ..

/-! ### Channels -/

theorem State.modInst_upholds (h : o.upholds fix s) (f i g) : o.upholds fix (s.modInst f i g) := by
  unfold State.modInst
  split
  · exact h
  exact State.setInst_upholds h ..

theorem State.modChan_upholds (h : o.upholds fix s) (f i c g) : o.upholds fix (s.modChan f i c g) := State.modInst_upholds h ..

theorem State.ringSlot_upholds (h : o.upholds fix s) (x r k) : okUpholds o fix (s.ringSlot x r k) := by
  unfold State.ringSlot
  split
  · exact trivial
  extract_lets +onlyGivenNames _
  split
  · exact trivial
  split
  · exact trivial
  next e => exact ok_upholds (State.addressOf_upholds h ..) e

theorem State.ringPush_upholds (h : o.upholds fix s) (x c r t) : o.upholds fix (s.ringPush x c r t) := by
  unfold State.ringPush
  extract_lets +onlyGivenNames _
  split
  · exact State.bayFault_upholds (State.keeping_upholds h ..) ..
  next e =>
    extract_lets +onlyGivenNames s1
    have h1 : o.upholds fix s1 := State.deposit_upholds (ok_upholds (State.ringSlot_upholds h ..) e) ..
    exact State.modChan_upholds h1 ..

theorem State.ringPop_upholds (h : o.upholds fix s) (x c r) : someUpholds o fix (s.ringPop x c r) := by
  unfold State.ringPop
  extract_lets +onlyGivenNames _
  split
  · exact trivial
  split
  · exact trivial
  next e => exact State.modChan_upholds (ok_upholds (State.ringSlot_upholds h ..) e) ..

theorem State.refill_upholds (h : o.upholds fix s) (x c r) : o.upholds fix (s.refill x c r) := by
  unfold State.refill
  split
  · exact h
  split
  · exact h
  next e => exact State.modChan_upholds (some_upholds (State.ringPop_upholds h ..) e) ..

theorem State.landTok_upholds (h : o.upholds fix s) (f i c t) : o.upholds fix (s.landTok f i c t) := by
  unfold State.landTok
  split
  · exact h
  split
  · exact h
  extract_lets +onlyGivenNames _
  split
  · extract_lets +onlyGivenNames s1
    have h1 : o.upholds fix s1 := by
      unfold s1
      split
      · exact State.refill_upholds h ..
      exact h
    split
    · exact State.ringPush_upholds h1 ..
    exact h1
  exact State.modChan_upholds h ..

theorem State.emitTok_upholds (h : o.upholds fix s) (f i c t) : o.upholds fix (s.emitTok f i c t) := by
  unfold State.emitTok
  split
  · exact h
  split
  · exact h
  split
  · exact State.landTok_upholds h ..
  exact State.modInst_upholds (State.modChan_upholds h ..) ..

theorem State.cutByte_upholds (h : o.upholds fix s) (v a) : o.upholds fix (s.cutByte v a) := State.deposit_upholds h ..

theorem State.setCut_upholds (h : o.upholds fix s) (x k r v) : o.upholds fix (s.setCut x k r v) := by
  unfold State.setCut
  extract_lets +onlyGivenNames _ put1
  have h1 : ∀ x0, o.upholds fix (put1 x0) := by
    intro _
    unfold put1
    exact State.modChan_upholds h ..
  clear_value put1
  split
  · exact h1 ..
  split
  · split
    · next e =>
        exact State.foldl_upholds (fun h _ => State.cutByte_upholds h ..) _ (ok_upholds (State.ringSlot_upholds h ..) e)
    exact h
  split
  · exact h1 ..
  split
  · split
    · exact h
    exact State.modChan_upholds (State.cutByte_upholds h ..) ..
  exact h

theorem State.emitRow_upholds (h : o.upholds fix s) (f i c r l cut) : o.upholds fix (s.emitRow f i c r l cut) := by
  unfold State.emitRow
  split
  · exact h
  extract_lets +onlyGivenNames _ _ s1
  have h1 : o.upholds fix s1 := by
    unfold s1
    split
    · exact State.setCut_upholds h ..
    exact h
  extract_lets +onlyGivenNames _ s2
  have h2 : o.upholds fix s2 := State.modChan_upholds h1 ..
  exact State.emitTok_upholds h2 ..

theorem State.pushTok_upholds (h : o.upholds fix s) (f i c t) : o.upholds fix (s.pushTok f i c t) := by
  unfold State.pushTok
  split
  · exact h
  split
  · exact h
  extract_lets +onlyGivenNames s1
  have h1 : o.upholds fix s1 := State.modChan_upholds h ..
  split
  · extract_lets +onlyGivenNames _
    split
    · exact State.emitRow_upholds h1 ..
    exact State.modChan_upholds h1 ..
  split <;> exact State.emitTok_upholds h1 ..

theorem State.closeChan_upholds (h : o.upholds fix s) (f i c) : o.upholds fix (s.closeChan f i c) := by
  unfold State.closeChan
  split
  · exact h
  split
  · exact h
  extract_lets +onlyGivenNames _ s1
  have h1 : o.upholds fix s1 := by
    unfold s1
    split
    · exact h
    exact State.emitRow_upholds h ..
  exact State.modChan_upholds h1 ..

theorem State.takeToks_upholds (h : o.upholds fix s) (x c r n) : o.upholds fix (s.takeToks x c r n) := State.modChan_upholds h ..

theorem State.countMoved_upholds (h : o.upholds false s) (p n) : o.upholds false (s.countMoved p n) := by
  unfold State.countMoved
  extract_lets +onlyGivenNames _ s1
  have h1 : o.upholds false s1 := h
  exact State.modBay_upholds h1 ..

/-! ### Command queues -/

theorem State.enqueue_upholds (h : o.upholds fix s) (b p c) : o.upholds fix (s.enqueue b p c) := by
  unfold State.enqueue
  extract_lets +onlyGivenNames s1
  have h1 : o.upholds fix s1 := State.modBay_upholds h ..
  extract_lets +onlyGivenNames port?2
  clear_value port?2
  split
  · split
    · exact State.modChan_upholds h1 ..
    exact h1
  exact h1

theorem State.sbTake_upholds (h : o.upholds fix s) (b p src id r) : o.upholds fix (s.sbTake b p src id r) :=
  State.modBay_upholds h ..
theorem State.sbWait_upholds (h : o.upholds fix s) (b id) : o.upholds fix (s.sbWait b id) := State.modBay_upholds h ..

theorem State.sbArrive_upholds (h : o.upholds fix s) (b p src id r) : fstUpholds o fix (s.sbArrive b p src id r) := by
  unfold State.sbArrive
  split
  · exact h
  split
  · exact State.sbTake_upholds h ..
  exact State.sbWait_upholds h ..

theorem State.serveKissue_upholds (h : o.upholds fix s) (b f) : o.upholds fix (s.serveKissue b f) := by
  unfold State.serveKissue
  split
  · split
    · extract_lets +onlyGivenNames s1
      have h1 : o.upholds fix s1 := State.sbTake_upholds h ..
      split
      · exact State.modFiring_upholds (State.enqueue_upholds h1 ..) ..
      exact State.modFiring_upholds h1 ..
    exact h
  · split
    · exact State.modFiring_upholds (State.enqueue_upholds h ..) ..
    exact h
  · exact h

theorem State.serveQueues_upholds (h : o.upholds fix s) (b) : o.upholds fix (s.serveQueues b) :=
  State.foldl_upholds (fun h _ => State.serveKissue_upholds h ..) _ h

/-! ### Accesses on an opened range -/

theorem State.prqTakeEntry_upholds (h : o.upholds fix s) (i q) : o.upholds fix (s.prqTakeEntry i q) := by
  unfold State.prqTakeEntry
  extract_lets +onlyGivenNames s1
  have h1 : o.upholds fix s1 := h
  exact State.modTenant_upholds h1 ..

theorem State.postPage_upholds (h : o.upholds fix s) (t page w) : o.upholds fix (s.postPage t page w) := by
  unfold State.postPage
  split
  extract_lets +onlyGivenNames _ _
  split
  · exact h
  split
  · exact h
  extract_lets +onlyGivenNames _
  split
  · exact State.prqTakeEntry_upholds h ..
  exact State.modTenant_upholds (by exact h) ..

theorem State.cancelRegion_upholds (h : o.upholds fix s) (b a) : o.upholds fix (s.cancelRegion b a) := by
  unfold State.cancelRegion
  extract_lets +onlyGivenNames _ _ _ _ _ s1
  have h1 : o.upholds fix s1 := State.setBay_upholds h ..
  extract_lets +onlyGivenNames _ s2
  have h2 : o.upholds fix s2 := h1
  exact State.serveQueues_upholds h2 ..

theorem State.regionPage_upholds (h : o.upholds false s) (f) : o.upholds false (s.regionPage f) := by
  unfold State.regionPage
  extract_lets +onlyGivenNames _ s1
  have h1 : o.upholds false s1 := State.cancelRegion_upholds (State.keeping_upholds h ..) ..
  extract_lets +onlyGivenNames s2
  have h2 : o.upholds false s2 := State.modBay_upholds h1 ..
  extract_lets +onlyGivenNames _ s3
  have h3 : o.upholds false s3 := h2
  extract_lets +onlyGivenNames s4
  have h4 : o.upholds false s4 := State.park_upholds h3 ..
  split
  · exact State.postPage_upholds h4 ..
  exact h4

theorem memFault_upholds (h : o.upholds false s) (isLoad f) : Out.upholds o (memFault isLoad f s) := by
  unfold memFault
  split
  · exact State.regionPage_upholds h ..
  exact takeFault_upholds (State.keeping_upholds h ..) ..

theorem State.routeFor_upholds (h : o.upholds fix s) (c l) : fstUpholds o fix (s.routeFor c l) := by
  unfold State.routeFor
  split
  · exact h
  extract_lets +onlyGivenNames _ _
  split
  · exact h
  split
  · extract_lets +onlyGivenNames _
    exact State.noteDrops_upholds (by exact h) ..
  exact h

theorem State.formed_upholds (h : o.upholds fix s) (c wr p fuel off n) : fstUpholds o fix (s.formed c wr p fuel off n) := by
  induction fuel generalizing s off n with
  | zero => exact h
  | succ fuel ih =>
    unfold State.formed
    split
    · next r e =>
        obtain ⟨q, _, e⟩ := Option.map_eq_some_iff.1 e
        exact ok_upholds (State.addressOf_upholds h ..) e
    · split
      · exact h
      · exact ih (ih h ..) ..

theorem State.readOpen_upholds (h : o.upholds fix s) (c l) : (s.readOpen c l).upholds o fix := by
  unfold State.readOpen
  split
  · exact h
  split
  · next e => exact fst_upholds (State.routeFor_upholds h ..) e
  · next e => exact fst_upholds (State.routeFor_upholds h ..) e
  · next e =>
      extract_lets +onlyGivenNames r1
      have h1 : fstUpholds o fix r1 := State.readSegs_upholds (fst_upholds (State.routeFor_upholds h ..) e) ..
      exact h1

theorem State.writeOpen_upholds (h : o.upholds fix s) (c l bs) : (s.writeOpen c l bs).upholds o fix := by
  unfold State.writeOpen
  split
  · exact h
  split
  · next e => exact fst_upholds (State.routeFor_upholds h ..) e
  · next e => exact fst_upholds (State.routeFor_upholds h ..) e
  · next e => exact State.writeSegs_upholds (fst_upholds (State.routeFor_upholds h ..) e) ..

theorem State.readVia_upholds (h : o.upholds fix s) (c l) : (s.readVia c l).upholds o fix := by
  unfold State.readVia
  extract_lets +onlyGivenNames _ _
  split
  · split
    · exact h
    exact State.readOpen_upholds h ..
  split
  · exact h
  extract_lets +onlyGivenNames _ older1
  have h1 : o.upholds fix older1 := State.modBay_upholds h ..
  split
  · exact h
  split
  · next e => exact Got.ok_upholds (State.readOpen_upholds h ..) e
  exact State.readOpen_upholds h ..

theorem State.writeVia_upholds (h : o.upholds fix s) (c l bs) : (s.writeVia c l bs).upholds o fix := by
  unfold State.writeVia
  split
  · exact h
  exact State.writeOpen_upholds h ..

theorem State.load_upholds (h : o.upholds fix s) (c p n) : (s.load c p n).upholds o fix := by
  unfold State.load
  split
  · exact trivial
  next e => exact State.readVia_upholds (ok_upholds (State.loadAddr_upholds h ..) e) ..

theorem State.hold_upholds (h : o.upholds fix s) (b a hd l bs) : o.upholds fix (s.hold b a hd l bs) := State.modBay_upholds h ..

theorem State.issueStore_upholds (h : o.upholds fix s) (c hd l bs) : (s.issueStore c hd l bs).upholds o fix := by
  unfold State.issueStore
  split
  · exact h
  split
  · exact State.hold_upholds h ..
  split
  · next e => exact State.hold_upholds (Put.wait_upholds (State.writeOpen_upholds h ..) e) ..
  exact State.writeOpen_upholds h ..

theorem State.perform_upholds (h : o.upholds fix s) (b n) : o.upholds fix (s.perform b n) := by
  unfold State.perform
  split
  · exact h
  split
  · exact h
  split
  · next e => exact State.modBay_upholds (Put.ok_upholds (State.writeOpen_upholds h ..) e) ..
  · next e => exact Put.wait_upholds (State.writeOpen_upholds h ..) e
  · exact h

theorem State.performFrom_upholds (h : o.upholds fix s) (b p n k) : o.upholds fix (State.performFrom b p n k s) := by
  induction n generalizing s k with
  | zero => exact h
  | succ n ih =>
    unfold State.performFrom
    split
    · exact h
    · refine ih ?_ ..
      split
      · exact State.perform_upholds h ..
      · exact h

theorem State.performBay_upholds (h : o.upholds fix s) (b p) : o.upholds fix (s.performBay b p) := by
  unfold State.performBay
  split
  · exact h
  exact State.performFrom_upholds h ..

theorem State.flush_upholds (h : o.upholds fix s) (w) : o.upholds fix (s.flush w) := by
  unfold State.flush
  split
  · split
    · exact h
    exact State.performBay_upholds (State.drain_upholds h ..) ..
  exact h

theorem State.followStores_upholds (h : o.upholds fix s) (b a fidx id) : o.upholds fix (s.followStores b a fidx id) := by
  unfold State.followStores
  split
  · exact h
  exact State.modBay_upholds h ..

theorem State.store_upholds (h : o.upholds fix s) (c p bs) : (s.store c p bs).upholds o fix := by
  unfold State.store
  split
  · exact trivial
  next e => exact State.issueStore_upholds (ok_upholds (State.storeAddr_upholds h ..) e) ..

theorem State.notePoisonSent_upholds (h : o.upholds fix s) (f i q) : o.upholds fix (s.notePoisonSent f i q) := by
  unfold State.notePoisonSent
  split
  · exact h
  split
  · exact h
  exact State.setInst_upholds h ..

/-! ### Control registers, traps and idempotent regions -/

theorem execNop_upholds (h : o.upholds false s) : Out.upholds o (execNop s) := retire_upholds h ..

theorem State.endFiring_upholds (h : o.upholds false s) : o.upholds false s.endFiring := by
  unfold State.endFiring
  extract_lets +onlyGivenNames _ _ _ s1
  have h1 : o.upholds false s1 := State.modBay_upholds h ..
  exact h1

theorem execFend_upholds (h : o.upholds false s) : Out.upholds o (execFend s) := by
  unfold execFend
  refine outsideRegion_upholds h (fun h => ?_) ..
  split
  · exact takeFault_upholds h ..
  exact State.endFiring_upholds h ..

theorem execTrap_upholds (h : o.upholds false s) (a) : Out.upholds o (execTrap a s) := takeFault_upholds h ..
theorem execBrk_upholds (h : o.upholds false s) : Out.upholds o (execBrk s) := takeFault_upholds h ..

theorem State.legal_samplep {p : BitVec 14} (hp : ¬(p = 0 ∨ p.toNat > 10000)) (h : s.legal) :
    ({ s with samplep := p } : State).legal := by
  obtain ⟨h0, h1⟩ := not_or.1 hp
  exact ⟨⟨h0, not_lt.1 h1⟩, h.2⟩

theorem State.setCtl_upholds (h : o.upholds false s) (c x) : o.upholds false (s.setCtl c x) := by
  unfold State.setCtl
  split
  · exact State.mapRegs_upholds h ..
  · exact State.mapRegs_upholds h ..
  · exact State.mapRegs_upholds h ..
  · exact State.mapRegs_upholds h ..
  · extract_lets p
    split
    · exact h
    · next hp => exact h.mem rfl (State.legal_samplep hp) id
  · exact h

theorem execMfc_upholds (h : o.upholds false s) (d c) : Out.upholds o (execMfc d c s) := finish_upholds h ..

theorem execMtc_upholds (h : o.upholds false s) (c d) : Out.upholds o (execMtc c d s) := by
  unfold execMtc
  split
  · exact wordFault_upholds h ..
  split
  · exact wordFault_upholds h ..
  exact retire_upholds (State.setCtl_upholds h ..) ..

theorem execFence_upholds (h : o.upholds false s) (_sc) : Out.upholds o (execFence _sc s) := by
  unfold execFence
  extract_lets +onlyGivenNames s1
  have h1 : o.upholds false s1 := State.flush_upholds h ..
  split
  · exact h1
  exact retire_upholds (State.drain_upholds h1 ..) ..

theorem execIdmb_upholds (h : o.upholds false s) : Out.upholds o (execIdmb s) := by
  unfold execIdmb
  refine outsideRegion_upholds h (fun h => ?_) ..
  exact retire_upholds h ..

theorem State.clearPend_upholds (h : o.upholds fix s) (b a) : o.upholds fix (s.clearPend b a) := h

theorem execIdme_upholds (h : o.upholds false s) : Out.upholds o (execIdme s) := by
  unfold execIdme
  split
  · exact wordFault_upholds h ..
  split
  · exact parkAt_upholds h ..
  extract_lets +onlyGivenNames s1
  have h1 : o.upholds false s1 := State.clearPend_upholds (State.foldl_upholds (fun h _ => State.sendPair_upholds h ..) _ h) ..
  exact retire_upholds h1 ..

theorem execClmask_upholds (h : o.upholds false s) (a) : Out.upholds o (execClmask a s) :=
  retire_upholds (State.modBay_upholds h ..) ..
theorem execClunmask_upholds (h : o.upholds false s) (a) : Out.upholds o (execClunmask a s) :=
  retire_upholds (State.modBay_upholds h ..) ..

/-! ### LD, LDX and ST -/

theorem loadThen_upholds (h : o.upholds false s) {k} (hk : ∀ {t}, o.upholds false t → ∀ x1, Out.upholds o (k t x1)) (p off n) :
    Out.upholds o (loadThen s p off n k) := by
  unfold loadThen
  split
  · exact memFault_upholds h ..
  split
  · exact memFault_upholds h ..
  · next e => exact Got.wait_upholds (State.load_upholds h ..) e
  · next e => exact hk (Got.ok_upholds (State.load_upholds h ..) e) ..

theorem storeThen_upholds (h : o.upholds false s) (p off bs) : Out.upholds o (storeThen s p off bs) := by
  unfold storeThen
  split
  · exact memFault_upholds h ..
  split
  · exact memFault_upholds h ..
  · next e => exact Put.wait_upholds (State.store_upholds h ..) e
  · next e => exact retire_upholds (Put.ok_upholds (State.store_upholds h ..) e) ..

theorem storeAllowed_upholds (h : o.upholds false s) {k} (hk : ∀ {t}, o.upholds false t → Out.upholds o (k t)) (p i) :
    Out.upholds o (storeAllowed p i s k) := by
  unfold storeAllowed
  split
  · exact wordFault_upholds h ..
  exact hk h ..

theorem execLd_upholds (h : o.upholds false s) (w t a off) : Out.upholds o (execLd w t a off s) :=
  loadThen_upholds h (fun h _ => finish_upholds h ..) ..
theorem execLdx_upholds (h : o.upholds false s) (w t a off) : Out.upholds o (execLdx w t a off s) :=
  loadThen_upholds h (fun h _ => finish_upholds h ..) ..
theorem execSt_upholds (h : o.upholds false s) (w t a off) : Out.upholds o (execSt w t a off s) :=
  storeAllowed_upholds h (fun h => storeThen_upholds h ..) ..

/-! ### Command registers and KISSUE -/

theorem kAddr_upholds (h : o.upholds fix s) (p wr) : okUpholds o fix (kAddr s p wr) := by
  unfold kAddr
  split
  · exact trivial
  next e =>
    split
    · exact trivial
    refine ok_upholds ?_ e
    split
    · exact State.storeAddr_upholds h ..
    exact State.loadAddr_upholds h ..

theorem execKld_upholds (h : o.upholds false s) (n a) : Out.upholds o (execKld n a s) := by
  unfold execKld
  split
  · exact memFault_upholds h ..
  next e =>
    split
    · exact memFault_upholds h ..
    · next e1 => exact Got.wait_upholds (State.readVia_upholds (ok_upholds (kAddr_upholds h ..) e) ..) e1
    · next e1 => exact finish_upholds (Got.ok_upholds (State.readVia_upholds (ok_upholds (kAddr_upholds h ..) e) ..) e1) ..

theorem execKst_upholds (h : o.upholds false s) (n a) : Out.upholds o (execKst n a s) := by
  unfold execKst
  refine storeAllowed_upholds h (fun h' => ?_) ..
  split
  · exact memFault_upholds h' ..
  next e =>
    split
    · exact memFault_upholds h' ..
    · next e1 => exact Put.wait_upholds (State.writeVia_upholds (ok_upholds (kAddr_upholds h' ..) e) ..) e1
    · next e1 => exact retire_upholds (Put.ok_upholds (State.writeVia_upholds (ok_upholds (kAddr_upholds h' ..) e) ..) e1) ..

theorem execKins_upholds (h : o.upholds false s) (n a hd) : Out.upholds o (execKins n a hd s) := finish_upholds h ..
theorem execKclr_upholds (h : o.upholds false s) (n) : Out.upholds o (execKclr n s) := finish_upholds h ..
theorem cmdFault_upholds (h : o.upholds false s) (c p) : Out.upholds o (cmdFault c p s) := takeFault_upholds h ..

theorem State.collSeq_upholds (h : o.upholds fix s) (c e) : fstUpholds o fix (s.collSeq c e) := by
  unfold State.collSeq
  split
  · exact h
  exact State.setField_upholds h ..

theorem execKissue_upholds (h : o.upholds false s) (n p) : Out.upholds o (execKissue n p s) := by
  unfold execKissue
  extract_lets +onlyGivenNames r c x e b ctx
  split
  · exact takeFault_upholds h ..
  · split
    · exact cmdFault_upholds h ..
    · split
      · exact cmdFault_upholds h ..
      · split
        · exact cmdFault_upholds h ..
        · split
          · exact wordFault_upholds h ..
          · extract_lets +onlyGivenNames range isArr isDrn z
            clear_value range
            split
            · next u seq hu =>
                have ku : o.upholds false u := by
                  refine fst_upholds (x := if cOpc c = 0x0F then s.collSeq c e else (s, 0)) ?_ hu
                  split
                  · exact State.collSeq_upholds h ..
                  · exact h
                extract_lets +onlyGivenNames cmd v
                have kv : o.upholds false v := State.followStores_upholds (by exact State.upholds_same ku rfl) ..
                clear_value v
                split
                · exact parkAt_upholds (State.sbWait_upholds kv ..) ..
                · extract_lets w
                  have kw : o.upholds false w := by
                    unfold w
                    split
                    · exact State.sbTake_upholds kv ..
                    · exact kv
                  split
                  · exact parkAt_upholds kw ..
                  · exact retire_upholds (State.enqueue_upholds kw ..) ..

theorem State.takeCompletions_upholds (h : o.upholds fix s) (b a p) : o.upholds fix (s.takeCompletions b a p) :=
  State.passSent_upholds h ..

theorem execKwait_upholds (h : o.upholds false s) (p) : Out.upholds o (execKwait p s) := by
  unfold execKwait
  split
  · exact takeFault_upholds h ..
  split
  · exact parkAt_upholds h ..
  exact retire_upholds (State.takeCompletions_upholds h ..) ..

/-! ### Ports of a firing -/

theorem portFault_upholds (h : o.upholds false s) (p) : Out.upholds o (portFault p s) := takeFault_upholds h ..
theorem rateFault_upholds (h : o.upholds false s) (p) : Out.upholds o (rateFault p s) := takeFault_upholds h ..

theorem withIn_upholds (h : o.upholds false s) {k} (hk : ∀ x0 x1 x2, Out.upholds o (k x0 x1 x2)) (p) :
    Out.upholds o (withIn p s k) := by
  unfold withIn
  split
  · exact portFault_upholds h ..
  split
  · exact portFault_upholds h ..
  split
  · exact portFault_upholds h ..
  exact hk ..

theorem withOut_upholds (h : o.upholds false s) {k} (hk : ∀ x0 x1 x2, Out.upholds o (k x0 x1 x2)) (p) :
    Out.upholds o (withOut p s k) := by
  unfold withOut
  split
  · exact portFault_upholds h ..
  split
  · exact portFault_upholds h ..
  split
  · exact portFault_upholds h ..
  exact hk ..

theorem takeIn_upholds (h : o.upholds false s) {k} (hk : ∀ {t}, o.upholds false t → ∀ x1, Out.upholds o (k t x1)) (p n x c r) :
    Out.upholds o (takeIn p n x c r s k) := by
  unfold takeIn
  extract_lets +onlyGivenNames _
  split
  · exact rateFault_upholds h ..
  split
  · exact hk (State.countMoved_upholds (State.takeToks_upholds h ..) ..) ..
  split
  · exact rateFault_upholds h ..
  exact parkAt_upholds h ..

theorem sendOut_upholds (h : o.upholds false s) (p l x c r) : Out.upholds o (sendOut p l x c r s) := by
  unfold sendOut
  split
  · exact rateFault_upholds h ..
  split
  · exact parkAt_upholds h ..
  extract_lets +onlyGivenNames s1
  have h1 : o.upholds false s1 := State.foldl_upholds (fun h _ => State.pushTok_upholds h ..) _ (State.countMoved_upholds h ..)
  exact retire_upholds (State.notePoisonSent_upholds h1 ..) ..

theorem State.setRow_upholds (h : o.upholds false s) (x) : o.upholds false (s.setRow x) := h

theorem headRow_upholds (h : o.upholds false s) {k} (hk : ∀ x0, Out.upholds o (k x0)) (p x c) :
    Out.upholds o (headRow p x c s k) := by
  unfold headRow
  split
  · exact hk ..
  split
  · exact rateFault_upholds h ..
  exact parkAt_upholds h ..

theorem recvRow_upholds (h : o.upholds false s) (d p k x c r) : Out.upholds o (recvRow d p k x c r s) := by
  unfold recvRow
  extract_lets +onlyGivenNames _ _ _
  split
  · split
    · exact rateFault_upholds h ..
    exact headRow_upholds h (fun _ => finish_upholds (State.setRow_upholds h ..) ..) ..
  exact headRow_upholds h (fun _ => finish_upholds (State.countMoved_upholds (State.takeToks_upholds (State.setRow_upholds
      h ..) ..) ..) ..) ..

theorem sendRow_upholds (h : o.upholds false s) (v p k x c r) : Out.upholds o (sendRow v p k x c r s) := by
  unfold sendRow
  extract_lets +onlyGivenNames _ _ _ _
  split
  · split
    · exact rateFault_upholds h ..
    split
    · exact parkAt_upholds h ..
    exact retire_upholds (State.modChan_upholds (State.setRow_upholds h ..) ..) ..
  split
  · exact retire_upholds (State.setRow_upholds h ..) ..
  exact portFault_upholds h ..

theorem execRecv_upholds (h : o.upholds false s) (d p k) : Out.upholds o (execRecv d p k s) := by
  unfold execRecv
  refine withIn_upholds h (fun _ _ _ => outsideRegion_upholds h (fun h => ?_) ..) ..
  split
  · exact recvRow_upholds h ..
  refine takeIn_upholds h (fun h' _ => ?_) ..
  exact finish_upholds h' ..

theorem execRecvg_upholds (h : o.upholds false s) (d p k) : Out.upholds o (execRecvg d p k s) := by
  unfold execRecvg
  refine withIn_upholds h (fun _ _ _ => ?_) ..
  split
  · exact portFault_upholds h ..
  exact outsideRegion_upholds h (fun h => takeIn_upholds h (fun h _ => finish_upholds h ..) ..) ..

theorem execSend_upholds (h : o.upholds false s) (v p k) : Out.upholds o (execSend v p k s) := by
  unfold execSend
  refine withOut_upholds h (fun _ _ _ => ?_) ..
  split
  · exact portFault_upholds h ..
  refine outsideRegion_upholds h (fun h => ?_) ..
  split
  · exact sendRow_upholds h ..
  exact sendOut_upholds h ..

theorem execSendg_upholds (h : o.upholds false s) (g p k) : Out.upholds o (execSendg g p k s) := by
  unfold execSendg
  refine withOut_upholds h (fun _ _ _ => ?_) ..
  split
  · exact portFault_upholds h ..
  exact outsideRegion_upholds h (fun h => sendOut_upholds h ..) ..

theorem execPeektag_upholds (h : o.upholds false s) (d p k) : Out.upholds o (execPeektag d p k s) := by
  unfold execPeektag
  refine withIn_upholds h (fun _ _ _ => ?_) ..
  split
  · exact portFault_upholds h ..
  extract_lets +onlyGivenNames _ _ put1
  have h1 : ∀ x0 x1, Out.upholds o (put1 x0 x1) := by
    intro _ _
    unfold put1
    exact finish_upholds h ..
  clear_value put1
  split
  · exact h1 ..
  split
  · exact h1 ..
  exact parkAt_upholds h ..

theorem execSendtag_upholds (h : o.upholds false s) (v p k) : Out.upholds o (execSendtag v p k s) := by
  unfold execSendtag
  refine withOut_upholds h (fun _ _ _ => ?_) ..
  extract_lets +onlyGivenNames _ _
  split
  · exact portFault_upholds h ..
  refine outsideRegion_upholds h (fun h' => ?_) ..
  extract_lets +onlyGivenNames _ _ s1
  have h1 : o.upholds false s1 := State.modChan_upholds (State.setRow_upholds h' ..) ..
  extract_lets +onlyGivenNames s2
  have h2 : o.upholds false s2 := State.countMoved_upholds (State.pushTok_upholds h1 ..) ..
  exact retire_upholds (State.notePoisonSent_upholds h2 ..) ..

theorem execPcount_upholds (h : o.upholds false s) (d p _k) : Out.upholds o (execPcount d p _k s) := by
  unfold execPcount
  split
  · exact withIn_upholds h (fun _ _ _ => finish_upholds h ..) ..
  exact withOut_upholds h (fun _ _ _ => finish_upholds h ..) ..

end Sys2Proof.Machine
end

section
/-! What a step keeps: synchronisation, firings, engines, collectives, links and updates.
One lemma for each function of the model that gives a state, in the model's order. -/

namespace Sys2Proof.Machine

variable {o s : State} {fix : Bool}

/-! ### Synchronisation -/

theorem State.syncAddr_upholds (h : o.upholds fix s) (c p wr) : okUpholds o fix (s.syncAddr c p wr) := by
  unfold State.syncAddr
  split
  · exact trivial
  next e =>
    extract_lets +onlyGivenNames _
    split
    · exact trivial
    split
    · exact trivial
    exact ok_upholds (State.addressOf_upholds h ..) e

theorem reachWord_upholds (h : o.upholds false s) {k} (hk : ∀ {t}, o.upholds false t → ∀ x1, Out.upholds o (k t x1))
    (p wr isLoad) :
    Out.upholds o (reachWord s p wr isLoad k) := by
  unfold reachWord
  split
  · exact memFault_upholds h ..
  next e =>
    split
    · exact State.flush_upholds (ok_upholds (State.syncAddr_upholds h ..) e) ..
    split
    · next e1 => exact fst_upholds (State.routeFor_upholds (ok_upholds (State.syncAddr_upholds h ..) e) ..) e1
    · next e1 =>
        exact memFault_upholds (fst_upholds (State.routeFor_upholds (ok_upholds (State.syncAddr_upholds h ..) e) ..) e1) ..
    · next e1 => exact hk (fst_upholds (State.routeFor_upholds (ok_upholds (State.syncAddr_upholds h ..) e) ..) e1) ..

theorem State.readWord_upholds (h : o.upholds fix s) (c a) : fstUpholds o fix (s.readWord c a) := by
  unfold State.readWord
  extract_lets +onlyGivenNames r1
  have h1 : fstUpholds o fix r1 := State.readSegs_upholds h ..
  exact h1

theorem State.writeWord_upholds (h : o.upholds fix s) (c a x q) : o.upholds fix (s.writeWord c a x q) := by
  unfold State.writeWord
  extract_lets +onlyGivenNames s1
  have h1 : o.upholds fix s1 := by
    unfold s1
    split
    · exact h
    split
    · exact State.earlyCommit_upholds h ..
    exact h
  extract_lets +onlyGivenNames s2
  have h2 : o.upholds fix s2 := State.applySegs_upholds (State.drainLines_upholds h1 ..) ..
  exact State.noteWords_upholds (State.noteStreams_upholds (State.putWord_upholds h2 ..) ..) ..

theorem acquireThen_upholds (h : o.upholds false s) (va f) : Out.upholds o (acquireThen va s f) := by
  unfold acquireThen
  extract_lets +onlyGivenNames _
  split
  · exact finish_upholds (State.acquire_upholds h ..) ..
  exact State.park_upholds (State.mapRegs_upholds (State.acquireWait_upholds h ..) ..) ..

theorem whenSent_upholds (h : o.upholds false s) {k} (hk : ∀ {t}, o.upholds false t → Out.upholds o (k t)) :
    Out.upholds o (whenSent s k) := by
  unfold whenSent
  extract_lets +onlyGivenNames s1
  have h1 : o.upholds false s1 := State.flush_upholds h ..
  split
  · exact h1
  exact hk h1 ..

theorem execLda_upholds (h : o.upholds false s) (_sc t a off) : Out.upholds o (execLda _sc t a off s) := by
  unfold execLda
  split
  · exact memFault_upholds h ..
  refine reachWord_upholds h (fun h _ => ?_) ..
  extract_lets +onlyGivenNames _ r1
  have h1 : fstUpholds o false r1 := State.readWord_upholds h ..
  exact acquireThen_upholds h1 ..

theorem execStl_upholds (h : o.upholds false s) (sc t a off) : Out.upholds o (execStl sc t a off s) := by
  unfold execStl
  refine outsideRegion_upholds h (fun h => ?_) ..
  split
  · exact memFault_upholds h ..
  refine reachWord_upholds h (fun h _ => whenSent_upholds h (fun h => ?_) ..) ..
  extract_lets +onlyGivenNames s1
  have h1 : o.upholds false s1 := State.release_upholds h ..
  exact retire_upholds (State.writeWord_upholds h1 ..) ..

theorem State.semDone_upholds (h : o.upholds fix s) (b x3) : o.upholds fix (s.semDone b x3) := by
  unfold State.semDone
  split
  · exact State.modFiring_upholds h ..
  · exact State.modBay_upholds h ..
  · exact h

theorem State.semTaken_upholds (h : o.upholds fix s) (b n l) : o.upholds fix (s.semTaken b n l) := by
  unfold State.semTaken
  split
  · exact h
  exact State.passSent_upholds h ..

theorem State.setSem_upholds (h : o.upholds fix s) (b n v) : o.upholds fix (s.setSem b n v) := by
  unfold State.setSem
  extract_lets +onlyGivenNames _ s1
  have h1 : o.upholds fix s1 := State.modBay_upholds h ..
  exact State.semTaken_upholds (State.foldl_upholds (fun h _ => State.semDone_upholds h ..) _ h1) ..

theorem State.semAdd_upholds (h : o.upholds fix s) (b n v) : o.upholds fix (s.semAdd b n v) := State.setSem_upholds h ..

theorem execSemadd_upholds (h : o.upholds false s) (a b) : Out.upholds o (execSemadd a b s) := by
  unfold execSemadd
  refine outsideRegion_upholds h (fun h => whenSent_upholds h (fun h => ?_) ..) ..
  extract_lets +onlyGivenNames s1
  have h1 : o.upholds false s1 := State.release_upholds h ..
  exact retire_upholds (State.semAdd_upholds h1 ..) ..

theorem execSemsub_upholds (h : o.upholds false s) (d a b) : Out.upholds o (execSemsub d a b s) := by
  unfold execSemsub
  refine outsideRegion_upholds h (fun h => ?_) ..
  exact finish_upholds (State.setSem_upholds h ..) ..

theorem execSemwait_upholds (h : o.upholds false s) (a b) : Out.upholds o (execSemwait a b s) := by
  unfold execSemwait
  refine outsideRegion_upholds h (fun h => ?_) ..
  extract_lets +onlyGivenNames _ _ _
  split
  · exact retire_upholds h ..
  extract_lets +onlyGivenNames _ _ s1
  have h1 : o.upholds false s1 := State.setBay_upholds h ..
  extract_lets +onlyGivenNames s2
  have h2 : o.upholds false s2 := State.semTaken_upholds (State.foldl_upholds (fun h _ => State.semDone_upholds h ..) _ h1) ..
  split
  · exact retire_upholds h2 ..
  exact parkAt_upholds h2 ..

theorem execSemget_upholds (h : o.upholds false s) (d a) : Out.upholds o (execSemget d a s) := finish_upholds h ..
theorem yardFault_upholds (h : o.upholds false s) (y) : Out.upholds o (yardFault y s) := takeFault_upholds h ..

theorem withYard_upholds (h : o.upholds false s) {k} (hk : ∀ x0 x1, Out.upholds o (k x0 x1)) (y) :
    Out.upholds o (withYard y s k) := by
  unfold withYard
  split
  · exact yardFault_upholds h ..
  split
  · exact hk ..
  exact yardFault_upholds h ..

theorem State.setYard_upholds (h : o.upholds fix s) (f y x) : o.upholds fix (s.setYard f y x) := State.setField_upholds h ..
theorem State.flipYard_upholds (h : o.upholds fix s) (f y phase) : o.upholds fix (s.flipYard f y phase) := h

theorem execRvinit_upholds (h : o.upholds false s) (a b) : Out.upholds o (execRvinit a b s) := by
  unfold execRvinit
  refine outsideRegion_upholds h (fun h => ?_) ..
  refine withYard_upholds h (fun _ _ => ?_) ..
  split
  · exact yardFault_upholds h ..
  split
  · exact takeFault_upholds h ..
  split
  · exact retire_upholds (State.setYard_upholds h ..) ..
  split
  · exact retire_upholds h ..
  exact yardFault_upholds h ..

theorem execRvarr_upholds (h : o.upholds false s) (d a) : Out.upholds o (execRvarr d a s) := by
  unfold execRvarr
  refine outsideRegion_upholds h (fun h => withYard_upholds h (fun _ _ => ?_) ..) ..
  split
  · exact yardFault_upholds h ..
  extract_lets +onlyGivenNames _
  split
  · exact yardFault_upholds h ..
  refine whenSent_upholds h (fun h' => ?_) ..
  extract_lets +onlyGivenNames s1
  have h1 : o.upholds false s1 := State.release_upholds h' ..
  split
  · exact yardFault_upholds h1 ..
  extract_lets +onlyGivenNames _ _ s2
  have h2 : o.upholds false s2 := State.setYard_upholds h1 ..
  extract_lets +onlyGivenNames s3
  have h3 : o.upholds false s3 := by
    unfold s3
    split
    · exact State.flipYard_upholds h2 ..
    exact h2
  exact finish_upholds h3 ..

theorem execRvwait_upholds (h : o.upholds false s) (a b) : Out.upholds o (execRvwait a b s) := by
  unfold execRvwait
  refine outsideRegion_upholds h (fun h => ?_) ..
  refine withYard_upholds h (fun _ _ => ?_) ..
  split
  · exact yardFault_upholds h ..
  split
  · exact retire_upholds h ..
  exact parkAt_upholds h ..

theorem State.waitWord_upholds (h : o.upholds fix s) (w) : o.upholds fix (s.waitWord w) := h

theorem execAcq_upholds (h : o.upholds false s) (sc a) : Out.upholds o (execAcq sc a s) := by
  unfold execAcq
  refine outsideRegion_upholds h (fun h => reachWord_upholds h (fun h' _ => ?_) ..) ..
  extract_lets +onlyGivenNames _ r1
  have h1 : fstUpholds o false r1 := State.readWord_upholds h' ..
  clear_value r1
  extract_lets +onlyGivenNames _
  split
  · exact takeFault_upholds h' ..
  split
  · exact acquireThen_upholds (State.writeWord_upholds h1 ..) ..
  exact parkAt_upholds (State.waitWord_upholds h1 ..) ..

theorem execRel_upholds (h : o.upholds false s) (sc a) : Out.upholds o (execRel sc a s) := by
  unfold execRel
  refine outsideRegion_upholds h (fun h => reachWord_upholds h (fun h' _ => whenSent_upholds h' (fun h' => ?_) ..) ..) ..
  extract_lets +onlyGivenNames s1
  have h1 : o.upholds false s1 := State.release_upholds h' ..
  clear_value s1
  extract_lets +onlyGivenNames r2
  have h2 : fstUpholds o false r2 := State.readWord_upholds h1 ..
  clear_value r2
  split
  · exact retire_upholds (State.writeWord_upholds h2 ..) ..
  exact takeFault_upholds h2 ..

theorem execSyncadd_upholds (h : o.upholds false s) (sc d a b) : Out.upholds o (execSyncadd sc d a b s) := by
  unfold execSyncadd
  refine outsideRegion_upholds h (fun h => reachWord_upholds h (fun h' _ => whenSent_upholds h' (fun h' => ?_) ..) ..) ..
  extract_lets +onlyGivenNames _ r1
  have h1 : fstUpholds o false r1 := State.readWord_upholds (State.release_upholds h' ..) ..
  extract_lets +onlyGivenNames s'2
  have h2 : o.upholds false s'2 := State.writeWord_upholds h1 ..
  exact acquireThen_upholds h2 ..

theorem execSynccas_upholds (h : o.upholds false s) (sc d a b) : Out.upholds o (execSynccas sc d a b s) := by
  unfold execSynccas
  refine outsideRegion_upholds h (fun h => reachWord_upholds h (fun h' _ => ?_) ..) ..
  extract_lets +onlyGivenNames _ r1
  have h1 : fstUpholds o false r1 := State.readWord_upholds h' ..
  clear_value r1
  extract_lets +onlyGivenNames _ t2
  have h2 : o.upholds false t2 := by
    unfold t2
    split
    · exact State.flush_upholds h1 ..
    exact h1
  clear_value t2
  split
  · exact h2
  extract_lets +onlyGivenNames s'3
  have h3 : o.upholds false s'3 := by
    unfold s'3
    split
    · exact State.writeWord_upholds (State.release_upholds h2 ..) ..
    exact h2
  clear_value s'3
  exact acquireThen_upholds h3 ..

theorem execWaitv_upholds (h : o.upholds false s) (_sc isAcq ge d a b) : Out.upholds o (execWaitv _sc isAcq ge d a b s) := by
  unfold execWaitv
  refine reachWord_upholds h (fun h' w => ?_) ..
  extract_lets va v r f
  have k : fstUpholds o false r := State.readWord_upholds h' ..
  clear_value r
  by_cases met : (if ge then decide (v.toNat ≤ r.2.1.toNat) else r.2.1 == v) = true
  · rw [if_pos met]
    split
    · exact acquireThen_upholds k ..
    · exact finish_upholds k ..
  · rw [if_neg met]
    exact parkAt_upholds (State.waitWord_upholds k ..) ..

theorem execMsg_upholds (h : o.upholds false s) (c a) : Out.upholds o (execMsg c a s) := by
  unfold execMsg
  refine outsideRegion_upholds h (fun h => ?_) ..
  extract_lets +onlyGivenNames _
  split
  · exact memFault_upholds h ..
  next e =>
    split
    · exact takeFault_upholds (ok_upholds (State.loadAddr_upholds h ..) e) ..
    split
    · exact takeFault_upholds (ok_upholds (State.loadAddr_upholds h ..) e) ..
    split
    · exact memFault_upholds h ..
    · next e1 => exact Got.wait_upholds (State.readVia_upholds (ok_upholds (State.loadAddr_upholds h ..) e) ..) e1
    · next e1 =>
        extract_lets +onlyGivenNames _
        split
        · exact parkAt_upholds h ..
        refine retire_upholds ?_ ..
        have k := Got.ok_upholds (State.readVia_upholds (ok_upholds (State.loadAddr_upholds h ..) e) ..) e1
        exact k

/-! ### Tenants and their partitions -/

theorem State.setLoft_upholds (h : o.upholds fix s) (i x) : o.upholds fix (s.setLoft i x) := h
theorem State.setHalted_upholds (h : o.upholds fix s) (v l) : o.upholds fix (s.setHalted v l) :=
  State.foldl_upholds (fun h _ => State.modBay_upholds h ..) _ h
theorem State.postSolve_upholds (h : o.upholds fix s) (t cause) : o.upholds fix (s.postSolve t cause) :=
  State.modTenant_upholds h ..

theorem State.landAll_upholds (h : o.upholds false s) : o.upholds false s.landAll := by
  unfold State.landAll
  extract_lets +onlyGivenNames _
  exact State.foldl_upholds (fun h _ => State.landUnit_upholds h ..) _ h

/-! ### Firing and resuming actors -/

theorem State.refresh_upholds (h : o.upholds fix s) (b) : o.upholds fix (s.refresh b) := State.modBay_upholds h ..

theorem State.resumeAcquire_upholds (h : o.upholds fix s) (f) : o.upholds fix (s.resumeAcquire f) := by
  unfold State.resumeAcquire
  split
  · exact State.acquire_upholds h ..
  exact h

theorem State.noteSweeps_upholds (h : o.upholds fix s) (b) : o.upholds fix (s.noteSweeps b) := by
  unfold State.noteSweeps
  refine State.foldl_upholds (fun h _ => ?_) _ h
  split
  · exact State.acquireWait_upholds h ..
  exact h

theorem State.takeMsg_upholds (h : o.upholds fix s) (x b k m idx) : o.upholds fix (s.takeMsg x b k m idx) :=
  State.modBay_upholds h ..

theorem State.fire_upholds (h : o.upholds fix s) (b x a) : o.upholds fix (s.fire b x a) := by
  unfold State.fire
  extract_lets +onlyGivenNames _ msg1 _ _ _ _ s2
  clear_value msg1
  have h2 : o.upholds fix s2 := by
    unfold s2
    split
    · exact State.takeMsg_upholds h ..
    exact h
  exact State.modBay_upholds h2 ..

theorem execFireActor_upholds (h : o.upholds false s) (b) : Out.upholds o (execFireActor b s) := by
  unfold execFireActor
  split
  · exact h
  extract_lets +onlyGivenNames s1
  have h1 : o.upholds false s1 := State.refresh_upholds h ..
  split
  · split
    · exact State.fire_upholds h1 ..
    exact h1
  exact h1

theorem State.passBay_upholds (h : o.upholds fix s) (b n busy) : o.upholds fix (s.passBay b n busy) := by
  unfold State.passBay
  split
  · exact h
  exact State.modBay_upholds h ..

theorem State.pass_upholds (h : o.upholds fix s) (issue) : o.upholds fix (s.pass issue) := by
  unfold State.pass
  extract_lets +onlyGivenNames s1
  have h1 : o.upholds fix s1 := by
    unfold s1
    refine State.foldl_upholds (fun h _ => ?_) _ h
    split
    · extract_lets +onlyGivenNames s1
      have h1 : o.upholds fix s1 := State.refresh_upholds h ..
      exact State.passBay_upholds h1 ..
    exact h
  exact h1

theorem State.load'_upholds (h : o.upholds false s) (f) : o.upholds false (s.load_ f) := State.modBay_upholds (by exact h) ..

theorem State.unload_upholds (h : o.upholds false s) : o.upholds false s.unload := by
  unfold State.unload
  split
  · exact State.modBay_upholds h ..
  extract_lets +onlyGivenNames _ _ s1
  have h1 : o.upholds false s1 := State.modBay_upholds h ..
  exact h1

theorem State.portWork_upholds (h : o.upholds false s) : mayUphold o false s.portWork := by
  unfold State.portWork
  split
  · trivial
  · split
    · extract_lets r
      have k {x : Out} (e : r = some x) : Out.upholds o x := by
        unfold r at e
        split at e <;> cases e
        · exact execRecv_upholds h ..
        · exact execRecvg_upholds h ..
        · exact execSend_upholds h ..
        · exact execSendg_upholds h ..
        · exact execPeektag_upholds h ..
      clear_value r
      split
      · exact k rfl
      · trivial
    · trivial

theorem State.atPortDone_upholds (h : o.upholds false s) (f) : o.upholds false (s.atPortDone f) := by
  unfold State.atPortDone
  extract_lets +onlyGivenNames back1
  have h1 : ∀ {t}, o.upholds false t → ∀ x1, o.upholds false (back1 t x1) := by
    intro _ h2 _
    unfold back1
    extract_lets +onlyGivenNames base3
    have h3 : o.upholds false base3 := State.unload_upholds h2 ..
    exact h3
  clear_value back1
  split
  · exact State.modFiring_upholds h ..
  next e =>
    split <;> exact h1 (some_mayUphold (State.portWork_upholds (State.load'_upholds h ..) ..) e) ..

theorem State.portsDone_upholds (h : o.upholds false s) (b) : o.upholds false (s.portsDone b) := by
  unfold State.portsDone
  refine State.foldl_upholds (fun h _ => ?_) _ h
  split
  · exact State.atPortDone_upholds h ..
  exact h

theorem execFiringResume_upholds (h : o.upholds false s) (b) : Out.upholds o (execFiringResume b s) := by
  unfold execFiringResume
  split
  · exact h
  extract_lets +onlyGivenNames s1
  have h1 : o.upholds false s1 := State.portsDone_upholds h ..
  split
  · exact h1
  split
  · exact State.noteSweeps_upholds h1 ..
  exact State.modBay_upholds (State.modFiring_upholds (State.resumeAcquire_upholds h1 ..) ..) ..

/-! ### The engines and their command steps -/

theorem State.modHead_upholds (h : o.upholds fix s) (b p f) : o.upholds fix (s.modHead b p f) := State.modBay_upholds h ..

theorem atPhase_upholds (h : o.upholds false s) {k} (hk : ∀ x0, Out.upholds o (k x0)) (b p ph) :
    Out.upholds o (atPhase b p ph s k) := by
  unfold atPhase
  split
  · split
    · exact hk ..
    exact h
  exact h

theorem executing_upholds (h : o.upholds false s) {k} (hk : ∀ x0, Out.upholds o (k x0)) (b p opc) :
    Out.upholds o (executing b p opc s k) := by
  unfold executing
  refine atPhase_upholds h (fun _ => ?_) ..
  split
  · exact hk ..
  exact h

theorem State.sbDrop_upholds (h : o.upholds fix s) (dst id) : o.upholds fix (s.sbDrop dst id) :=
  State.serveQueues_upholds (State.modBay_upholds h ..) ..
theorem State.sbDropAll_upholds (h : o.upholds fix s) (id) : o.upholds fix (s.sbDropAll id) :=
  State.foldl_upholds (fun h _ => State.sbDrop_upholds (State.modBay_upholds h ..) ..) _ h

theorem State.cmdFail_upholds (h : o.upholds fix s) (b p c f) : o.upholds fix (s.cmdFail b p c f) := by
  unfold State.cmdFail
  extract_lets +onlyGivenNames _ s1
  have h1 : o.upholds fix s1 := State.modBay_upholds h ..
  extract_lets +onlyGivenNames s2
  have h2 : o.upholds fix s2 := State.sbDropAll_upholds (State.keeping_upholds h1 ..) ..
  exact State.serveQueues_upholds (State.bayFault_upholds h2 ..) ..

theorem State.cmdRegionPage_upholds (h : o.upholds fix s) (b c f) : o.upholds fix (s.cmdRegionPage b c f) := by
  unfold State.cmdRegionPage
  extract_lets +onlyGivenNames _ _ s1
  have h1 : o.upholds fix s1 := State.cancelRegion_upholds (State.keeping_upholds h ..) ..
  extract_lets +onlyGivenNames s2
  have h2 : o.upholds fix s2 := State.modBay_upholds h1 ..
  extract_lets +onlyGivenNames _ s3
  have h3 : o.upholds fix s3 := State.modFiring_upholds (by exact h2) ..
  split
  · exact State.postPage_upholds h3 ..
  exact h3

theorem State.cmdFlt_upholds (h : o.upholds fix s) (b p c f resolves) : o.upholds fix (s.cmdFlt b p c f resolves) := by
  unfold State.cmdFlt
  split
  · exact State.cmdRegionPage_upholds h ..
  exact State.cmdFail_upholds h ..

theorem State.iterate_upholds (h : o.upholds fix s) {one} (hone : ∀ {t}, o.upholds fix t → ∀ x1, (one t x1).upholds o fix)
    (b p resolves) :
    o.upholds fix (s.iterate b p resolves one) := by
  unfold State.iterate
  split
  · exact h
  split
  · next e => exact Iter.go_upholds (hone h ..) e
  · next e => exact Iter.wait_upholds (hone h ..) e
  · next e => exact State.modHead_upholds (Iter.done_upholds (hone h ..) e) ..
  · next e => exact State.cmdFlt_upholds (Iter.flt_upholds (hone h ..) e) ..

theorem runCmd_upholds (h : o.upholds false s) {one} (hone : ∀ {t}, o.upholds false t → ∀ x1, (one t x1).upholds o false)
    (b p opc resolves) :
    Out.upholds o (runCmd b p opc resolves one s) := by
  unfold runCmd
  refine executing_upholds h (fun _ => ?_) ..
  exact State.iterate_upholds h hone ..

theorem State.setEdge_upholds (h : o.upholds fix s) (d n v) : o.upholds fix (s.setEdge d n v) := State.modBay_upholds h ..

theorem State.sendDone_upholds (h : o.upholds fix s) (x b p n e) : o.upholds fix (s.sendDone x b p n e) := by
  unfold State.sendDone
  extract_lets +onlyGivenNames _
  split
  · exact State.modBay_upholds h ..
  exact State.setEdge_upholds h ..

theorem State.takeDone_upholds (h : o.upholds fix s) (x b p n e) : o.upholds fix (s.takeDone x b p n e) := by
  unfold State.takeDone
  extract_lets +onlyGivenNames s1
  have h1 : o.upholds fix s1 := State.setEdge_upholds h ..
  extract_lets +onlyGivenNames s2
  have h2 : o.upholds fix s2 := State.passSent_upholds h1 ..
  extract_lets +onlyGivenNames _
  split
  · exact State.setEdge_upholds (State.modBay_upholds h2 ..) ..
  exact h2

theorem execDoneTokenTake_upholds (h : o.upholds false s) (b p) : Out.upholds o (execDoneTokenTake b p s) := by
  unfold execDoneTokenTake
  refine atPhase_upholds h (fun _ => ?_) ..
  split
  · exact h
  extract_lets +onlyGivenNames _
  split
  · exact h
  extract_lets +onlyGivenNames s1
  have h1 : o.upholds false s1 := State.foldl_upholds (fun h _ => State.takeDone_upholds h ..) _ h
  exact State.modHead_upholds h1 ..

theorem execCommandSemaphoreWait_upholds (h : o.upholds false s) (b p) : Out.upholds o (execCommandSemaphoreWait b p s) := by
  unfold execCommandSemaphoreWait
  refine atPhase_upholds h (fun _ => ?_) ..
  extract_lets +onlyGivenNames _
  split
  · exact State.modHead_upholds h ..
  split
  · exact h
  extract_lets +onlyGivenNames _ s1
  have h1 : o.upholds false s1 := State.modHead_upholds h ..
  extract_lets +onlyGivenNames s2
  have h2 : o.upholds false s2 := State.modBay_upholds h1 ..
  exact State.setSem_upholds h2 ..

theorem State.completeCmd_upholds (h : o.upholds fix s) (b p c) : o.upholds fix (s.completeCmd b p c) := by
  unfold State.completeCmd
  extract_lets +onlyGivenNames s1
  have h1 : o.upholds fix s1 := State.release_upholds h ..
  extract_lets +onlyGivenNames s2
  have h2 : o.upholds fix s2 := State.passSent_upholds h1 ..
  extract_lets +onlyGivenNames s3
  have h3 : o.upholds fix s3 := by
    unfold s3
    split
    · exact State.semAdd_upholds h2 ..
    exact h2
  extract_lets +onlyGivenNames s4
  have h4 : o.upholds fix s4 := by
    unfold s4
    split
    · exact State.foldl_upholds (fun h _ => State.sendDone_upholds h ..) _ h3
    exact h3
  exact State.serveQueues_upholds (State.modBay_upholds h4 ..) ..

theorem execCommandComplete_upholds (h : o.upholds false s) (b p) : Out.upholds o (execCommandComplete b p s) := by
  unfold execCommandComplete
  refine atPhase_upholds h (fun _ => ?_) ..
  split
  · exact State.completeCmd_upholds h ..
  exact h

theorem execRegisterWindowLand_upholds (h : o.upholds false s) (b) : Out.upholds o (execRegisterWindowLand b s) := by
  unfold execRegisterWindowLand
  split
  · exact h
  exact State.landUnit_upholds (by exact h) ..

theorem execSpillRingRefill_upholds (h : o.upholds false s) (f i c) : Out.upholds o (execSpillRingRefill f i c s) := by
  unfold execSpillRingRefill
  split
  · exact h
  split
  · exact h
  split
  · exact h
  exact State.refill_upholds h ..

/-! ### Collectives -/

theorem execColl_upholds (h : o.upholds false s) (b) : Out.upholds o (execColl b s) := by
  unfold execColl
  refine executing_upholds h (fun _ => ?_) ..
  split
  · exact h
  extract_lets +onlyGivenNames _
  split <;> exact h

theorem State.unveil_upholds (h : o.upholds fix s) (x) : o.upholds fix (s.unveil x) := h

theorem State.collSegs_upholds (h : o.upholds fix s) (b c n) : okUpholds o fix (s.collSegs b c n) := by
  unfold State.collSegs
  extract_lets +onlyGivenNames _
  split
  · exact trivial
  next e =>
    split
    · exact trivial
    next e1 =>
      refine ok_upholds ?_ e1
      split
      · refine ok_upholds ?_ e
        split
        · exact h
        exact State.loadAddr_upholds h ..
      refine State.storeAddr_upholds (ok_upholds ?_ e) ..
      split
      · exact h
      exact State.loadAddr_upholds h ..

theorem State.collLose_upholds (h : o.upholds fix s) (b c p) : o.upholds fix (s.collLose b c p) := by
  unfold State.collLose
  extract_lets +onlyGivenNames _ r1
  have h1 : fstUpholds o fix r1 := State.formed_upholds h ..
  exact State.writeSegs_upholds h1 ..

theorem State.collAbort_upholds (h : o.upholds fix s) (x bad p) : o.upholds fix (s.collAbort x bad p) := by
  unfold State.collAbort
  extract_lets +onlyGivenNames base1
  have h1 : o.upholds fix base1 := State.unveil_upholds h ..
  extract_lets +onlyGivenNames s2
  have h2 : o.upholds fix s2 := h1
  refine State.foldl_upholds (fun h _ => ?_) _ h2
  split
  · exact h
  exact State.cmdFail_upholds (State.collLose_upholds h ..) ..

theorem State.collReach_upholds (h : o.upholds fix s) (x locals far) : someUpholds o fix (s.collReach x locals far) := by
  unfold State.collReach
  extract_lets +onlyGivenNames _
  split
  · exact trivial
  split
  · exact h
  split
  · exact State.noteDrops_upholds (by exact h) ..
  exact h

theorem execCollectiveMatch_upholds (h : o.upholds false s) (n) : Out.upholds o (execCollectiveMatch n s) := by
  unfold execCollectiveMatch
  split
  · exact h
  split
  · exact h
  extract_lets +onlyGivenNames _ _
  split
  · exact h
  extract_lets +onlyGivenNames _ _ _
  split
  · exact State.collAbort_upholds h ..
  split
  · next e => exact some_upholds (State.collReach_upholds h ..) e
  · next e => exact State.collAbort_upholds (some_upholds (State.collReach_upholds h ..) e) ..
  · exact h

theorem State.collRoutes_upholds (h : o.upholds fix s) (l) : fstUpholds o fix (s.collRoutes l) := by
  unfold State.collRoutes
  extract_lets +onlyGivenNames r1
  have h1 : fstUpholds o fix r1 := by
    unfold r1
    refine State.foldl_fst_upholds (fun h _ => ?_) _ h
    split
    split
    · next e => exact fst_upholds (State.routeFor_upholds h ..) e
    next e => exact fst_upholds (State.routeFor_upholds h ..) e
  split
  · exact h1
  exact h

theorem State.collRead_upholds (h : o.upholds fix s) (b l) : fstUpholds o fix (s.collRead b l) := by
  unfold State.collRead
  extract_lets +onlyGivenNames _
  split
  · exact h
  exact State.readSegs_upholds h ..

theorem State.collWrite_upholds (h : o.upholds fix s) (b l bs) : o.upholds fix (s.collWrite b l bs) := by
  unfold State.collWrite
  extract_lets +onlyGivenNames _
  split
  · exact h
  exact State.writeSegs_upholds h ..

theorem execCollectiveComplete_upholds (h : o.upholds false s) (n) : Out.upholds o (execCollectiveComplete n s) := by
  unfold execCollectiveComplete
  split
  · exact h
  split
  · exact h
  extract_lets +onlyGivenNames _
  split
  · exact h
  split
  · exact h
  split
  · next e => exact some_upholds (State.collReach_upholds h ..) e
  · next e => exact State.collAbort_upholds (some_upholds (State.collReach_upholds h ..) e) ..
  · extract_lets +onlyGivenNames _ _ _ _ _ _ _ _ _ _ _
    split
    · exact State.collAbort_upholds h ..
    extract_lets +onlyGivenNames _
    split
    next e =>
      split
      · exact fst_upholds (State.collRoutes_upholds h ..) e
      extract_lets +onlyGivenNames r1
      have h1 : fstUpholds o false r1 := by
        unfold r1
        refine State.foldl_fst_upholds (fun h _ => ?_) _ (State.unveil_upholds (fst_upholds (State.collRoutes_upholds h ..) e) ..)
        split
        extract_lets +onlyGivenNames g1
        have h1 : fstUpholds o false g1 := State.collRead_upholds h ..
        exact h1
      extract_lets +onlyGivenNames _ _ _ out2
      have h2 : o.upholds false out2 := by
        unfold out2
        refine State.foldl_upholds (fun h' _ => ?_) _ h1
        split
        exact State.collWrite_upholds h' ..
      extract_lets +onlyGivenNames out3
      have h3 : o.upholds false out3 := h2
      refine State.foldl_upholds (fun h _ => ?_) _ h3
      split
      exact State.completeCmd_upholds h ..

/-! ### Links and routes -/

theorem execMessageDeliver_upholds (h : o.upholds false s) (n) : Out.upholds o (execMessageDeliver n s) := by
  unfold execMessageDeliver
  split
  · exact h
  extract_lets +onlyGivenNames rest1
  have h1 : o.upholds false rest1 := h
  split
  · split
    · exact h1
    exact h
  split
  · exact h
  exact State.modBay_upholds h1 ..

theorem execChannelTokenArrive_upholds (h : o.upholds false s) (f i c) : Out.upholds o (execChannelTokenArrive f i c s) := by
  unfold execChannelTokenArrive
  split
  · exact h
  split
  · split
    · exact h
    extract_lets +onlyGivenNames s1
    have h1 : o.upholds false s1 := State.modInst_upholds h ..
    extract_lets +onlyGivenNames s2
    have h2 : o.upholds false s2 := State.landTok_upholds (State.modChan_upholds h1 ..) ..
    exact State.modChan_upholds h2 ..
  exact h

theorem execCoincidentEdge_upholds (h : o.upholds false s) (f i c) : Out.upholds o (execCoincidentEdge f i c s) := by
  unfold execCoincidentEdge
  split
  · exact h
  split
  · exact h
  split
  · exact State.modChan_upholds h ..
  exact h

theorem execLinkCrcError_upholds (h : o.upholds false s) (port n) : Out.upholds o (execLinkCrcError port n s) :=
  State.setLink_upholds h ..
theorem execLinkAckTimeout_upholds (h : o.upholds false s) (port n) : Out.upholds o (execLinkAckTimeout port n s) :=
  State.setLink_upholds h ..

theorem State.portDown_upholds (h : o.upholds fix s) (port next) : o.upholds fix (s.portDown port next) := by
  unfold State.portDown
  extract_lets +onlyGivenNames _ _ s1
  have h1 : o.upholds fix s1 := State.setLink_upholds h ..
  exact h1

theorem execLinkRetrain_upholds (h : o.upholds false s) (port) : Out.upholds o (execLinkRetrain port s) := by
  unfold execLinkRetrain
  extract_lets +onlyGivenNames _ _
  split
  · exact State.setLink_upholds h ..
  split
  · exact State.setLink_upholds h ..
  exact State.portDown_upholds h ..

theorem execLinkDown_upholds (h : o.upholds false s) (port next) : Out.upholds o (execLinkDown port next s) :=
  State.portDown_upholds h ..

theorem execLinkRouteTimeout_upholds (h : o.upholds false s) (n) : Out.upholds o (execLinkRouteTimeout n s) := by
  unfold execLinkRouteTimeout
  split
  · exact h
  extract_lets +onlyGivenNames _
  split
  · exact h
  split
  · exact h
  exact State.noteDrops_upholds (by exact h) ..

theorem execRouteReturn_upholds (h : o.upholds false s) (n port) : Out.upholds o (execRouteReturn n port s) := by
  unfold execRouteReturn
  extract_lets +onlyGivenNames _
  split
  · exact h
  extract_lets +onlyGivenNames _
  split
  extract_lets +onlyGivenNames s1
  have h1 : o.upholds false s1 := by
    unfold s1
    split
    · exact h
    exact State.setLink_upholds h ..
  exact h1

theorem execDeviceTimeAlign_upholds (h : o.upholds false s) (inBound ahead) :
    Out.upholds o (execDeviceTimeAlign inBound ahead s) :=
  h

/-! ### Updates -/

theorem State.pairOf_upholds (h : o.upholds fix s) (c p val poison) : okUpholds o fix (s.pairOf c p val poison) := by
  unfold State.pairOf
  split
  · exact trivial
  next e =>
    split
    · exact trivial
    next e1 =>
      extract_lets +onlyGivenNames _
      split
      · exact trivial
      split
      · exact trivial
      split
      · exact trivial
      exact ok_upholds (State.addressOf_upholds (some_upholds (State.entry_upholds h ..) e) ..) e1

theorem execUpd_upholds (h : o.upholds false s) (a b) : Out.upholds o (execUpd a b s) := by
  unfold execUpd
  extract_lets +onlyGivenNames _
  split
  · exact memFault_upholds h ..
  next e =>
    split
    · split
      · exact takeFault_upholds (ok_upholds (State.pairOf_upholds h ..) e) ..
      refine retire_upholds ?_ ..
      have k := ok_upholds (State.pairOf_upholds h ..) e
      exact k
    exact retire_upholds (State.notePoisonSent_upholds (State.sendPair_upholds (ok_upholds (State.pairOf_upholds
        h ..) e) ..) ..) ..

theorem State.updvPairs_upholds (h : o.upholds fix s) (c base va vb vp l) : okUpholds o fix (s.updvPairs c base va vb vp l) := by
  induction l generalizing s with
  | nil => exact h
  | cons i l ih =>
    unfold State.updvPairs
    extract_lets off
    split
    · exact ih h
    · split
      · trivial
      · split
        · trivial
        · next e =>
            have k := ok_upholds (State.pairOf_upholds h ..) e
            split
            · trivial
            · next e => exact ok_upholds (ih k) e

theorem execUpdv_upholds (h : o.upholds false s) (d a b) : Out.upholds o (execUpdv d a b s) := by
  unfold execUpdv
  extract_lets +onlyGivenNames _
  split
  · exact memFault_upholds h ..
  next e =>
    split
    · split
      · exact takeFault_upholds (ok_upholds (State.updvPairs_upholds h ..) e) ..
      refine retire_upholds ?_ ..
      have k := ok_upholds (State.updvPairs_upholds h ..) e
      exact k
    exact retire_upholds (State.notePoisonSent_upholds (State.foldl_upholds (fun h _ => State.sendPair_upholds h ..) _ (ok_upholds
        (State.updvPairs_upholds h ..) e)) ..) ..

theorem execUpdfl_upholds (h : o.upholds false s) : Out.upholds o (execUpdfl s) := by
  unfold execUpdfl
  refine outsideRegion_upholds h (fun h => ?_) ..
  split
  · exact parkAt_upholds h ..
  exact retire_upholds h ..

end Sys2Proof.Machine
end

section
/-! What a step keeps: the commands of the engines.
One lemma for each function of the model that gives a state, in the model's order. -/

namespace Sys2Proof.Machine

variable {o s : State} {fix : Bool}

/-! ### Stream and copy commands -/

theorem State.feedTok_upholds (h : o.upholds fix s) (b p x k t) : o.upholds fix (s.feedTok b p x k t) := by
  unfold State.feedTok
  extract_lets +onlyGivenNames s1
  have h1 : o.upholds fix s1 := State.notePoisonSent_upholds (State.pushTok_upholds h ..) ..
  exact State.modHead_upholds h1 ..

theorem endFeed_upholds (h : o.upholds fix s) (c x k) : (endFeed c x k s).upholds o fix := by
  unfold endFeed
  split
  · exact State.closeChan_upholds h ..
  exact h

theorem State.advance_upholds (h : o.upholds fix s) (b p) : o.upholds fix (s.advance b p) := State.modHead_upholds h ..

theorem State.readAhead_upholds (h : o.upholds fix s) {read}
    (hread : ∀ {t}, o.upholds fix t → ∀ x1 x2, (read t x1 x2).upholds o fix) (ctx q n held more) :
    (s.readAhead ctx read q n held more).upholds o fix := by
  unfold State.readAhead
  split
  · exact trivial
  next e =>
    split
    · exact ok_upholds (State.loadAddr_upholds h ..) e
    extract_lets +onlyGivenNames _ r1
    have h1 : fstUpholds o fix r1 := by
      unfold r1
      split
      · exact ok_upholds (State.loadAddr_upholds h ..) e
      split
      · next e1 => exact ok_upholds (State.loadAddr_upholds h ..) e1
      exact ok_upholds (State.loadAddr_upholds h ..) e
    split
    · exact trivial
    · next e1 => exact Got.wait_upholds (hread h1 ..) e1
    · next e1 => exact Got.ok_upholds (hread h1 ..) e1

theorem withPtr_upholds (h : o.upholds fix s) {k} (hk : ∀ x0, (k x0).upholds o fix) (base q) :
    (withPtr s base q k).upholds o fix := by
  unfold withPtr
  split
  · exact hk ..
  exact h

theorem readIter_upholds (h : o.upholds fix s) {k} (hk : ∀ {t}, o.upholds fix t → ∀ x1, (k t x1).upholds o fix) (ctx p n) :
    (readIter s ctx p n k).upholds o fix := by
  unfold readIter
  split
  · exact h
  · next e => exact Got.wait_upholds (State.load_upholds h ..) e
  · next e => exact hk (Got.ok_upholds (State.load_upholds h ..) e) ..

theorem ldsOne_upholds (h : o.upholds fix s) (b p c) : (ldsOne b p s c).upholds o fix := by
  unfold ldsOne
  split
  · exact h
  split
  · exact endFeed_upholds h ..
  split
  · exact h
  refine withPtr_upholds h (fun _ => ?_) ..
  split
  · exact h
  · next e => exact Ahead.wait_upholds (State.readAhead_upholds h (fun h _ _ => State.readVia_upholds h ..) ..) e
  · next e =>
      split
      · exact State.modHead_upholds (State.advance_upholds (State.feedTok_upholds (Ahead.ok_upholds (State.readAhead_upholds h
          (fun h _ _ => State.readVia_upholds h ..) ..) e) ..) ..) ..
      exact h

theorem ldlOne_upholds (h : o.upholds fix s) (b p c) : (ldlOne b p s c).upholds o fix := by
  unfold ldlOne
  split
  · exact h
  extract_lets +onlyGivenNames _
  split
  · exact endFeed_upholds h ..
  split
  · exact h
  refine readIter_upholds h (fun h' _ => ?_) ..
  split
  · exact State.modHead_upholds (State.feedTok_upholds h' ..) ..
  exact h

theorem splrdOne_upholds (h : o.upholds fix s) (b p c) : (splrdOne b p s c).upholds o fix := by
  unfold splrdOne
  split
  · exact h
  extract_lets +onlyGivenNames _
  split
  · exact endFeed_upholds h ..
  split
  · exact h
  split
  · exact h
  extract_lets +onlyGivenNames _
  split
  · split
    · exact endFeed_upholds h ..
    exact h
  split
  · exact h
  split
  · exact h
  next e =>
    extract_lets +onlyGivenNames s1
    have h1 : o.upholds fix s1 := State.modChan_upholds (some_upholds (State.ringPop_upholds h ..) e) ..
    exact State.advance_upholds (State.feedTok_upholds h1 ..) ..

theorem storeTok_upholds (h : o.upholds fix s) (b p x k r q l) : (storeTok b p s x k r q l).upholds o fix := by
  unfold storeTok
  split
  · exact h
  next e =>
    split
    · exact h
    · next e1 => exact Put.wait_upholds (State.writeVia_upholds (ok_upholds (State.storeAddr_upholds h ..) e) ..) e1
    · next e1 =>
        exact State.advance_upholds (State.takeToks_upholds (Put.ok_upholds (State.writeVia_upholds (ok_upholds
            (State.storeAddr_upholds h ..) e) ..) e1) ..) ..

theorem putHeld_upholds (h : o.upholds fix s) {k} (hk : ∀ {t}, o.upholds fix t → (k t).upholds o fix) (b p c q) :
    (putHeld b p s c q k).upholds o fix := by
  unfold putHeld
  split
  · exact hk h ..
  refine withPtr_upholds h (fun _ => ?_) ..
  split
  · exact h
  next e =>
    split
    · exact h
    · next e1 => exact Put.wait_upholds (State.writeVia_upholds (ok_upholds (State.storeAddr_upholds h ..) e) ..) e1
    · next e1 =>
        exact hk (State.modHead_upholds (Put.ok_upholds (State.writeVia_upholds (ok_upholds (State.storeAddr_upholds
            h ..) e) ..) e1) ..) ..

theorem stsOne_upholds (h : o.upholds fix s) (b p c) : (stsOne b p s c).upholds o fix := by
  unfold stsOne
  split
  · exact h
  split
  · exact h
  extract_lets +onlyGivenNames _ _
  split
  · split
    · exact h
    refine withPtr_upholds h (fun _ => putHeld_upholds h (fun h => ?_) ..) ..
    exact h
  refine withPtr_upholds h (fun _ => ?_) ..
  split
  · refine putHeld_upholds h (fun h => ?_) ..
    exact h
  refine withPtr_upholds h (fun _ => ?_) ..
  extract_lets +onlyGivenNames _
  split
  · refine putHeld_upholds h (fun h => ?_) ..
    exact h
  next e1 =>
    extract_lets +onlyGivenNames _ _ _ _ went1
    have h1 : ∀ {t}, o.upholds fix t → (went1 t).upholds o fix := by
      intro _ h2
      unfold went1
      exact State.modHead_upholds (State.advance_upholds (State.takeToks_upholds h2 ..) ..) ..
    clear_value went1
    split
    · exact h1 (ok_upholds (State.storeAddr_upholds h ..) e1) ..
    split
    · exact h
    · next e2 => exact Put.wait_upholds (State.writeVia_upholds (ok_upholds (State.storeAddr_upholds h ..) e1) ..) e2
    · next e2 => exact h1 (Put.ok_upholds (State.writeVia_upholds (ok_upholds (State.storeAddr_upholds h ..) e1) ..) e2) ..

theorem sctOne_upholds (h : o.upholds fix s) (b p c) : (sctOne b p s c).upholds o fix := by
  unfold sctOne
  split
  · exact h
  split
  · exact h
  exact withPtr_upholds h (fun _ => storeTok_upholds h ..) ..

/-- A pair of a UPDS, wherever its base pointer is and whatever its value (`updsPair`). -/
def updsPairAt (b p : Nat) (s : State) (w : Word) (v : Nat → Nat) (q : Bool) (k : State → Iter) : Iter :=
  match s.pairOf (s.cmdCtx b p) w v q with
  | .error f => .flt s f
  | .ok (s, x) =>
    let i := (s.bay b).inst.getD (0, 0)
    k ((s.sendPair x).notePoisonSent i.1 i.2 q)

theorem updsPair_eq (b p s c a v q k) :
    updsPair b p s c a v q k = updsPairAt b p s (mkPtr (cb c.word 83 72) a) (updVal v) q k := rfl

theorem updsPairAt_upholds (h : o.upholds fix s) {k} (hk : ∀ {t}, o.upholds fix t → (k t).upholds o fix) (b p w v q) :
    (updsPairAt b p s w v q k).upholds o fix := by
  unfold updsPairAt
  split
  · exact h
  · next e =>
      exact hk (State.notePoisonSent_upholds (State.sendPair_upholds (ok_upholds (State.pairOf_upholds h ..) e) ..) ..) ..

theorem updsPair_upholds (h : o.upholds fix s) {k} (hk : ∀ {t}, o.upholds fix t → (k t).upholds o fix) (b p c a v q) :
    (updsPair b    p s c a v q k).upholds o fix := by
  rw [updsPair_eq]
  exact updsPairAt_upholds h hk ..

theorem updsOne_upholds (h : o.upholds fix s) (b p c) : (updsOne b p s c).upholds o fix := by
  unfold updsOne
  split
  · exact h
  split
  · extract_lets +onlyGivenNames _
    split
    · exact h
    · next e => exact Got.wait_upholds (State.readVia_upholds h ..) e
    · next e =>
        refine updsPair_upholds (Got.ok_upholds (State.readVia_upholds h ..) e) (fun h => ?_) ..
        exact State.advance_upholds h ..
  split
  · exact h
  refine updsPair_upholds h (fun h => ?_) ..
  exact State.advance_upholds (State.takeToks_upholds h ..) ..

theorem State.takeInbound_upholds (h : o.upholds fix s) (b p c l) : fstUpholds o fix (s.takeInbound b p c l) := by
  unfold State.takeInbound
  split
  · exact h
  split
  · exact h
  exact State.sbArrive_upholds h ..

theorem State.unitsThrough_upholds (h : o.upholds fix s) (old hd) : o.upholds fix (s.unitsThrough old hd) := by
  unfold State.unitsThrough
  split <;> exact h

theorem putPiece_upholds (h : o.upholds fix s) (b p segs l rest) : (putPiece b p s segs l rest).upholds o fix := by
  unfold putPiece
  split
  · exact h
  · next e => exact Put.wait_upholds (State.writeOpen_upholds h ..) e
  · next e =>
      exact State.modHead_upholds (State.unitsThrough_upholds (Put.ok_upholds (State.writeOpen_upholds h ..) e) ..) ..

theorem State.cpyDest_upholds (h : o.upholds fix s) (b p c pos n) : okUpholds o fix (s.cpyDest b p c pos n) := by
  unfold State.cpyDest
  split
  · split
    · exact trivial
    exact State.copyAddr_upholds h ..
  extract_lets +onlyGivenNames _
  split
  · exact h
  exact trivial

theorem State.cpyRange_upholds (h : o.upholds fix s) (b p c) : fstUpholds o fix (s.cpyRange b p c) := by
  unfold State.cpyRange
  split
  · exact State.formed_upholds h ..
  exact h

theorem beforeCopy_upholds (h : o.upholds fix s) {k} (hk : ∀ {t}, o.upholds fix t → (k t).upholds o fix) (b p c f l) :
    (beforeCopy b p s c f l k).upholds o fix := by
  unfold beforeCopy
  split
  · exact hk h ..
  split
  · exact h
  extract_lets +onlyGivenNames r1
  have h1 : fstUpholds o fix r1 := State.takeInbound_upholds h ..
  split
  · exact hk h1 ..
  exact h1

theorem cpyOne_upholds (h : o.upholds fix s) (b p c) : (cpyOne b p s c).upholds o fix := by
  unfold cpyOne
  extract_lets +onlyGivenNames _ _
  split
  · exact State.sbDropAll_upholds h ..
  extract_lets +onlyGivenNames whole1
  have h1 : fstUpholds o fix whole1 := State.cpyRange_upholds h ..
  refine beforeCopy_upholds ?_ (fun h' => withPtr_upholds h' (fun _ => ?_) ..) ..
  · split
    · exact h1
    exact h
  · split
    · exact h'
    next e =>
      split
      · exact ok_upholds (State.loadAddr_upholds h' ..) e
      next e1 =>
        extract_lets +onlyGivenNames move2
        have h2 : ∀ x0, (move2 x0).upholds o fix := by
          intro _
          unfold move2
          split
          · exact ok_upholds (State.cpyDest_upholds (ok_upholds (State.loadAddr_upholds h' ..) e) ..) e1
          · next e2 =>
              exact Ahead.wait_upholds (State.readAhead_upholds (ok_upholds (State.cpyDest_upholds (ok_upholds
                  (State.loadAddr_upholds h' ..) e) ..) e1) (fun h _ _ => State.readOpen_upholds h ..) ..) e2
          · next e2 =>
              split
              · exact Ahead.ok_upholds (State.readAhead_upholds (ok_upholds (State.cpyDest_upholds (ok_upholds
                  (State.loadAddr_upholds h' ..) e) ..) e1) (fun h _ _ => State.readOpen_upholds h ..) ..) e2
              next e3 =>
                exact putPiece_upholds (ok_upholds (State.cpyDest_upholds (Ahead.ok_upholds (State.readAhead_upholds (ok_upholds
                    (State.cpyDest_upholds (ok_upholds (State.loadAddr_upholds h' ..) e) ..) e1) (fun
                    h _ _ => State.readOpen_upholds h ..) ..) e2) ..) e3) ..
        clear_value move2
        extract_lets +onlyGivenNames _
        split <;> exact h2 ..

theorem fillOne_upholds (h : o.upholds fix s) (b p c) : (fillOne b p s c).upholds o fix := by
  unfold fillOne
  extract_lets +onlyGivenNames _ _ _ _
  split
  · exact State.sbDropAll_upholds h ..
  extract_lets +onlyGivenNames whole1
  have h1 : fstUpholds o fix whole1 := State.formed_upholds h ..
  refine beforeCopy_upholds ?_ (fun h' => withPtr_upholds h' (fun _ => ?_) ..) ..
  · split
    · exact h1
    exact h
  · split
    · exact h'
    next e =>
      extract_lets +onlyGivenNames _ put2
      have h2 : ∀ x0, (put2 x0).upholds o fix := by
        intro _
        unfold put2
        split
        · exact ok_upholds (State.copyAddr_upholds h' ..) e
        next e1 =>
          exact putPiece_upholds (ok_upholds (State.copyAddr_upholds (ok_upholds (State.copyAddr_upholds h' ..) e) ..) e1) ..
      clear_value put2
      split <;> exact h2 ..

theorem localCycles_upholds (h : o.upholds fix s) (b p n) : o.upholds fix (localCycles b p n s) := by
  induction n generalizing s with
  | zero => exact h
  | succ n ih =>
    unfold localCycles
    split
    · exact ih (State.iterate_upholds h (fun h _ => ldsOne_upholds h ..) ..)
    · exact h

theorem execLds_upholds (h : o.upholds false s) (b p) : Out.upholds o (execLds b p s) := by
  unfold execLds
  split
  · exact h
  exact runCmd_upholds h (fun h _ => ldsOne_upholds h ..) ..

theorem execSts_upholds (h : o.upholds false s) (b p) : Out.upholds o (execSts b p s) :=
  runCmd_upholds h (fun h _ => stsOne_upholds h ..) ..
theorem execLdl_upholds (h : o.upholds false s) (b p) : Out.upholds o (execLdl b p s) :=
  runCmd_upholds h (fun h _ => ldlOne_upholds h ..) ..
theorem execCpy_upholds (h : o.upholds false s) (b) : Out.upholds o (execCpy b s) :=
  runCmd_upholds h (fun h _ => cpyOne_upholds h ..) ..
theorem execFill_upholds (h : o.upholds false s) (b) : Out.upholds o (execFill b s) :=
  runCmd_upholds h (fun h _ => fillOne_upholds h ..) ..

theorem execSct_upholds (h : o.upholds false s) (b p) : Out.upholds o (execSct b p s) := by
  unfold execSct
  split
  · exact h
  exact runCmd_upholds h (fun h _ => sctOne_upholds h ..) ..

theorem execSctGleaner_upholds (h : o.upholds false s) (b) : Out.upholds o (execSctGleaner b s) :=
  runCmd_upholds h (fun h _ => sctOne_upholds h ..) ..
theorem execSplrd_upholds (h : o.upholds false s) (b p) : Out.upholds o (execSplrd b p s) :=
  runCmd_upholds h (fun h _ => splrdOne_upholds h ..) ..
theorem execUpds_upholds (h : o.upholds false s) (b p) : Out.upholds o (execUpds b p s) :=
  runCmd_upholds h (fun h _ => updsOne_upholds h ..) ..

theorem execNopc_upholds (h : o.upholds false s) (b p) : Out.upholds o (execNopc b p s) := by
  unfold execNopc
  refine executing_upholds h (fun _ => ?_) ..
  exact State.modHead_upholds h ..

theorem State.cpymSource_upholds (h : o.upholds fix s) (b c) : okUpholds o fix (s.cpymSource b c) := by
  unfold State.cpymSource
  split
  · exact trivial
  split
  · exact trivial
  next e =>
    split
    · exact trivial
    exact ok_upholds (State.addressOf_upholds h ..) e

theorem State.takeStream_upholds (h : o.upholds fix s) (b id at_) : o.upholds fix (s.takeStream b id at_) :=
  State.modHead_upholds h ..

theorem State.openStream_upholds (h : o.upholds fix s) (b t len src lost) : o.upholds fix (s.openStream b t len src lost) := by
  unfold State.openStream
  extract_lets +onlyGivenNames s1
  have h1 : o.upholds fix s1 := State.takeStream_upholds h ..
  exact h1

theorem execMulticastRequest_upholds (h : o.upholds false s) (b) : Out.upholds o (execMulticastRequest b s) := by
  unfold execMulticastRequest
  refine executing_upholds h (fun _ => ?_) ..
  split
  · exact h
  split
  · exact h
  next e =>
    extract_lets +onlyGivenNames _ _ _
    split
    · next e1 => exact fst_upholds (State.routeFor_upholds (ok_upholds (State.cpymSource_upholds h ..) e) ..) e1
    · next e1 =>
        exact State.openStream_upholds (fst_upholds (State.routeFor_upholds (ok_upholds (State.cpymSource_upholds
            h ..) e) ..) e1) ..
    · next e1 =>
        split
        · extract_lets +onlyGivenNames s1
          have h1 : o.upholds false s1 := State.takeStream_upholds (fst_upholds (State.routeFor_upholds (ok_upholds
              (State.cpymSource_upholds h ..) e) ..) e1) ..
          extract_lets +onlyGivenNames s2
          have h2 : o.upholds false s2 := h1
          exact State.modTenant_upholds h2 ..
        exact State.modTenant_upholds (State.openStream_upholds (fst_upholds (State.routeFor_upholds (ok_upholds
            (State.cpymSource_upholds h ..) e) ..) e1) ..) ..

theorem State.cpymEntries_upholds (h : o.upholds fix s) (b c) : fstUpholds o fix (s.cpymEntries b c) := by
  unfold State.cpymEntries
  refine State.foldl_fst_upholds (fun h _ => ?_) _ h
  split
  · exact h
  split
  · exact h
  extract_lets +onlyGivenNames x1
  have h1 : fstUpholds o fix x1 := State.sbArrive_upholds h ..
  exact h1

/-- What holds of any value holds of this one: a proof in which the value stays closed. -/
theorem for_any {α : Type} {motive : α → Prop} (x : α) (any : ∀ y, motive y) : motive x := any x

theorem State.deliver_upholds (h : o.upholds fix s) (b c m now k l) : fstUpholds o fix (s.deliver b c m now k l) := by
  unfold State.deliver
  induction State.cpymDest using for_any with | any dest => ?_
  refine State.foldl_fst_upholds (fun h _ => ?_) _ h
  split
  · exact h
  · extract_lets g
    split
    · split
      · exact h
      · exact State.writeSegs_upholds h ..
    · split
      · exact h
      · exact State.writeSegs_upholds h ..

theorem cpymGranule_upholds (h : o.upholds fix s) (b m) : o.upholds fix (cpymGranule b s m) := by
  unfold cpymGranule
  extract_lets +onlyGivenNames _ _ r1
  have h1 : fstUpholds o fix r1 := by
    unfold r1
    refine State.foldl_fst_upholds (fun h _ => ?_) _ h
    extract_lets +onlyGivenNames x1
    have h1 : fstUpholds o fix x1 := State.cpymEntries_upholds h ..
    exact h1
  extract_lets +onlyGivenNames _
  split
  · exact h1
  split
  · exact h1
  · next e =>
      refine Got.wait_upholds ?_ e
      split
      · exact h1
      exact State.readOpen_upholds h1 ..
  · next e =>
      extract_lets +onlyGivenNames out2
      have h2 : fstUpholds o fix out2 := by
        unfold out2
        refine State.foldl_fst_upholds (fun h _ => ?_) _ (Got.ok_upholds ?_ e)
        · split
          · next e1 => exact fst_upholds (State.deliver_upholds h ..) e1
          next e1 => exact State.cmdFlt_upholds (fst_upholds (State.deliver_upholds h ..) e1) ..
        · split
          · exact h1
          exact State.readOpen_upholds h1 ..
      extract_lets +onlyGivenNames s3
      have h3 : o.upholds fix s3 := by
        unfold s3
        split
        · exact h2
        exact State.modTenant_upholds h2 ..
      exact h3

theorem State.cpymEnd_upholds (h : o.upholds fix s) (b c) : o.upholds fix (s.cpymEnd b c) := by
  unfold State.cpymEnd
  extract_lets +onlyGivenNames s1
  have h1 : o.upholds fix s1 := State.modHead_upholds (State.sbDropAll_upholds h ..) ..
  exact h1

theorem execCpym_upholds (h : o.upholds false s) (b) : Out.upholds o (execCpym b s) := by
  unfold execCpym
  refine executing_upholds h (fun _ => ?_) ..
  split
  · exact State.cpymEnd_upholds h ..
  split
  · split
    · exact State.cmdFlt_upholds h ..
    exact h
  split
  · exact State.cpymEnd_upholds h ..
  exact cpymGranule_upholds h ..

/-! ### The array -/

theorem State.modArray_upholds (h : o.upholds fix s) (b f) : o.upholds fix (s.modArray b f) := State.modBay_upholds h ..

theorem State.readRange_upholds (h : o.upholds fix s) {read}
    (hread : ∀ {t}, o.upholds fix t → ∀ x1 x2, (read t x1 x2).upholds o fix) (ctx p n) :
    (s.readRange ctx p n read).upholds o fix := by
  unfold State.readRange
  split
  · exact trivial
  next e => exact hread (ok_upholds (State.loadAddr_upholds h ..) e) ..

theorem execApnl_upholds (h : o.upholds false s) (b) : Out.upholds o (execApnl b s) := by
  unfold execApnl
  refine executing_upholds h (fun _ => ?_) ..
  extract_lets +onlyGivenNames _ _ _
  split
  · next e => exact Got.wait_upholds (State.readRange_upholds h (fun h _ _ => State.readVia_upholds h ..) ..) e
  · exact State.cmdFlt_upholds (State.modArray_upholds h ..) ..
  · next e =>
      extract_lets +onlyGivenNames s1
      have h1 : o.upholds false s1 := State.modArray_upholds (Got.ok_upholds (State.readRange_upholds h (fun
          h _ _ => State.readVia_upholds h ..) ..) e) ..
      exact State.modHead_upholds h1 ..

theorem State.arunNext_upholds (h : o.upholds fix s) (b c) : (s.arunNext b c).upholds o fix := by
  unfold State.arunNext
  split
  · split
    · exact trivial
    · next e => exact Got.wait_upholds (State.readVia_upholds h ..) e
    · exact trivial
  split
  · exact trivial
  split
  · exact trivial
  split <;> exact trivial

theorem State.refetch_upholds (h : o.upholds fix s) (b n) : eitherUpholds o fix (s.refetch b n) := by
  unfold State.refetch
  extract_lets +onlyGivenNames _
  split
  · exact h
  split
  · next e => exact Got.wait_upholds (State.readRange_upholds h (fun h _ _ => State.readVia_upholds h ..) ..) e
  · exact State.modArray_upholds h ..
  · next e =>
      exact State.modArray_upholds (Got.ok_upholds (State.readRange_upholds h (fun h _ _ => State.readVia_upholds h ..) ..) e) ..

theorem arunOne_upholds (h : o.upholds fix s) (b c) : (arunOne b s c).upholds o fix := by
  unfold arunOne
  have hw := fun {s} => @State.writeVia_upholds o s fix
  revert hw
  induction State.writeVia using for_any with | any w => ?_
  intro hw
  extract_lets +onlyGivenNames _ _ _
  split
  · exact h
  · split
    · exact h
    · split
      · exact h
      · split
        · next e => exact error_eitherUpholds (State.refetch_upholds h ..) e
        · next e =>
            have k := ok_eitherUpholds (State.refetch_upholds h ..) e
            split
            · exact State.modArray_upholds k ..
            · extract_lets +onlyGivenNames u
              have ku : o.upholds fix u := State.modArray_upholds k ..
              split
              · exact ku
              · next e => exact NextRow.wait_upholds (State.arunNext_upholds ku ..) e
              · exact ku
              · extract_lets +onlyGivenNames tag
                split
                · exact ku
                · extract_lets +onlyGivenNames take
                  have ht {u} (h : o.upholds fix u) : o.upholds fix (take u) := by
                    unfold take
                    split
                    · exact State.takeToks_upholds h ..
                    · exact h
                  clear_value take
                  extract_lets +onlyGivenNames last stop
                  have hs {u} (h : o.upholds fix u) : (stop u).upholds o fix := by
                    unfold stop
                    extract_lets v
                    have hv : o.upholds fix v := State.modHead_upholds h ..
                    split <;> exact hv
                  clear_value stop
                  split
                  · exact hs (ht ku)
                  · extract_lets +onlyGivenNames q p ctx at_
                    split
                    · exact ku
                    · next e => exact Put.wait_upholds (hw ku ..) e
                    · next e =>
                        have k := Put.ok_upholds (hw ku ..) e
                        split
                        · exact k
                        · next e => exact Put.wait_upholds (hw k ..) e
                        · next e =>
                            extract_lets v
                            have hv : o.upholds fix v := ht (Put.ok_upholds (hw k ..) e)
                            refine hs ?_
                            split
                            · split
                              · exact hv
                              · exact State.modChan_upholds hv ..
                            · exact hv

theorem execArun_upholds (h : o.upholds false s) (b) : Out.upholds o (execArun b s) :=
  runCmd_upholds h (fun h _ => arunOne_upholds h ..) ..

theorem arunCycle_upholds (h : o.upholds fix s) (b n) : o.upholds fix (arunCycle b n s) := by
  have one {s : State} (h : o.upholds fix s) : o.upholds fix (s.iterate b arrayPort false (arunOne b)) :=
    State.iterate_upholds h (fun h _ => arunOne_upholds h ..) ..
  induction n generalizing s with
  | zero =>
    unfold arunCycle
    split
    · exact h
    · split
      · exact h
      · split
        · exact h
        · exact one h
  | succ n ih =>
    unfold arunCycle
    split
    · exact h
    · split
      · exact h
      · split
        · exact ih (one h)
        · exact one h

theorem execArunRowDispatch_upholds (h : o.upholds false s) (b) : Out.upholds o (execArunRowDispatch b s) := by
  unfold execArunRowDispatch
  refine executing_upholds h (fun _ => ?_) ..
  exact arunCycle_upholds h ..

theorem State.adrnRecs_upholds (h : o.upholds fix s) (b c r n) : bothUphold o fix (s.adrnRecs b c r n) := by
  induction n with
  | zero => exact h
  | succ n ih =>
    unfold State.adrnRecs
    split
    · next e => exact error_bothUphold ih e
    · next e =>
        have k := ok_bothUphold ih e
        extract_lets seg
        split
        · next e =>
            have k := Got.ok_upholds (State.readVia_upholds k ..) e
            split
            · next e => exact Got.ok_upholds (State.readVia_upholds k ..) e
            · next e => exact Got.wait_upholds (State.readVia_upholds k ..) e
            · exact k
        · next e => exact Got.wait_upholds (State.readVia_upholds k ..) e
        · exact k

theorem adrnHalf_upholds (h : o.upholds fix s) (b forced c) : (adrnHalf b forced s c).upholds o fix := by
  unfold adrnHalf
  extract_lets +onlyGivenNames _ _ _ _ _ _ next1
  have h1 : ∀ {t}, o.upholds fix t → ∀ x1, (next1 t x1).upholds o fix := by
    intro _ h2 _
    unfold next1
    exact State.modHead_upholds h2 ..
  clear_value next1
  split
  · split
    · exact h
    split
    · exact endFeed_upholds h ..
    exact h
  split
  · exact h1 h ..
  split
  · next e => exact error_bothUphold (State.adrnRecs_upholds h ..) e
  next e =>
    split
    · exact ok_bothUphold (State.adrnRecs_upholds h ..) e
    extract_lets +onlyGivenNames _ _ _
    split
    · split
      · exact ok_bothUphold (State.adrnRecs_upholds h ..) e
      · next e1 => exact Put.wait_upholds (State.writeVia_upholds (ok_bothUphold (State.adrnRecs_upholds h ..) e) ..) e1
      · next e1 =>
          exact h1 (Put.ok_upholds (State.writeVia_upholds (ok_bothUphold (State.adrnRecs_upholds h ..) e) ..) e1) ..
    split
    · exact ok_bothUphold (State.adrnRecs_upholds h ..) e
    split
    · exact h1 (State.feedTok_upholds (ok_bothUphold (State.adrnRecs_upholds h ..) e) ..) ..
    exact ok_bothUphold (State.adrnRecs_upholds h ..) e

theorem adrnOne_upholds (h : o.upholds fix s) (b c) : (adrnOne b s c).upholds o fix := adrnHalf_upholds h ..
theorem execAdrn_upholds (h : o.upholds false s) (b) : Out.upholds o (execAdrn b s) :=
  runCmd_upholds h (fun h _ => adrnOne_upholds h ..) ..

theorem execAcfg_upholds (h : o.upholds false s) (b) : Out.upholds o (execAcfg b s) := by
  unfold execAcfg
  refine executing_upholds h (fun _ => ?_) ..
  extract_lets +onlyGivenNames s1
  have h1 : o.upholds false s1 := State.modArray_upholds h ..
  exact State.modHead_upholds h1 ..

theorem asortOne_upholds (h : o.upholds fix s) (b c) : (asortOne b s c).upholds o fix := by
  unfold asortOne
  extract_lets +onlyGivenNames _ _ _ _ _ next1
  have h1 : ∀ {t}, o.upholds fix t → (next1 t).upholds o fix := by
    intro _ h2
    unfold next1
    exact State.modHead_upholds h2 ..
  clear_value next1
  extract_lets +onlyGivenNames _ take2
  have h2 : ∀ {t}, o.upholds fix t → ∀ x1 x2, o.upholds fix (take2 t x1 x2) := by
    intro _ h3 _ _
    unfold take2
    exact State.modHead_upholds (State.modArray_upholds h3 ..) ..
  clear_value take2
  split
  · exact h
  split
  · exact h
  split
  · split
    · extract_lets +onlyGivenNames _ _
      split
      · next e =>
          extract_lets +onlyGivenNames _ _
          split
          · exact Got.ok_upholds (State.readVia_upholds h ..) e
          extract_lets +onlyGivenNames s3
          have h3 : o.upholds fix s3 := h2 (Got.ok_upholds (State.readVia_upholds h ..) e) ..
          split
          · exact h3
          split
          · exact h3
          exact h2 h3 ..
      · next e => exact Got.wait_upholds (State.readVia_upholds h ..) e
      · exact h
    split
    · exact h
    split
    · exact h
    exact State.takeToks_upholds (h2 h ..) ..
  split
  · exact h
  extract_lets +onlyGivenNames _ clear3
  have h3 : ∀ {t}, o.upholds fix t → o.upholds fix (clear3 t) := by
    intro _ h4
    unfold clear3
    exact State.modArray_upholds h4 ..
  clear_value clear3
  split
  · split
    · exact h
    · next e => exact Put.wait_upholds (State.writeVia_upholds h ..) e
    · next e => exact h3 (Put.ok_upholds (State.writeVia_upholds h ..) e) ..
  split
  · exact h
  split
  · exact endFeed_upholds (h3 h ..) ..
  split
  · exact h1 (State.feedTok_upholds h ..) ..
  exact h

theorem execAsort_upholds (h : o.upholds false s) (b) : Out.upholds o (execAsort b s) :=
  runCmd_upholds h (fun h _ => asortOne_upholds h ..) ..

theorem State.reloadSlots_upholds (h : o.upholds fix s) (b l) : (s.reloadSlots b l).upholds o fix := by
  induction l generalizing s with
  | nil => exact h
  | cons x l ih =>
    obtain ⟨n, x⟩ := x
    unfold State.reloadSlots
    split
    · exact ih h
    · split
      · next e => exact Got.wait_upholds (State.readRange_upholds h (fun h _ _ => State.readOpen_upholds h ..) ..) e
      · trivial
      · next e =>
          exact ih (State.modArray_upholds (Got.ok_upholds (State.readRange_upholds h (fun h _ _ => State.readOpen_upholds
              h ..) ..) e) ..)

/-! ### The gleaner -/

theorem gthReadIndex_upholds (h : o.upholds fix s) {k} (hk : ∀ {t}, o.upholds fix t → ∀ x1, (k t x1).upholds o fix) (b c t) :
    (gthReadIndex b s c t k).upholds o fix :=
  withPtr_upholds h (fun _ => readIter_upholds h (fun h _ => hk h ..) ..) ..

theorem gthElem_upholds (h : o.upholds fix s) {k} (hk : ∀ {t}, o.upholds fix t → ∀ x1, (k t x1).upholds o fix) (b c t) :
    (gthElem b s c t k).upholds o fix := by
  unfold gthElem
  refine gthReadIndex_upholds h (fun h _ => ?_) ..
  split
  · exact hk h ..
  refine withPtr_upholds h (fun _ => readIter_upholds h (fun h' _ => ?_) ..) ..
  extract_lets +onlyGivenNames _
  split
  · exact h
  exact hk h' ..

theorem State.gthBytes_upholds (h : o.upholds fix s) (b c t) : someUpholds o fix (s.gthBytes b c t) := by
  unfold State.gthBytes
  extract_lets ctx
  split
  · next e =>
      obtain ⟨_, _, e⟩ := Option.map_eq_some_iff.1 e
      have k := Got.ok_upholds (State.load_upholds h ..) e
      extract_lets
      split
      · exact k
      · split
        · next e =>
            obtain ⟨_, _, e⟩ := Option.map_eq_some_iff.1 e
            exact ok_upholds (State.loadAddr_upholds k ..) e
        · trivial
  · trivial

theorem State.yieldLines_upholds (h : o.upholds fix s) (b) : o.upholds fix (s.yieldLines b) := by
  unfold State.yieldLines
  refine State.foldl_upholds (fun h _ => ?_) _ h
  split
  · exact State.modHead_upholds h ..
  exact h

theorem gthFill_upholds (h : o.upholds fix s) {k} (hk : ∀ {t}, o.upholds fix t → (k t).upholds o fix) (b c t lo n) :
    (gthFill b s c t lo n k).upholds o fix := by
  unfold gthFill
  refine gthReadIndex_upholds h (fun h w => ?_) ..
  extract_lets +onlyGivenNames index
  split
  · exact hk (State.modHead_upholds h ..)
  · refine withPtr_upholds h (fun p => ?_) ..
    split
    · exact h
    · next e =>
        extract_lets +onlyGivenNames u at_ from_ ls hi kv
        have ku : o.upholds fix u := State.yieldLines_upholds (ok_upholds (State.loadAddr_upholds h ..) e) ..
        clear_value u
        generalize lo + (if kv then Nat.max n 1024 else n) = wanted
        split
        · exact ku
        · extract_lets +onlyGivenNames miss
          split
          · exact h
          · next e => exact Got.wait_upholds (State.readVia_upholds ku ..) e
          · next e =>
              have kr := Got.ok_upholds (State.readVia_upholds ku ..) e
              extract_lets lines bytes
              split
              · exact h
              · exact hk (State.modHead_upholds kr ..)

theorem gthToken_upholds (h : o.upholds fix s) (b c) : (gthToken b s c).upholds o fix := by
  unfold gthToken
  split
  · exact h
  extract_lets +onlyGivenNames _ _ _ _ push1
  have h1 : ∀ {t}, o.upholds fix t → (push1 t).upholds o fix := by
    intro _ h2
    unfold push1
    split
    · exact h2
    extract_lets +onlyGivenNames _
    split
    · exact State.modHead_upholds (State.feedTok_upholds h2 ..) ..
    exact h2
  clear_value push1
  split
  · exact h
  split
  · exact h1 h ..
  exact gthFill_upholds h h1 ..

theorem gthScratch_upholds (h : o.upholds fix s) (b c) : (gthScratch b s c).upholds o fix := by
  unfold gthScratch
  extract_lets +onlyGivenNames _ _ _
  split
  · exact State.sbDropAll_upholds h ..
  split
  · exact State.yieldLines_upholds h ..
  refine gthElem_upholds h (fun h _ => ?_) ..
  split
  · exact h
  · next e => exact Put.wait_upholds (State.writeOpen_upholds h ..) e
  · next e => exact State.modHead_upholds (Put.ok_upholds (State.writeOpen_upholds h ..) e) ..

theorem gthOne_upholds (h : o.upholds fix s) (b c) : (gthOne b s c).upholds o fix := by
  unfold gthOne
  split
  · exact h
  split
  · exact gthScratch_upholds h ..
  exact gthToken_upholds h ..

theorem execGth_upholds (h : o.upholds false s) (b) : Out.upholds o (execGth b s) :=
  runCmd_upholds h (fun h _ => gthOne_upholds h ..) ..

theorem execGleanerLineReply_upholds (h : o.upholds false s) (b t l) : Out.upholds o (execGleanerLineReply b t l s) := by
  unfold execGleanerLineReply
  refine executing_upholds h (fun _ => ?_) ..
  split
  · exact h
  split
  · next e =>
      split
      · exact h
      extract_lets +onlyGivenNames s'1
      have h1 : o.upholds false s'1 := State.yieldLines_upholds (some_upholds (State.gthBytes_upholds h ..) e) ..
      split
      · exact h1
      extract_lets +onlyGivenNames _
      split
      · next e1 => exact State.modHead_upholds (Got.ok_upholds (State.readVia_upholds h1 ..) e1) ..
      exact h
  exact h

theorem oneToken_upholds (h : o.upholds false s) (b p ops) : Out.upholds o (oneToken b p ops s) := by
  unfold oneToken
  refine atPhase_upholds h (fun c => ?_) ..
  extract_lets opc resolves one
  clear_value opc
  split
  · exact h
  · refine State.iterate_upholds h (fun h c => ?_) ..
    unfold one
    split
    · exact ldsOne_upholds h ..
    · exact stsOne_upholds h ..
    · exact ldlOne_upholds h ..
    · exact sctOne_upholds h ..
    · exact gthOne_upholds h ..
    · exact updsOne_upholds h ..
    · exact adrnOne_upholds h ..
    · exact asortOne_upholds h ..
    · exact splrdOne_upholds h ..

theorem execEngineTokenPush_upholds (h : o.upholds false s) (b p) : Out.upholds o (execEngineTokenPush b p s) := by
  unfold execEngineTokenPush
  split
  · exact h
  exact oneToken_upholds h ..

theorem execEngineTokenTake_upholds (h : o.upholds false s) (b p) : Out.upholds o (execEngineTokenTake b p s) :=
  oneToken_upholds h ..

/-! ### Pairs at their slice -/

theorem execPairArrive_upholds (h : o.upholds false s) (n) : Out.upholds o (execPairArrive n s) := by
  unfold execPairArrive
  split
  · exact h
  split
  · exact State.serialise_upholds (by exact State.upholds_same h rfl) ..
  exact h

theorem execBatchTimeout_upholds (h : o.upholds false s) (k) : Out.upholds o (execBatchTimeout k s) := by
  unfold execBatchTimeout
  extract_lets +onlyGivenNames _
  split
  · exact h
  exact State.setSlice_upholds h ..

theorem execBatchInsert_upholds (h : o.upholds false s) (k) : Out.upholds o (execBatchInsert k s) := State.settle_upholds h ..
theorem execSweep_upholds (h : o.upholds false s) (k key) : Out.upholds o (execSweep k key s) := State.sweepSlice_upholds h ..

end Sys2Proof.Machine
end

section
/-! What a step keeps: the privileged instructions, launches, the sequencer, paging and sections.
One lemma for each function of the model that gives a state, in the model's order. -/

namespace Sys2Proof.Machine

variable {o s : State} {fix : Bool}

/-! ### Privileged instructions -/

theorem privileged_upholds (h : o.upholds false s) {k} (hk : ∀ {t}, o.upholds false t → Out.upholds o (k t)) (i) :
    Out.upholds o (privileged i s k) := by
  unfold privileged
  split
  · exact wordFault_upholds h ..
  exact hk h ..

theorem State.dropHandles_upholds (h : o.upholds fix s) (t all hd) : o.upholds fix (s.dropHandles t all hd) := h
theorem State.dropImages_upholds (h : o.upholds fix s) (t all p) : o.upholds fix (s.dropImages t all p) := h
theorem State.dropTlb_upholds (h : o.upholds fix s) (t all va) : o.upholds fix (s.dropTlb t all va) := h
theorem State.hinv_upholds (h : o.upholds fix s) (t all hd) : fstUpholds o fix (s.hinv t all hd) :=
  State.dropHandles_upholds h ..
theorem State.tlbi_upholds (h : o.upholds fix s) (t all va) : fstUpholds o fix (s.tlbi t all va) := State.dropTlb_upholds h ..

theorem waitFor_upholds {r} (h : fstUpholds o false r) : Out.upholds o (waitFor r) := by
  unfold waitFor
  split
  · exact State.park_upholds h ..
  · exact retire_upholds h ..

theorem execHinv_upholds (h : o.upholds false s) (a b) : Out.upholds o (execHinv a b s) :=
  privileged_upholds h (fun h => waitFor_upholds (State.hinv_upholds h ..) ..) ..
theorem execImginv_upholds (h : o.upholds false s) (a b) : Out.upholds o (execImginv a b s) :=
  privileged_upholds h (fun h => retire_upholds (State.dropImages_upholds h ..) ..) ..
theorem execTlbi_upholds (h : o.upholds false s) (a b) : Out.upholds o (execTlbi a b s) :=
  privileged_upholds h (fun h => waitFor_upholds (State.tlbi_upholds h ..) ..) ..
theorem moveStatus_upholds (h : o.upholds false s) (d a b n) : Out.upholds o (moveStatus d a b n s) := finish_upholds h ..
theorem State.putLoft_upholds (h : o.upholds fix s) (i l) : o.upholds fix (s.putLoft i l) :=
  State.foldl_upholds (fun h _ => State.rawWrite_upholds h ..) _ h

theorem State.savedCtx_upholds (h : o.upholds fix s) (i l) : someUpholds o fix (s.savedCtx i l) := by
  unfold State.savedCtx
  extract_lets +onlyGivenNames _ _ _
  split
  · exact trivial
  extract_lets +onlyGivenNames _ _
  split
  · exact h
  split
  · exact trivial
  exact h

theorem execCtxsave_upholds (h : o.upholds false s) (d a b) : Out.upholds o (execCtxsave d a b s) := by
  unfold execCtxsave
  refine privileged_upholds h (fun h => ?_) ..
  extract_lets +onlyGivenNames _ _
  split
  · exact takeFault_upholds h ..
  split
  · exact memFault_upholds h ..
  next e =>
    split
    · exact moveStatus_upholds (ok_upholds (State.storeAddr_upholds h ..) e) ..
    split
    · exact moveStatus_upholds (ok_upholds (State.storeAddr_upholds h ..) e) ..
    · exact moveStatus_upholds (ok_upholds (State.storeAddr_upholds h ..) e) ..
    · split
      · exact memFault_upholds h ..
      · next e1 => exact Put.wait_upholds (State.writeVia_upholds (ok_upholds (State.storeAddr_upholds h ..) e) ..) e1
      · next e1 =>
          exact moveStatus_upholds (State.setLoft_upholds (Put.ok_upholds (State.writeVia_upholds (ok_upholds
              (State.storeAddr_upholds h ..) e) ..) e1) ..) ..

theorem execCtxload_upholds (h : o.upholds false s) (d a b) : Out.upholds o (execCtxload d a b s) := by
  unfold execCtxload
  refine privileged_upholds h (fun h => ?_) ..
  extract_lets +onlyGivenNames _ _
  split
  · exact takeFault_upholds h ..
  split
  · exact memFault_upholds h ..
  next e =>
    split
    · exact moveStatus_upholds (ok_upholds (State.loadAddr_upholds h ..) e) ..
    split
    · split
      · exact memFault_upholds h ..
      · next e1 => exact Got.wait_upholds (State.readVia_upholds (ok_upholds (State.loadAddr_upholds h ..) e) ..) e1
      · next e1 =>
          split
          · exact moveStatus_upholds (Got.ok_upholds (State.readVia_upholds (ok_upholds (State.loadAddr_upholds
              h ..) e) ..) e1) ..
          next e2 =>
            exact moveStatus_upholds (State.setLoft_upholds (State.putLoft_upholds (some_upholds (State.savedCtx_upholds
                (Got.ok_upholds (State.readVia_upholds (ok_upholds (State.loadAddr_upholds h ..) e) ..) e1) ..) e2) ..) ..) ..
    exact moveStatus_upholds (ok_upholds (State.loadAddr_upholds h ..) e) ..

theorem State.setEffb_upholds (h : o.upholds fix s) (x n idx v) : o.upholds fix (s.setEffb x n idx v) := by
  unfold State.setEffb
  extract_lets +onlyGivenNames _ _
  split
  · exact State.modBay_upholds h ..
  exact h

theorem State.dropMeasures_upholds (h : o.upholds fix s) (t) : o.upholds fix (s.dropMeasures t) := by
  unfold State.dropMeasures
  extract_lets +onlyGivenNames _ s1
  have h1 : o.upholds fix s1 := h
  exact State.foldl_upholds (fun h _ => State.foldl_upholds (fun h _ => State.setEffb_upholds h ..) _ h) _ h1

theorem execSolvreq_upholds (h : o.upholds false s) (a b) : Out.upholds o (execSolvreq a b s) := by
  unfold execSolvreq
  refine privileged_upholds h (fun h => ?_) ..
  extract_lets +onlyGivenNames _ s1
  have h1 : o.upholds false s1 := by
    unfold s1
    split
    · exact State.dropMeasures_upholds h ..
    exact h
  refine retire_upholds ?_ ..
  split
  · exact h1
  exact State.postSolve_upholds h1 ..

/-! ### Faults and their reports -/

theorem State.interrupt_upholds (h : o.upholds fix s) (t physical) : o.upholds fix (s.interrupt t physical) := h

theorem State.fltRecord_upholds (h : o.upholds fix s) (t r) : o.upholds fix (s.fltRecord t r) := by
  unfold State.fltRecord
  extract_lets +onlyGivenNames _ _ lost1
  have h1 : o.upholds fix lost1 := State.modTenant_upholds h ..
  split
  · exact h1
  split
  · exact h1
  next e =>
    split
    · exact h1
    extract_lets +onlyGivenNames s2
    have h2 : o.upholds fix s2 := State.writeSegs_upholds (ok_upholds (State.transRange_upholds h (fun h _ => State.atHome_upholds
        h ..) ..) e) ..
    exact State.interrupt_upholds (State.modTenant_upholds h2 ..) ..

theorem State.complete_upholds (h : o.upholds fix s) (t p code c) : o.upholds fix (s.complete t p code c) := by
  unfold State.complete
  extract_lets +onlyGivenNames _ s1
  have h1 : o.upholds fix s1 := State.drainIf_upholds h ..
  extract_lets +onlyGivenNames s2
  have h2 : o.upholds fix s2 := by
    unfold s2
    split
    · exact h1
    split
    · exact State.fltRecord_upholds (State.keeping_upholds h1 ..) ..
    next e =>
      extract_lets +onlyGivenNames _ s2
      have h2 : o.upholds fix s2 := by
        unfold s2
        split
        · exact State.writeSegs_upholds (ok_upholds (State.storeAddr_upholds h1 ..) e) ..
        exact ok_upholds (State.storeAddr_upholds h1 ..) e
      exact State.writeSegs_upholds h2 ..
  split
  · exact State.interrupt_upholds h2 ..
  exact h2

/-! ### Launches -/

theorem execLaunchPacketWrite_upholds (h : o.upholds false s) (fn off size data) :
    Out.upholds o (execLaunchPacketWrite fn off size data s) := by
  unfold execLaunchPacketWrite
  extract_lets +onlyGivenNames _
  split
  · exact h
  split
  · exact State.modTenant_upholds h ..
  split <;> exact State.modTenant_upholds h ..

theorem State.reject_upholds (h : o.upholds fix s) (t p code) : o.upholds fix (s.reject t p code) := by
  unfold State.reject
  extract_lets +onlyGivenNames s1
  have h1 : o.upholds fix s1 := State.modTenant_upholds h ..
  exact State.complete_upholds h1 ..

theorem State.place_upholds (h : o.upholds fix s) (t p ox oy) : o.upholds fix (s.place t p ox oy) := by
  unfold State.place
  extract_lets +onlyGivenNames _ _ s1
  have h1 : o.upholds fix s1 := State.modTenant_upholds h ..
  extract_lets +onlyGivenNames s2
  have h2 : o.upholds fix s2 := h1
  split
  · exact State.setHalted_upholds h2 ..
  exact h2

theorem execLaunchDistribute_upholds (h : o.upholds false s) (t) : Out.upholds o (execLaunchDistribute t s) := by
  unfold execLaunchDistribute
  extract_lets +onlyGivenNames _
  split
  · exact h
  split
  · exact h
  split
  split
  · exact State.reject_upholds h ..
  split
  · exact State.reject_upholds h ..
  split
  · exact State.reject_upholds h ..
  split
  · exact State.place_upholds h ..
  exact h

theorem execGangDeadline_upholds (h : o.upholds false s) (t placed n) : Out.upholds o (execGangDeadline t placed n s) := by
  unfold execGangDeadline
  extract_lets +onlyGivenNames _
  split
  · split
    · exact h
    split
    · exact h
    split <;> exact State.setField_upholds h ..
  split
  · exact h
  split
  · exact h
  extract_lets +onlyGivenNames s1
  have h1 : o.upholds false s1 := State.modTenant_upholds h ..
  exact State.complete_upholds h1 ..

theorem State.dropField_upholds (h : o.upholds fix s) (f) : o.upholds fix (s.dropField f) := h

theorem execLaunchComplete_upholds (h : o.upholds false s) (f) : Out.upholds o (execLaunchComplete f s) := by
  unfold execLaunchComplete
  split
  · exact h
  split
  · exact h
  extract_lets +onlyGivenNames s1
  have h1 : o.upholds false s1 := State.complete_upholds h ..
  exact State.dropField_upholds h1 ..

/-! ### The sequencer and its nodes -/

theorem State.seqRead_upholds (h : o.upholds fix s) (c p n) : (s.seqRead c p n).upholds o fix := by
  unfold State.seqRead
  split
  · split <;> exact State.keeping_upholds h ..
  next e =>
    split
    · exact ok_upholds (State.loadAddr_upholds h ..) e
    · next e1 => exact Got.wait_upholds (State.readOpen_upholds (ok_upholds (State.loadAddr_upholds h ..) e) ..) e1
    · next e1 => exact Got.ok_upholds (State.readOpen_upholds (ok_upholds (State.loadAddr_upholds h ..) e) ..) e1

theorem State.seqAddr_upholds (h : o.upholds fix s) (c p) : seqUpholds o fix (s.seqAddr c p) := by
  unfold State.seqAddr
  split
  · split <;> exact State.keeping_upholds h ..
  next e =>
    extract_lets +onlyGivenNames _
    split
    · exact ok_upholds (State.addressOf_upholds h ..) e
    split
    · next e1 => exact fst_upholds (State.routeFor_upholds (ok_upholds (State.addressOf_upholds h ..) e) ..) e1
    · next e1 => exact fst_upholds (State.routeFor_upholds (ok_upholds (State.addressOf_upholds h ..) e) ..) e1
    · next e1 => exact fst_upholds (State.routeFor_upholds (ok_upholds (State.addressOf_upholds h ..) e) ..) e1

theorem State.seqWord_upholds (h : o.upholds fix s) (c p) : (s.seqWord c p).upholds o fix := by
  unfold State.seqWord
  split
  · next e => exact seqUpholds_error (State.seqAddr_upholds h ..) e
  · next e =>
      extract_lets va r
      have k : fstUpholds o fix r := State.readWord_upholds (ok_seqUpholds (State.seqAddr_upholds h ..) e) ..
      clear_value r
      split
      · exact k
      · split
        · exact State.acquire_upholds k ..
        · exact State.acquireWait_upholds k ..

theorem State.modTask_upholds (h : o.upholds fix s) (f t g) : o.upholds fix (s.modTask f t g) := by
  unfold State.modTask
  split
  · exact h
  exact State.setField_upholds h ..

theorem State.seqFault_upholds (h : o.upholds fix s) (f code faddr node root) :
    o.upholds fix (s.seqFault f code faddr node root) :=
  State.report_upholds h ..

theorem State.nodeFault_upholds (h : o.upholds fix s) (f p root) : o.upholds fix (s.nodeFault f p root) :=
  State.seqFault_upholds h ..

theorem State.seqPage_upholds (h : o.upholds fix s) (f t back page) : o.upholds fix (s.seqPage f t back page) := by
  unfold State.seqPage
  split
  · exact h
  exact State.postPage_upholds (State.modTask_upholds h ..) ..

theorem State.readNode_upholds (h : o.upholds fix s) (c p) : (s.readNode c p).upholds o fix := by
  unfold State.readNode
  split
  · exact h
  split
  · next e =>
      split <;> exact SeqGot.ok_upholds (State.seqRead_upholds h ..) e
  exact State.seqRead_upholds h ..

theorem State.walkOn_upholds (h : o.upholds fix s) (f t) : o.upholds fix (s.walkOn f t) := State.modTask_upholds h ..

theorem visitNode_upholds (h : o.upholds false s) {k}
    (hk : ∀ {t}, o.upholds false t → ∀ x1 x2 x3 x4, Out.upholds o (k t x1 x2 x3 x4)) (typ f t) :
    Out.upholds o (visitNode typ f t s k) := by
  unfold visitNode
  split
  · exact h
  split
  · split
    · exact h
    split
    · next e =>
        refine SeqGot.wait_upholds ?_ e
        split
        · exact h
        exact State.readNode_upholds h ..
    · next e =>
        refine State.seqPage_upholds (SeqGot.page_upholds ?_ e) ..
        split
        · exact h
        exact State.readNode_upholds h ..
    · next e =>
        refine State.nodeFault_upholds (SeqGot.bad_upholds ?_ e) ..
        split
        · exact h
        exact State.readNode_upholds h ..
    · next e =>
        extract_lets +onlyGivenNames _ _
        split
        · exact h
        split
        · refine State.nodeFault_upholds (SeqGot.ok_upholds ?_ e) ..
          split
          · exact h
          exact State.readNode_upholds h ..
        refine hk (State.modTask_upholds (SeqGot.ok_upholds ?_ e) ..) ..
        split
        · exact h
        exact State.readNode_upholds h ..
  exact h

theorem seqThen_upholds {g : SeqGot} (h : g.upholds o false) {k} (hk : ∀ {t}, o.upholds false t → ∀ n, Out.upholds o (k t n))
    (f t p) :
    Out.upholds o (seqThen f t p g k) := by
  cases g with
  | ok s l => exact hk h _
  | page s q => exact State.seqPage_upholds h ..
  | wait s => exact h
  | bad s => exact State.nodeFault_upholds h ..

theorem State.enter_upholds (h : o.upholds fix s) (f t p it body) : o.upholds fix (s.enter f t p it body) := by
  unfold State.enter
  split
  · exact State.walkOn_upholds h ..
  exact State.modTask_upholds h ..

theorem State.readKids_upholds (h : o.upholds fix s) (c n p) : (s.readKids c n p).upholds o fix := by
  induction n generalizing s p with
  | zero => cases p <;> exact h
  | succ n ih =>
    cases p with
    | none => exact h
    | some p =>
      unfold State.readKids
      have r := State.readNode_upholds h c p
      split
      · next e => exact SeqGot.page_upholds r e
      · next e => exact SeqGot.wait_upholds r e
      · next e => exact SeqGot.bad_upholds r e
      · next e =>
          have k := SeqGot.ok_upholds r e
          extract_lets
          split
          · exact k
          · split
            · next e => exact KidsGot.ok_upholds (ih k ..) e
            · exact ih k ..

theorem startCtrl_upholds (h : o.upholds false s) (kind typ f t) : Out.upholds o (startCtrl kind typ f t s) := by
  unfold startCtrl
  refine visitNode_upholds h (fun h _ _ _ _ => ?_) ..
  split
  · exact State.nodeFault_upholds h ..
  split
  · exact State.walkOn_upholds h ..
  extract_lets +onlyGivenNames _
  split
  · next e => exact State.seqPage_upholds (KidsGot.page_upholds (State.readKids_upholds h ..) e) ..
  · next e => exact KidsGot.wait_upholds (State.readKids_upholds h ..) e
  · next e => exact State.nodeFault_upholds (KidsGot.bad_upholds (State.readKids_upholds h ..) e) ..
  · next e =>
      extract_lets +onlyGivenNames _ s1
      have h1 : o.upholds false s1 := State.modTask_upholds (KidsGot.ok_upholds (State.readKids_upholds h ..) e) ..
      split
      · exact State.setField_upholds h1 ..
      exact h1

theorem execNodeSeq_upholds (h : o.upholds false s) (f t) : Out.upholds o (execNodeSeq f t s) := startCtrl_upholds h ..
theorem execNodePipe_upholds (h : o.upholds false s) (f t) : Out.upholds o (execNodePipe f t s) := startCtrl_upholds h ..
theorem execNodeStream_upholds (h : o.upholds false s) (f t) : Out.upholds o (execNodeStream f t s) := startCtrl_upholds h ..

theorem execChildDone_upholds (h : o.upholds false s) (f t) : Out.upholds o (execChildDone f t s) := by
  unfold execChildDone
  split
  · exact h
  split
  · exact h
  split
  · split
    · extract_lets +onlyGivenNames _ _ _ s1
      have h1 : o.upholds false s1 := State.setField_upholds h ..
      split
      · exact State.walkOn_upholds h1 ..
      split
      · exact h1
      exact State.setField_upholds h1 ..
    exact h
  exact h

theorem execNodeSection_upholds (h : o.upholds false s) (f t) : Out.upholds o (execNodeSection f t s) := by
  unfold execNodeSection
  refine visitNode_upholds h (fun h _ _ _ _ => ?_) ..
  extract_lets +onlyGivenNames _ arm1
  have h1 : ∀ {t}, o.upholds false t → ∀ x1, Out.upholds o (arm1 t x1) := by
    intro _ h2 _
    unfold arm1
    split
    · exact State.walkOn_upholds h2 ..
    exact State.modTask_upholds h2 ..
  clear_value arm1
  split
  · exact State.seqFault_upholds h ..
  split
  · extract_lets +onlyGivenNames _
    split
    · exact State.nodeFault_upholds h ..
    refine seqThen_upholds (State.seqWord_upholds h ..) (fun h _ => ?_) ..
    split
    · exact State.nodeFault_upholds h ..
    exact h1 h ..
  exact h1 h ..

theorem execNodeCond_upholds (h : o.upholds false s) (f t) : Out.upholds o (execNodeCond f t s) := by
  unfold execNodeCond
  refine visitNode_upholds h (fun h _ _ _ _ => ?_) ..
  split
  · exact State.nodeFault_upholds h ..
  refine seqThen_upholds (State.seqWord_upholds h ..) (fun h _ => ?_) ..
  exact State.enter_upholds h ..

theorem whileAgain_upholds (h : o.upholds false s) (f t) : Out.upholds o (whileAgain f t s) := by
  unfold whileAgain
  split
  · exact h
  split
  · split
    · refine seqThen_upholds (State.seqWord_upholds h ..) (fun h _ => ?_) ..
      extract_lets +onlyGivenNames s1
      have h1 : o.upholds false s1 := State.modTask_upholds h ..
      split
      · exact State.walkOn_upholds h1 ..
      exact State.enter_upholds h1 ..
    exact h
  exact h

theorem execNodeWhile_upholds (h : o.upholds false s) (f t) : Out.upholds o (execNodeWhile f t s) := by
  unfold execNodeWhile
  split
  · split
    · exact whileAgain_upholds h ..
    refine visitNode_upholds h (fun h _ _ _ _ => ?_) ..
    split
    · exact State.nodeFault_upholds h ..
    refine seqThen_upholds (State.seqWord_upholds h ..) (fun h _ => ?_) ..
    split
    · exact State.walkOn_upholds h ..
    exact State.enter_upholds h ..
  refine visitNode_upholds h (fun h _ _ _ _ => ?_) ..
  split
  · exact State.nodeFault_upholds h ..
  refine seqThen_upholds (State.seqWord_upholds h ..) (fun h _ => ?_) ..
  split
  · exact State.walkOn_upholds h ..
  exact State.enter_upholds h ..

theorem execNodeSwitch_upholds (h : o.upholds false s) (f t) : Out.upholds o (execNodeSwitch f t s) := by
  unfold execNodeSwitch
  refine visitNode_upholds h (fun h _ _ _ _ => ?_) ..
  extract_lets +onlyGivenNames _
  split
  · exact State.nodeFault_upholds h ..
  refine seqThen_upholds (State.seqWord_upholds h ..) (fun h' _ => ?_) ..
  split
  · exact State.enter_upholds h' ..
  split
  · exact State.nodeFault_upholds h' ..
  split
  · next e => exact State.seqPage_upholds (SeqGot.page_upholds (State.seqRead_upholds h' ..) e) ..
  · next e => exact SeqGot.wait_upholds (State.seqRead_upholds h' ..) e
  · next e => exact State.nodeFault_upholds (SeqGot.bad_upholds (State.seqRead_upholds h' ..) e) ..
  · next e =>
      extract_lets +onlyGivenNames _
      split
      · exact State.nodeFault_upholds (SeqGot.ok_upholds (State.seqRead_upholds h' ..) e) ..
      split
      · exact State.nodeFault_upholds (SeqGot.ok_upholds (State.seqRead_upholds h' ..) e) ..
      exact State.enter_upholds (SeqGot.ok_upholds (State.seqRead_upholds h' ..) e) ..

theorem State.watchWord_upholds (h : o.upholds fix s) (c f t a val ge) : o.upholds fix (s.watchWord c f t a val ge) := by
  unfold State.watchWord
  extract_lets +onlyGivenNames s1
  have h1 : o.upholds fix s1 := State.modTask_upholds (State.readWord_upholds h ..) ..
  exact State.serve_upholds (by exact h1) ..

theorem execNodeWaitf_upholds (h : o.upholds false s) (f t) : Out.upholds o (execNodeWaitf f t s) := by
  unfold execNodeWaitf
  refine visitNode_upholds h (fun h _ _ _ _ => ?_) ..
  split
  · next e => exact State.seqPage_upholds (SeqGot.page_upholds (seqUpholds_error (State.seqAddr_upholds h ..) e) rfl) ..
  · next e => exact SeqGot.wait_upholds (seqUpholds_error (State.seqAddr_upholds h ..) e) rfl
  · next e => exact State.nodeFault_upholds (SeqGot.bad_upholds (seqUpholds_error (State.seqAddr_upholds h ..) e) rfl) ..
  · next e => exact SeqGot.ok_upholds (seqUpholds_error (State.seqAddr_upholds h ..) e) rfl
  · next e => exact State.watchWord_upholds (ok_seqUpholds (State.seqAddr_upholds h ..) e) ..

theorem execWaitfSatisfied_upholds (h : o.upholds false s) (f t) : Out.upholds o (execWaitfSatisfied f t s) := by
  unfold execWaitfSatisfied
  split
  · exact h
  split
  · split
    · exact State.nodeFault_upholds h ..
    extract_lets +onlyGivenNames _ _
    split
    · exact State.walkOn_upholds (State.acquire_upholds h ..) ..
    exact State.acquireWait_upholds h ..
  exact h

theorem execNodeRate_upholds (h : o.upholds false s) (f t) : Out.upholds o (execNodeRate f t s) := by
  unfold execNodeRate
  refine visitNode_upholds h (fun h _ _ _ _ => ?_) ..
  extract_lets +onlyGivenNames s1
  have h1 : o.upholds false s1 := by
    unfold s1
    split
    · exact State.setField_upholds h ..
    exact h
  exact State.walkOn_upholds (State.postSolve_upholds h1 ..) ..

theorem execNodeEnd_upholds (h : o.upholds false s) (f t) : Out.upholds o (execNodeEnd f t s) := by
  unfold execNodeEnd
  split
  · exact h
  refine visitNode_upholds h (fun h _ _ _ _ => ?_) ..
  split
  · exact State.setField_upholds h ..
  exact h

theorem execNotANodeVisit_upholds (h : o.upholds false s) (f t) : Out.upholds o (execNotANodeVisit f t s) := by
  unfold execNotANodeVisit
  split
  · exact h
  · split
    · split
      · exact h
      · extract_lets got
        have k : got.upholds o false := by
          unfold got
          split
          · exact h
          · exact State.readNode_upholds h ..
        clear_value got
        cases got with
        | ok u l =>
          dsimp only
          split
          · exact h
          · exact State.nodeFault_upholds k ..
        | page u p => exact State.seqPage_upholds k ..
        | wait u =>
          dsimp only
          exact k
        | bad u => exact State.nodeFault_upholds k ..
    · exact h

theorem execFieldStart_upholds (h : o.upholds false s) (f) : Out.upholds o (execFieldStart f s) := by
  unfold execFieldStart
  split
  · exact h
  extract_lets +onlyGivenNames _
  split
  · exact h
  extract_lets +onlyGivenNames _ run1
  have h1 : ∀ {t}, o.upholds false t → ∀ x1, o.upholds false (run1 t x1) := by
    intro _ h2 _
    unfold run1
    exact State.setField_upholds h2 ..
  clear_value run1
  split
  · next e => exact h1 (SeqGot.ok_upholds (State.readNode_upholds h ..) e) ..
  · next e => exact h1 (SeqGot.wait_upholds (State.readNode_upholds h ..) e) ..
  · next e => exact State.seqPage_upholds (h1 (SeqGot.page_upholds (State.readNode_upholds h ..) e) ..) ..
  · next e => exact State.nodeFault_upholds (h1 (SeqGot.bad_upholds (State.readNode_upholds h ..) e) ..) ..

/-! ### Page requests and the mailbox -/

theorem State.pageFault_upholds (h : o.upholds fix s) (b f epc fa) : o.upholds fix (s.pageFault b f epc fa) := by
  unfold State.pageFault
  extract_lets +onlyGivenNames s1
  have h1 : o.upholds fix s1 := State.modBay_upholds h ..
  exact State.bayFault_upholds h1 ..

theorem State.wakePage_upholds (h : o.upholds fix s) (p) : o.upholds fix (s.wakePage p) := by
  unfold State.wakePage
  extract_lets +onlyGivenNames late1
  have h1 : ∀ {t}, o.upholds fix t → o.upholds fix (late1 t) := by
    intro _ h2
    unfold late1
    split
    · exact h
    exact h2
  clear_value late1
  split
  · split
    · split
      · exact State.pageFault_upholds h ..
      exact State.modFiring_upholds h ..
    exact h1 h ..
  · split <;> exact h
  · refine h1 ?_ ..
    split
    · exact h
    split
    · split
      · exact State.nodeFault_upholds h ..
      exact State.modTask_upholds h ..
    exact h
  · exact h

theorem State.wakeAll_upholds (h : o.upholds fix s) (q failed) : o.upholds fix (s.wakeAll q failed) :=
  State.foldl_upholds (fun h _ => State.wakePage_upholds h ..) _ h
theorem State.setHeld_upholds (h : o.upholds fix s) (t) : o.upholds fix (s.setHeld t) := State.modTenant_upholds h ..

theorem execPrqEntryGrant_upholds (h : o.upholds false s) (t) : Out.upholds o (execPrqEntryGrant t s) := by
  unfold execPrqEntryGrant
  split
  · exact h
  extract_lets +onlyGivenNames rest1
  have h1 : o.upholds false rest1 := h
  split
  · exact State.wakeAll_upholds h1 ..
  split
  · exact State.prqTakeEntry_upholds h1 ..
  exact h

theorem State.mboxPut_upholds (h : o.upholds fix s) (a l) : o.upholds fix (s.mboxPut a l) :=
  h.mem rfl id fun k => State.mboxPut_memOk k a l

theorem State.c2hSend_upholds (h : o.upholds fix s) (l) : o.upholds fix (s.c2hSend l) := by
  unfold State.c2hSend
  extract_lets +onlyGivenNames s1
  have h1 : o.upholds fix s1 := State.mboxPut_upholds h ..
  exact h1

theorem State.c2hPost_upholds (h : o.upholds fix s) (l) : o.upholds fix (s.c2hPost l) := by
  unfold State.c2hPost
  split
  · exact State.c2hSend_upholds h ..
  exact h

theorem State.c2hFlush_upholds (h : o.upholds fix s) (l) : o.upholds fix (s.c2hFlush l) := by
  induction l generalizing s with
  | nil => exact h
  | cons x l ih =>
    unfold State.c2hFlush
    split
    · exact ih (State.c2hSend_upholds h ..)
    · exact h

theorem State.takePage_upholds (h : o.upholds fix s) : fstUpholds o fix s.takePage := by
  unfold State.takePage
  split
  · exact h
  exact State.c2hPost_upholds (by exact State.upholds_same h rfl) ..

theorem State.reply_upholds {r} (h : fstUpholds o fix r) : o.upholds fix (State.reply r) := h

theorem execPrqtake_upholds (h : o.upholds false s) : Out.upholds o (execPrqtake s) := by
  unfold execPrqtake
  split
  · exact State.reply_upholds (State.takePage_upholds h ..) ..
  exact h

theorem State.prqDone_upholds (h : o.upholds fix s) (seq failed) : o.upholds fix (s.prqDone seq failed) := by
  unfold State.prqDone
  split
  · exact h
  exact State.wakeAll_upholds (State.setHeld_upholds (by exact State.upholds_same h rfl) ..) ..

theorem execPrqdoneFill_upholds (h : o.upholds false s) (w) : Out.upholds o (execPrqdoneFill w s) := by
  unfold execPrqdoneFill
  split
  · exact State.prqDone_upholds h ..
  exact h

theorem execPrqdoneFail_upholds (h : o.upholds false s) (w) : Out.upholds o (execPrqdoneFail w s) := by
  unfold execPrqdoneFail
  split
  · exact State.prqDone_upholds h ..
  exact h

theorem State.dropRequests_upholds (h : o.upholds fix s) (t) : o.upholds fix (s.dropRequests t) :=
  State.setHeld_upholds (by exact State.upholds_same h rfl) ..

/-! ### Sections and images -/

theorem State.imageBytes_upholds (h : o.upholds fix s) (c p) : (s.imageBytes c p).upholds o fix := by
  unfold State.imageBytes
  extract_lets +onlyGivenNames _
  split
  · exact h
  split
  · next e =>
      split
      · next e1 =>
          have k := SeqGot.ok_upholds (State.seqRead_upholds (SeqGot.ok_upholds (State.seqRead_upholds h ..) e) ..) e1
          exact k
      exact State.seqRead_upholds (SeqGot.ok_upholds (State.seqRead_upholds h ..) e) ..
  exact State.seqRead_upholds h ..

theorem State.regionsMatch_upholds (h : o.upholds fix s) (c l) : mayUphold o fix (s.regionsMatch c l) := by
  induction l generalizing s with
  | nil => exact h
  | cons r l ih =>
    unfold State.regionsMatch
    split
    · next e =>
        split
        · exact ih (some_upholds (State.entry_upholds h ..) e)
        · trivial
    · trivial

theorem State.image_upholds (h : o.upholds fix s) (f c p plot) : (s.image f c p plot).upholds o fix := by
  unfold State.image
  split
  · exact h
  split
  · next e => exact SeqGot.page_upholds (State.imageBytes_upholds h ..) e
  · next e => exact SeqGot.wait_upholds (State.imageBytes_upholds h ..) e
  · next e => exact SeqGot.bad_upholds (State.imageBytes_upholds h ..) e
  · next e =>
      extract_lets +onlyGivenNames _
      split
      · exact SeqGot.ok_upholds (State.imageBytes_upholds h ..) e
      split
      · next e1 =>
          exact some_mayUphold (State.regionsMatch_upholds (SeqGot.ok_upholds (State.imageBytes_upholds h ..) e) ..) e1
      exact SeqGot.ok_upholds (State.imageBytes_upholds h ..) e

theorem State.loadPanels_upholds (h : o.upholds fix s) (f x0 y0 l t) : seqUpholds o fix (s.loadPanels f x0 y0 l t) := by
  induction l generalizing s t with
  | nil => exact h
  | cons p l ih =>
    unfold State.loadPanels
    extract_lets b _ c read
    have reads {u q n k} (h : o.upholds fix u) (hk : ∀ {v}, o.upholds fix v → ∀ bs, seqUpholds o fix (k v bs)) :
        seqUpholds o fix (read u q n k) := by
      unfold read
      split
      · next e => exact hk (Got.ok_upholds (State.readRange_upholds h (fun h _ _ => State.readOpen_upholds h ..) ..) e) _
      · next e => exact Got.wait_upholds (State.readRange_upholds h (fun h _ _ => State.readOpen_upholds h ..) ..) e
      · split <;> exact State.keeping_upholds h ..
    exact reads h fun h _ => reads h fun h _ => ih h _

theorem execSectionArm_upholds (h : o.upholds false s) (f t) : Out.upholds o (execSectionArm f t s) := by
  unfold execSectionArm
  split
  · exact h
  split
  · extract_lets +onlyGivenNames _ _ bad1
    have h1 : ∀ {t}, o.upholds false t → Out.upholds o (bad1 t) := by
      intro _ h2
      unfold bad1
      exact State.seqFault_upholds h2 ..
    clear_value bad1
    split
    · exact h
    split
    · next e => exact State.seqPage_upholds (ImageGot.page_upholds (State.image_upholds h ..) e) ..
    · next e => exact ImageGot.wait_upholds (State.image_upholds h ..) e
    · next e => exact h1 (ImageGot.bad_upholds (State.image_upholds h ..) e) ..
    · next e =>
        extract_lets +onlyGivenNames _
        split
        · next e1 =>
            exact State.seqPage_upholds (SeqGot.page_upholds (seqUpholds_error (State.loadPanels_upholds (ImageGot.ok_upholds
                (State.image_upholds h ..) e) ..) e1) rfl) ..
        · next e1 =>
            exact SeqGot.wait_upholds (seqUpholds_error (State.loadPanels_upholds (ImageGot.ok_upholds (State.image_upholds
                h ..) e) ..) e1) rfl
        · next e1 =>
            exact h1 (SeqGot.bad_upholds (seqUpholds_error (State.loadPanels_upholds (ImageGot.ok_upholds (State.image_upholds
                h ..) e) ..) e1) rfl) ..
        · next e1 =>
            exact h1 (SeqGot.ok_upholds (seqUpholds_error (State.loadPanels_upholds (ImageGot.ok_upholds (State.image_upholds
                h ..) e) ..) e1) rfl) ..
        · next e1 =>
            extract_lets +onlyGivenNames _ _ _ _ _ s2
            have h2 : o.upholds false s2 := State.foldl_upholds (fun h _ => State.modBay_upholds h ..) _ (ok_seqUpholds
                (State.loadPanels_upholds (ImageGot.ok_upholds (State.image_upholds h ..) e) ..) e1)
            extract_lets +onlyGivenNames s3
            have h3 : o.upholds false s3 := h2
            extract_lets +onlyGivenNames s4
            have h4 : o.upholds false s4 := h3
            extract_lets +onlyGivenNames s5
            have h5 : o.upholds false s5 := by
              unfold s5
              split
              · exact State.setField_upholds h4 ..
              exact h4
            exact State.postSolve_upholds (State.modTask_upholds h5 ..) ..
  exact h

theorem State.countDiscards_upholds (h : o.upholds fix s) (x) : o.upholds fix (s.countDiscards x) := by
  unfold State.countDiscards
  extract_lets +onlyGivenNames s1
  have h1 : o.upholds fix s1 := by
    unfold s1
    refine State.foldl_upholds (fun h _ => ?_) _ h
    split
    · extract_lets +onlyGivenNames _
      split
      · exact h
      exact State.modBay_upholds h ..
    exact h
  refine State.foldl_upholds (fun h _ => ?_) _ h1
  extract_lets +onlyGivenNames _ _
  split
  · exact h
  exact State.modBay_upholds h ..

theorem State.freeInst_upholds (h : o.upholds fix s) (x) : o.upholds fix (s.freeInst x) := h

theorem State.instReports_upholds (h : o.upholds fix s) (fd x) : o.upholds fix (s.instReports fd x) := by
  unfold State.instReports
  extract_lets +onlyGivenNames _ s1
  have h1 : o.upholds fix s1 := by
    unfold s1
    split
    · exact h
    exact State.fltRecord_upholds h ..
  split
  · exact h1
  exact State.fltRecord_upholds h1 ..

theorem State.settleInst_upholds (h : o.upholds false s) (x) : o.upholds false (s.settleInst x) := by
  unfold State.settleInst
  extract_lets +onlyGivenNames s1
  have h1 : o.upholds false s1 := State.foldl_upholds (fun h _ => State.performBay_upholds h ..) _ (State.drainIf_upholds h ..)
  exact State.landAll_upholds (State.drainIf_upholds h1 ..) ..

theorem execSectionEnd_upholds (h : o.upholds false s) (f i) : Out.upholds o (execSectionEnd f i s) := by
  unfold execSectionEnd
  split
  · split
    · exact h
    extract_lets +onlyGivenNames s1
    have h1 : o.upholds false s1 := State.settleInst_upholds h ..
    split
    · exact h1
    extract_lets +onlyGivenNames s2
    have h2 : o.upholds false s2 := by
      unfold s2
      split
      · split
        · exact State.commit_upholds h1 ..
        exact h1
      exact h1
    extract_lets +onlyGivenNames _ s3
    have h3 : o.upholds false s3 := State.instReports_upholds (State.countDiscards_upholds h2 ..) ..
    extract_lets +onlyGivenNames s4
    have h4 : o.upholds false s4 := State.freeInst_upholds h3 ..
    extract_lets +onlyGivenNames s5
    have h5 : o.upholds false s5 := by
      unfold s5
      split
      · split
        · exact State.walkOn_upholds h4 ..
        exact h4
      exact h4
    exact State.postSolve_upholds h5 ..
  exact h

theorem State.stopInsts_upholds (h : o.upholds fix s) (f) : o.upholds fix (s.stopInsts f) := by
  unfold State.stopInsts
  extract_lets +onlyGivenNames _ s1
  have h1 : o.upholds fix s1 := by
    unfold s1
    refine State.foldl_upholds (fun h _ => ?_) _ h
    split
    · extract_lets +onlyGivenNames s1
      have h1 : o.upholds fix s1 := State.foldl_upholds (fun h _ => State.performBay_upholds h ..) _ h
      exact State.freeInst_upholds (State.discardVersion_upholds h1 ..) ..
    exact h
  exact h1

theorem execSequencerFault_upholds (h : o.upholds false s) (f) : Out.upholds o (execSequencerFault f s) := by
  unfold execSequencerFault
  split
  · exact h
  split
  · exact h
  split
  · exact h
  extract_lets +onlyGivenNames _ _ s1
  have h1 : o.upholds false s1 := State.stopInsts_upholds h ..
  extract_lets +onlyGivenNames s2
  have h2 : o.upholds false s2 := by
    unfold s2
    split
    · exact State.setField_upholds h1 ..
    exact h1
  extract_lets +onlyGivenNames s3
  have h3 : o.upholds false s3 := State.fltRecord_upholds h2 ..
  split
  · exact h3
  exact State.postSolve_upholds h3 ..

end Sys2Proof.Machine
end

section
/-! What a step keeps: the solver, preemption and the host.
One lemma for each function of the model that gives a state, in the model's order. -/

namespace Sys2Proof.Machine

variable {o s : State} {fix : Bool}

/-! ### Rates, samples and power -/

theorem State.recommit_upholds (h : o.upholds fix s) (t) : o.upholds fix (s.recommit t) := State.modTenant_upholds h ..
theorem State.noteChange_upholds (h : o.upholds fix s) (t) : o.upholds fix (s.noteChange t) := h
theorem State.retarget_upholds (h : o.upholds fix s) (x) : o.upholds fix (s.retarget x) := State.setIsland_upholds h ..

theorem State.solveTenant_upholds (h : o.upholds fix s) (t cause) : o.upholds fix (s.solveTenant t cause) := by
  unfold State.solveTenant
  extract_lets +onlyGivenNames s1
  have h1 : o.upholds fix s1 := h
  clear_value s1
  extract_lets +onlyGivenNames l first start crossed coded grant asked short part out s2
  clear_value crossed out
  have h2 : o.upholds fix s2 := State.modTenant_upholds h1 ..
  clear_value s2
  extract_lets +onlyGivenNames _ s3
  have h3 : o.upholds fix s3 := State.foldl_upholds (fun h _ => State.retarget_upholds h ..) _ h2
  clear_value s3
  extract_lets +onlyGivenNames s4
  have h4 : o.upholds fix s4 := by
    unfold s4
    split
    · exact State.noteChange_upholds h3 ..
    exact h3
  clear_value s4
  extract_lets +onlyGivenNames s5
  have h5 : o.upholds fix s5 := h4
  clear_value s5
  extract_lets +onlyGivenNames s6
  have h6 : o.upholds fix s6 := State.foldl_upholds (fun h _ => State.foldl_upholds (fun h _ => State.modBay_upholds h ..) _ h) _
      h5
  exact State.recommit_upholds h6 ..

theorem execSolve_upholds (h : o.upholds false s) (t) : Out.upholds o (execSolve t s) := by
  unfold execSolve
  extract_lets +onlyGivenNames _
  split
  · exact h
  split
  · exact h
  exact State.solveTenant_upholds (State.modTenant_upholds h ..) ..

theorem execRatioApply_upholds (h : o.upholds false s) (i) : Out.upholds o (execRatioApply i s) := by
  unfold execRatioApply
  extract_lets +onlyGivenNames _ _ _ done1
  have h1 : ∀ x0, Out.upholds o (done1 x0) := by
    intro _
    unfold done1
    exact State.recommit_upholds (State.noteChange_upholds (State.setIsland_upholds h ..) ..) ..
  clear_value done1
  extract_lets +onlyGivenNames _
  split
  · exact h1 ..
  split
  · exact h1 ..
  exact h

theorem execRailSettled_upholds (h : o.upholds false s) (i) : Out.upholds o (execRailSettled i s) := by
  unfold execRailSettled
  extract_lets +onlyGivenNames _
  split
  · exact h
  exact State.noteChange_upholds (State.setIsland_upholds h ..) ..

theorem execSampleBoundary_upholds (h : o.upholds false s) : Out.upholds o (execSampleBoundary s) := by
  unfold execSampleBoundary
  split
  · exact h
  extract_lets +onlyGivenNames _ step1
  have h1 : ∀ {t}, o.upholds false t → ∀ x1, o.upholds false (step1 t x1) := by
    intro _ h2 _
    unfold step1
    extract_lets +onlyGivenNames _ _ _ _ s3
    have h3 : o.upholds false s3 := State.setInst_upholds h2 ..
    extract_lets +onlyGivenNames s4
    have h4 : o.upholds false s4 := by
      unfold s4
      split
      · exact State.postSolve_upholds h3 ..
      exact h3
    split
    · exact State.postSolve_upholds h4 ..
    exact h4
  clear_value step1
  extract_lets +onlyGivenNames s'2
  have h2 : o.upholds false s'2 := State.foldl_upholds (fun h _ => h1 h ..) _ h
  exact h2

theorem execPowerIntervalEnd_upholds (h : o.upholds false s) : Out.upholds o (execPowerIntervalEnd s) := by
  unfold execPowerIntervalEnd
  split
  · exact h
  extract_lets +onlyGivenNames _ _ _ _ _ _ one1
  have h1 : ∀ {t}, o.upholds false t → ∀ x1, o.upholds false (one1 t x1) := by
    intro _ h2 _
    unfold one1
    extract_lets +onlyGivenNames _ _ s3
    have h3 : o.upholds false s3 := State.modTenant_upholds h2 ..
    split
    · exact State.postSolve_upholds h3 ..
    exact h3
  clear_value one1
  extract_lets +onlyGivenNames s'2
  have h2 : o.upholds false s'2 := State.foldl_upholds (fun h _ => h1 h ..) _ h
  exact State.upholds_same h2 rfl

/-! ### Partitions, preemption and contexts -/

theorem State.setOwner_upholds (h : o.upholds fix s) (l t) : o.upholds fix (s.setOwner l t) :=
  State.foldl_upholds (fun h _ => State.setIsland_upholds h ..) _ h
theorem State.gate_upholds (h : o.upholds fix s) (l) : o.upholds fix (s.gate l) :=
  State.foldl_upholds (fun h' _ => State.setIsland_upholds h' ..) _ h
theorem State.recommitBoth_upholds (h : o.upholds fix s) (t) : o.upholds fix (s.recommitBoth t) :=
  State.recommit_upholds (State.recommit_upholds h ..) ..

theorem State.createPartition_upholds (h : o.upholds fix s) (t v) : o.upholds fix (s.createPartition t v) := by
  unfold State.createPartition
  extract_lets +onlyGivenNames _ _ _
  split
  · exact h
  split
  · exact h
  extract_lets +onlyGivenNames _ _ s1
  have h1 : o.upholds fix s1 := State.modTenant_upholds h ..
  split
  · exact State.recommitBoth_upholds (State.setOwner_upholds (State.setHalted_upholds h1 ..) ..) ..
  exact h1

theorem State.removePartition_upholds (h : o.upholds fix s) (t) : o.upholds fix (s.removePartition t) := by
  unfold State.removePartition
  split
  · exact h
  extract_lets +onlyGivenNames _ _ _ s1
  have h1 : o.upholds fix s1 := by
    unfold s1
    refine State.foldl_upholds (fun h _ => ?_) _ h
    extract_lets +onlyGivenNames s1
    have h1 : o.upholds fix s1 := State.stopInsts_upholds h ..
    extract_lets +onlyGivenNames s2
    have h2 : o.upholds fix s2 := State.complete_upholds h1 ..
    exact State.dropField_upholds h2 ..
  extract_lets +onlyGivenNames _ s2
  have h2 : o.upholds fix s2 := h1
  extract_lets +onlyGivenNames s3
  have h3 : o.upholds fix s3 := State.dropImages_upholds (State.dropHandles_upholds (State.dropRequests_upholds h2 ..) ..) ..
  extract_lets +onlyGivenNames s4
  have h4 : o.upholds fix s4 := by
    unfold s4
    split
    · exact State.setOwner_upholds (State.gate_upholds h3 ..) ..
    exact h3
  extract_lets +onlyGivenNames s5
  have h5 : o.upholds fix s5 := h4
  extract_lets +onlyGivenNames _ s6
  have h6 : o.upholds fix s6 := State.setHalted_upholds h5 ..
  exact State.recommitBoth_upholds (State.modTenant_upholds h6 ..) ..

theorem State.writePartcfg_upholds (h : o.upholds fix s) (t v) : o.upholds fix (s.writePartcfg t v) := by
  unfold State.writePartcfg
  split
  · exact h
  split
  · split
    · exact h
    exact State.removePartition_upholds h ..
  split
  · exact State.createPartition_upholds h ..
  exact State.modTenant_upholds h ..

theorem execPartitionCreate_upholds (h : o.upholds false s) (t v) : Out.upholds o (execPartitionCreate t v s) := by
  unfold execPartitionCreate
  split
  · exact State.createPartition_upholds h ..
  exact h

theorem execPartitionRemove_upholds (h : o.upholds false s) (t) : Out.upholds o (execPartitionRemove t s) := by
  unfold execPartitionRemove
  split
  · exact State.removePartition_upholds h ..
  exact h

theorem State.writeSlicecfg_upholds (h : o.upholds fix s) (t v) : o.upholds fix (s.writeSlicecfg t v) := by
  unfold State.writeSlicecfg
  split
  · exact h
  exact State.modTenant_upholds h ..

theorem execSlicecfgWrite_upholds (h : o.upholds false s) (t v) : Out.upholds o (execSlicecfgWrite t v s) := by
  unfold execSlicecfgWrite
  split
  · exact State.writeSlicecfg_upholds h ..
  exact h

theorem State.withdraw_upholds (h : o.upholds fix s) (t) : o.upholds fix (s.withdraw t) := h
theorem State.markRung_upholds (h : o.upholds fix s) (t rung p) : o.upholds fix (s.markRung t rung p) := h

theorem State.beginStop_upholds (h : o.upholds fix s) (t) : o.upholds fix (s.beginStop t) := by
  unfold State.beginStop
  extract_lets +onlyGivenNames s1
  have h1 : o.upholds fix s1 := State.modTenant_upholds (State.withdraw_upholds h ..) ..
  exact h1

theorem State.stopCmd_upholds (h : o.upholds fix s) (t) : o.upholds fix (s.stopCmd t) := by
  unfold State.stopCmd
  split
  · exact State.beginStop_upholds h ..
  exact h

theorem State.stopNow_upholds (h : o.upholds fix s) (t) : o.upholds fix (s.stopNow t) := by
  unfold State.stopNow
  extract_lets +onlyGivenNames s1
  have h1 : o.upholds fix s1 := State.stopCmd_upholds h ..
  split
  · exact State.modTenant_upholds h1 ..
  exact h1

theorem execPrecmdStop_upholds (h : o.upholds false s) (t) : Out.upholds o (execPrecmdStop t s) := by
  unfold execPrecmdStop
  split
  · exact State.stopCmd_upholds h ..
  exact h

theorem execPrecmdStopNow_upholds (h : o.upholds false s) (t) : Out.upholds o (execPrecmdStopNow t s) := by
  unfold execPrecmdStopNow
  split
  · exact State.stopNow_upholds h ..
  exact h

theorem execSliceExpire_upholds (h : o.upholds false s) (t) : Out.upholds o (execSliceExpire t s) := by
  unfold execSliceExpire
  extract_lets +onlyGivenNames _
  split
  · exact h
  exact State.stopCmd_upholds h ..

theorem State.cutChan_upholds (h : o.upholds fix s) (x k r) : o.upholds fix (s.cutChan x k r) := by
  unfold State.cutChan
  split
  · exact h
  split
  · exact State.modChan_upholds h ..
  exact State.setCut_upholds h ..

theorem State.cutRows_upholds (h : o.upholds fix s) (x) : o.upholds fix (s.cutRows x) :=
  State.foldl_upholds (fun h _ => State.cutChan_upholds h ..) _ h

theorem execGraceExpire_upholds (h : o.upholds false s) (t) : Out.upholds o (execGraceExpire t s) := by
  unfold execGraceExpire
  extract_lets +onlyGivenNames _ _
  split
  · exact h
  extract_lets +onlyGivenNames s1
  have h1 : o.upholds false s1 := State.markRung_upholds h ..
  extract_lets +onlyGivenNames s2
  have h2 : o.upholds false s2 := State.foldl_upholds (fun h _ => State.cutRows_upholds h ..) _ h1
  exact State.modTenant_upholds h2 ..

theorem execDrainExpire_upholds (h : o.upholds false s) (t) : Out.upholds o (execDrainExpire t s) := by
  unfold execDrainExpire
  extract_lets +onlyGivenNames _ _
  split
  · exact h
  exact State.modTenant_upholds (State.markRung_upholds h ..) ..

theorem State.freezeBay_upholds (h : o.upholds fix s) (b) : o.upholds fix (s.freezeBay b) := by
  unfold State.freezeBay
  extract_lets +onlyGivenNames _ s1
  have h1 : o.upholds fix s1 := State.foldl_upholds (fun h _ => State.cancelRegion_upholds h ..) _ h
  extract_lets +onlyGivenNames s2
  have h2 : o.upholds fix s2 := h1
  exact State.modBay_upholds h2 ..

theorem State.finishRow_upholds (h : o.upholds fix s) (b) : o.upholds fix (s.finishRow b) := by
  unfold State.finishRow
  split
  · split
    · split
      · exact h
      extract_lets +onlyGivenNames _ s1
      have h1 : o.upholds fix s1 := State.modChan_upholds h ..
      extract_lets +onlyGivenNames _
      split
      · exact State.iterate_upholds h1 (fun h _ => adrnOne_upholds h ..) ..
      split
      · exact State.iterate_upholds h1 (fun h _ => adrnHalf_upholds h ..) ..
      extract_lets +onlyGivenNames _ s2
      have h2 : o.upholds fix s2 := State.modInst_upholds (State.modChan_upholds h1 ..) ..
      exact State.modHead_upholds h2 ..
    exact h
  exact h

theorem execStopWaveHalt_upholds (h : o.upholds false s) (t) : Out.upholds o (execStopWaveHalt t s) := by
  unfold execStopWaveHalt
  extract_lets +onlyGivenNames _
  split
  · exact h
  extract_lets +onlyGivenNames _ _ s1
  have h1 : o.upholds false s1 := State.foldl_upholds (fun h _ => State.performBay_upholds h ..) _ (State.drainIf_upholds h ..)
  extract_lets +onlyGivenNames s2
  have h2 : o.upholds false s2 := State.landAll_upholds (State.drainIf_upholds h1 ..) ..
  split
  · exact h2
  extract_lets +onlyGivenNames s3
  have h3 : o.upholds false s3 := State.foldl_upholds (fun h _ => State.freezeBay_upholds h ..) _ (State.foldl_upholds (fun
      h _ => State.finishRow_upholds h ..) _ h2)
  exact State.modTenant_upholds h3 ..

theorem State.fillLoft_upholds (h : o.upholds fix s) (c) : o.upholds fix (s.fillLoft c) := by
  unfold State.fillLoft
  extract_lets +onlyGivenNames _ s1
  have h1 : o.upholds fix s1 := h
  extract_lets +onlyGivenNames s2
  have h2 : o.upholds fix s2 := State.foldl_upholds (fun h' _ => State.rawWrite_upholds h' ..) _ h1
  exact State.setLoft_upholds h2 ..

theorem execStopComplete_upholds (h : o.upholds false s) (t) : Out.upholds o (execStopComplete t s) := by
  unfold execStopComplete
  extract_lets +onlyGivenNames _
  split
  · exact h
  extract_lets +onlyGivenNames _
  split
  · exact h
  extract_lets +onlyGivenNames _ s1
  have h1 : o.upholds false s1 := State.landAll_upholds h ..
  extract_lets +onlyGivenNames s2
  have h2 : o.upholds false s2 := State.markRung_upholds h1 ..
  extract_lets +onlyGivenNames _ _ s3
  have h3 : o.upholds false s3 := State.foldl_upholds (fun h _ => State.fillLoft_upholds h ..) _ h2
  extract_lets +onlyGivenNames _ s4
  have h4 : o.upholds false s4 := State.foldl_upholds (fun h _ => State.modBay_upholds h ..) _ h3
  extract_lets +onlyGivenNames s5
  have h5 : o.upholds false s5 := by
    unfold s5
    split
    · exact State.setOwner_upholds (State.gate_upholds h4 ..) ..
    exact h4
  extract_lets +onlyGivenNames s6
  have h6 : o.upholds false s6 := State.modTenant_upholds h5 ..
  exact State.interrupt_upholds (State.recommitBoth_upholds h6 ..) ..

theorem State.resumeCmd_upholds (h : o.upholds fix s) (t) : o.upholds fix (s.resumeCmd t) := by
  unfold State.resumeCmd
  split
  · exact h
  split
  · exact State.modTenant_upholds h ..
  extract_lets +onlyGivenNames _ s1
  have h1 : o.upholds fix s1 := State.modTenant_upholds h ..
  extract_lets +onlyGivenNames s2
  have h2 : o.upholds fix s2 := State.recommitBoth_upholds (State.setOwner_upholds (State.setHalted_upholds h1 ..) ..) ..
  refine State.foldl_upholds (fun h _ => ?_) _ h2
  split
  · exact State.setLoft_upholds h ..
  exact h

theorem execPrecmdResume_upholds (h : o.upholds false s) (t) : Out.upholds o (execPrecmdResume t s) := by
  unfold execPrecmdResume
  split
  · exact State.resumeCmd_upholds h ..
  exact h

theorem State.poisonTokens_upholds (h : o.upholds fix s) (x b) : o.upholds fix (s.poisonTokens x b) := by
  unfold State.poisonTokens
  refine State.foldl_upholds (fun h _ => ?_) _ h
  extract_lets +onlyGivenNames s1
  have h1 : o.upholds fix s1 := by
    unfold s1
    split
    · exact h
    exact State.modChan_upholds h ..
  split
  · exact h1
  exact State.modChan_upholds h1 ..

theorem State.poisonWindow_upholds (h : o.upholds fix s) (l : List Nat) (a : Nat → Nat) :
    o.upholds fix { s with mpoison := l.foldl (fun m k => Memory.write m (a k) 1) s.mpoison } :=
  h.mem rfl id fun k => ⟨k.1, Memory.wf_foldl (fun i => (a i, 1)) k.2.1 _, k.2.2⟩

theorem State.putContext_upholds (h : o.upholds fix s) (c) : o.upholds fix (s.putContext c) := by
  unfold State.putContext
  extract_lets bad keep s1 s2 s3 over_ uncut missed s4
  have k1 : o.upholds fix s1 := h.mem rfl id fun k => ⟨Memory.wf_filter _ k.1, Memory.wf_filter _ k.2.1, k.2.2⟩
  clear_value s1
  have k2 : o.upholds fix s2 := k1.mem rfl id fun k => ⟨Memory.wf_foldl id k.1 _, Memory.wf_foldl id k.2.1 _, k.2.2⟩
  clear_value s2
  have k3 : o.upholds fix s3 := by
    refine State.foldl_upholds (fun h q => ?_) _ k2
    extract_lets +onlyGivenNames _ y v
    have kv : o.upholds fix v := State.setBay_upholds h ..
    clear_value v
    split
    · exact State.poisonWindow_upholds kv _ _
    · exact kv
  exact k3

theorem State.reloadAll_upholds (h : o.upholds fix s) (t l) : eitherUpholds o fix (s.reloadAll t l) := by
  induction l generalizing s with
  | nil => exact h
  | cons b l ih =>
    unfold State.reloadAll
    extract_lets who mine pc x got
    have k : got.upholds o fix := State.reloadSlots_upholds h ..
    clear_value got
    split
    · exact ih h
    · split
      · exact ih (State.bayFault_upholds (by exact h) ..)
      · cases got with
        | ok u => exact ih k
        | wait u => exact k
        | flt f =>
          dsimp only
          split
          · split
            · exact h
            · exact State.postPage_upholds h ..
          · exact ih (State.bayFault_upholds h ..)

theorem State.rewatch_upholds (h : o.upholds fix s) (t) : o.upholds fix (s.rewatch t) := by
  unfold State.rewatch
  refine State.foldl_upholds (fun h _ => ?_) _ h
  split
  · exact State.watchWord_upholds h ..
  exact h

theorem State.regrant_upholds (h : o.upholds fix s) (t) : o.upholds fix (s.regrant t) := h

theorem execRestoreComplete_upholds (h : o.upholds false s) (t) : Out.upholds o (execRestoreComplete t s) := by
  unfold execRestoreComplete
  extract_lets +onlyGivenNames _
  split
  · exact h
  extract_lets +onlyGivenNames _ _ back1
  have h1 : o.upholds false back1 := State.foldl_upholds (fun h _ => State.putContext_upholds h ..) _ h
  extract_lets +onlyGivenNames marked2
  have h2 : o.upholds false marked2 := State.foldl_upholds (fun h _ => State.foldl_upholds (fun h _ => State.poisonTokens_upholds
      h ..) _ h) _ h1
  split
  · exact h
  next e =>
    extract_lets +onlyGivenNames s3
    have h3 : o.upholds false s3 := by
      have k := ok_eitherUpholds (State.reloadAll_upholds h2 ..) e
      exact k
    extract_lets +onlyGivenNames s4
    have h4 : o.upholds false s4 := State.solveTenant_upholds (State.modTenant_upholds h3 ..) ..
    extract_lets +onlyGivenNames s5
    have h5 : o.upholds false s5 := State.modTenant_upholds h4 ..
    extract_lets +onlyGivenNames _ s6
    have h6 : o.upholds false s6 := State.foldl_upholds (fun h _ => State.wakePage_upholds h ..) _ h5
    extract_lets +onlyGivenNames s7
    have h7 : o.upholds false s7 := State.foldl_upholds (fun h _ => State.serveQueues_upholds h ..) _ h6
    exact State.regrant_upholds (State.rewatch_upholds h7 ..) ..

/-! ### The host, resets and storage errors -/

theorem State.applyAll_upholds (h : o.upholds fix s) : o.upholds fix s.applyAll := by
  unfold State.applyAll
  extract_lets +onlyGivenNames s1
  have h1 : o.upholds fix s1 := State.drainIf_upholds h ..
  exact State.foldl_upholds (fun h _ => State.applyAt_upholds h ..) _ h1

theorem State.writeArt_upholds (h : o.upholds fix s) (i j v) : o.upholds fix (s.writeArt i j v) := by
  unfold State.writeArt
  extract_lets +onlyGivenNames _
  split
  · exact h
  extract_lets +onlyGivenNames s1
  have h1 : o.upholds fix s1 := State.applyAll_upholds h ..
  exact h1

theorem State.writeBlock_upholds (h : o.upholds fix s) (t off v) : o.upholds fix (s.writeBlock t off v) := by
  unfold State.writeBlock
  refine ite_upholds (ite_upholds h (State.modTenant_upholds h ..)) ?_
  refine ite_upholds (ite_upholds h (State.modTenant_upholds h ..)) ?_
  refine ite_upholds (ite_upholds h (State.modTenant_upholds h ..)) ?_
  refine ite_upholds (State.writePartcfg_upholds h ..) ?_
  refine ite_upholds (ite_upholds h (State.modTenant_upholds h ..)) ?_
  refine ite_upholds (ite_upholds h (State.modTenant_upholds h ..)) ?_
  refine ite_upholds (State.writeSlicecfg_upholds h ..) ?_
  refine ite_upholds (ite_upholds h ?_) ?_
  · exact ite_upholds (State.stopCmd_upholds h ..) (ite_upholds (State.stopNow_upholds h ..)
      (ite_upholds (State.resumeCmd_upholds h ..) h))
  refine ite_upholds (ite_upholds h (State.modTenant_upholds h ..)) ?_
  refine ite_upholds (ite_upholds h (State.modTenant_upholds h ..)) ?_
  exact ite_upholds (ite_upholds h (State.modTenant_upholds h ..)) h

theorem State.writeReg_upholds (h : o.upholds fix s) (clotus off v) : o.upholds fix (s.writeReg clotus off v) := by
  unfold State.writeReg
  refine ite_upholds (ite_upholds h (State.upholds_same h rfl)) ?_
  refine ite_upholds (ite_upholds h (State.upholds_same h rfl)) ?_
  refine ite_upholds (ite_upholds (State.writeArt_upholds h ..) h) ?_
  refine ite_upholds (ite_upholds h (State.prqDone_upholds h ..)) ?_
  refine ite_upholds (ite_upholds h (State.mboxPut_upholds h ..)) ?_
  refine ite_upholds (ite_upholds (State.mboxPut_upholds h ..) h) ?_
  refine ite_upholds (ite_upholds h (State.upholds_same h rfl)) ?_
  refine ite_upholds (ite_upholds (State.upholds_same h rfl) h) ?_
  refine ite_upholds (ite_upholds (State.upholds_same h rfl) h) ?_
  refine ite_upholds (ite_upholds h (State.c2hFlush_upholds (by exact State.upholds_same h rfl) ..)) ?_
  refine ite_upholds (State.writeBlock_upholds h ..) ?_
  exact ite_upholds (ite_upholds (State.upholds_same h rfl) h) h

theorem execRegisterWrite_upholds (h : o.upholds false s) (writer fn off size v) :
    Out.upholds o (execRegisterWrite writer fn off size v s) := by
  unfold execRegisterWrite
  extract_lets +onlyGivenNames _ _ _
  split
  · exact h
  split
  · split
    · exact h
    exact State.writeReg_upholds h ..
  extract_lets +onlyGivenNames _
  split
  · exact State.modTenant_upholds h ..
  split
  · exact h
  exact State.writeBlock_upholds h ..

theorem State.registerRead_upholds (h : o.upholds fix s) (fn off size) : o.upholds fix (s.registerRead fn off size) := by
  unfold State.registerRead
  extract_lets +onlyGivenNames _
  split
  · exact h
  split
  · exact h
  extract_lets +onlyGivenNames r1
  have h1 : fstUpholds o fix r1 := by
    unfold r1
    split
    · exact h
    split
    · exact State.takePage_upholds h ..
    exact h
  extract_lets +onlyGivenNames base2
  have h2 : o.upholds fix base2 := h1
  exact h2

theorem State.barSegs_upholds (h : o.upholds fix s) (f off n wr) : someUpholds o fix (s.barSegs f off n wr) := by
  unfold State.barSegs
  extract_lets +onlyGivenNames _
  split
  · split
    · exact h
    exact trivial
  extract_lets +onlyGivenNames _
  split
  · exact trivial
  exact toOption_upholds (State.transRange_upholds h (fun h _ => State.atHome_upholds h ..) ..)

theorem execHostBar2Write_upholds (h : o.upholds false s) (fn off data ro) :
    Out.upholds o (execHostBar2Write fn off data ro s) := by
  unfold execHostBar2Write
  split
  · exact h
  · split
    · change o.upholds false _
      exact State.upholds_same h rfl
    · next e =>
        have k := some_upholds (State.barSegs_upholds h ..) e
        exact k

theorem execHostBar2Read_upholds (h : o.upholds false s) (fn off len) : Out.upholds o (execHostBar2Read fn off len s) := by
  unfold execHostBar2Read
  split
  · exact h
  split
  · exact h
  next e =>
    split
    next e1 =>
      have k := fst_upholds (State.readSegs_upholds (some_upholds (State.barSegs_upholds h ..) e) ..) e1
      exact k

theorem execHostWriteForward_upholds (h : o.upholds false s) (fn) : Out.upholds o (execHostWriteForward fn s) := by
  unfold execHostWriteForward
  extract_lets +onlyGivenNames _ _
  split
  · exact h
  split
  · exact h
  extract_lets +onlyGivenNames s1
  have h1 : o.upholds false s1 := State.writeSegs_upholds h ..
  exact h1

theorem State.answer_upholds (h : o.upholds fix s) (status) : o.upholds fix (s.answer status) := by
  unfold State.answer
  extract_lets +onlyGivenNames _
  exact State.c2hSend_upholds h ..

theorem execMailboxInvalidate_upholds (h : o.upholds false s) : Out.upholds o (execMailboxInvalidate s) := by
  unfold execMailboxInvalidate
  split
  · exact h
  · split
    · exact h
    · extract_lets t all x done
      have hd {r} (k : fstUpholds o false r) : o.upholds false (done r) := by
        unfold done
        split
        · exact k
        · exact State.answer_upholds (by exact k) ..
      clear_value done
      split
      · exact hd h
      · split
        · exact hd (State.hinv_upholds h ..)
        · exact State.answer_upholds (State.dropImages_upholds h ..) ..
        · exact hd (State.tlbi_upholds h ..)

theorem execMailboxUnknown_upholds (h : o.upholds false s) : Out.upholds o (execMailboxUnknown s) := by
  unfold execMailboxUnknown
  split
  · exact h
  split
  · exact h
  exact State.answer_upholds h ..

theorem execReset_upholds (_ : o.upholds false s) : Out.upholds o (execReset s) := State.reset_upholds

theorem execBootReady_upholds (h : o.upholds false s) : Out.upholds o (execBootReady s) := by
  unfold execBootReady
  split <;> exact h

theorem Memory.rekey_wf {m : Memory} (h : m.wf = true) (a b : Nat) : (m.rekey a b).wf = true :=
  Memory.wf_foldl (fun x : Host.Cell => (b * 2 ^ 47 + gaLocal x.1, x.2)) (Memory.wf_filter _ h) _

theorem execModuleNumberAssign_upholds (h : o.upholds false s) (n) : Out.upholds o (execModuleNumberAssign n s) := by
  unfold execModuleNumberAssign
  split
  · exact h
  · next g =>
      have hn : n.toNat < 320 := by omega
      exact (State.applyAll_upholds h).mem rfl (fun l => ⟨l.1, .inr hn⟩) fun k =>
        ⟨Memory.rekey_wf k.1 .., Memory.rekey_wf k.2.1 .., k.2.2⟩

theorem execHostPortTrain_upholds (h : o.upholds false s) (port rate width) :
    Out.upholds o (execHostPortTrain port rate width s) :=
  h

theorem State.markBytes_upholds (h : o.upholds fix s) (a n v) : o.upholds fix (s.markBytes a n v) := by
  refine h.mem rfl id fun k => ⟨k.1, ?_, k.2.2⟩
  refine List.foldlRecOn (motive := fun m => Memory.wf m = true) _ _ k.2.1 fun m hm i _ => ?_
  split
  · exact hm
  · exact Memory.wf_write hm _ _

theorem State.poisonHeld_upholds (h : o.upholds false s) (a) : o.upholds false (s.poisonHeld a) := by
  unfold State.poisonHeld
  extract_lets +onlyGivenNames _
  split
  · exact h
  split
  · exact State.landUnit_upholds h ..
  exact State.markBytes_upholds h ..

theorem State.dropHandleCopy_upholds (h : o.upholds fix s) (a) : o.upholds fix (s.dropHandleCopy a) := by
  unfold State.dropHandleCopy
  extract_lets +onlyGivenNames _
  split
  · exact State.modBay_upholds h ..
  · exact h
  · exact h

theorem State.dropImageCopy_upholds (h : o.upholds fix s) (n) : o.upholds fix (s.dropImageCopy n) := by
  unfold State.dropImageCopy
  extract_lets +onlyGivenNames _
  split
  · exact State.modBay_upholds h ..
  · exact h
  · exact h

theorem State.lineLost_upholds (h : o.upholds fix s) (n) {base} (hb : o.upholds fix base) :
    o.upholds fix (s.lineLost n base) := by
  unfold State.lineLost
  extract_lets has l
  split
  · exact hb
  · split
    · exact State.setInst_upholds h ..
    · exact hb

theorem State.storageLost_upholds (h : o.upholds false s) (k n) : o.upholds false (s.storageLost k n) := by
  unfold State.storageLost
  cases k with
  | hbm =>
    refine State.lineLost_upholds h n ?_
    split
    · exact State.markBytes_upholds h ..
    · exact h
  | cleanLine => exact h
  | translation =>
    dsimp only
    split <;> exact h
  | handleEntry => exact State.dropHandleCopy_upholds h ..
  | image => exact State.dropImageCopy_upholds h ..
  | slot b => exact State.modArray_upholds h ..
  | cells b => exact State.modArray_upholds h ..
  | held => exact State.lineLost_upholds h n (State.poisonHeld_upholds h ..)
  | entries => exact h
  | merge b => exact h
  | scale b => exact State.modArray_upholds h ..
  | running b => exact State.modArray_upholds h ..
  | fifo f i c => exact State.modChan_upholds h ..
  | code f i =>
    dsimp only
    split
    · exact h
    · exact State.setInst_upholds h ..

theorem execStorageError_upholds (h : o.upholds false s) (k corrected addr) :
    Out.upholds o (execStorageError k corrected addr s) := by
  unfold execStorageError
  extract_lets +onlyGivenNames _ s1
  have h1 : o.upholds false s1 := h
  split
  · exact h1
  exact State.storageLost_upholds h1 ..

theorem execIllegalInstruction_upholds (h : o.upholds false s) (w) : Out.upholds o (execIllegalInstruction w s) :=
  takeFault_upholds h ..

end Sys2Proof.Machine
end

section
/-! What a step keeps: the integer and vector instructions.
One lemma for each function of the model that gives a state, in the model's order. -/

namespace Sys2Proof.Machine

variable {o s : State} {fix : Bool}

/-! ### Integer and address arithmetic -/

theorem alu2_upholds (h : o.upholds false s) (f d a b) : Out.upholds o (alu2 f d a b s) := finish_upholds h ..
theorem alu1_upholds (h : o.upholds false s) (f d a) : Out.upholds o (alu1 f d a s) := finish_upholds h ..

theorem aluOffset_upholds (h : o.upholds false s) (d a x q) : Out.upholds o (aluOffset d a x q s) := by
  unfold aluOffset
  split
  · exact finish_upholds h ..
  exact takeFault_upholds h ..

theorem execAdd_upholds (h : o.upholds false s) (d a b) : Out.upholds o (execAdd d a b s) := alu2_upholds h ..
theorem execSub_upholds (h : o.upholds false s) (d a b) : Out.upholds o (execSub d a b s) := alu2_upholds h ..
theorem execAnd_upholds (h : o.upholds false s) (d a b) : Out.upholds o (execAnd d a b s) := alu2_upholds h ..
theorem execOr_upholds (h : o.upholds false s) (d a b) : Out.upholds o (execOr d a b s) := alu2_upholds h ..
theorem execXor_upholds (h : o.upholds false s) (d a b) : Out.upholds o (execXor d a b s) := alu2_upholds h ..
theorem execAndn_upholds (h : o.upholds false s) (d a b) : Out.upholds o (execAndn d a b s) := alu2_upholds h ..
theorem execSll_upholds (h : o.upholds false s) (d a b) : Out.upholds o (execSll d a b s) := alu2_upholds h ..
theorem execSrl_upholds (h : o.upholds false s) (d a b) : Out.upholds o (execSrl d a b s) := alu2_upholds h ..
theorem execSra_upholds (h : o.upholds false s) (d a b) : Out.upholds o (execSra d a b s) := alu2_upholds h ..
theorem execSlli_upholds (h : o.upholds false s) (d a sh) : Out.upholds o (execSlli d a sh s) := alu1_upholds h ..
theorem execSrli_upholds (h : o.upholds false s) (d a sh) : Out.upholds o (execSrli d a sh s) := alu1_upholds h ..
theorem execSrai_upholds (h : o.upholds false s) (d a sh) : Out.upholds o (execSrai d a sh s) := alu1_upholds h ..
theorem execSlt_upholds (h : o.upholds false s) (d a b) : Out.upholds o (execSlt d a b s) := alu2_upholds h ..
theorem execSltu_upholds (h : o.upholds false s) (d a b) : Out.upholds o (execSltu d a b s) := alu2_upholds h ..
theorem execMin_upholds (h : o.upholds false s) (d a b) : Out.upholds o (execMin d a b s) := alu2_upholds h ..
theorem execMax_upholds (h : o.upholds false s) (d a b) : Out.upholds o (execMax d a b s) := alu2_upholds h ..
theorem execMinu_upholds (h : o.upholds false s) (d a b) : Out.upholds o (execMinu d a b s) := alu2_upholds h ..
theorem execMaxu_upholds (h : o.upholds false s) (d a b) : Out.upholds o (execMaxu d a b s) := alu2_upholds h ..
theorem execMul_upholds (h : o.upholds false s) (d a b) : Out.upholds o (execMul d a b s) := alu2_upholds h ..
theorem execMulh_upholds (h : o.upholds false s) (d a b) : Out.upholds o (execMulh d a b s) := alu2_upholds h ..
theorem execMulhu_upholds (h : o.upholds false s) (d a b) : Out.upholds o (execMulhu d a b s) := alu2_upholds h ..
theorem execDiv_upholds (h : o.upholds false s) (d a b) : Out.upholds o (execDiv d a b s) := alu2_upholds h ..
theorem execDivu_upholds (h : o.upholds false s) (d a b) : Out.upholds o (execDivu d a b s) := alu2_upholds h ..
theorem execRem_upholds (h : o.upholds false s) (d a b) : Out.upholds o (execRem d a b s) := alu2_upholds h ..
theorem execRemu_upholds (h : o.upholds false s) (d a b) : Out.upholds o (execRemu d a b s) := alu2_upholds h ..
theorem execClz_upholds (h : o.upholds false s) (d a) : Out.upholds o (execClz d a s) := alu1_upholds h ..
theorem execCtz_upholds (h : o.upholds false s) (d a) : Out.upholds o (execCtz d a s) := alu1_upholds h ..
theorem execPopc_upholds (h : o.upholds false s) (d a) : Out.upholds o (execPopc d a s) := alu1_upholds h ..
theorem execSextb_upholds (h : o.upholds false s) (d a) : Out.upholds o (execSextb d a s) := alu1_upholds h ..
theorem execSexth_upholds (h : o.upholds false s) (d a) : Out.upholds o (execSexth d a s) := alu1_upholds h ..
theorem execSextw_upholds (h : o.upholds false s) (d a) : Out.upholds o (execSextw d a s) := alu1_upholds h ..
theorem execAddw_upholds (h : o.upholds false s) (d a b) : Out.upholds o (execAddw d a b s) := alu2_upholds h ..
theorem execSubw_upholds (h : o.upholds false s) (d a b) : Out.upholds o (execSubw d a b s) := alu2_upholds h ..
theorem execAddh_upholds (h : o.upholds false s) (d a b) : Out.upholds o (execAddh d a b s) := aluOffset_upholds h ..
theorem execAddi_upholds (h : o.upholds false s) (d a imm) : Out.upholds o (execAddi d a imm s) := alu1_upholds h ..
theorem execAndi_upholds (h : o.upholds false s) (d a imm) : Out.upholds o (execAndi d a imm s) := alu1_upholds h ..
theorem execOri_upholds (h : o.upholds false s) (d a imm) : Out.upholds o (execOri d a imm s) := alu1_upholds h ..
theorem execXori_upholds (h : o.upholds false s) (d a imm) : Out.upholds o (execXori d a imm s) := alu1_upholds h ..
theorem execSlti_upholds (h : o.upholds false s) (d a imm) : Out.upholds o (execSlti d a imm s) := alu1_upholds h ..
theorem execSltiu_upholds (h : o.upholds false s) (d a imm) : Out.upholds o (execSltiu d a imm s) := alu1_upholds h ..
theorem execLui_upholds (h : o.upholds false s) (d imm) : Out.upholds o (execLui d imm s) := finish_upholds h ..
theorem execLhi_upholds (h : o.upholds false s) (d a imm) : Out.upholds o (execLhi d a imm s) := alu1_upholds h ..
theorem execAddih_upholds (h : o.upholds false s) (d a imm) : Out.upholds o (execAddih d a imm s) := aluOffset_upholds h ..

/-! ### Vector arithmetic -/

theorem vWrite_upholds (h : o.upholds false s) (w d k f poison) : Out.upholds o (vWrite w d k f poison s) := finish_upholds h ..
theorem vInt2_upholds (h : o.upholds false s) (t g d a b k) : Out.upholds o (vInt2 t g d a b k s) := vWrite_upholds h ..
theorem execVadd_upholds (h : o.upholds false s) (t d a b k) : Out.upholds o (execVadd t d a b k s) := vInt2_upholds h ..
theorem execVsub_upholds (h : o.upholds false s) (t d a b k) : Out.upholds o (execVsub t d a b k s) := vInt2_upholds h ..
theorem execVmul_upholds (h : o.upholds false s) (t d a b k) : Out.upholds o (execVmul t d a b k s) := vInt2_upholds h ..
theorem execVmulh_upholds (h : o.upholds false s) (t d a b k) : Out.upholds o (execVmulh t d a b k s) := vInt2_upholds h ..
theorem execVand_upholds (h : o.upholds false s) (t d a b k) : Out.upholds o (execVand t d a b k s) := vInt2_upholds h ..
theorem execVor_upholds (h : o.upholds false s) (t d a b k) : Out.upholds o (execVor t d a b k s) := vInt2_upholds h ..
theorem execVxor_upholds (h : o.upholds false s) (t d a b k) : Out.upholds o (execVxor t d a b k s) := vInt2_upholds h ..
theorem execVsll_upholds (h : o.upholds false s) (t d a b k) : Out.upholds o (execVsll t d a b k s) := vInt2_upholds h ..
theorem execVsrl_upholds (h : o.upholds false s) (t d a b k) : Out.upholds o (execVsrl t d a b k s) := vInt2_upholds h ..
theorem execVsra_upholds (h : o.upholds false s) (t d a b k) : Out.upholds o (execVsra t d a b k s) := vInt2_upholds h ..
theorem execVmin_upholds (h : o.upholds false s) (t d a b k) : Out.upholds o (execVmin t d a b k s) := vInt2_upholds h ..
theorem execVmax_upholds (h : o.upholds false s) (t d a b k) : Out.upholds o (execVmax t d a b k s) := vInt2_upholds h ..
theorem execVminu_upholds (h : o.upholds false s) (t d a b k) : Out.upholds o (execVminu t d a b k s) := vInt2_upholds h ..
theorem execVmaxu_upholds (h : o.upholds false s) (t d a b k) : Out.upholds o (execVmaxu t d a b k s) := vInt2_upholds h ..
theorem execVabs_upholds (h : o.upholds false s) (t d a k) : Out.upholds o (execVabs t d a k s) := vInt2_upholds h ..
theorem execVadds_upholds (h : o.upholds false s) (t d a b k) : Out.upholds o (execVadds t d a b k s) := vInt2_upholds h ..
theorem vFp_upholds (h : o.upholds false s) (t g d a b k poison) : Out.upholds o (vFp t g d a b k poison s) :=
  vWrite_upholds h ..
theorem execVfadd_upholds (h : o.upholds false s) (t d a b k) : Out.upholds o (execVfadd t d a b k s) := vFp_upholds h ..
theorem execVfsub_upholds (h : o.upholds false s) (t d a b k) : Out.upholds o (execVfsub t d a b k s) := vFp_upholds h ..
theorem execVfmul_upholds (h : o.upholds false s) (t d a b k) : Out.upholds o (execVfmul t d a b k s) := vFp_upholds h ..
theorem execVfma_upholds (h : o.upholds false s) (t d a b k) : Out.upholds o (execVfma t d a b k s) := vFp_upholds h ..
theorem execVfnma_upholds (h : o.upholds false s) (t d a b k) : Out.upholds o (execVfnma t d a b k s) := vFp_upholds h ..
theorem execVfmin_upholds (h : o.upholds false s) (t d a b k) : Out.upholds o (execVfmin t d a b k s) := vFp_upholds h ..
theorem execVfmax_upholds (h : o.upholds false s) (t d a b k) : Out.upholds o (execVfmax t d a b k s) := vFp_upholds h ..
theorem execVfabs_upholds (h : o.upholds false s) (t d a k) : Out.upholds o (execVfabs t d a k s) := vFp_upholds h ..
theorem execVfneg_upholds (h : o.upholds false s) (t d a k) : Out.upholds o (execVfneg t d a k s) := vFp_upholds h ..
theorem execVfrcp_upholds (h : o.upholds false s) (t d a k) : Out.upholds o (execVfrcp t d a k s) := vFp_upholds h ..
theorem execVfrsq_upholds (h : o.upholds false s) (t d a k) : Out.upholds o (execVfrsq t d a k s) := vFp_upholds h ..
theorem execVfexp2_upholds (h : o.upholds false s) (t d a k) : Out.upholds o (execVfexp2 t d a k s) := vFp_upholds h ..
theorem execVflog2_upholds (h : o.upholds false s) (t d a k) : Out.upholds o (execVflog2 t d a k s) := vFp_upholds h ..
theorem vCompare_upholds (h : o.upholds false s) (w g md a b k) : Out.upholds o (vCompare w g md a b k s) := finish_upholds h ..
theorem vcInt_upholds (h : o.upholds false s) (t g md a b k) : Out.upholds o (vcInt t g md a b k s) := vCompare_upholds h ..

theorem vcFp_upholds (h : o.upholds false s) (t quiet g md a b k) : Out.upholds o (vcFp t quiet g md a b k s) := by
  unfold vcFp
  exact vCompare_upholds h ..

theorem execVceq_upholds (h : o.upholds false s) (t md a b k) : Out.upholds o (execVceq t md a b k s) := vcInt_upholds h ..
theorem execVcne_upholds (h : o.upholds false s) (t md a b k) : Out.upholds o (execVcne t md a b k s) := vcInt_upholds h ..
theorem execVclt_upholds (h : o.upholds false s) (t md a b k) : Out.upholds o (execVclt t md a b k s) := vcInt_upholds h ..
theorem execVcle_upholds (h : o.upholds false s) (t md a b k) : Out.upholds o (execVcle t md a b k s) := vcInt_upholds h ..
theorem execVcltu_upholds (h : o.upholds false s) (t md a b k) : Out.upholds o (execVcltu t md a b k s) := vcInt_upholds h ..
theorem execVcfeq_upholds (h : o.upholds false s) (t md a b k) : Out.upholds o (execVcfeq t md a b k s) := vcFp_upholds h ..
theorem execVcflt_upholds (h : o.upholds false s) (t md a b k) : Out.upholds o (execVcflt t md a b k s) := vcFp_upholds h ..
theorem execVcfle_upholds (h : o.upholds false s) (t md a b k) : Out.upholds o (execVcfle t md a b k s) := vcFp_upholds h ..
theorem execVcfun_upholds (h : o.upholds false s) (t md a b k) : Out.upholds o (execVcfun t md a b k s) := vcFp_upholds h ..
theorem maskOp_upholds (h : o.upholds false s) (g md ma mb k) : Out.upholds o (maskOp g md ma mb k s) := finish_upholds h ..
theorem execMand_upholds (h : o.upholds false s) (md ma mb k) : Out.upholds o (execMand md ma mb k s) := maskOp_upholds h ..
theorem execMor_upholds (h : o.upholds false s) (md ma mb k) : Out.upholds o (execMor md ma mb k s) := maskOp_upholds h ..
theorem execMxor_upholds (h : o.upholds false s) (md ma mb k) : Out.upholds o (execMxor md ma mb k s) := maskOp_upholds h ..
theorem execMnot_upholds (h : o.upholds false s) (md ma k) : Out.upholds o (execMnot md ma k s) := maskOp_upholds h ..
theorem execMpopc_upholds (h : o.upholds false s) (d ma k) : Out.upholds o (execMpopc d ma k s) := finish_upholds h ..
theorem execMfirst_upholds (h : o.upholds false s) (d ma k) : Out.upholds o (execMfirst d ma k s) := finish_upholds h ..

/-! ### Vector data movement -/

theorem vLanes_upholds (h : o.upholds false s) (d m f q) : Out.upholds o (vLanes d m f q s) := finish_upholds h ..
theorem vPick_upholds (h : o.upholds false s) (d a m ix q) : Out.upholds o (vPick d a m ix q s) := vLanes_upholds h ..
theorem execVperm_upholds (h : o.upholds false s) (d a b k) : Out.upholds o (execVperm d a b k s) := vPick_upholds h ..
theorem execVslideup_upholds (h : o.upholds false s) (d a b k) : Out.upholds o (execVslideup d a b k s) := vPick_upholds h ..
theorem execVslidedn_upholds (h : o.upholds false s) (d a b k) : Out.upholds o (execVslidedn d a b k s) := vPick_upholds h ..
theorem execVbcast_upholds (h : o.upholds false s) (d a b k) : Out.upholds o (execVbcast d a b k s) := vPick_upholds h ..
theorem execVcompress_upholds (h : o.upholds false s) (d a k) : Out.upholds o (execVcompress d a k s) := vPick_upholds h ..
theorem execVexpand_upholds (h : o.upholds false s) (d a k) : Out.upholds o (execVexpand d a k s) := vPick_upholds h ..
theorem execVsel_upholds (h : o.upholds false s) (d a b k) : Out.upholds o (execVsel d a b k s) := finish_upholds h ..
theorem vcvtLane_upholds (h : o.upholds false s) (g d a k) : Out.upholds o (vcvtLane g d a k s) := vWrite_upholds h ..
theorem vNarrow_upholds (h : o.upholds false s) (w hd g d a k q) : Out.upholds o (vNarrow w hd g d a k q s) :=
  finish_upholds h ..
theorem vWiden_upholds (h : o.upholds false s) (w hd g d a k) : Out.upholds o (vWiden w hd g d a k s) := vWrite_upholds h ..
theorem vBlockEnc_upholds (h : o.upholds false s) (hd enc d a k q) : Out.upholds o (vBlockEnc hd enc d a k q s) :=
  finish_upholds h ..
theorem vBlockDec_upholds (h : o.upholds false s) (hd n dec at_ d a k q) : Out.upholds o (vBlockDec hd n dec at_ d a k q s) :=
  vWrite_upholds h ..
theorem execVcvtF32I32_upholds (h : o.upholds false s) (d a k) : Out.upholds o (execVcvtF32I32 d a k s) := vcvtLane_upholds h ..
theorem execVcvtI32F32_upholds (h : o.upholds false s) (d a k) : Out.upholds o (execVcvtI32F32 d a k s) := vcvtLane_upholds h ..
theorem execVcvtBf16F32_upholds (h : o.upholds false s) (d a hd k) : Out.upholds o (execVcvtBf16F32 d a hd k s) :=
  vNarrow_upholds h ..
theorem execVcvtF32Bf16_upholds (h : o.upholds false s) (d a hd k) : Out.upholds o (execVcvtF32Bf16 d a hd k s) :=
  vWiden_upholds h ..
theorem execVcvtF16F32_upholds (h : o.upholds false s) (d a hd k) : Out.upholds o (execVcvtF16F32 d a hd k s) :=
  vNarrow_upholds h ..
theorem execVcvtF32F16_upholds (h : o.upholds false s) (d a hd k) : Out.upholds o (execVcvtF32F16 d a hd k s) :=
  vWiden_upholds h ..
theorem execVcvtI8I32_upholds (h : o.upholds false s) (d a hd k) : Out.upholds o (execVcvtI8I32 d a hd k s) :=
  vNarrow_upholds h ..
theorem execVcvtI32I8_upholds (h : o.upholds false s) (d a hd k) : Out.upholds o (execVcvtI32I8 d a hd k s) :=
  vWiden_upholds h ..
theorem execVcvtE2m1F32_upholds (h : o.upholds false s) (d a hd k) : Out.upholds o (execVcvtE2m1F32 d a hd k s) :=
  vBlockEnc_upholds h ..
theorem execVcvtF32E2m1_upholds (h : o.upholds false s) (d a hd k) : Out.upholds o (execVcvtF32E2m1 d a hd k s) :=
  vBlockDec_upholds h ..
theorem execVbxenc_upholds (h : o.upholds false s) (t d a b k) : Out.upholds o (execVbxenc t d a b k s) := vBlockEnc_upholds h ..
theorem execVbxdec_upholds (h : o.upholds false s) (t d a b k) : Out.upholds o (execVbxdec t d a b k s) := vBlockDec_upholds h ..

theorem execVqnt_upholds (h : o.upholds false s) (t d a b k) : Out.upholds o (execVqnt t d a b k s) := by
  unfold execVqnt
  extract_lets +onlyGivenNames _ _
  split <;> exact vNarrow_upholds h ..

theorem vReduce_upholds (h : o.upholds false s) (d k' k res a) : Out.upholds o (vReduce d k' k res a s) := finish_upholds h ..
theorem execVrsum_upholds (h : o.upholds false s) (t d a k) : Out.upholds o (execVrsum t d a k s) := vReduce_upholds h ..
theorem execVfrsum_upholds (h : o.upholds false s) (t d a k) : Out.upholds o (execVfrsum t d a k s) := vReduce_upholds h ..
theorem execVrmin_upholds (h : o.upholds false s) (t d a k) : Out.upholds o (execVrmin t d a k s) := vReduce_upholds h ..
theorem execVrmax_upholds (h : o.upholds false s) (t d a k) : Out.upholds o (execVrmax t d a k s) := vReduce_upholds h ..
theorem execVfrmin_upholds (h : o.upholds false s) (t d a k) : Out.upholds o (execVfrmin t d a k s) := vReduce_upholds h ..
theorem execVfrmax_upholds (h : o.upholds false s) (t d a k) : Out.upholds o (execVfrmax t d a k s) := vReduce_upholds h ..
theorem execVdot_upholds (h : o.upholds false s) (t d a b k) : Out.upholds o (execVdot t d a b k s) := vReduce_upholds h ..
theorem execVfdot_upholds (h : o.upholds false s) (t d a b k) : Out.upholds o (execVfdot t d a b k s) := vReduce_upholds h ..
theorem execVargmax_upholds (h : o.upholds false s) (t d a k) : Out.upholds o (execVargmax t d a k s) := vReduce_upholds h ..
theorem execVmovg_upholds (h : o.upholds false s) (d a k) : Out.upholds o (execVmovg d a k s) := vLanes_upholds h ..
theorem execVget_upholds (h : o.upholds false s) (d a b _k) : Out.upholds o (execVget d a b _k s) := finish_upholds h ..
theorem execVput_upholds (h : o.upholds false s) (d a b k) : Out.upholds o (execVput d a b k s) := vLanes_upholds h ..
theorem execViota_upholds (h : o.upholds false s) (d a k) : Out.upholds o (execViota d a k s) := vLanes_upholds h ..
theorem execVmov_upholds (h : o.upholds false s) (d a k) : Out.upholds o (execVmov d a k s) := vPick_upholds h ..
theorem execT5pk_upholds (h : o.upholds false s) (d a hd k) : Out.upholds o (execT5pk d a hd k s) := vLanes_upholds h ..
theorem t5Fault_upholds (h : o.upholds false s) (hd j) : Out.upholds o (t5Fault hd j s) := takeFault_upholds h ..

theorem execT5upk_upholds (h : o.upholds false s) (d a hd k) : Out.upholds o (execT5upk d a hd k s) := by
  unfold execT5upk
  extract_lets +onlyGivenNames _
  split
  · exact t5Fault_upholds h ..
  exact vWrite_upholds h ..

theorem execT5cnt_upholds (h : o.upholds false s) (d a hd _k) : Out.upholds o (execT5cnt d a hd _k s) := by
  unfold execT5cnt
  extract_lets +onlyGivenNames _
  split
  · exact t5Fault_upholds h ..
  exact finish_upholds h ..

/-! ### Vector memory -/

theorem State.laneAddrs_upholds (h : o.upholds fix s) (c p wr off l) : okUpholds o fix (s.laneAddrs c p wr off l) := by
  induction l generalizing s with
  | nil => exact h
  | cons i l ih =>
    unfold State.laneAddrs
    split
    · trivial
    · split
      · trivial
      · next u x e =>
          have k : o.upholds fix u := by
            refine ok_upholds ?_ e
            split
            · exact State.storeAddr_upholds h ..
            · exact State.loadAddr_upholds h ..
          split
          · trivial
          · split
            · trivial
            · next e => exact ok_upholds (ih k) e

theorem vLoad_upholds (h : o.upholds false s) (d gb k off4 off idxPoison) :
    Out.upholds o (vLoad d gb k off4 off idxPoison s) := by
  unfold vLoad
  extract_lets +onlyGivenNames _ _ _
  split
  · exact memFault_upholds h ..
  next e =>
    split
    · exact memFault_upholds h ..
    · next e1 => exact Got.wait_upholds (State.readVia_upholds (ok_upholds (State.laneAddrs_upholds h ..) e) ..) e1
    · next e1 =>
        exact finish_upholds (Got.ok_upholds (State.readVia_upholds (ok_upholds (State.laneAddrs_upholds h ..) e) ..) e1) ..

theorem vStore_upholds (h : o.upholds false s) (v gb k off4 off i) : Out.upholds o (vStore v gb k off4 off i s) := by
  unfold vStore
  refine storeAllowed_upholds h (fun h => ?_) ..
  extract_lets +onlyGivenNames _ _
  split
  · exact memFault_upholds h ..
  next e =>
    split
    · exact memFault_upholds h ..
    · next e1 => exact Put.wait_upholds (State.issueStore_upholds (ok_upholds (State.laneAddrs_upholds h ..) e) ..) e1
    · next e1 =>
        exact retire_upholds (Put.ok_upholds (State.issueStore_upholds (ok_upholds (State.laneAddrs_upholds h ..) e) ..) e1) ..

theorem execVld_upholds (h : o.upholds false s) (d gb k off4) : Out.upholds o (execVld d gb k off4 s) := vLoad_upholds h ..
theorem execVst_upholds (h : o.upholds false s) (v gb k off4) : Out.upholds o (execVst v gb k off4 s) := vStore_upholds h ..
theorem execVlds_upholds (h : o.upholds false s) (d gb gs k off4) : Out.upholds o (execVlds d gb gs k off4 s) :=
  vLoad_upholds h ..
theorem execVldx_upholds (h : o.upholds false s) (d gb vs k off4) : Out.upholds o (execVldx d gb vs k off4 s) :=
  vLoad_upholds h ..
theorem execVstx_upholds (h : o.upholds false s) (v gb vs k off4) : Out.upholds o (execVstx v gb vs k off4 s) :=
  vStore_upholds h ..

theorem execVldb_upholds (h : o.upholds false s) (d gb k off4) : Out.upholds o (execVldb d gb k off4 s) := by
  unfold execVldb
  extract_lets +onlyGivenNames _ _
  split
  · exact memFault_upholds h ..
  next e =>
    split
    · exact memFault_upholds h ..
    · next e1 => exact Got.wait_upholds (State.readVia_upholds (ok_upholds (State.laneAddrs_upholds h ..) e) ..) e1
    · next e1 =>
        exact finish_upholds (Got.ok_upholds (State.readVia_upholds (ok_upholds (State.laneAddrs_upholds h ..) e) ..) e1) ..

theorem execZset_upholds (h : o.upholds false s) (d a) : Out.upholds o (execZset d a s) := finish_upholds h ..
theorem execZclr_upholds (h : o.upholds false s) (d) : Out.upholds o (execZclr d s) := finish_upholds h ..

theorem execZld_upholds (h : o.upholds false s) (d a) : Out.upholds o (execZld d a s) := by
  unfold execZld
  extract_lets +onlyGivenNames _
  split
  · exact memFault_upholds h ..
  next e =>
    split
    · exact takeFault_upholds (ok_upholds (State.loadAddr_upholds h ..) e) ..
    split
    · exact memFault_upholds h ..
    · next e1 => exact Got.wait_upholds (State.readVia_upholds (ok_upholds (State.loadAddr_upholds h ..) e) ..) e1
    · next e1 =>
        exact finish_upholds (Got.ok_upholds (State.readVia_upholds (ok_upholds (State.loadAddr_upholds h ..) e) ..) e1) ..

theorem execZst_upholds (h : o.upholds false s) (a b) : Out.upholds o (execZst a b s) := by
  unfold execZst
  refine storeAllowed_upholds h (fun h' => ?_) ..
  split
  · exact memFault_upholds h' ..
  next e =>
    split
    · exact takeFault_upholds (ok_upholds (State.storeAddr_upholds h' ..) e) ..
    split
    · exact memFault_upholds h' ..
    · next e1 => exact Put.wait_upholds (State.writeVia_upholds (ok_upholds (State.storeAddr_upholds h' ..) e) ..) e1
    · next e1 =>
        exact retire_upholds (Put.ok_upholds (State.writeVia_upholds (ok_upholds (State.storeAddr_upholds h' ..) e) ..) e1) ..

theorem execZand_upholds (h : o.upholds false s) (d a b) : Out.upholds o (execZand d a b s) := finish_upholds h ..
theorem execZor_upholds (h : o.upholds false s) (d a b) : Out.upholds o (execZor d a b s) := finish_upholds h ..
theorem execZtest_upholds (h : o.upholds false s) (d a b) : Out.upholds o (execZtest d a b s) := finish_upholds h ..
theorem execZfromm_upholds (h : o.upholds false s) (d a) : Out.upholds o (execZfromm d a s) := finish_upholds h ..

end Sys2Proof.Machine
end

section
/-! What a step keeps: dispatch and a whole step.
One lemma for each function of the model that gives a state, in the model's order. -/

namespace Sys2Proof.Machine

variable {o s : State} {fix : Bool}

/-! ### Dispatch -/

theorem exec_upholds (h : o.upholds false s) (i) : Out.upholds o (exec i s) := by
  cases i with
  | launchPacketWrite => exact execLaunchPacketWrite_upholds h ..
  | launchDistribute => exact execLaunchDistribute_upholds h ..
  | fieldStart => exact execFieldStart_upholds h ..
  | gangDeadline => exact execGangDeadline_upholds h ..
  | launchComplete => exact execLaunchComplete_upholds h ..
  | fireActor => exact execFireActor_upholds h ..
  | firingResume => exact execFiringResume_upholds h ..
  | nop => exact execNop_upholds h ..
  | fend => exact execFend_upholds h ..
  | trap => exact execTrap_upholds h ..
  | brk => exact execBrk_upholds h ..
  | mfc => exact execMfc_upholds h ..
  | mtc => exact execMtc_upholds h ..
  | jr => exact execJr_upholds h ..
  | jalr => exact execJalr_upholds h ..
  | fence sc => exact execFence_upholds h sc
  | idmb => exact execIdmb_upholds h ..
  | idme => exact execIdme_upholds h ..
  | clmask => exact execClmask_upholds h ..
  | clunmask => exact execClunmask_upholds h ..
  | add => exact execAdd_upholds h ..
  | sub => exact execSub_upholds h ..
  | and => exact execAnd_upholds h ..
  | or => exact execOr_upholds h ..
  | xor => exact execXor_upholds h ..
  | andn => exact execAndn_upholds h ..
  | sll => exact execSll_upholds h ..
  | srl => exact execSrl_upholds h ..
  | sra => exact execSra_upholds h ..
  | slli => exact execSlli_upholds h ..
  | srli => exact execSrli_upholds h ..
  | srai => exact execSrai_upholds h ..
  | slt => exact execSlt_upholds h ..
  | sltu => exact execSltu_upholds h ..
  | min => exact execMin_upholds h ..
  | max => exact execMax_upholds h ..
  | minu => exact execMinu_upholds h ..
  | maxu => exact execMaxu_upholds h ..
  | mul => exact execMul_upholds h ..
  | mulh => exact execMulh_upholds h ..
  | mulhu => exact execMulhu_upholds h ..
  | div => exact execDiv_upholds h ..
  | divu => exact execDivu_upholds h ..
  | rem => exact execRem_upholds h ..
  | remu => exact execRemu_upholds h ..
  | clz => exact execClz_upholds h ..
  | ctz => exact execCtz_upholds h ..
  | popc => exact execPopc_upholds h ..
  | sextb => exact execSextb_upholds h ..
  | sexth => exact execSexth_upholds h ..
  | sextw => exact execSextw_upholds h ..
  | addw => exact execAddw_upholds h ..
  | subw => exact execSubw_upholds h ..
  | addh => exact execAddh_upholds h ..
  | addi => exact execAddi_upholds h ..
  | andi => exact execAndi_upholds h ..
  | ori => exact execOri_upholds h ..
  | xori => exact execXori_upholds h ..
  | slti => exact execSlti_upholds h ..
  | sltiu => exact execSltiu_upholds h ..
  | lui => exact execLui_upholds h ..
  | lhi => exact execLhi_upholds h ..
  | addih => exact execAddih_upholds h ..
  | ld => exact execLd_upholds h ..
  | ldx => exact execLdx_upholds h ..
  | st => exact execSt_upholds h ..
  | beq => exact execBeq_upholds h ..
  | bne => exact execBne_upholds h ..
  | blt => exact execBlt_upholds h ..
  | bge => exact execBge_upholds h ..
  | bltu => exact execBltu_upholds h ..
  | bgeu => exact execBgeu_upholds h ..
  | j => exact execJ_upholds h ..
  | jal => exact execJal_upholds h ..
  | loop => exact execLoop_upholds h ..
  | lda sc t a off => exact execLda_upholds h sc t a off
  | stl => exact execStl_upholds h ..
  | semadd => exact execSemadd_upholds h ..
  | semsub => exact execSemsub_upholds h ..
  | semwait => exact execSemwait_upholds h ..
  | semget => exact execSemget_upholds h ..
  | rvinit => exact execRvinit_upholds h ..
  | rvarr => exact execRvarr_upholds h ..
  | rvwait => exact execRvwait_upholds h ..
  | acq => exact execAcq_upholds h ..
  | rel => exact execRel_upholds h ..
  | syncadd => exact execSyncadd_upholds h ..
  | synccas => exact execSynccas_upholds h ..
  | waitv sc isAcq ge d a b => exact execWaitv_upholds h sc isAcq ge d a b
  | msg => exact execMsg_upholds h ..
  | upd => exact execUpd_upholds h ..
  | updv => exact execUpdv_upholds h ..
  | updfl => exact execUpdfl_upholds h ..
  | vadd => exact execVadd_upholds h ..
  | vsub => exact execVsub_upholds h ..
  | vmul => exact execVmul_upholds h ..
  | vmulh => exact execVmulh_upholds h ..
  | vand => exact execVand_upholds h ..
  | vor => exact execVor_upholds h ..
  | vxor => exact execVxor_upholds h ..
  | vsll => exact execVsll_upholds h ..
  | vsrl => exact execVsrl_upholds h ..
  | vsra => exact execVsra_upholds h ..
  | vmin => exact execVmin_upholds h ..
  | vmax => exact execVmax_upholds h ..
  | vminu => exact execVminu_upholds h ..
  | vmaxu => exact execVmaxu_upholds h ..
  | vabs => exact execVabs_upholds h ..
  | vadds => exact execVadds_upholds h ..
  | vfadd => exact execVfadd_upholds h ..
  | vfsub => exact execVfsub_upholds h ..
  | vfmul => exact execVfmul_upholds h ..
  | vfma => exact execVfma_upholds h ..
  | vfnma => exact execVfnma_upholds h ..
  | vfmin => exact execVfmin_upholds h ..
  | vfmax => exact execVfmax_upholds h ..
  | vfabs => exact execVfabs_upholds h ..
  | vfneg => exact execVfneg_upholds h ..
  | vfrcp => exact execVfrcp_upholds h ..
  | vfrsq => exact execVfrsq_upholds h ..
  | vfexp2 => exact execVfexp2_upholds h ..
  | vflog2 => exact execVflog2_upholds h ..
  | vceq => exact execVceq_upholds h ..
  | vcne => exact execVcne_upholds h ..
  | vclt => exact execVclt_upholds h ..
  | vcle => exact execVcle_upholds h ..
  | vcltu => exact execVcltu_upholds h ..
  | vcfeq => exact execVcfeq_upholds h ..
  | vcflt => exact execVcflt_upholds h ..
  | vcfle => exact execVcfle_upholds h ..
  | vcfun => exact execVcfun_upholds h ..
  | mand => exact execMand_upholds h ..
  | mor => exact execMor_upholds h ..
  | mxor => exact execMxor_upholds h ..
  | mnot => exact execMnot_upholds h ..
  | mpopc => exact execMpopc_upholds h ..
  | mfirst => exact execMfirst_upholds h ..
  | vperm => exact execVperm_upholds h ..
  | vslideup => exact execVslideup_upholds h ..
  | vslidedn => exact execVslidedn_upholds h ..
  | vbcast => exact execVbcast_upholds h ..
  | vcompress => exact execVcompress_upholds h ..
  | vexpand => exact execVexpand_upholds h ..
  | vsel => exact execVsel_upholds h ..
  | vcvtF32I32 => exact execVcvtF32I32_upholds h ..
  | vcvtI32F32 => exact execVcvtI32F32_upholds h ..
  | vcvtBf16F32 => exact execVcvtBf16F32_upholds h ..
  | vcvtF32Bf16 => exact execVcvtF32Bf16_upholds h ..
  | vcvtF16F32 => exact execVcvtF16F32_upholds h ..
  | vcvtF32F16 => exact execVcvtF32F16_upholds h ..
  | vcvtI8I32 => exact execVcvtI8I32_upholds h ..
  | vcvtI32I8 => exact execVcvtI32I8_upholds h ..
  | vcvtE2m1F32 => exact execVcvtE2m1F32_upholds h ..
  | vcvtF32E2m1 => exact execVcvtF32E2m1_upholds h ..
  | vbxenc => exact execVbxenc_upholds h ..
  | vbxdec => exact execVbxdec_upholds h ..
  | vqnt => exact execVqnt_upholds h ..
  | vrsum => exact execVrsum_upholds h ..
  | vfrsum => exact execVfrsum_upholds h ..
  | vrmin => exact execVrmin_upholds h ..
  | vrmax => exact execVrmax_upholds h ..
  | vfrmin => exact execVfrmin_upholds h ..
  | vfrmax => exact execVfrmax_upholds h ..
  | vdot => exact execVdot_upholds h ..
  | vfdot => exact execVfdot_upholds h ..
  | vargmax => exact execVargmax_upholds h ..
  | vld => exact execVld_upholds h ..
  | vst => exact execVst_upholds h ..
  | vlds => exact execVlds_upholds h ..
  | vldx => exact execVldx_upholds h ..
  | vstx => exact execVstx_upholds h ..
  | vldb => exact execVldb_upholds h ..
  | vmovg => exact execVmovg_upholds h ..
  | vget d a b k => exact execVget_upholds h d a b k
  | vput => exact execVput_upholds h ..
  | viota => exact execViota_upholds h ..
  | vmov => exact execVmov_upholds h ..
  | t5pk => exact execT5pk_upholds h ..
  | t5upk => exact execT5upk_upholds h ..
  | t5cnt d a n k => exact execT5cnt_upholds h d a n k
  | zset => exact execZset_upholds h ..
  | zclr => exact execZclr_upholds h ..
  | zld => exact execZld_upholds h ..
  | zst => exact execZst_upholds h ..
  | zand => exact execZand_upholds h ..
  | zor => exact execZor_upholds h ..
  | ztest => exact execZtest_upholds h ..
  | zfromm => exact execZfromm_upholds h ..
  | recv => exact execRecv_upholds h ..
  | recvg => exact execRecvg_upholds h ..
  | send => exact execSend_upholds h ..
  | sendg => exact execSendg_upholds h ..
  | peektag => exact execPeektag_upholds h ..
  | sendtag => exact execSendtag_upholds h ..
  | pcount d p k => exact execPcount_upholds h d p k
  | kld => exact execKld_upholds h ..
  | kst => exact execKst_upholds h ..
  | kins => exact execKins_upholds h ..
  | kclr => exact execKclr_upholds h ..
  | kissue => exact execKissue_upholds h ..
  | kwait => exact execKwait_upholds h ..
  | hinv => exact execHinv_upholds h ..
  | imginv => exact execImginv_upholds h ..
  | tlbi => exact execTlbi_upholds h ..
  | ctxsave => exact execCtxsave_upholds h ..
  | ctxload => exact execCtxload_upholds h ..
  | solvreq => exact execSolvreq_upholds h ..
  | prqEntryGrant => exact execPrqEntryGrant_upholds h ..
  | doneTokenTake => exact execDoneTokenTake_upholds h ..
  | commandSemaphoreWait => exact execCommandSemaphoreWait_upholds h ..
  | engineTokenPush => exact execEngineTokenPush_upholds h ..
  | engineTokenTake => exact execEngineTokenTake_upholds h ..
  | commandComplete => exact execCommandComplete_upholds h ..
  | lds => exact execLds_upholds h ..
  | sts => exact execSts_upholds h ..
  | ldl => exact execLdl_upholds h ..
  | cpy => exact execCpy_upholds h ..
  | cpym => exact execCpym_upholds h ..
  | fill => exact execFill_upholds h ..
  | sct => exact execSct_upholds h ..
  | sctGleaner => exact execSctGleaner_upholds h ..
  | splrd => exact execSplrd_upholds h ..
  | nopc => exact execNopc_upholds h ..
  | spillRingRefill => exact execSpillRingRefill_upholds h ..
  | registerWindowLand => exact execRegisterWindowLand_upholds h ..
  | gth => exact execGth_upholds h ..
  | gleanerLineReply => exact execGleanerLineReply_upholds h ..
  | upds => exact execUpds_upholds h ..
  | apnl => exact execApnl_upholds h ..
  | arun => exact execArun_upholds h ..
  | arunRowDispatch => exact execArunRowDispatch_upholds h ..
  | adrn => exact execAdrn_upholds h ..
  | asort => exact execAsort_upholds h ..
  | acfg => exact execAcfg_upholds h ..
  | coll => exact execColl_upholds h ..
  | collectiveMatch => exact execCollectiveMatch_upholds h ..
  | collectiveComplete => exact execCollectiveComplete_upholds h ..
  | nodeSection => exact execNodeSection_upholds h ..
  | sectionArm => exact execSectionArm_upholds h ..
  | sectionEnd => exact execSectionEnd_upholds h ..
  | nodeSeq => exact execNodeSeq_upholds h ..
  | nodePipe => exact execNodePipe_upholds h ..
  | nodeStream => exact execNodeStream_upholds h ..
  | childDone => exact execChildDone_upholds h ..
  | nodeCond => exact execNodeCond_upholds h ..
  | nodeWhile => exact execNodeWhile_upholds h ..
  | nodeSwitch => exact execNodeSwitch_upholds h ..
  | nodeWaitf => exact execNodeWaitf_upholds h ..
  | waitfSatisfied => exact execWaitfSatisfied_upholds h ..
  | nodeRate => exact execNodeRate_upholds h ..
  | nodeEnd => exact execNodeEnd_upholds h ..
  | sequencerFault => exact execSequencerFault_upholds h ..
  | messageDeliver => exact execMessageDeliver_upholds h ..
  | pairArrive => exact execPairArrive_upholds h ..
  | batchTimeout => exact execBatchTimeout_upholds h ..
  | batchInsert => exact execBatchInsert_upholds h ..
  | sweep => exact execSweep_upholds h ..
  | multicastRequest => exact execMulticastRequest_upholds h ..
  | solve => exact execSolve_upholds h ..
  | ratioApply => exact execRatioApply_upholds h ..
  | railSettled => exact execRailSettled_upholds h ..
  | sampleBoundary => exact execSampleBoundary_upholds h ..
  | powerIntervalEnd => exact execPowerIntervalEnd_upholds h ..
  | partitionCreate => exact execPartitionCreate_upholds h ..
  | partitionRemove => exact execPartitionRemove_upholds h ..
  | slicecfgWrite => exact execSlicecfgWrite_upholds h ..
  | precmdStop => exact execPrecmdStop_upholds h ..
  | precmdStopNow => exact execPrecmdStopNow_upholds h ..
  | precmdResume => exact execPrecmdResume_upholds h ..
  | sliceExpire => exact execSliceExpire_upholds h ..
  | graceExpire => exact execGraceExpire_upholds h ..
  | drainExpire => exact execDrainExpire_upholds h ..
  | stopWaveHalt => exact execStopWaveHalt_upholds h ..
  | stopComplete => exact execStopComplete_upholds h ..
  | restoreComplete => exact execRestoreComplete_upholds h ..
  | prqtake => exact execPrqtake_upholds h ..
  | prqdoneFill => exact execPrqdoneFill_upholds h ..
  | prqdoneFail => exact execPrqdoneFail_upholds h ..
  | mailboxInvalidate => exact execMailboxInvalidate_upholds h ..
  | mailboxUnknown => exact execMailboxUnknown_upholds h ..
  | hostBar2Write => exact execHostBar2Write_upholds h ..
  | hostBar2Read => exact execHostBar2Read_upholds h ..
  | hostWriteForward => exact execHostWriteForward_upholds h ..
  | registerWrite => exact execRegisterWrite_upholds h ..
  | reset => exact execReset_upholds h ..
  | moduleNumberAssign => exact execModuleNumberAssign_upholds h ..
  | linkCrcError => exact execLinkCrcError_upholds h ..
  | linkAckTimeout => exact execLinkAckTimeout_upholds h ..
  | linkRetrain => exact execLinkRetrain_upholds h ..
  | linkDown => exact execLinkDown_upholds h ..
  | linkRouteTimeout => exact execLinkRouteTimeout_upholds h ..
  | deviceTimeAlign => exact execDeviceTimeAlign_upholds h ..
  | storageError => exact execStorageError_upholds h ..
  | illegalInstruction => exact execIllegalInstruction_upholds h ..
  | notANodeVisit => exact execNotANodeVisit_upholds h ..
  | routeReturn => exact execRouteReturn_upholds h ..
  | channelTokenArrive => exact execChannelTokenArrive_upholds h ..
  | coincidentEdge => exact execCoincidentEdge_upholds h ..
  | bootReady => exact execBootReady_upholds h ..
  | hostPortTrain => exact execHostPortTrain_upholds h ..

/-! ### Time at an issue -/

theorem State.localLoads_upholds (h : o.upholds fix s) (old) : o.upholds fix (s.localLoads old) := by
  unfold State.localLoads
  refine State.foldl_upholds (fun h _ => State.foldl_upholds (fun h _ => ?_) _ h) _ h
  split
  · exact localCycles_upholds h ..
  exact h

theorem State.advanceTime_upholds (h : o.upholds fix s) (issue) : o.upholds fix (s.advanceTime issue) :=
  State.localLoads_upholds (State.pass_upholds h ..) ..

/-! ### Requests of peers -/

theorem State.servePeer_upholds (h : o.upholds fix s) (m t x) : o.upholds fix (s.servePeer m t x) := by
  unfold State.servePeer
  extract_lets +onlyGivenNames _
  split
  · exact h
  split
  · split
    · exact h
    split
    · exact h
    exact State.readSegs_upholds h ..
  · split
    · exact h
    split
    · exact h
    exact State.writeSegs_upholds h ..
  · split
    · exact h
    exact State.serialise_upholds h ..
  · split
    · exact h
    extract_lets +onlyGivenNames r1
    have h1 : fstUpholds o fix r1 := State.readWord_upholds h ..
    exact State.writeWord_upholds h1 ..
  · split
    · exact h
    extract_lets +onlyGivenNames r1
    have h1 : fstUpholds o fix r1 := State.readWord_upholds h ..
    split
    · exact State.writeWord_upholds h1 ..
    exact h1
  · exact h
  · exact h
  · exact State.sweepSet_upholds h ..

/-! ### Steps -/

theorem after_upholds {x : Out} (h : Out.upholds o x) : Out.upholds o (after x) := by
  cases x with
  | next s => exact State.unload_upholds h
  | fault f => trivial
  | refused r => trivial

theorem State.runWord_upholds (h : o.upholds false s) : Out.upholds o s.runWord := by
  unfold State.runWord
  split
  · exact after_upholds (takeFault_upholds h ..) ..
  split
  · exact after_upholds (exec_upholds h ..) ..
  exact after_upholds (execIllegalInstruction_upholds h ..) ..

theorem State.issue_upholds (h : o.upholds false s) (b a) : Out.upholds o (s.issue b a) := by
  unfold State.issue
  split
  · exact State.advanceTime_upholds h ..
  extract_lets +onlyGivenNames t1
  have h1 : o.upholds false t1 := State.advanceTime_upholds h ..
  split
  · exact h1
  exact State.runWord_upholds (State.load'_upholds h1 ..) ..

theorem step_upholds (h : o.upholds false s) : Out.upholds o (step s) := by
  unfold step
  extract_lets +onlyGivenNames t1
  have h1 : o.upholds false t1 := h
  split
  · exact State.issue_upholds h1 ..
  · exact State.perform_upholds (State.advanceTime_upholds h1 ..) ..
  · exact State.registerRead_upholds (State.advanceTime_upholds h1 ..) ..
  · exact State.servePeer_upholds (State.advanceTime_upholds h1 ..) ..
  · split
    · exact trivial
    exact exec_upholds (State.advanceTime_upholds h1 ..) ..

/-- Settles O7: every step keeps both memories and the mailbox window in canonical form, since every function a step
reaches does. -/
theorem stepKeepsMemoryForm : Obligations.StepKeepsMemoryForm := by
  unfold Obligations.StepKeepsMemoryForm
  intro s t mem poison mbox e
  have k : Out.upholds s (.next t) := e ▸ step_upholds (State.upholds_refl s)
  exact k.2.1 ⟨mem, poison, mbox⟩

end Sys2Proof.Machine
end

section
/-! What a store does to memory (R53, R54, R61): its runs lie in the memory map and hold no register byte, forming its address
changes nothing that decides the write, and its bytes then go to memory in order. -/

namespace Sys2Proof.Machine

/-! ### Address formation with no pair on its way to memory -/

/-- The parts of the state that decide what a write does to memory. -/
def State.stored (s : State) : Memory × Table Slice × List Pair × List WordWaiter × List Inst :=
  (s.mem, s.slices, s.pairs, s.waiters, s.insts)

/-- A run that the memory map holds (R53). -/
def Seg.placed (x : Seg) : Prop := ∃ top ≤ Config.hbmTop, localBad top (gaLocal x.addr) x.len = none

/-- An address formed from `o`: its runs are placed, and what decides a write is as it was. -/
def formedFrom (o : State) : Except Flt (State × List Seg) → Prop
  | .ok (s, l) => s.stored = o.stored ∧ ∀ x ∈ l, x.placed
  | .error _ => True

section
variable {s o : State}

theorem State.slices_of_stored (h : s.stored = o.stored) (none_ : o.slices = []) : s.slices = [] :=
  (congrArg (fun r => r.2.1) h).trans none_

theorem State.atHome_noSlices (h : s.slices = []) (a : Nat) : s.atHome a = s := by
  have open_ (k : Nat) : (s.slice k).closed = false := by unfold State.slice; rw [h]; rfl
  unfold State.atHome State.settle State.settleN
  simp [open_]

theorem State.usable_le (s : State) (m : Nat) : s.usable m ≤ Config.hbmTop := by
  have few : Config.enabledChannels.length ≤ 16384 := by
    have h := List.length_filter_le (fun c => !Config.channelOff c) (List.range 16384)
    unfold Config.enabledChannels
    rw [List.length_range] at h
    split
    · decide
    · next e => rw [← e]; exact h
  unfold State.usable
  split
  · calc Config.enabledChannels.length * 2 ^ 27 ≤ 16384 * 2 ^ 27 := Nat.mul_le_mul_right _ few
      _ = Config.hbmTop := by decide
  · exact Nat.min_le_right ..

theorem placed_of_checkSegs {v : Bool} {l : List Seg} (h : s.checkSegs v l = none) : ∀ x ∈ l, x.placed := by
  induction l with
  | nil => exact fun _ h => absurd h List.not_mem_nil
  | cons y l ih =>
    unfold State.checkSegs at h
    extract_lets m a at h
    split at h
    · cases h
    · split at h
      · cases h
      · split at h
        · cases h
        · next held =>
          intro x hx
          rcases List.mem_cons.mp hx with rfl | hx
          · exact ⟨_, s.usable_le m, held⟩
          · exact ih h x hx

theorem State.walk_stored (none_ : o.slices = []) (h : s.stored = o.stored) (u t va tbl : Nat) (ls : List (Nat × Nat × Nat)) :
    (State.walk State.atHome s u t va tbl ls).1.stored = o.stored := by
  induction ls generalizing s tbl with
  | nil => exact h
  | cons l ls ih =>
    obtain ⟨lo, w, al⟩ := l
    unfold State.walk
    extract_lets a read fresh mine old next e addr last
    have k : next.stored = o.stored := by
      unfold next read
      rw [State.atHome_noSlices (State.slices_of_stored h none_)]
      split <;> exact h
    split
    · exact k
    split
    · exact k
    split
    · split
      · exact k
      · exact k
    split
    · exact k
    refine ih ?_ _
    unfold last
    split <;> exact k

theorem State.translate_stored (none_ : o.slices = []) (h : s.stored = o.stored) (u t va : Nat) :
    (State.translate State.atHome s u t va).1.stored = o.stored := by
  unfold State.translate
  extract_lets +onlyGivenNames fresh
  have walked : fresh.1.stored = o.stored := State.walk_stored none_ h ..
  clear_value fresh
  extract_lets +onlyGivenNames hit start put
  have cached : put.stored = o.stored := by unfold put; split <;> exact walked
  split
  · exact cached
  · extract_lets +onlyGivenNames old
    split
    · exact h
    · split
      · exact h
      · exact cached

theorem State.transRange_formed (none_ : o.slices = []) (h : s.stored = o.stored) (c : Ctx) (p : Word) (wr : Bool)
    (fuel va len : Nat) : formedFrom o (State.transRange State.atHome s c p wr fuel va len) := by
  induction fuel generalizing s va len with
  | zero => exact ⟨h, fun _ h => absurd h List.not_mem_nil⟩
  | succ fuel ih =>
    unfold State.transRange
    split
    · exact ⟨h, fun _ h => absurd h List.not_mem_nil⟩
    split
    · trivial
    next e =>
    have k := State.translate_stored none_ h c.walker c.tenant va
    rw [e] at k
    extract_lets off n
    split
    · trivial
    split
    · trivial
    split
    · trivial
    next held =>
    split
    · trivial
    next rest =>
    have tail := ih k (va + n) (len - n)
    rw [rest] at tail
    refine ⟨tail.1, fun x hx => ?_⟩
    rcases List.mem_cons.mp hx with rfl | hx
    · exact placed_of_checkSegs held _ (List.mem_singleton.mpr rfl)
    · exact tail.2 x hx

theorem State.cachedEntry_stored (none_ : s.slices = []) {c : Ctx} {h e : Nat} {t : State}
    (found : s.cachedEntry c h = some (t, e)) :
    t.stored = s.stored := by
  unfold State.cachedEntry at found
  rw [State.atHome_noSlices none_] at found
  extract_lets key cached put u fresh read at found
  have kept (s : State) (e : Nat) : (put s e).stored = s.stored := by unfold put; split <;> rfl
  have fromMemory (hr : read = some (t, e)) : t.stored = s.stored := by
    unfold read at hr
    split at hr
    · cases hr
    · cases hr; exact kept ..
  clear_value cached read
  split at found
  · split at found
    · cases found; rfl
    · exact fromMemory found
  · exact fromMemory found

theorem State.entry_stored (none_ : s.slices = []) {c : Ctx} {h : Nat} {t : State} {e : Ent} (found : s.entry c h = some (t, e)) :
    t.stored = s.stored := by
  unfold State.entry at found
  extract_lets win at found
  split at found
  · split at found
    · cases found
    · split at found
      · cases found; rfl
      · cases found; rfl
      · cases found; rfl
      · split at found
        · cases found; rfl
        · cases found
  split at found
  · cases found
  split at found
  · cases found
  next cached =>
  split at found
  · cases found; exact State.cachedEntry_stored none_ cached
  · cases found

theorem State.addressOf_formed (none_ : s.slices = []) (c : Ctx) (p : Word) (n : Nat) (wr : Bool) :
    formedFrom s (s.addressOf c p n wr) := by
  unfold State.addressOf
  split
  · trivial
  next u e found =>
  have k := State.entry_stored none_ found
  by_cases right : (if wr then !e.wr else !e.rd) = true
  · rw [if_pos right]
    trivial
  rw [if_neg right]
  split
  · trivial
  extract_lets a done
  have placed (l : List Seg) : formedFrom s (done l) := by
    unfold done
    split
    · trivial
    · next held => exact ⟨k, placed_of_checkSegs held⟩
  clear_value done
  split
  · exact State.transRange_formed none_ k ..
  · split
    · trivial
    · exact placed _
  · exact placed _
  · exact placed _
  · split
    · trivial
    · exact placed _

theorem isWindow_iff (a : Nat) : isWindow a = true ↔ 0x400000000000 ≤ a ∧ a < 0x400200000000 := by
  unfold isWindow
  rw [Bool.and_eq_true, decide_eq_true_eq, decide_eq_true_eq]
  rfl

/-- A run that the map holds lies in a bay window, or below the end of usable memory. -/
theorem localBad_none {top a n : Nat} (h : localBad top a n = none) :
    (isWindow a = true ∧ windowOff a + n ≤ Config.loftTop) ∨ (¬ isWindow a = true ∧ a + n ≤ top) := by
  unfold localBad at h
  split at h
  · next window =>
    extract_lets w at h
    split at h
    · cases h
    split at h
    · cases h
    · exact .inl ⟨window, by omega⟩
  · next memory =>
    split at h
    · cases h
    split at h
    · cases h
    · exact .inr ⟨memory, by omega⟩

/-- A byte of a placed run that touches no register is no register byte (R54). -/
theorem Seg.placed.notRegister {x : Seg} (h : x.placed) (off : segsTouchReg [x] = false) {k : Nat} (hk : k < x.len) :
    isRegByte (x.addr + k) = false := by
  obtain ⟨top, low, held⟩ := h
  have size : gaLocal x.addr < 2 ^ 47 := Nat.mod_lt _ (by decide)
  have near (up : gaLocal x.addr + k < 2 ^ 47) : gaLocal (x.addr + k) = gaLocal x.addr + k := by unfold gaLocal at *; omega
  have out : ¬ ((isWindow (gaLocal x.addr) = true ∧ windowOff (gaLocal x.addr) + x.len > Config.regBase)
      ∧ windowOff (gaLocal x.addr) < Config.loftBase) := by
    simpa [segsTouchReg, and_assoc] using off
  rw [← Bool.not_eq_true, isRegByte, isRegOff]
  simp only [Bool.and_eq_true, decide_eq_true_eq]
  generalize gaLocal x.addr = a at *
  rcases localBad_none held with ⟨window, up⟩ | ⟨memory, up⟩ <;> rw [isWindow_iff] at * <;>
    simp only [windowOff, Config.windowBase, Config.windowSize, Config.loftTop, Config.loftBase, Config.regBase,
      Config.hbmTop] at *
  · rw [near (by omega)]
    omega
  · rw [near (by omega)]
    omega

theorem State.addressOf_of_storeAddr {t : State} {c : Ctx} {p : Word} {n : Nat} {l : List Seg}
    (h : s.storeAddr c p n = .ok (t, l)) :
    s.addressOf c p n true = .ok (t, l) ∧ segsTouchReg l = false := by
  unfold State.storeAddr at h
  split at h
  · cases h
  · next e =>
    split at h
    · cases h
    · next off => cases h; exact ⟨e, by simpa using off⟩

/-- No byte of a store's runs is a register byte (R54), and forming their address has changed nothing that decides the write. -/
theorem State.storeAddr_formed (none_ : s.slices = []) {t : State} {c : Ctx} {p : Word} {n : Nat} {l : List Seg}
    (h : s.storeAddr c p n = .ok (t, l)) :
    t.stored = s.stored ∧ ∀ a ∈ segBytes l, isRegByte a = false := by
  obtain ⟨addr, off⟩ := State.addressOf_of_storeAddr h
  have formed := s.addressOf_formed none_ c p n true
  rw [addr] at formed
  refine ⟨formed.1, fun a ha => ?_⟩
  obtain ⟨x, hx, lo, hi⟩ := mem_segBytes.mp ha
  have one : segsTouchReg [x] = false := by
    unfold segsTouchReg at *
    rw [List.any_eq_false] at *
    simpa using off x hx
  have byte := (formed.2 x hx).notRegister one (k := a - x.addr) (by omega)
  rwa [Nat.add_sub_cancel' lo] at byte

end

/-! ### What a store writes -/

/-- The bytes of a list, written to a memory one after another. -/
def Memory.put (m : Memory) (l : List (Nat × Byte × Bool)) : Memory := l.foldl (fun m x => m.write x.1 x.2.1) m

theorem Memory.put_wf {m : Memory} (h : m.wf = true) (l : List (Nat × Byte × Bool)) : (m.put l).wf = true := by
  induction l generalizing m with
  | nil => exact h
  | cons x l ih => exact ih (Memory.wf_write h ..)

theorem Memory.read_put_other {m : Memory} (h : m.wf = true) {l : List (Nat × Byte × Bool)} {a : Nat}
    (out : a ∉ l.map Prod.fst) :
    (m.put l).read a = m.read a := by
  induction l generalizing m with
  | nil => rfl
  | cons x l ih =>
    rw [List.map_cons, List.mem_cons, not_or] at out
    exact (ih (Memory.wf_write h ..) out.2).trans ((Memory.read_write h ..).trans (if_neg out.1))

theorem Memory.read_put_at {m : Memory} (h : m.wf = true) {l : List (Nat × Byte × Bool)} (once : (l.map Prod.fst).Nodup)
    {a : Nat} {b : Byte} {q : Bool} (hx : (a, b, q) ∈ l) : (m.put l).read a = b := by
  induction l generalizing m with
  | nil => exact absurd hx List.not_mem_nil
  | cons x l ih =>
    rw [List.map_cons, List.nodup_cons] at once
    rcases List.mem_cons.mp hx with rfl | hx
    · exact (Memory.read_put_other (Memory.wf_write h ..) once.1).trans ((Memory.read_write h ..).trans (if_pos rfl))
    · exact ih (Memory.wf_write h ..) once.2 hx

/-- No pair is on its way to memory, no party waits on a word, and what runs as number `i` of the field `f` has no version. -/
def State.calm (f i : Nat) (s : State) : Prop :=
  s.slices = [] ∧ s.pairs = [] ∧ s.waiters = [] ∧ ∀ x, s.inst? f i = some x → x.versioned = false

section
variable {s : State} {f i : Nat}

theorem State.plainWrite_one (calm : s.calm f i) (a : Nat) (b : Byte) (q : Bool) :
    (s.plainWrite f [(a, b, q)]).calm f i ∧ (s.plainWrite f [(a, b, q)]).mem = s.mem.write a b := by
  obtain ⟨slices, pairs, waiters, flat⟩ := calm
  unfold State.plainWrite
  extract_lets t as hit freed
  have kept : t.calm f i := ⟨slices, pairs, waiters, flat⟩
  split
  · exact ⟨kept, rfl⟩
  · refine ⟨⟨slices, pairs, waiters, fun x hx => ?_⟩, rfl⟩
    obtain ⟨y, hy, rfl⟩ : ∃ y, t.inst? f i = some y ∧ (if hit y then y.uncover as else y) = x := by
      have same (y : Inst) : ((if hit y then y.uncover as else y).field == f && (if hit y then y.uncover as else y).id == i)
          = (y.field == f && y.id == i) := by split <;> rfl
      have found : (t.insts.map fun y => if hit y then y.uncover as else y).find?
          (fun y => y.field == f && y.id == i) = some x := hx
      rw [List.find?_map] at found
      simpa [Function.comp_def, same, State.inst?] using found
    have := flat y hy
    split <;> exact this

theorem State.claim_flat (flat : ∀ x, s.inst? f i = some x → x.versioned = false) (n : Nat) : s.claim f i n = s := by
  unfold State.claim
  split
  · rfl
  · next x hx => rw [flat x hx]; rfl

theorem State.instWrite_flat (flat : ∀ x, s.inst? f i = some x → x.versioned = false) (a : Nat) (b : Byte) (q : Bool) :
    s.instWrite f i a b q = s.plainWrite f [(a, b, q)] := by
  unfold State.instWrite
  rw [State.claim_flat flat]
  cases hi : s.inst? f i with
  | none => simp [hi]
  | some x => simp [hi, State.earlyCommit, flat x hi]

theorem State.writeRunBytes_calm {c : Ctx} (calm : s.calm c.field c.inst) (l : List (Nat × Byte × Bool)) :
    (s.writeRunBytes c l).calm c.field c.inst ∧ (s.writeRunBytes c l).mem = s.mem.put l := by
  unfold State.writeRunBytes
  extract_lets t segs
  have written : t.calm c.field c.inst ∧ t.mem = s.mem.put l := by
    clear_value segs
    unfold t
    clear t
    induction l generalizing s with
    | nil => exact ⟨calm, rfl⟩
    | cons x l ih =>
      rw [List.foldl_cons, State.instWrite_flat calm.2.2.2, ite_self]
      obtain ⟨kept, mem⟩ := State.plainWrite_one calm x.1 x.2.1 x.2.2
      refine ⟨(ih kept).1, (ih kept).2.trans ?_⟩
      rw [mem]
      rfl
  have streams : (t.noteStreams segs).calm c.field c.inst ∧ (t.noteStreams segs).mem = t.mem := by
    unfold State.noteStreams
    split
    · exact ⟨written.1, rfl⟩
    · exact ⟨written.1, rfl⟩
  have words : (t.noteStreams segs).noteWords segs = t.noteStreams segs := by
    unfold State.noteWords State.noteFrom
    rw [streams.1.2.2.1]
    rfl
  rw [words]
  exact ⟨streams.1, streams.2.trans written.2⟩

theorem cutBytes_flatten (l : List Seg) (bs : List (Byte × Bool)) : (cutBytes l bs).flatten = (segBytes l).zip bs := by
  induction l generalizing bs with
  | nil => rfl
  | cons x l ih =>
    have zip (as cs : List Nat) : (as ++ cs).zip bs = as.zip bs ++ cs.zip (bs.drop as.length) := by
      induction as generalizing bs with
      | nil => rfl
      | cons a as ih' => cases bs <;> simp [*]
    have split_ : segBytes (x :: l) = (List.range x.len).map (x.addr + ·) ++ segBytes l := rfl
    rw [split_, zip, cutBytes, List.flatten_cons, ih, List.length_map, List.length_range]

/-- Bytes of which none is a register byte go to memory, in the order of the runs (R61). -/
theorem State.writeSegs_mem {c : Ctx} (calm : s.calm c.field c.inst) {l : List Seg}
    (memory : ∀ a ∈ segBytes l, isRegByte a = false)
    (bs : List (Byte × Bool)) : (s.writeSegs c l bs).mem = s.mem.put ((segBytes l).zip bs) := by
  have start : (s.drainLines c l).applySegs l = s := by
    unfold State.drainLines State.applySegs
    simp [calm.1, calm.2.1]
  have kept (r) (hr : r ∈ cutBytes l bs) : (r.filter fun x => !isRegByte x.1) = r := by
    refine List.filter_eq_self.mpr fun x hx => ?_
    have hz : x ∈ (segBytes l).zip bs := by
      rw [← cutBytes_flatten]
      exact List.mem_flatten.mpr ⟨r, hr, hx⟩
    rw [memory x.1 (List.of_mem_zip hz).1]
    rfl
  have runs : ((cutBytes l bs).foldl (fun s r => s.writeRunBytes c (r.filter fun x => !isRegByte x.1)) s).mem
      = s.mem.put (cutBytes l bs).flatten := by
    generalize cutBytes l bs = rs at kept
    clear start
    induction rs generalizing s with
    | nil => rfl
    | cons r rs ih =>
      obtain ⟨calm, mem⟩ := State.writeRunBytes_calm calm r
      rw [List.foldl_cons, kept r List.mem_cons_self, ih calm fun r hr => kept r (List.mem_cons_of_mem _ hr), mem]
      simp only [Memory.put, List.flatten_cons, List.foldl_append]
  rw [cutBytes_flatten] at runs
  unfold State.writeSegs
  rw [start]
  extract_lets t all mem u ver v units merged z
  have marks : v.mem = u.mem := by unfold v State.endErrors; split <;> rfl
  have noted : (z.notePoison c mem).mem = z.mem := by unfold State.notePoison State.noteBad; split <;> rfl
  exact noted.trans (marks.trans runs)

end

theorem natLe_get (n x k : Nat) (hk : k < n) : (natLe n x)[k]? = some (BitVec.ofNat 8 (x / 2 ^ (8 * k))) := by
  induction n generalizing x k with
  | zero => omega
  | succ n ih =>
    cases k with
    | zero => simp [natLe]
    | succ k =>
      rw [natLe, List.getElem?_cons_succ, ih _ _ (by omega), Nat.div_div_eq_div_mul]
      congr 3
      rw [show 8 * (k + 1) = 8 * k + 8 by ring, pow_add, mul_comm]
      rfl

end Sys2Proof.Machine
end

section
/-! The scalar store (R61, R155, R167, R177): its bytes, the forwarding table in front of memory, and its faults. -/

namespace Sys2Proof.Machine

/-! ### ST -/

section
variable {s u : State} {w : Width} {d a : R5} {off : BitVec 14} {l : List Seg} {bs : List (Byte × Bool)}

/-- A store that its handle may do in an open region, or that no region forbids, goes on. -/
theorem storeAllowed_may {p : Word} {i : Instr} {k : State → Out} (h : s.fir.region = none ∨ ptrH p ≤ 1) :
    storeAllowed p i s k = k s := by
  unfold storeAllowed
  refine if_neg ?_
  rw [Bool.and_eq_true, decide_eq_true_eq]
  rintro ⟨open_, high⟩
  rcases h with h | h
  · rw [h] at open_; cases open_
  · omega
theorem storeAllowed_never {p : Word} {i : Instr} {k : State → Out} (open_ : s.fir.region.isSome = true) (high : 1 < ptrH p) :
    storeAllowed p i s k = wordFault 0x11 i s := by
  unfold storeAllowed
  rw [open_, decide_eq_true high]
  rfl

theorem length_putBytes (n x : Nat) (q : Bool) : (putBytes n x q).length = n := by
  have bytes : (natLe n x).length = n := by
    induction n generalizing x with
    | zero => rfl
    | succ n ih => exact congrArg (· + 1) (ih _)
  unfold putBytes
  rw [List.length_map, bytes]

/-- Forming an address leaves the firing in the issue stage as it is. -/
theorem State.fir_of_storeAddr {c : Ctx} {p : Word} {n : Nat} (h : s.storeAddr c p n = .ok (u, l)) : u.fir = s.fir :=
  (ok_upholds (State.storeAddr_upholds (State.upholds_refl (fix := true) s) c p n) h).1
/-- So does a write that waits for its route. -/
theorem State.fir_of_writeOpen {c : Ctx} (h : s.writeOpen c l bs = .wait u) : u.fir = s.fir :=
  (Put.wait_upholds (State.writeOpen_upholds (State.upholds_refl (fix := true) s) c l bs) h).1

theorem State.store_formed {c : Ctx} {p : Word} (h : s.storeAddr c p bs.length = .ok (u, l)) :
    s.store c p bs = u.issueStore c (ptrH p) l bs := by
  unfold State.store; rw [h]
theorem State.store_unformed {c : Ctx} {p : Word} {f : Flt} (h : s.storeAddr c p bs.length = .error f) :
    s.store c p bs = .flt f := by
  unfold State.store; rw [h]

theorem State.issueStore_full {c : Ctx} (h : Nat) (full : ¬ (s.bay c.bay).fwd.length < 8) : s.issueStore c h l bs = .wait s :=
  if_pos (Nat.not_lt.mp full)
theorem State.issueStore_blocked {c : Ctx} (h : Nat) (room : (s.bay c.bay).fwd.length < 8) (blocked : s.sbBlocks c l = true) :
    s.issueStore c h l bs = .ok (s.hold c.bay s.fir.actor h l bs) :=
  (if_neg (Nat.not_le.mpr room)).trans (if_pos blocked)
theorem State.issueStore_free {c : Ctx} (h : Nat) (room : (s.bay c.bay).fwd.length < 8) (free : s.sbBlocks c l = false) :
    s.issueStore c h l bs = match s.writeOpen c l bs with
      | .wait t => .ok (t.hold c.bay t.fir.actor h l bs)
      | r => r := by
  refine (if_neg (Nat.not_le.mpr room)).trans ((if_neg ?_).trans ?_)
  · rw [free]; decide
  · rfl

theorem State.issueStore_opens {c : Ctx} (h : Nat) (room : (s.bay c.bay).fwd.length < 8) (may : Claims.opens s c l) :
    s.issueStore c h l bs = .ok (s.writeSegs c l bs) := by
  rw [State.issueStore_free h room may.1, State.writeOpen_near (reaches_of_opens may)]

/-- A store that stands in the forwarding table retires, and is held there for its firing. -/
theorem exec_held {i : Instr} {z : State} {c : Ctx} (h : Nat) (bay : c.bay = s.fir.bay) (fir : z.fir = s.fir)
    (stored : exec i s = retire (z.hold c.bay z.fir.actor h l bs)) : Claims.held i s z l bs := by
  rw [bay, fir] at stored
  refine ⟨_, stored, rfl, congrArg Firing.fidx fir, ?_, rfl⟩
  simp [asSegs, Function.comp_def]

theorem storeThen_wait {p q : Word} {x : Int} (moved : movePtr p x = .ok q) (waits : s.store s.firCtx q bs = .wait u) :
    storeThen s p x bs = .next u := by
  unfold storeThen
  rw [moved]
  simp only [waits]
theorem storeThen_leaves {p : Word} {x : Int} (h : ¬ Claims.fits p x) : storeThen s p x bs = Claims.faults s 0x08 p := by
  unfold storeThen
  rw [movePtr_leaves h]
  exact memFault_mk0 (by decide)

theorem execSt_may (may : s.fir.region = none ∨ ptrH (s.regs.rg a) ≤ 1) : exec (.st w d a off) s =
    storeThen s (s.regs.rg a) off.toInt (putBytes (widthBytes w) (s.regs.rg d).toNat (s.regs.rgp d)) := by
  show execSt w d a off s = _
  exact storeAllowed_may may

/-- What decides a write is calm as long as it stays as it is. -/
theorem State.calm_of_stored {f i : Nat} (h : u.stored = s.stored) (calm : s.calm f i) : u.calm f i := by
  obtain ⟨slices, pairs, waiters, flat⟩ := calm
  simp only [State.stored, Prod.mk.injEq] at h
  obtain ⟨-, hs, hp, hw, hi⟩ := h
  exact ⟨hs.trans slices, hp.trans pairs, hw.trans waiters, fun x hx => flat x (by unfold State.inst? at *; rwa [hi] at hx)⟩

/-- A store with room and no register byte in its runs writes the low bytes of its value in order, and no other byte. -/
theorem State.writeSegs_putBytes {c : Ctx} {n x : Nat} {q : Bool} (calm : s.calm c.field c.inst) (wf : s.mem.wf = true)
    (memory : ∀ y ∈ segBytes l, isRegByte y = false) (once : (segBytes l).Nodup) (full : (segBytes l).length = n) :
    Claims.memSame s (s.writeSegs c l (putBytes n x q)) (· ∈ segBytes l)
      ∧ ∀ k y, (segBytes l)[k]? = some y →
        ((s.writeSegs c l (putBytes n x q)).mem.read y).toNat = x / 2 ^ (8 * k) % 2 ^ 8 := by
  have keys : ((segBytes l).zip (putBytes n x q)).map Prod.fst = segBytes l := List.map_fst_zip (by rw [length_putBytes, full])
  rw [Claims.memSame, State.writeSegs_mem calm memory]
  constructor
  · intro y out
    exact Memory.read_put_other wf (by rwa [keys])
  · intro k y hy
    have hk : k < n := full ▸ (List.getElem?_eq_some_iff.mp hy).1
    have pair : (y, BitVec.ofNat 8 (x / 2 ^ (8 * k)), q) ∈ (segBytes l).zip (putBytes n x q) := by
      refine List.mem_of_getElem? (i := k) ?_
      rw [List.getElem?_zip_eq_some]
      exact ⟨hy, by rw [putBytes, List.getElem?_map, natLe_get n x k hk]; rfl⟩
    rw [Memory.read_put_at wf (by rwa [keys]) pair]
    exact BitVec.toNat_ofNat ..

theorem State.firCtx_field (s : State) : s.firCtx.field = s.fir.field := by
  unfold State.firCtx State.ctxOf
  split <;> rfl
theorem State.firCtx_inst (s : State) : s.firCtx.inst = s.fir.inst := by
  unfold State.firCtx State.ctxOf
  split <;> rfl

end

/-- Settles O30: a store that may go writes its bytes in order and no other; one that may not stands in the forwarding table, or
waits for room in it; its faults are those of its pointer, its address and its region. -/
theorem scalarStore : Obligations.ScalarStore := by
  unfold Obligations.ScalarStore
  intro s u w d a off l p q n
  have formed (addr : s.storeAddr s.firCtx q n = .ok (u, l)) :
      s.store s.firCtx q (putBytes n (s.regs.rg d).toNat (s.regs.rgp d))
        = u.issueStore s.firCtx (ptrH q) l (putBytes n (s.regs.rg d).toNat (s.regs.rgp d)) :=
    State.store_formed (by rw [length_putBytes]; exact addr)
  have bay (addr : s.storeAddr s.firCtx q n = .ok (u, l)) : s.firCtx.bay = u.fir.bay := by
    rw [s.firCtx_bay, State.fir_of_storeAddr addr]
  refine ⟨fun fit may addr opens room => ?written, fun out may => ?leaves, fun f fit may bad => ?unformed,
    fun fit may addr full => ?full, fun fit may addr room => ⟨fun blocked => ?blocked, fun z free far => ?far⟩,
    fun b k e at_ now near => ?later, fun b k e at_ now => ?notYet, fun open_ high => ?region⟩
  case written =>
    have retired : exec (.st w d a off) s = retire (u.writeSegs s.firCtx l (putBytes n (s.regs.rg d).toNat (s.regs.rgp d))) := by
      rw [execSt_may may]
      refine storeThen_ok _ _ _ _ _ _ (movePtr_fits fit) ?_
      rw [formed addr]
      exact State.issueStore_opens _ (by rw [bay addr]; exact room) opens
    refine ⟨retired, fun quiet wf _ once full => ⟨_, retired, ?_⟩⟩
    obtain ⟨stored, memory⟩ := State.storeAddr_formed quiet.1 addr
    have calm : u.calm s.firCtx.field s.firCtx.inst := by
      rw [s.firCtx_field, s.firCtx_inst]
      exact State.calm_of_stored stored quiet
    have mem : u.mem = s.mem := congrArg Prod.fst stored
    have bytes := State.writeSegs_putBytes (x := (s.regs.rg d).toNat) (q := s.regs.rgp d) calm (mem ▸ wf) memory once full
    rw [Claims.memSame, mem] at bytes
    exact bytes
  case leaves => exact (execSt_may may).trans (storeThen_leaves out)
  case unformed =>
    rw [execSt_may may, ← memFault_taken (b := false) (.inl rfl)]
    exact storeThen_flt _ _ _ _ _ _ (movePtr_fits fit) (State.store_unformed (by rw [length_putBytes]; exact bad))
  case full =>
    rw [execSt_may may]
    refine storeThen_wait (movePtr_fits fit) ?_
    rw [formed addr]
    exact State.issueStore_full _ (by rw [bay addr]; exact full)
  case blocked =>
    refine exec_held (ptrH q) s.firCtx_bay (State.fir_of_storeAddr addr) ?_
    rw [execSt_may may]
    refine storeThen_ok _ _ _ _ _ _ (movePtr_fits fit) ?_
    rw [formed addr]
    exact State.issueStore_blocked _ (by rw [bay addr]; exact room) blocked
  case far =>
    refine exec_held (ptrH q) s.firCtx_bay ((State.fir_of_writeOpen far).trans (State.fir_of_storeAddr addr)) ?_
    rw [execSt_may may]
    refine storeThen_ok _ _ _ _ _ _ (movePtr_fits fit) ?_
    rw [formed addr, State.issueStore_free _ (by rw [bay addr]; exact room) free]
    simp only [far]
  case later =>
    unfold State.perform
    rw [at_]
    simp only [now, State.writeOpen_near near]
    rfl
  case notYet =>
    unfold State.perform
    rw [at_]
    simp only [now]
    rfl
  case region =>
    rw [← wordFault_eq]
    show execSt w d a off s = _
    exact storeAllowed_never open_ high

end Sys2Proof.Machine
end

section
/-! Sync words (R64-R73, R168, R172, R173): where an instruction finds its word, what each does there, and what a write of the
word leaves in memory. -/

namespace Sys2Proof.Machine

/-! ### Bytes in order -/

/-- Bytes are read back in order from where each of them stands. -/
theorem Memory.readList_eq {m : Memory} {a : Nat} {l : List Byte} (h : ∀ k b, l[k]? = some b → m.read (a + k) = b) :
    m.readList a l.length = l := by
  induction l generalizing a with
  | nil => rfl
  | cons b l ih =>
    have head : m.read a = b := h 0 b rfl
    have tail : m.readList (a + 1) l.length = l := ih fun k c hk => by
      rw [Nat.add_right_comm]
      exact h (k + 1) c hk
    rw [List.length_cons, Memory.readList, head, tail]

/-- The bytes of `l` at their addresses from `a` on, under one poison mark. -/
def bytesAt (a : Nat) (l : List Byte) (q : Bool) : List (Nat × Byte × Bool) :=
  ((List.range l.length).zip l).map fun x => (a + x.1, x.2, q)

theorem keys_bytesAt (a : Nat) (l : List Byte) (q : Bool) :
    (bytesAt a l q).map Prod.fst = (List.range l.length).map (a + ·) := by
  have keys : (bytesAt a l q).map Prod.fst = (((List.range l.length).zip l).map Prod.fst).map (a + ·) := by
    rw [bytesAt, List.map_map, List.map_map]
    rfl
  rw [keys, List.map_fst_zip List.length_range.le]

theorem mem_bytesAt {a k : Nat} {l : List Byte} {b : Byte} {q : Bool} (h : l[k]? = some b) : (a + k, b, q) ∈ bytesAt a l q := by
  have inside : k < l.length := (List.getElem?_eq_some_iff.mp h).1
  refine List.mem_map.mpr ⟨(k, b), List.mem_of_getElem? (i := k) ?_, rfl⟩
  exact List.getElem?_zip_eq_some.mpr ⟨List.getElem?_range inside, h⟩

/-- A run of bytes put to memory stands there in order, and no other byte changes. -/
theorem Memory.put_bytesAt {m : Memory} (wf : m.wf = true) (a : Nat) (l : List Byte) (q : Bool) :
    (m.put (bytesAt a l q)).readList a l.length = l
      ∧ ∀ y, ¬ (a ≤ y ∧ y < a + l.length) → (m.put (bytesAt a l q)).read y = m.read y := by
  constructor
  · refine Memory.readList_eq fun k b h => Memory.read_put_at wf ?_ (mem_bytesAt h)
    rw [keys_bytesAt]
    exact List.nodup_range.map fun i j (h : a + i = a + j) => Nat.add_left_cancel h
  · intro y out
    refine Memory.read_put_other wf ?_
    rw [keys_bytesAt, List.mem_map]
    rintro ⟨k, hk, rfl⟩
    have := List.mem_range.mp hk
    omega

theorem length_natLe (n x : Nat) : (natLe n x).length = n := by
  simpa [putBytes] using length_putBytes n x false

section
variable {s t : State}

/-! ### What a write of a word leaves (R64, R65) -/

theorem State.rawWrite_put (l : List (Nat × Byte × Bool)) :
    (s.rawWrite l).mem = s.mem.put l ∧ (s.rawWrite l).waiters = s.waiters := by
  induction l generalizing s with
  | nil => exact ⟨rfl, rfl⟩
  | cons x l ih => exact ih

theorem State.plainWrite_put (f : Nat) (l : List (Nat × Byte × Bool)) :
    (s.plainWrite f l).mem = s.mem.put l ∧ (s.plainWrite f l).waiters = s.waiters := by
  have raw := s.rawWrite_put l
  unfold State.plainWrite
  extract_lets t as hit freed
  split
  · exact raw
  · exact raw

theorem State.putWord_put (f a : Nat) (x : Word) (q : Bool) :
    (s.putWord f a x q).mem = s.mem.put (bytesAt a (natLe 8 x.toNat) q) ∧ (s.putWord f a x q).waiters = s.waiters :=
  State.plainWrite_put ..

theorem State.noteStreams_put (l : List Seg) : (s.noteStreams l).mem = s.mem ∧ (s.noteStreams l).waiters = s.waiters := by
  unfold State.noteStreams
  split <;> exact ⟨rfl, rfl⟩

theorem State.noteWords_idle (h : s.waiters = []) (l : List Seg) : s.noteWords l = s := by
  unfold State.noteWords State.noteFrom
  rw [h]
  rfl

theorem State.earlyCommit_flat {y : Inst} (h : y.versioned = false) : s.earlyCommit y = s := by
  unfold State.earlyCommit
  rw [h]
  rfl

/-- No pair stands in front of the word, no party waits on it and no version is committed: the word goes to memory. -/
theorem State.writeWord_mem {c : Ctx} {a : Nat} (slices : s.slices = []) (pairs : s.pairs = []) (idle : s.waiters = [])
    (flat : s.ownHbm a = true ∨ ∀ y, s.inst? c.field c.inst = some y → y.versioned = false) (x : Word) (q : Bool) :
    (s.writeWord c a x q).mem = s.mem.put (bytesAt a (natLe 8 x.toNat) q) := by
  unfold State.writeWord
  extract_lets u v
  have uncommitted : u = s := by
    unfold u
    split
    · rfl
    next away =>
    split
    next y hy => exact State.earlyCommit_flat (flat.resolve_left away y hy)
    next => rfl
  have unpaired : v = s := by
    unfold v State.drainLines State.applySegs
    simp [uncommitted, slices, pairs]
  rw [unpaired]
  obtain ⟨mem, waiters⟩ := s.putWord_put c.field a x q
  obtain ⟨noted, waiting⟩ := (s.putWord c.field a x q).noteStreams_put [⟨a, 8⟩]
  rw [State.noteWords_idle (waiting.trans (waiters.trans idle)), noted, mem]

/-! ### Where a word is found (R69, R361) -/

section
variable {c : Ctx} {p : Word} {wr ld : Bool} {x : Nat} {l : List Seg} {f : Flt} {k : State → Nat → Out}

theorem State.syncAddr_unaligned (addr : s.addressOf c p 8 wr = .ok (t, l)) (unaligned : (l.map Seg.addr).headD 0 % 8 ≠ 0) :
    s.syncAddr c p wr = .error (t.flt c 0x0D p) := by
  unfold State.syncAddr
  rw [addr]
  exact if_pos unaligned

theorem State.syncAddr_window (addr : s.addressOf c p 8 wr = .ok (t, l)) (aligned : (l.map Seg.addr).headD 0 % 8 = 0)
    (window : isWindow (gaLocal ((l.map Seg.addr).headD 0)) = true) : s.syncAddr c p wr = .error (t.flt c 0x0B p) := by
  unfold State.syncAddr
  rw [addr]
  exact (if_neg (not_not.mpr aligned)).trans (if_pos window)

/-- Finding a word leaves the firing in the issue stage as it is. -/
theorem State.fir_of_syncAddr (addr : s.syncAddr c p wr = .ok (t, x)) : t.fir = s.fir :=
  (ok_upholds (State.syncAddr_upholds (State.upholds_refl (fix := true) s) c p wr) addr).1

/-- So the party that goes to the word is the one that found it. -/
theorem State.who_of_syncAddr (addr : s.syncAddr c p wr = .ok (t, x)) : s.firCtx.who = t.firCtx.who := by
  rw [State.firCtx_who, State.firCtx_who, State.fir_of_syncAddr addr]

theorem State.heldBlocks_who {d : Ctx} (same : c.who = d.who) (l : List Seg) : s.heldBlocks c l = s.heldBlocks d l := by
  unfold State.heldBlocks
  rw [same]

theorem reachWord_routed (addr : s.syncAddr s.firCtx p wr = .ok (t, x)) (near : Claims.routed t x) :
    reachWord s p wr ld k = k t x := by
  obtain ⟨route, free⟩ := near
  have who := State.who_of_syncAddr addr
  rw [← State.heldBlocks_who who] at free
  have home : t.routeFor s.firCtx [⟨x, 8⟩] = (t, none) := State.routeFor_near (by simpa [who] using route)
  unfold reachWord
  simp [addr, free, home]

theorem reachWord_held (addr : s.syncAddr s.firCtx p wr = .ok (t, x)) (held : t.heldBlocks t.firCtx [⟨x, 8⟩] = true) :
    reachWord s p wr ld k = .next (Claims.flushed t) := by
  have who := State.who_of_syncAddr addr
  rw [← State.heldBlocks_who who] at held
  unfold reachWord Claims.flushed
  simp [addr, held, who]

theorem reachWord_unformed (bad : s.syncAddr s.firCtx p wr = .error f) : reachWord s p wr ld k = memFault ld f s := by
  unfold reachWord
  rw [bad]

end

/-! ### Releases and acquires (R71, R296) -/

theorem State.who_of_flushed (t : State) : (Claims.flushed t).firCtx.who = t.firCtx.who := by
  have fir : (Claims.flushed t).fir = t.fir := (State.flush_upholds (State.upholds_refl (fix := true) t) _).1
  rw [State.firCtx_who, State.firCtx_who, fir]

theorem whenSent_sent {k : State → Out} (h : Claims.sent t) : whenSent t k = k (Claims.flushed t) := by
  refine if_neg ?_
  rw [← Claims.flushed, t.who_of_flushed, Bool.not_eq_true]
  exact h

theorem whenSent_waits {k : State → Out} (h : ¬ Claims.sent t) : whenSent t k = .next (Claims.flushed t) := by
  refine if_pos ?_
  rw [← Claims.flushed, t.who_of_flushed, ← Bool.not_eq_false]
  exact h

/-- An acquire that changes no pc answers as the statements say it. -/
theorem acquireThen_eq (va : Nat) {f : Regs → Regs} (pc : ∀ r, (f r).pc = r.pc) : acquireThen va s f = Claims.acquired s va f := by
  unfold acquireThen Claims.acquired finish retire
  simp only [State.mapRegs, pc]


theorem finish_retires {f : Regs → Regs} (pc : ∀ r, (f r).pc = r.pc) : finish s f = Claims.retires s f := by
  unfold finish retire Claims.retires
  simp only [State.mapRegs, pc]

end

/-! ### Instructions on the word that a register names -/

/-- The instruction does nothing in an open region, and else goes to the home of the word that `p` names. -/
def GoesToWord (i : Instr) (s : State) (p : Word) : Prop :=
  (s.fir.region.isSome = true → exec i s = Claims.faultsWord s 0x11 i)
    ∧ (s.fir.region = none → ∃ k, exec i s = reachWord s p true false k)

section
variable {i : Instr} {s t : State} {p : Word} {x : Nat} {f : Flt}

theorem exec_inRegion {m : State → Out} (form : exec i s = outsideRegion i s m) (open_ : s.fir.region.isSome = true) :
    exec i s = Claims.faultsWord s 0x11 i := by
  rw [form, outsideRegion_open i s m open_, wordFault_eq]

theorem goesToWord_of_outside {m : State → Out} (form : exec i s = outsideRegion i s m)
    (goes : ∃ k, m s = reachWord s p true false k) : GoesToWord i s p := by
  refine ⟨exec_inRegion form, fun closed => ?_⟩
  rwa [form, outsideRegion_closed i s m closed]

variable (goes : GoesToWord i s p) (closed : s.fir.region = none)
include goes closed

theorem GoesToWord.held (addr : s.syncAddr s.firCtx p true = .ok (t, x)) (held : t.heldBlocks t.firCtx [⟨x, 8⟩] = true) :
    exec i s = .next (Claims.flushed t) := by
  obtain ⟨k, reach⟩ := goes.2 closed
  rw [reach, reachWord_held addr held]

theorem GoesToWord.unformed (bad : s.syncAddr s.firCtx p true = .error f) : exec i s = Claims.memFaults s f := by
  obtain ⟨k, reach⟩ := goes.2 closed
  rw [reach, reachWord_unformed bad, memFault_taken (.inl rfl)]

end

section
variable {s t : State} {sc : Scope} {d a b : R5} {off : BitVec 13} {x : Nat}

theorem goesToWord_acq : GoesToWord (.acq sc a) s (s.regs.rg a) :=
  goesToWord_of_outside (show exec (.acq sc a) s = execAcq sc a s from rfl) ⟨_, rfl⟩
theorem goesToWord_rel : GoesToWord (.rel sc a) s (s.regs.rg a) :=
  goesToWord_of_outside (show exec (.rel sc a) s = execRel sc a s from rfl) ⟨_, rfl⟩
theorem goesToWord_syncadd : GoesToWord (.syncadd sc d a b) s (s.regs.rg a) :=
  goesToWord_of_outside (show exec (.syncadd sc d a b) s = execSyncadd sc d a b s from rfl) ⟨_, rfl⟩
theorem goesToWord_synccas : GoesToWord (.synccas sc d a b) s (s.regs.rg a) :=
  goesToWord_of_outside (show exec (.synccas sc d a b) s = execSynccas sc d a b s from rfl) ⟨_, rfl⟩

/-- Outside a region STL goes to the word its moved pointer names, and there, once nothing of its actor waits, releases and
writes. -/
theorem execStl_closed (closed : s.fir.region = none) (fit : Claims.fits (s.regs.rg a) off.toInt) :
    exec (.stl sc d a off) s =
      reachWord s (Claims.moved (s.regs.rg a) off.toInt) true false fun t w => whenSent t fun z =>
        let u := z.release z.firCtx (scopeNat sc) (some (z.virtOf z.firCtx (Claims.moved (s.regs.rg a) off.toInt)))
        Claims.retires (u.writeWord u.firCtx w (u.regs.rg d) (u.regs.rgp d)) id := by
  show execStl sc d a off s = _
  unfold execStl
  rw [outsideRegion_closed _ _ _ closed, movePtr_fits fit]
  rfl

/-- LDA reads its word at its home, then acquires. -/
theorem execLda_word (fit : Claims.fits (s.regs.rg a) off.toInt)
    (addr : s.syncAddr s.firCtx (Claims.moved (s.regs.rg a) off.toInt) false = .ok (t, x)) (near : Claims.routed t x) :
    exec (.lda sc d a off) s =
      let r := t.readWord t.firCtx x
      Claims.acquired r.1 (t.virtOf t.firCtx (Claims.moved (s.regs.rg a) off.toInt)) fun g => g.wg d r.2.1 (r.2.2 || g.rgp a) := by
  show execLda sc d a off s = _
  unfold execLda
  rw [movePtr_fits fit]
  exact (reachWord_routed addr near).trans (acquireThen_eq _ fun g => g.wg_pc ..)

section
variable (closed : s.fir.region = none) (addr : s.syncAddr s.firCtx (s.regs.rg a) true = .ok (t, x)) (near : Claims.routed t x)
include closed addr near

/-- ACQ at its word: the own tag is a fault, 0 is taken, another value is waited for. -/
theorem execAcq_word : exec (.acq sc a) s =
    let r := t.readWord t.firCtx x
    if r.2.1 = t.ownerTag then Claims.faults t 0x0E (s.regs.rg a)
    else if r.2.1 = 0 then
      Claims.acquired (r.1.writeWord t.firCtx x t.ownerTag false) (t.virtOf t.firCtx (s.regs.rg a)) id
    else .next ((r.1.waitWord ⟨t.firCtx.who, x, 0, false, true, t.ownerTag⟩).park (.acq (t.virtOf t.firCtx (s.regs.rg a))) false) := by
  show execAcq sc a s = _
  unfold execAcq
  rw [outsideRegion_closed _ _ _ closed]
  refine (reachWord_routed addr near).trans ?_
  simp only [acquireThen_eq (f := id) _ fun _ => rfl]
  rfl

/-- REL at its word, once nothing of its actor waits: it releases, then gives up its own tag. -/
theorem execRel_word : exec (.rel sc a) s = whenSent t fun z =>
    let u := z.release z.firCtx (scopeNat sc) (some (z.virtOf z.firCtx (s.regs.rg a)))
    let r := u.readWord u.firCtx x
    if r.2.1 = u.ownerTag then Claims.retires (r.1.writeWord u.firCtx x 0 false) id
    else Claims.faults r.1 0x0E (s.regs.rg a) := by
  show execRel sc a s = _
  unfold execRel
  rw [outsideRegion_closed _ _ _ closed]
  exact reachWord_routed addr near

/-- SYNCADD at its word, once nothing of its actor waits: it releases, adds and acquires. -/
theorem execSyncadd_word : exec (.syncadd sc d a b) s = whenSent t fun z =>
    let va := z.virtOf z.firCtx (s.regs.rg a)
    let r := (z.release z.firCtx (scopeNat sc) (some va)).readWord z.firCtx x
    Claims.acquired (r.1.writeWord z.firCtx x (r.2.1 + z.regs.rg b) (r.2.2 || z.regs.rgp b)) va
      fun g => g.wg d r.2.1 (r.2.2 || g.rgp a || g.rgp b) := by
  show execSyncadd sc d a b s = _
  unfold execSyncadd
  rw [outsideRegion_closed _ _ _ closed]
  refine (reachWord_routed addr near).trans (congrArg (whenSent t) (funext fun z => ?_))
  exact acquireThen_eq _ fun g => g.wg_pc ..

/-- SYNCCAS at its word: a compare that hits waits for what its actor has sent, releases and writes; both acquire. -/
theorem execSynccas_word : exec (.synccas sc d a b) s =
    let va := t.virtOf t.firCtx (s.regs.rg a)
    let r := t.readWord t.firCtx x
    let z := r.1.flush t.firCtx.who
    let old (g : Regs) : Regs := g.wg d r.2.1 (r.2.2 || g.rgp a || g.rgp b || g.rgp d)
    if r.2.1 = t.regs.rg d then
      if z.pairsHeld t.firCtx.who then .next z
      else Claims.acquired ((z.release t.firCtx (scopeNat sc) (some va)).writeWord t.firCtx x (t.regs.rg b) (t.regs.rgp b)) va old
    else Claims.acquired r.1 va old := by
  show execSynccas sc d a b s = _
  unfold execSynccas
  rw [outsideRegion_closed _ _ _ closed]
  refine (reachWord_routed addr near).trans ?_
  simp only [acquireThen_eq _ fun g => Regs.wg_pc ..]
  by_cases hit : (t.readWord t.firCtx x).2.1 = t.regs.rg d
  · simp only [hit, decide_true, Bool.true_and, if_true]
  · simp only [hit, decide_false, Bool.false_and, Bool.false_eq_true, if_false]

end

/-- WAITV at its word: it completes on a value that meets its condition, with or without an acquire, and else waits. -/
theorem execWaitv_word (isAcq ge : Bool) (addr : s.syncAddr s.firCtx (s.regs.rg a) false = .ok (t, x))
    (near : Claims.routed t x) :
    exec (.waitv sc isAcq ge d a b) s =
      let va := t.virtOf t.firCtx (s.regs.rg a)
      let r := t.readWord t.firCtx x
      let v := t.regs.rg b
      let old (g : Regs) : Regs := g.wg d r.2.1 (r.2.2 || g.rgp a || g.rgp b)
      if if ge then decide (v.toNat ≤ r.2.1.toNat) else r.2.1 == v then
        if isAcq then Claims.acquired r.1 va old else Claims.retires r.1 old
      else .next ((r.1.waitWord ⟨t.firCtx.who, x, v, ge, false, 0⟩).park
        (.waitv va d isAcq (t.regs.rgp a || t.regs.rgp b)) false) := by
  show execWaitv sc isAcq ge d a b s = _
  refine (reachWord_routed addr near).trans ?_
  simp only [acquireThen_eq _ fun g => Regs.wg_pc .., finish_retires fun g => Regs.wg_pc ..]
  rfl

end

/-- Settles O31: each instruction is taken to its word's home and there through the cases of its meaning, a release first
waiting for what its actor has sent; a write of a word with no pair, waiter or version in its way puts its eight bytes to
memory. -/
theorem syncWords : Obligations.SyncWords := by
  unfold Obligations.SyncWords
  intro s t sc d a b off x c p q clear tag
  refine ⟨fun fit addr near => execLda_word fit addr near, fun closed fit addr near sent => ?stl,
    fun closed addr near => ⟨fun free other => ?take, fun own => ?own, fun taken other => ?wait⟩,
    fun closed addr near sent => ⟨fun own => ?gives, fun other => ?others⟩,
    fun closed addr near sent => ?add, fun closed addr near => ⟨fun hit may => ?swap, fun hit held => ?swapWaits, fun miss => ?miss⟩,
    fun closed addr near unsent => ⟨?relWaits, ?addWaits⟩, fun closed fit addr near unsent => ?stlWaits,
    fun closed addr held => ?behind, fun isAcq ge addr near => ?waitv, fun v e slices pairs idle wf flat => ?written,
    fun l => State.syncAddr_unaligned, fun l => State.syncAddr_window, fun f closed bad => ?unformed, fun open_ => ?region⟩
  case stl => rw [execStl_closed closed fit, reachWord_routed addr near, whenSent_sent sent]
  case take => rw [execAcq_word closed addr near]; exact (if_neg fun own => other (own.symm.trans free)).trans (if_pos free)
  case own => rw [execAcq_word closed addr near]; exact if_pos own
  case wait => rw [execAcq_word closed addr near]; exact (if_neg other).trans (if_neg taken)
  case gives => rw [execRel_word closed addr near, whenSent_sent sent]; exact if_pos own
  case others => rw [execRel_word closed addr near, whenSent_sent sent]; exact if_neg other
  case add => rw [execSyncadd_word closed addr near, whenSent_sent sent]
  case swap => rw [execSynccas_word closed addr near]; exact (if_pos hit).trans (if_neg (by rw [may]; decide))
  case swapWaits => rw [execSynccas_word closed addr near]; exact (if_pos hit).trans (if_pos held)
  case miss => rw [execSynccas_word closed addr near]; exact if_neg miss
  case relWaits => rw [execRel_word closed addr near, whenSent_waits unsent]
  case addWaits => rw [execSyncadd_word closed addr near, whenSent_waits unsent]
  case stlWaits => rw [execStl_closed closed fit, reachWord_routed addr near, whenSent_waits unsent]
  case behind =>
    exact ⟨goesToWord_acq.held closed addr held, goesToWord_rel.held closed addr held,
      goesToWord_syncadd.held closed addr held, goesToWord_synccas.held closed addr held⟩
  case waitv =>
    intro va r v meets old
    have test : (if ge then decide (v.toNat ≤ r.2.1.toNat) else r.2.1 == v) = true ↔ meets := by
      cases ge <;> simp [meets]
    rw [execWaitv_word isAcq ge addr near]
    refine ⟨fun met acq => ?_, fun met plain => ?_, fun unmet => ?_⟩
    · exact (if_pos (test.mpr met)).trans (if_pos acq)
    · exact (if_pos (test.mpr met)).trans (if_neg (by rw [plain]; decide))
    · exact if_neg (mt test.mp unmet)
  case written =>
    have bytes := Memory.put_bytesAt wf x (natLe 8 v.toNat) e
    rw [length_natLe, ← State.writeWord_mem slices pairs idle flat v e] at bytes
    exact bytes
  case unformed =>
    exact ⟨goesToWord_acq.unformed closed bad, goesToWord_rel.unformed closed bad,
      goesToWord_syncadd.unformed closed bad, goesToWord_synccas.unformed closed bad⟩
  case region =>
    have stl : exec (.stl sc d a off) s = execStl sc d a off s := rfl
    exact ⟨goesToWord_acq.1 open_, goesToWord_rel.1 open_, goesToWord_syncadd.1 open_, goesToWord_synccas.1 open_,
      exec_inRegion stl open_⟩

end Sys2Proof.Machine
end

section
/-! The instruction formats and their codes (R109-R122): a word is the encoding of some fields exactly when its fields are
those, and a code names an operand exactly when it is the operand's code. -/

namespace Sys2Proof

/-! ### Bit strings in a row -/

theorem append_eq_iff {m n : Nat} {x : BitVec m} {y : BitVec n} {w : BitVec (m + n)} :
    x ++ y = w ↔ w.extractLsb' n m = x ∧ w.extractLsb' 0 n = y := by
  constructor
  · rintro rfl
    exact ⟨BitVec.extractLsb'_append_eq_left, BitVec.extractLsb'_append_eq_right⟩
  · rintro ⟨rfl, rfl⟩
    exact BitVec.extractLsb'_append_extractLsb'

theorem extractLsb'_eq_append_iff {k lo m n : Nat} {w : BitVec k} {x : BitVec m} {y : BitVec n} :
    w.extractLsb' lo (m + n) = x ++ y ↔ w.extractLsb' (lo + n) m = x ∧ w.extractLsb' lo n = y := by
  rw [eq_comm, append_eq_iff, ← BitVec.extractLsb'_append_extractLsb'_eq_extractLsb' rfl,
    BitVec.extractLsb'_append_eq_left, BitVec.extractLsb'_append_eq_right]

/-- A field holds a narrower value when its low bits are the value and the bits above them are 0. -/
theorem eq_setWidth_iff {m n : Nat} {f : BitVec (m + n)} {c : BitVec n} :
    f = c.setWidth (m + n) ↔ f.extractLsb' n m = 0 ∧ f.extractLsb' 0 n = c := by
  have room : c.toNat < 2 ^ (m + n) := c.isLt.trans_le (Nat.pow_le_pow_right Nat.two_pos (Nat.le_add_left n m))
  have zeros : c.setWidth (m + n) = 0#m ++ c :=
    BitVec.eq_of_toNat_eq (by simp [BitVec.toNat_append, Nat.mod_eq_of_lt room])
  rw [zeros, eq_comm]
  exact append_eq_iff

theorem eq_ofNat_of_toNat {n k : Nat} {x : BitVec n} (h : x.toNat = k) : x = BitVec.ofNat n k := by
  rw [← h, BitVec.ofNat_toNat, BitVec.setWidth_eq]

/-! ### Formats (R109-R116) -/

section
variable {w : IWord} {mj mn : BitVec 6} {d a b md : BitVec 5} {k : BitVec 3}

theorem encSA_eq_iff : encSA mj d a b md mn = w ↔
    fMajor w = mj ∧ fD w = d ∧ fA w = a ∧ fB w = b ∧ fMod w = md ∧ fMinor w = mn := by
  refine append_eq_iff.trans ?_
  simp only [extractLsb'_eq_append_iff, and_assoc]
  rfl

theorem encSI_eq_iff {i : BitVec 16} : encSI mj d a i = w ↔ fMajor w = mj ∧ fD w = d ∧ fA w = a ∧ fImm w = i := by
  refine append_eq_iff.trans ?_
  simp only [extractLsb'_eq_append_iff, and_assoc]
  rfl

theorem encSJ_eq_iff {o : BitVec 26} : encSJ mj o = w ↔ fMajor w = mj ∧ fOff26 w = o := append_eq_iff

theorem encSM_eq_iff {c : BitVec 2} {o : BitVec 14} : encSM mj d a c o = w ↔
    fMajor w = mj ∧ fD w = d ∧ fA w = a ∧ fW w = c ∧ fOff14 w = o := by
  refine append_eq_iff.trans ?_
  simp only [extractLsb'_eq_append_iff, and_assoc]
  rfl

theorem encLDA_eq_iff {c : BitVec 3} {o : BitVec 13} : encLDA mj d a c o = w ↔
    fMajor w = mj ∧ fD w = d ∧ fA w = a ∧ fScope w = c ∧ fOff13 w = o := by
  refine append_eq_iff.trans ?_
  simp only [extractLsb'_eq_append_iff, and_assoc]
  rfl

theorem encVV_eq_iff {t : BitVec 2} : encVV mj d a b k t mn = w ↔
    fMajor w = mj ∧ fD w = d ∧ fA w = a ∧ fB w = b ∧ fMk w = k ∧ fT w = t ∧ fMinor w = mn := by
  refine append_eq_iff.trans ?_
  simp only [extractLsb'_eq_append_iff, and_assoc]
  rfl

theorem encVM_eq_iff {op o : BitVec 4} : encVM mj d a b k op o = w ↔
    fMajor w = mj ∧ fD w = d ∧ fA w = a ∧ fB w = b ∧ fMk w = k ∧ fOp w = op ∧ fOff4 w = o := by
  refine append_eq_iff.trans ?_
  simp only [extractLsb'_eq_append_iff, and_assoc]
  rfl

theorem encVP_eq_iff {p : Port} : encVP mj d p k md mn = w ↔
    fMajor w = mj ∧ fD w = d ∧ fPort w = p ∧ fPk w = k ∧ fMod w = md ∧ fMinor w = mn := by
  refine append_eq_iff.trans ?_
  simp only [extractLsb'_eq_append_iff, and_assoc]
  rfl

theorem encVK_eq_iff {p : Port} : encVK mj k p b md mn = w ↔
    fMajor w = mj ∧ fK w = k ∧ fKPort w = p ∧ fB w = b ∧ fMod w = md ∧ fMinor w = mn := by
  refine append_eq_iff.trans ?_
  simp only [extractLsb'_eq_append_iff, and_assoc]
  rfl

end

/-! ### Codes of operands (R72, R112, R119-R122) -/

theorem Scope.ofCode_eq_some {c : BitVec 3} {s : Scope} : Scope.ofCode c = some s ↔ c = s.code := by
  cases s <;> revert c <;> decide

theorem EW.ofCode_eq_some {c : BitVec 2} {t : EW} : EW.ofCode c = some t ↔ c = t.code := by
  cases t <;> revert c <;> decide

theorem FT.ofCode_eq_some {c : BitVec 2} {t : FT} : FT.ofCode c = some t ↔ c = t.code := by
  cases t <;> revert c <;> decide

theorem BXT.ofCode_eq_some {c : BitVec 2} {t : BXT} : BXT.ofCode c = some t ↔ c = t.code := by
  cases t <;> revert c <;> decide

theorem QT.ofCode_eq_some {c : BitVec 2} {t : QT} : QT.ofCode c = some t ↔ c = t.code := by
  cases t <;> revert c <;> decide

theorem Ctl.ofCode_eq_some {n : BitVec 10} {c : Ctl} : Ctl.ofCode n = some c ↔ n = c.code := by
  constructor
  · intro h
    unfold Ctl.ofCode at h
    split at h
    case h_18 => cases h
    all_goals next n => cases h; exact eq_ofNat_of_toNat n
  · rintro rfl
    cases c <;> rfl

/-- The number of a control register stands in two fields (R122). -/
theorem Ctl.ofCode_append_eq_some {a b : R5} {c : Ctl} : Ctl.ofCode (a ++ b) = some c ↔
    a = c.code.extractLsb' 5 5 ∧ b = c.code.extractLsb' 0 5 := by
  rw [Ctl.ofCode_eq_some]
  exact append_eq_iff.trans (and_congr eq_comm eq_comm)

theorem Width.ofCode_eq_iff {c : BitVec 2} {t : Width} : Width.ofCode c = t ↔ c = t.code := by
  cases t <;> revert c <;> decide

/-! ### Registers and literals in a field (R121, R183) -/

theorem lit_eq_some {n k : Nat} {f : R5} {h : BitVec k} (fits : n < 2 ^ k) (narrow : k ≤ 5) :
    lit n k f = some h ↔ f = h.setWidth 5 ∧ h.toNat ≤ n := by
  have room : 2 ^ k ≤ 32 := Nat.pow_le_pow_right (n := 2) (by decide) narrow
  have low : h.toNat % 32 = h.toNat := Nat.mod_eq_of_lt (h.isLt.trans_le room)
  unfold lit
  split
  next le =>
    simp only [Option.some.injEq, ← BitVec.toNat_inj, BitVec.toNat_setWidth, Nat.mod_eq_of_lt (le.trans_lt fits),
      Nat.reducePow, low, iff_self_and]
    omega
  next gt =>
    simp only [reduceCtorEq, ← BitVec.toNat_inj, BitVec.toNat_setWidth, Nat.reducePow, low, false_iff, not_and, not_le]
    omega

theorem m5_eq_some {f : R5} {m : R3} : m5 f = some m ↔ f = m.setWidth 5 :=
  (lit_eq_some (n := 7) (by decide) (by decide)).trans (and_iff_left (Nat.le_of_lt_succ m.isLt))

theorem z5_eq_some {f : R5} {z : R4} : z5 f = some z ↔ f = z.setWidth 5 :=
  (lit_eq_some (n := 15) (by decide) (by decide)).trans (and_iff_left (Nat.le_of_lt_succ z.isLt))

theorem md5_eq_some {f : R5} {m : R3} : md5 f = some m ↔ f = m.setWidth 5 ∧ m ≠ 0 := by
  revert f m
  decide

theorem lit_one_eq_some {f : R5} {h : BitVec 1} : lit 1 1 f = some h ↔ f = h.setWidth 5 :=
  (lit_eq_some (by decide) (by decide)).trans (and_iff_left (Nat.le_of_lt_succ h.isLt))

theorem lit_three_eq_some {f : R5} {h : BitVec 2} : lit 3 2 f = some h ↔ f = h.setWidth 5 :=
  (lit_eq_some (by decide) (by decide)).trans (and_iff_left (Nat.le_of_lt_succ h.isLt))

theorem lit_four_eq_some {f : R5} {h : BitVec 3} : lit 4 3 f = some h ↔ f = h.setWidth 5 ∧ h.toNat ≤ 4 :=
  lit_eq_some (by decide) (by decide)

/-! ### Narrower values in a field -/

theorem eq_setWidth_one {f : BitVec 5} {c : BitVec 1} :
    f = c.setWidth 5 ↔ f.extractLsb' 1 4 = 0 ∧ f.extractLsb' 0 1 = c :=
  eq_setWidth_iff (m := 4) (n := 1)

theorem eq_setWidth_three {f : BitVec 5} {c : BitVec 3} :
    f = c.setWidth 5 ↔ f.extractLsb' 3 2 = 0 ∧ f.extractLsb' 0 3 = c :=
  eq_setWidth_iff (m := 2) (n := 3)

theorem eq_setWidth_twelve {f : BitVec 16} {c : BitVec 12} :
    f = c.setWidth 16 ↔ f.extractLsb' 12 4 = 0 ∧ f.extractLsb' 0 12 = c :=
  eq_setWidth_iff (m := 4) (n := 12)

/-- The MOD field of WAITV: its scope, its acquire bit and its comparison (R172). -/
theorem eq_waitMod_iff {f : BitVec 5} {g q : Bool} {c : BitVec 3} : f = BitVec.ofBool g ++ BitVec.ofBool q ++ c ↔
    f.extractLsb' 0 3 = c ∧ f[3] = q ∧ f[4] = g := by
  cases g <;> cases q <;> revert f c <;> decide

end Sys2Proof
end

section
/-! A word that decodes is the encoding of what it decodes to (R129): each decoder checks every field that its answer does not
hold, so the fields of the word are those that the encoder writes. -/

namespace Sys2Proof

/-! ### Faithful answers -/

/-- Whatever a decoder answers to `w` is well formed and has `w` as its encoding. -/
def Faithful (w : IWord) (e : Except Reject Instr) : Prop := ∀ i, e = .ok i → encode i = some w ∧ i.wf = true

section
variable {w : IWord} {i : Instr} {r : Reject}

theorem faithful_error : Faithful w (.error r) := fun _ h => nomatch h

theorem faithful_ok {x : IWord} (e : encode i = some x) (wf : i.wf = true) (same : x = w) : Faithful w (.ok i) := by
  rintro _ ⟨⟩
  exact ⟨same ▸ e, wf⟩

theorem faithful_need {c : Bool} {k : Except Reject Instr} : Faithful w (need c r k) ↔ (c = true → Faithful w k) := by
  cases c <;> simp [need, faithful_error]

theorem faithful_want {α : Type} {o : Option α} {k : α → Except Reject Instr} :
    Faithful w (want o r k) ↔ ∀ x, o = some x → Faithful w (k x) := by
  cases o <;> simp [want, faithful_error]

end

/-! ### The decoders of the majors -/

section
variable {w : IWord}

theorem decControl_faithful (mj : fMajor w = 0#6) : Faithful w (decControl w) := by
  unfold decControl
  split
  case h_14 => exact faithful_error
  case h_1 => exact faithful_need.2 fun zero => faithful_ok rfl rfl (of_decide_eq_true zero).symm
  case h_6 mn =>
    simp only [faithful_need, faithful_want, decide_eq_true_eq, Ctl.ofCode_append_eq_some]
    intro md c ⟨ha, hb⟩ writable
    exact faithful_ok rfl writable (encSA_eq_iff.2 ⟨mj, rfl, ha, hb, md, eq_ofNat_of_toNat mn⟩)
  all_goals
    next mn =>
    simp only [faithful_need, faithful_want, decide_eq_true_eq, Scope.ofCode_eq_some, Ctl.ofCode_append_eq_some]
    intros
    exact faithful_ok rfl rfl (encSA_eq_iff.2 (by simp [*, eq_setWidth_three, eq_ofNat_of_toNat mn]))

theorem decInt_faithful (mj : fMajor w = 1#6) : Faithful w (decInt w) := by
  unfold decInt
  split
  case h_35 => exact faithful_error
  case h_10 mn | h_11 mn | h_12 mn =>
    refine faithful_need.2 fun high => faithful_ok rfl rfl (encSA_eq_iff.2 ⟨mj, rfl, rfl, ?low, ?top, eq_ofNat_of_toNat mn⟩)
    case low => exact BitVec.extractLsb'_append_eq_right.symm
    case top => exact eq_setWidth_one.2 ⟨of_decide_eq_true high, BitVec.extractLsb'_append_eq_left.symm⟩
  all_goals
    next mn =>
    simp only [faithful_need, decide_eq_true_eq]
    intros
    exact faithful_ok rfl rfl (encSA_eq_iff.2 (by simp [*, eq_ofNat_of_toNat mn]))

theorem decSync_faithful (mj : fMajor w = 28#6) : Faithful w (decSync w) := by
  unfold decSync
  split
  case h_14 => exact faithful_error
  all_goals
    next mn =>
    simp only [faithful_need, faithful_want, decide_eq_true_eq, Scope.ofCode_eq_some]
    intros
    exact faithful_ok rfl rfl (encSA_eq_iff.2 (by simp [*, eq_setWidth_three, eq_waitMod_iff, eq_ofNat_of_toNat mn]))

theorem decUpd_faithful (mj : fMajor w = 29#6) : Faithful w (decUpd w) := by
  unfold decUpd
  split
  case h_4 => exact faithful_error
  all_goals
    next mn =>
    simp only [faithful_need, decide_eq_true_eq]
    intros
    exact faithful_ok rfl rfl (encSA_eq_iff.2 (by simp [*, eq_ofNat_of_toNat mn]))

theorem decTile_faithful (mj : fMajor w = 41#6) : Faithful w (decTile w) := by
  unfold decTile
  split
  case h_9 => exact faithful_error
  all_goals
    next mn =>
    simp only [faithful_need, faithful_want, decide_eq_true_eq, z5_eq_some, m5_eq_some]
    intros
    exact faithful_ok rfl rfl (encSA_eq_iff.2 (by simp [*, eq_ofNat_of_toNat mn]))

theorem decPriv_faithful (mj : fMajor w = 62#6) : Faithful w (decPriv w) := by
  unfold decPriv
  split
  case h_7 => exact faithful_error
  all_goals
    next mn =>
    simp only [faithful_need, decide_eq_true_eq]
    intros
    exact faithful_ok rfl rfl (encSA_eq_iff.2 (by simp [*, eq_ofNat_of_toNat mn]))

theorem decVInt_faithful (mj : fMajor w = 32#6) : Faithful w (decVInt w) := by
  unfold decVInt
  split
  case h_17 => exact faithful_error
  all_goals
    next mn =>
    simp only [faithful_need, faithful_want, decide_eq_true_eq, EW.ofCode_eq_some]
    intros
    exact faithful_ok rfl rfl (encVV_eq_iff.2 (by simp [*, eq_ofNat_of_toNat mn]))

theorem decVFloat_faithful (mj : fMajor w = 33#6) : Faithful w (decVFloat w) := by
  unfold decVFloat
  split
  case h_14 => exact faithful_error
  all_goals
    next mn =>
    simp only [faithful_need, faithful_want, decide_eq_true_eq, FT.ofCode_eq_some]
    intros
    exact faithful_ok rfl rfl (encVV_eq_iff.2 (by simp [*, eq_ofNat_of_toNat mn]))

theorem decVMask_faithful (mj : fMajor w = 34#6) : Faithful w (decVMask w) := by
  unfold decVMask
  split
  case h_16 => exact faithful_error
  case h_14 mn | h_15 mn =>
    simp only [faithful_need, faithful_want, decide_eq_true_eq, m5_eq_some]
    intros
    exact faithful_ok rfl rfl (encVV_eq_iff.2 (by simp [*, eq_ofNat_of_toNat mn]))
  case h_10 mn | h_11 mn | h_12 mn | h_13 mn =>
    simp only [faithful_need, faithful_want, decide_eq_true_eq, md5_eq_some, m5_eq_some]
    intro m ⟨hd, dest⟩
    intros
    exact faithful_ok rfl (decide_eq_true dest) (encVV_eq_iff.2 (by simp [*, eq_ofNat_of_toNat mn]))
  all_goals
    next mn =>
    simp only [faithful_want, md5_eq_some, EW.ofCode_eq_some, FT.ofCode_eq_some]
    intro t ht m ⟨hd, dest⟩
    exact faithful_ok rfl (decide_eq_true dest) (encVV_eq_iff.2 ⟨mj, hd, rfl, rfl, rfl, ht, eq_ofNat_of_toNat mn⟩)

theorem decVPerm_faithful (mj : fMajor w = 35#6) : Faithful w (decVPerm w) := by
  unfold decVPerm
  split
  case h_8 => exact faithful_error
  all_goals
    next mn =>
    simp only [faithful_need, decide_eq_true_eq]
    intros
    exact faithful_ok rfl rfl (encVV_eq_iff.2 (by simp [*, eq_ofNat_of_toNat mn]))

theorem decVConv_faithful (mj : fMajor w = 36#6) : Faithful w (decVConv w) := by
  unfold decVConv
  split
  case h_14 => exact faithful_error
  all_goals
    next mn =>
    simp only [faithful_need, faithful_want, decide_eq_true_eq, lit_one_eq_some, lit_three_eq_some, BXT.ofCode_eq_some,
      QT.ofCode_eq_some]
    intros
    exact faithful_ok rfl rfl (encVV_eq_iff.2 (by simp [*, eq_ofNat_of_toNat mn]))

theorem decVRed_faithful (mj : fMajor w = 37#6) : Faithful w (decVRed w) := by
  unfold decVRed
  split
  case h_10 => exact faithful_error
  all_goals
    next mn =>
    simp only [faithful_need, faithful_want, decide_eq_true_eq, EW.ofCode_eq_some, FT.ofCode_eq_some]
    intros
    exact faithful_ok rfl rfl (encVV_eq_iff.2 (by simp [*, eq_ofNat_of_toNat mn]))

theorem decVMem_faithful (mj : fMajor w = 38#6) : Faithful w (decVMem w) := by
  unfold decVMem
  split
  case h_7 => exact faithful_error
  case h_3 op | h_4 op | h_5 op =>
    exact faithful_ok rfl rfl (encVM_eq_iff.2 ⟨mj, rfl, rfl, rfl, rfl, eq_ofNat_of_toNat op, rfl⟩)
  all_goals
    next op =>
    refine faithful_need.2 fun none_ => ?_
    exact faithful_ok rfl rfl (encVM_eq_iff.2 ⟨mj, rfl, rfl, of_decide_eq_true none_, rfl, eq_ofNat_of_toNat op, rfl⟩)

theorem decVMove_faithful (mj : fMajor w = 39#6) : Faithful w (decVMove w) := by
  unfold decVMove
  split
  case h_6 => exact faithful_error
  all_goals
    next mn =>
    simp only [faithful_need, decide_eq_true_eq]
    intros
    exact faithful_ok rfl rfl (encVV_eq_iff.2 (by simp [*, eq_ofNat_of_toNat mn]))

theorem decT5_faithful (mj : fMajor w = 40#6) : Faithful w (decT5 w) := by
  unfold decT5
  split
  case h_4 => exact faithful_error
  all_goals
    next mn =>
    simp only [faithful_need, faithful_want, decide_eq_true_eq, lit_four_eq_some, and_imp]
    intro h hb group none_
    exact faithful_ok rfl (decide_eq_true group) (encVV_eq_iff.2 (by simp [*, eq_ofNat_of_toNat mn]))

theorem decPort_faithful (mj : fMajor w = 42#6) : Faithful w (decPort w) := by
  refine faithful_need.2 fun md => ?_
  rw [decide_eq_true_eq] at md
  split
  case h_8 => exact faithful_error
  all_goals
    next mn =>
    exact faithful_ok rfl rfl (encVP_eq_iff.2 ⟨mj, rfl, rfl, rfl, md, eq_ofNat_of_toNat mn⟩)

theorem decCmd_faithful (mj : fMajor w = 48#6) : Faithful w (decCmd w) := by
  unfold decCmd
  split
  case h_7 => exact faithful_error
  all_goals
    next mn =>
    simp only [faithful_need, decide_eq_true_eq]
    intros
    exact faithful_ok rfl rfl (encVK_eq_iff.2 (by simp [*, eq_setWidth_one, eq_ofNat_of_toNat mn]))

/-! ### The decoder -/

theorem decode_faithful (w : IWord) : Faithful w (decode w) := by
  unfold decode
  split
  case h_1 mj => exact decControl_faithful (eq_ofNat_of_toNat mj)
  case h_2 mj => exact decInt_faithful (eq_ofNat_of_toNat mj)
  case h_9 mj =>
    exact faithful_need.2 fun ha =>
      faithful_ok rfl rfl (encSI_eq_iff.2 ⟨eq_ofNat_of_toNat mj, rfl, of_decide_eq_true ha, rfl⟩)
  case h_10 mj =>
    refine faithful_need.2 fun high => faithful_ok rfl rfl (encSI_eq_iff.2 ⟨eq_ofNat_of_toNat mj, rfl, rfl, ?imm⟩)
    case imm => exact eq_setWidth_twelve.2 ⟨of_decide_eq_true high, rfl⟩
  case h_12 mj | h_14 mj =>
    exact faithful_ok rfl rfl (encSM_eq_iff.2 ⟨eq_ofNat_of_toNat mj, rfl, rfl, Width.ofCode_eq_iff.1 rfl, rfl⟩)
  case h_13 mj =>
    refine faithful_need.2 fun ne => ?_
    have narrow : Width.ofCode (fW w) ≠ .dbl := mt Width.ofCode_eq_iff.1 (of_decide_eq_true ne)
    exact faithful_ok rfl (decide_eq_true narrow)
      (encSM_eq_iff.2 ⟨eq_ofNat_of_toNat mj, rfl, rfl, Width.ofCode_eq_iff.1 rfl, rfl⟩)
  case h_21 mj | h_22 mj => exact faithful_ok rfl rfl (encSJ_eq_iff.2 ⟨eq_ofNat_of_toNat mj, rfl⟩)
  case h_23 mj =>
    exact faithful_need.2 fun ha =>
      faithful_ok rfl rfl (encSI_eq_iff.2 ⟨eq_ofNat_of_toNat mj, rfl, of_decide_eq_true ha, rfl⟩)
  case h_24 mj | h_25 mj =>
    exact faithful_want.2 fun c hc =>
      faithful_ok rfl rfl (encLDA_eq_iff.2 ⟨eq_ofNat_of_toNat mj, rfl, rfl, Scope.ofCode_eq_some.1 hc, rfl⟩)
  case h_26 mj => exact decSync_faithful (eq_ofNat_of_toNat mj)
  case h_27 mj => exact decUpd_faithful (eq_ofNat_of_toNat mj)
  case h_28 mj => exact decVInt_faithful (eq_ofNat_of_toNat mj)
  case h_29 mj => exact decVFloat_faithful (eq_ofNat_of_toNat mj)
  case h_30 mj => exact decVMask_faithful (eq_ofNat_of_toNat mj)
  case h_31 mj => exact decVPerm_faithful (eq_ofNat_of_toNat mj)
  case h_32 mj => exact decVConv_faithful (eq_ofNat_of_toNat mj)
  case h_33 mj => exact decVRed_faithful (eq_ofNat_of_toNat mj)
  case h_34 mj => exact decVMem_faithful (eq_ofNat_of_toNat mj)
  case h_35 mj => exact decVMove_faithful (eq_ofNat_of_toNat mj)
  case h_36 mj => exact decT5_faithful (eq_ofNat_of_toNat mj)
  case h_37 mj => exact decTile_faithful (eq_ofNat_of_toNat mj)
  case h_38 mj => exact decPort_faithful (eq_ofNat_of_toNat mj)
  case h_39 mj => exact decCmd_faithful (eq_ofNat_of_toNat mj)
  case h_40 mj => exact decPriv_faithful (eq_ofNat_of_toNat mj)
  case h_41 => exact faithful_error
  all_goals
    next mj => exact faithful_ok rfl rfl (encSI_eq_iff.2 ⟨eq_ofNat_of_toNat mj, rfl, rfl, rfl⟩)

end

/-- Settles O2, since the decoder is faithful at every word. -/
theorem encodeDecode : Obligations.EncodeDecode := by
  unfold Obligations.EncodeDecode
  intro i w h
  exact decode_faithful w i h

end Sys2Proof
end

section
/-! A well-formed instruction decodes from its encoding (R108-R122): the fields that the encoder writes send the word to the
row of its instruction, and each check of that row holds. -/

namespace Sys2Proof

/-! ### Checks that hold -/

@[simp] theorem need_true {r : Reject} {k : Except Reject Instr} : need true r k = k := rfl

@[simp] theorem want_some {α : Type} {r : Reject} {x : α} {k : α → Except Reject Instr} : want (some x) r k = k x := rfl

@[simp] theorem Scope.ofCode_code (s : Scope) : Scope.ofCode s.code = some s := Scope.ofCode_eq_some.2 rfl
@[simp] theorem EW.ofCode_code (t : EW) : EW.ofCode t.code = some t := EW.ofCode_eq_some.2 rfl
@[simp] theorem FT.ofCode_code (t : FT) : FT.ofCode t.code = some t := FT.ofCode_eq_some.2 rfl
@[simp] theorem BXT.ofCode_code (t : BXT) : BXT.ofCode t.code = some t := BXT.ofCode_eq_some.2 rfl
@[simp] theorem QT.ofCode_code (t : QT) : QT.ofCode t.code = some t := QT.ofCode_eq_some.2 rfl
@[simp] theorem Width.ofCode_code (t : Width) : Width.ofCode t.code = t := Width.ofCode_eq_iff.2 rfl
@[simp] theorem Ctl.ofCode_fields (c : Ctl) : Ctl.ofCode (c.code.extractLsb' 5 5 ++ c.code.extractLsb' 0 5) = some c :=
  Ctl.ofCode_append_eq_some.2 ⟨rfl, rfl⟩
@[simp] theorem m5_setWidth (m : R3) : m5 (m.setWidth 5) = some m := m5_eq_some.2 rfl
@[simp] theorem z5_setWidth (z : R4) : z5 (z.setWidth 5) = some z := z5_eq_some.2 rfl
@[simp] theorem lit_one_setWidth (h : BitVec 1) : lit 1 1 (h.setWidth 5) = some h := lit_one_eq_some.2 rfl
@[simp] theorem lit_three_setWidth (h : BitVec 2) : lit 3 2 (h.setWidth 5) = some h := lit_three_eq_some.2 rfl
@[simp] theorem lit_four_setWidth {h : BitVec 3} (le : h.toNat ≤ 4) : lit 4 3 (h.setWidth 5) = some h :=
  lit_four_eq_some.2 ⟨rfl, le⟩
theorem md5_setWidth {m : R3} (ne : m ≠ 0) : md5 (m.setWidth 5) = some m := md5_eq_some.2 ⟨rfl, ne⟩

/-! ### The decoder, major by major (R117) -/

section
variable {w : IWord}

theorem decode_control (mj : fMajor w = 0#6) : decode w = decControl w := by unfold decode; rw [mj]; rfl
theorem decode_int (mj : fMajor w = 1#6) : decode w = decInt w := by unfold decode; rw [mj]; rfl
theorem decode_sync (mj : fMajor w = 28#6) : decode w = decSync w := by unfold decode; rw [mj]; rfl
theorem decode_upd (mj : fMajor w = 29#6) : decode w = decUpd w := by unfold decode; rw [mj]; rfl
theorem decode_vInt (mj : fMajor w = 32#6) : decode w = decVInt w := by unfold decode; rw [mj]; rfl
theorem decode_vFloat (mj : fMajor w = 33#6) : decode w = decVFloat w := by unfold decode; rw [mj]; rfl
theorem decode_vMask (mj : fMajor w = 34#6) : decode w = decVMask w := by unfold decode; rw [mj]; rfl
theorem decode_vPerm (mj : fMajor w = 35#6) : decode w = decVPerm w := by unfold decode; rw [mj]; rfl
theorem decode_vConv (mj : fMajor w = 36#6) : decode w = decVConv w := by unfold decode; rw [mj]; rfl
theorem decode_vRed (mj : fMajor w = 37#6) : decode w = decVRed w := by unfold decode; rw [mj]; rfl
theorem decode_vMem (mj : fMajor w = 38#6) : decode w = decVMem w := by unfold decode; rw [mj]; rfl
theorem decode_vMove (mj : fMajor w = 39#6) : decode w = decVMove w := by unfold decode; rw [mj]; rfl
theorem decode_t5 (mj : fMajor w = 40#6) : decode w = decT5 w := by unfold decode; rw [mj]; rfl
theorem decode_tile (mj : fMajor w = 41#6) : decode w = decTile w := by unfold decode; rw [mj]; rfl
theorem decode_port (mj : fMajor w = 42#6) : decode w = decPort w := by unfold decode; rw [mj]; rfl
theorem decode_cmd (mj : fMajor w = 48#6) : decode w = decCmd w := by unfold decode; rw [mj]; rfl
theorem decode_priv (mj : fMajor w = 62#6) : decode w = decPriv w := by unfold decode; rw [mj]; rfl

end

/-! ### Each instruction decodes from its encoding -/

theorem decode_of_encode {i : Instr} {w : IWord} (wf : i.wf = true) (e : encode i = some w) : decode w = .ok i := by
  cases i with
  | nop =>
    obtain rfl : 0 = w := Option.some.inj e
    rfl
  | fend | trap | brk | jr | jalr | idmb | idme | clmask | clunmask =>
    obtain ⟨mj, hd, ha, hb, md, mn⟩ := encSA_eq_iff.1 (Option.some.inj e)
    rw [decode_control mj]
    simp [decControl, hd, ha, hb, md, mn]
  | mfc d c =>
    obtain ⟨mj, hd, ha, hb, md, mn⟩ := encSA_eq_iff.1 (Option.some.inj e)
    rw [decode_control mj]
    simp [decControl, hd, ha, hb, md, mn]
  | mtc c d =>
    obtain ⟨mj, hd, ha, hb, md, mn⟩ := encSA_eq_iff.1 (Option.some.inj e)
    have writable : c.writable = true := wf
    rw [decode_control mj]
    simp [decControl, hd, ha, hb, md, mn, writable]
  | fence s =>
    obtain ⟨mj, hd, ha, hb, md, mn⟩ := encSA_eq_iff.1 (Option.some.inj e)
    obtain ⟨high, scope⟩ := eq_setWidth_three.1 md
    rw [decode_control mj]
    simp [decControl, hd, ha, hb, high, scope, mn]
  | add | sub | and | or | xor | andn | sll | srl | sra | slt | sltu | min | max | minu | maxu | mul | mulh | mulhu
  | div | divu | rem | remu | clz | ctz | popc | sextb | sexth | sextw | addw | subw | addh =>
    obtain ⟨mj, hd, ha, hb, md, mn⟩ := encSA_eq_iff.1 (Option.some.inj e)
    rw [decode_int mj]
    simp [decInt, hd, ha, hb, md, mn]
  | slli d a sh | srli d a sh | srai d a sh =>
    obtain ⟨mj, hd, ha, hb, md, mn⟩ := encSA_eq_iff.1 (Option.some.inj e)
    obtain ⟨high, top⟩ := eq_setWidth_one.1 md
    have amount : (fMod w).extractLsb' 0 1 ++ fB w = sh := append_eq_iff.2 ⟨top.symm, hb.symm⟩
    rw [decode_int mj]
    simp [decInt, hd, ha, high, amount, mn]
  | addi | andi | ori | xori | slti | sltiu | lui | addih | beq | bne | blt | bge | bltu | bgeu | loop =>
    obtain ⟨mj, hd, ha, hi⟩ := encSI_eq_iff.1 (Option.some.inj e)
    simp [decode, mj, hd, ha, hi]
  | lhi d a imm =>
    obtain ⟨mj, hd, ha, hi⟩ := encSI_eq_iff.1 (Option.some.inj e)
    obtain ⟨high, low⟩ := eq_setWidth_twelve.1 hi
    simp [decode, mj, hd, ha, high, low]
  | ld | st =>
    obtain ⟨mj, hd, ha, hw, ho⟩ := encSM_eq_iff.1 (Option.some.inj e)
    simp [decode, mj, hd, ha, hw, ho]
  | ldx t =>
    obtain ⟨mj, hd, ha, hw, ho⟩ := encSM_eq_iff.1 (Option.some.inj e)
    have ne : t ≠ .dbl := of_decide_eq_true wf
    have narrow : t.code ≠ 3#2 := fun c => ne (t.ofCode_code.symm.trans (Width.ofCode_eq_iff.2 c))
    simp [decode, mj, hd, ha, hw, ho, narrow]
  | j | jal =>
    obtain ⟨mj, ho⟩ := encSJ_eq_iff.1 (Option.some.inj e)
    simp [decode, mj, ho]
  | lda | stl =>
    obtain ⟨mj, hd, ha, hs, ho⟩ := encLDA_eq_iff.1 (Option.some.inj e)
    simp [decode, mj, hd, ha, hs, ho]
  | semadd | semsub | semwait | semget | rvinit | rvarr | rvwait =>
    obtain ⟨mj, hd, ha, hb, md, mn⟩ := encSA_eq_iff.1 (Option.some.inj e)
    rw [decode_sync mj]
    simp [decSync, hd, ha, hb, md, mn]
  | acq | rel | syncadd | synccas | msg =>
    obtain ⟨mj, hd, ha, hb, md, mn⟩ := encSA_eq_iff.1 (Option.some.inj e)
    obtain ⟨high, scope⟩ := eq_setWidth_three.1 md
    rw [decode_sync mj]
    simp [decSync, hd, ha, hb, high, scope, mn]
  | waitv =>
    obtain ⟨mj, hd, ha, hb, md, mn⟩ := encSA_eq_iff.1 (Option.some.inj e)
    obtain ⟨scope, acquire, ge⟩ := eq_waitMod_iff.1 md
    rw [decode_sync mj]
    simp [decSync, hd, ha, hb, scope, acquire, ge, mn]
  | upd | updv | updfl =>
    obtain ⟨mj, hd, ha, hb, md, mn⟩ := encSA_eq_iff.1 (Option.some.inj e)
    rw [decode_upd mj]
    simp [decUpd, hd, ha, hb, md, mn]
  | vadd | vsub | vmul | vmulh | vand | vor | vxor | vsll | vsrl | vsra | vmin | vmax | vminu | vmaxu | vabs | vadds =>
    obtain ⟨mj, hd, ha, hb, hk, ht, mn⟩ := encVV_eq_iff.1 (Option.some.inj e)
    rw [decode_vInt mj]
    simp [decVInt, hd, ha, hb, hk, ht, mn]
  | vfadd | vfsub | vfmul | vfma | vfnma | vfmin | vfmax | vfabs | vfneg | vfrcp | vfrsq | vfexp2 | vflog2 =>
    obtain ⟨mj, hd, ha, hb, hk, ht, mn⟩ := encVV_eq_iff.1 (Option.some.inj e)
    rw [decode_vFloat mj]
    simp [decVFloat, hd, ha, hb, hk, ht, mn]
  | vceq _ m | vcne _ m | vclt _ m | vcle _ m | vcltu _ m | vcfeq _ m | vcflt _ m | vcfle _ m | vcfun _ m | mand m | mor m
  | mxor m | mnot m =>
    have dest : md5 (m.setWidth 5) = some m := md5_setWidth (of_decide_eq_true wf)
    obtain ⟨mj, hd, ha, hb, hk, ht, mn⟩ := encVV_eq_iff.1 (Option.some.inj e)
    rw [decode_vMask mj]
    simp [decVMask, hd, ha, hb, hk, ht, mn, dest]
  | mpopc | mfirst =>
    obtain ⟨mj, hd, ha, hb, hk, ht, mn⟩ := encVV_eq_iff.1 (Option.some.inj e)
    rw [decode_vMask mj]
    simp [decVMask, hd, ha, hb, hk, ht, mn]
  | vperm | vslideup | vslidedn | vbcast | vcompress | vexpand | vsel =>
    obtain ⟨mj, hd, ha, hb, hk, ht, mn⟩ := encVV_eq_iff.1 (Option.some.inj e)
    rw [decode_vPerm mj]
    simp [decVPerm, hd, ha, hb, hk, ht, mn]
  | vcvtF32I32 | vcvtI32F32 | vcvtBf16F32 | vcvtF32Bf16 | vcvtF16F32 | vcvtF32F16 | vcvtI8I32 | vcvtI32I8 | vcvtE2m1F32
  | vcvtF32E2m1 | vbxenc | vbxdec | vqnt =>
    obtain ⟨mj, hd, ha, hb, hk, ht, mn⟩ := encVV_eq_iff.1 (Option.some.inj e)
    rw [decode_vConv mj]
    simp [decVConv, hd, ha, hb, hk, ht, mn]
  | vrsum | vfrsum | vrmin | vrmax | vfrmin | vfrmax | vdot | vfdot | vargmax =>
    obtain ⟨mj, hd, ha, hb, hk, ht, mn⟩ := encVV_eq_iff.1 (Option.some.inj e)
    rw [decode_vRed mj]
    simp [decVRed, hd, ha, hb, hk, ht, mn]
  | vld | vst | vlds | vldx | vstx | vldb =>
    obtain ⟨mj, hd, ha, hb, hk, op, ho⟩ := encVM_eq_iff.1 (Option.some.inj e)
    rw [decode_vMem mj]
    simp [decVMem, hd, ha, hb, hk, op, ho]
  | vmovg | vget | vput | viota | vmov =>
    obtain ⟨mj, hd, ha, hb, hk, ht, mn⟩ := encVV_eq_iff.1 (Option.some.inj e)
    rw [decode_vMove mj]
    simp [decVMove, hd, ha, hb, hk, ht, mn]
  | t5pk _ _ h | t5upk _ _ h | t5cnt _ _ h =>
    have group : h.toNat ≤ 4 := of_decide_eq_true wf
    obtain ⟨mj, hd, ha, hb, hk, ht, mn⟩ := encVV_eq_iff.1 (Option.some.inj e)
    rw [decode_t5 mj]
    simp [decT5, hd, ha, hb, hk, ht, mn, group]
  | zset | zclr | zld | zst | zand | zor | ztest | zfromm =>
    obtain ⟨mj, hd, ha, hb, md, mn⟩ := encSA_eq_iff.1 (Option.some.inj e)
    rw [decode_tile mj]
    simp [decTile, hd, ha, hb, md, mn]
  | recv | recvg | send | sendg | peektag | sendtag | pcount =>
    obtain ⟨mj, hd, hp, hk, md, mn⟩ := encVP_eq_iff.1 (Option.some.inj e)
    rw [decode_port mj]
    simp [decPort, hd, hp, hk, md, mn]
  | kld | kst | kclr | kissue | kwait =>
    obtain ⟨mj, hk, hp, hb, md, mn⟩ := encVK_eq_iff.1 (Option.some.inj e)
    rw [decode_cmd mj]
    simp [decCmd, hk, hp, hb, md, mn]
  | kins =>
    obtain ⟨mj, hk, hp, hb, md, mn⟩ := encVK_eq_iff.1 (Option.some.inj e)
    obtain ⟨high, half⟩ := eq_setWidth_one.1 md
    rw [decode_cmd mj]
    simp [decCmd, hk, hp, hb, high, half, mn]
  | hinv | imginv | tlbi | ctxsave | ctxload | solvreq =>
    obtain ⟨mj, hd, ha, hb, md, mn⟩ := encSA_eq_iff.1 (Option.some.inj e)
    rw [decode_priv mj]
    simp [decPriv, hd, ha, hb, md, mn]
  | _ => cases e

/-- Settles O1, by cases on the instruction, grouped by the decoder of its major. -/
theorem decodeEncode : Obligations.DecodeEncode := by
  unfold Obligations.DecodeEncode
  intro i w wf e
  exact decode_of_encode wf e

end Sys2Proof
end

section
/-! One step, turn by turn (R36, R108, R129): what each kind of turn runs, and the three answers of a fetch. -/

namespace Sys2Proof.Machine

/-! ### Turns -/

/-- The state in which a turn takes place: its agenda goes on to the next one. -/
def State.turnTaken (s : State) : State := { s with agenda := s.agenda.tail }

section
variable {s : State}

theorem step_issue {b a : Nat} (turn : s.turn = .issue b a) :
    step s = s.turnTaken.issue b a := by
  simp only [step, turn, State.turnTaken]

theorem step_event {i : Instr} (turn : s.turn = .event i) (event : isScalar i = false) :
    step s = exec i (s.turnTaken.advanceTime none) := by
  simp [step, turn, event, State.turnTaken]

theorem step_perform {b n : Nat} (turn : s.turn = .perform b n) :
    step s = .next ((s.turnTaken.advanceTime none).perform b n) := by
  simp only [step, turn, State.turnTaken]

theorem step_regRead {fn : HostFn} {off n : Nat} (turn : s.turn = .regRead fn off n) :
    step s = .next ((s.turnTaken.advanceTime none).registerRead fn off n) := by
  simp only [step, turn, State.turnTaken]

theorem step_peer {m u : Nat} {x : PeerAccess} (turn : s.turn = .peer m u x) :
    step s = .next ((s.turnTaken.advanceTime none).servePeer m u x) := by
  simp only [step, turn, State.turnTaken]

/-! ### The issue stage -/

/-- A firing that can issue, and still can once the time of its instruction has passed, runs the word at its PC. -/
theorem State.issue_runs {b a : Nat} {f f' : Firing} (can : s.issuable b a = some f)
    (still : (s.advanceTime (some (b, s.nextOneCycle f))).issuable b a = some f') :
    s.issue b a = ((s.advanceTime (some (b, s.nextOneCycle f))).load_ f').runWord := by
  simp only [State.issue, can, still]

theorem State.runWord_decoded {w : IWord} {i : Instr} (fetched : s.fetch = .word w) (decoded : decode w = .ok i) :
    s.runWord = after (exec i s) := by
  simp only [State.runWord, fetched, decoded]

theorem State.runWord_illegal {w : IWord} {e : Reject} (fetched : s.fetch = .word w) (rejected : decode w = .error e) :
    s.runWord = after (Claims.faults s 0x02 (w.setWidth 64)) := by
  simp only [State.runWord, fetched, rejected]
  rfl

theorem State.runWord_bad (bad : s.fetch = .bad) : s.runWord = after (Claims.faults s 0x01 s.fir.regs.pc) := by
  simp only [State.runWord, bad]
  rfl

end

/-- Settles O4: each turn of a step is its own equation, and the turn of an issue has the three answers of a fetch. -/
theorem stepRunsDecoded : Obligations.StepRunsDecoded := by
  unfold Obligations.StepRunsDecoded
  intro s s0
  refine ⟨?issue, fun _ => step_event, fun _ _ => step_perform, fun _ _ _ => step_regRead, fun _ _ _ => step_peer⟩
  case issue =>
    intro b a f f' turn can t still
    have runs : step s = (t.load_ f').runWord := (step_issue turn).trans (State.issue_runs can still)
    rw [runs]
    exact ⟨fun _ _ => State.runWord_decoded, fun _ _ => State.runWord_illegal, State.runWord_bad⟩

end Sys2Proof.Machine
end

section
/-! The legal values of SAMPLEP and MODINFO (R20, R150), which every step keeps, and the words that the spec writes out beside
their instructions (R156, R162, R163, R200). -/

namespace Sys2Proof.Machine

/-- Settles O8: every function a step reaches keeps the two registers legal, and so does the step. -/
theorem stepKeepsLegalRegisters : Obligations.StepKeepsLegalRegisters := by
  unfold Obligations.StepKeepsLegalRegisters
  intro s t period modnum e
  have k : Out.upholds s (.next t) := e ▸ step_upholds (State.upholds_refl s)
  exact k.2.2 ⟨period, modnum⟩

/-- Settles O3: the decoder is run on each of the twelve words. -/
theorem decodeExampleWords : Obligations.DecodeExampleWords := by
  unfold Obligations.DecodeExampleWords
  decide

end Sys2Proof.Machine
end

section
/-! Integer and address arithmetic (R164-R166): each instruction writes one value of its operands, and each value is the one the
rule gives, by whole numbers or bit by bit. -/

namespace Sys2Proof.Machine

/-! ### What an instruction writes -/

section
variable {s : State} {d a b : R5} {P : Word → Prop}

/-- A retirement depends on what the registers become, not on how. -/
theorem finish_congr {f g : Regs → Regs} (h : f s.regs = g s.regs) : finish s f = finish s g :=
  congrArg (fun r => retire { s with fir := { s.fir with regs := r } }) h

theorem alu2_wrote (f : Word → Word → Word) :
    alu2 f d a b s = Claims.wrote s d (f (s.regs.rg a) (s.regs.rg b)) (s.regs.rgp a || s.regs.rgp b) :=
  (finish_congr rfl).trans (finish_wg s d _ fun r => r.rgp a || r.rgp b)

theorem alu1_wrote (f : Word → Word) : alu1 f d a s = Claims.wrote s d (f (s.regs.rg a)) (s.regs.rgp a) :=
  (finish_congr rfl).trans (finish_wg s d _ fun r => r.rgp a)

theorem alu2_gives {f : Word → Word → Word} (value : P (f (s.regs.rg a) (s.regs.rg b))) :
    ∃ v, alu2 f d a b s = Claims.wrote s d v (s.regs.rgp a || s.regs.rgp b) ∧ P v :=
  ⟨_, alu2_wrote f, value⟩

theorem alu1_gives {f : Word → Word} (value : P (f (s.regs.rg a))) :
    ∃ v, alu1 f d a s = Claims.wrote s d v (s.regs.rgp a) ∧ P v :=
  ⟨_, alu1_wrote f, value⟩

end

/-! ### Sums, products and sign extensions -/

section
variable (x y : Word)

theorem toInt_sext64 {w : Nat} (h : w ≤ 64) : (sext64 w x).toInt = x.toInt.bmod (2 ^ w) := by
  unfold sext64
  rw [BitVec.toInt_signExtend_of_le h, BitVec.toInt_setWidth, BitVec.toInt_eq_toNat_bmod, Int.bmod_bmod_of_dvd]
  exact_mod_cast pow_dvd_pow 2 h

theorem toInt_sext64_add : (sext64 32 (x + y)).toInt = (x.toInt + y.toInt).bmod (2 ^ 32) := by
  rw [toInt_sext64 _ (by decide), BitVec.toInt_add, Int.bmod_bmod_of_dvd (by decide)]

theorem toInt_sext64_sub : (sext64 32 (x - y)).toInt = (x.toInt - y.toInt).bmod (2 ^ 32) := by
  rw [toInt_sext64 _ (by decide), BitVec.toInt_sub, Int.bmod_bmod_of_dvd (by decide)]

theorem toInt_add_immediate (imm : BitVec 16) : (x + imm.signExtend 64).toInt = (x.toInt + imm.toInt).bmod (2 ^ 64) := by
  rw [BitVec.toInt_add, BitVec.toInt_signExtend_of_le (by decide)]

theorem toNat_mulHU : (mulHU x y).toNat = x.toNat * y.toNat / 2 ^ 64 := by
  have product : x.toNat * y.toNat < 2 ^ 128 := by
    rw [show 2 ^ 128 = 2 ^ 64 * 2 ^ 64 by decide]
    exact Nat.mul_lt_mul'' x.isLt y.isLt
  have high : x.toNat * y.toNat / 2 ^ 64 < 2 ^ 64 := Nat.div_lt_of_lt_mul product
  unfold mulHU
  rw [BitVec.toNat_setWidth, BitVec.toNat_ushiftRight, BitVec.toNat_mul, BitVec.toNat_setWidth_of_le (by decide),
    BitVec.toNat_setWidth_of_le (by decide), Nat.mod_eq_of_lt product, Nat.shiftRight_eq_div_pow, Nat.mod_eq_of_lt high]

theorem signed_product_bounds : -(2 ^ 126) ≤ x.toInt * y.toInt ∧ x.toInt * y.toInt ≤ 2 ^ 126 := by
  have hx : x.toInt.natAbs ≤ 2 ^ 63 := by have := x.toInt_lt; have := x.le_toInt; omega
  have hy : y.toInt.natAbs ≤ 2 ^ 63 := by have := y.toInt_lt; have := y.le_toInt; omega
  have := Nat.mul_le_mul hx hy
  rw [← Int.natAbs_mul] at this
  omega

/-- The product of two signed words fits 128 bits. -/
theorem toInt_signed_product : (x.signExtend 128 * y.signExtend 128).toInt = x.toInt * y.toInt := by
  obtain ⟨low, high⟩ := signed_product_bounds x y
  rw [BitVec.toInt_mul, BitVec.toInt_signExtend_of_le (by decide), BitVec.toInt_signExtend_of_le (by decide)]
  exact Int.bmod_eq_of_le (by omega) (by omega)

theorem toInt_mulHS : (mulHS x y).toInt = x.toInt * y.toInt / 2 ^ 64 := by
  obtain ⟨low, high⟩ := signed_product_bounds x y
  have product := toInt_signed_product x y
  unfold mulHS
  generalize x.signExtend 128 * y.signExtend 128 = p at product
  generalize x.toInt * y.toInt = q at *
  rw [BitVec.toInt_setWidth, BitVec.toNat_ushiftRight, Nat.shiftRight_eq_div_pow]
  rw [BitVec.toInt_eq_toNat_cond] at product
  have small := p.isLt
  have high : ((p.toNat / 2 ^ 64 : Nat) : Int).bmod (2 ^ 64) = (q / 2 ^ 64).bmod (2 ^ 64) := by
    rw [Int.bmod_eq_bmod_iff_bmod_sub_eq_zero]
    split at product
    · rw [← product]
      simp
    · have : q / 2 ^ 64 = ((p.toNat / 2 ^ 64 : Nat) : Int) - 2 ^ 64 := by omega
      rw [this]
      simp
  rw [high]
  exact Int.bmod_eq_of_le (by omega) (by omega)

end

/-! ### Shifts, LUI and LHI -/

section
variable (x : Word) (n : Nat)

theorem toNat_shiftLeft_pow : (x <<< n).toNat = x.toNat * 2 ^ n % 2 ^ 64 := by
  rw [BitVec.toNat_shiftLeft, Nat.shiftLeft_eq]

theorem toNat_shiftRight_pow : (x >>> n).toNat = x.toNat / 2 ^ n := by
  rw [BitVec.toNat_ushiftRight, Nat.shiftRight_eq_div_pow]

theorem toInt_sshiftRight_pow : (x.sshiftRight n).toInt = x.toInt / 2 ^ n := by
  rw [BitVec.toInt_sshiftRight, Int.shiftRight_eq_div_pow]
  norm_cast

theorem toInt_upper (imm : BitVec 16) : ((imm.setWidth 32 <<< 16).signExtend 64).toInt = imm.toInt * 2 ^ 16 := by
  rw [BitVec.toInt_signExtend_of_le (by decide), BitVec.toInt_shiftLeft, BitVec.toInt_eq_toNat_cond (x := imm),
    BitVec.toNat_setWidth_of_le (by decide), Nat.shiftLeft_eq]
  have := imm.isLt
  split
  · exact Int.bmod_eq_of_le (by omega) (by omega)
  · rw [show ((imm.toNat * 2 ^ 16 : Nat) : Int) = ((imm.toNat : Int) - (2 ^ 16 : Nat)) * 2 ^ 16 + (2 ^ 32 : Nat) by push_cast; ring,
      Int.add_bmod_right]
    exact Int.bmod_eq_of_le (by omega) (by omega)

theorem toNat_handle (h : BitVec 12) :
    ((h.setWidth 64 <<< 52) ||| (x &&& 0x000FFFFFFFFFFFFF)).toNat = h.toNat * 2 ^ 52 + x.toNat % 2 ^ 52 := by
  have high : (h.setWidth 64 <<< 52).toNat = 2 ^ 52 * h.toNat := by
    have := h.isLt
    rw [BitVec.toNat_shiftLeft, BitVec.toNat_setWidth_of_le (by decide), Nat.shiftLeft_eq, Nat.mod_eq_of_lt (by omega), mul_comm]
  have low : (x &&& 0x000FFFFFFFFFFFFF).toNat = x.toNat % 2 ^ 52 := by
    rw [BitVec.toNat_and]
    exact Nat.and_two_pow_sub_one_eq_mod x.toNat 52
  rw [BitVec.toNat_or, high, low, ← Nat.two_pow_add_eq_or_of_lt (Nat.mod_lt _ (by decide)), mul_comm]

end

/-! ### Counts of bits -/

section
variable {x : Word}

theorem toNat_clz64 (h : x ≠ 0) : (clz64 x).toNat = 63 - x.toNat.log2 := by
  unfold clz64
  rw [if_neg h, BitVec.toNat_ofNat]
  exact Nat.mod_eq_of_lt (by omega)

/-- The highest one of a word. -/
theorem log2_lt_64 (h : x ≠ 0) : x.toNat.log2 < 64 :=
  (Nat.log2_lt (fun e => h (BitVec.eq_of_toNat_eq e))).2 x.isLt

theorem clz64_spec : (clz64 x).toNat ≤ 64 ∧ (∀ i, i < (clz64 x).toNat → x.getLsbD (63 - i) = false)
    ∧ ((clz64 x).toNat < 64 → x.getLsbD (63 - (clz64 x).toNat) = true) := by
  by_cases h : x = 0
  · subst h
    exact ⟨by decide, fun i _ => BitVec.getLsbD_zero, fun hi => absurd hi (by decide)⟩
  have top := log2_lt_64 h
  rw [toNat_clz64 h]
  refine ⟨by omega, fun i hi => ?above, fun _ => ?highest⟩
  case above =>
    exact Nat.testBit_lt_two_pow (Nat.lt_of_lt_of_le Nat.lt_log2_self (Nat.pow_le_pow_right (by decide) (by omega)))
  case highest =>
    rw [show 63 - (63 - x.toNat.log2) = x.toNat.log2 by omega]
    exact Nat.testBit_log2 fun e => h (BitVec.eq_of_toNat_eq e)

/-- A word and its negation share its lowest one alone. -/
theorem and_neg_self (h : x ≠ 0) : x &&& -x = BitVec.twoPow 64 x.ctz.toNat := by
  have lowest := BitVec.getLsbD_true_ctz_of_ne_zero h
  have below {j : Nat} (hj : j < x.ctz.toNat) := BitVec.getLsbD_false_of_lt_ctz hj
  refine BitVec.eq_of_getLsbD_eq fun i hi => ?_
  rw [BitVec.getLsbD_and, BitVec.getLsbD_neg, BitVec.getLsbD_twoPow]
  rcases Nat.lt_trichotomy i x.ctz.toNat with lt | eq | gt
  · simp [below lt, Nat.ne_of_gt lt]
  · have none_ : ¬ ∃ j, j < i ∧ x.getLsbD j = true := by
      rintro ⟨j, hj, one⟩
      rw [below (eq ▸ hj)] at one
      cases one
    simp [← eq, hi, none_, eq ▸ lowest]
  · have some_ : ∃ j, j < i ∧ x.getLsbD j = true := ⟨_, gt, lowest⟩
    simp [some_, hi, Nat.ne_of_lt gt]

theorem toNat_ctz64 (h : x ≠ 0) : (ctz64 x).toNat = x.ctz.toNat := by
  have low : x.ctz.toNat < 64 := BitVec.ctz_lt_iff_ne_zero.2 h
  unfold ctz64
  rw [if_neg h, and_neg_self h, BitVec.toNat_twoPow_of_lt low, Nat.log2_two_pow, BitVec.toNat_ofNat]
  exact Nat.mod_eq_of_lt (by omega)

theorem ctz64_spec : (ctz64 x).toNat ≤ 64 ∧ (∀ i, i < (ctz64 x).toNat → x.getLsbD i = false)
    ∧ ((ctz64 x).toNat < 64 → x.getLsbD (ctz64 x).toNat = true) := by
  by_cases h : x = 0
  · subst h
    exact ⟨by decide, fun i _ => BitVec.getLsbD_zero, fun hi => absurd hi (by decide)⟩
  have low : x.ctz.toNat < 64 := BitVec.ctz_lt_iff_ne_zero.2 h
  rw [toNat_ctz64 h]
  exact ⟨by omega, fun i hi => BitVec.getLsbD_false_of_lt_ctz hi, fun _ => BitVec.getLsbD_true_ctz_of_ne_zero h⟩

theorem foldl_count (p : Nat → Bool) (l : List Nat) (n : Nat) :
    l.foldl (fun n i => n + (if p i then 1 else 0)) n = n + (l.filter p).length := by
  induction l generalizing n with
  | nil => rfl
  | cons i l ih =>
    rw [List.foldl_cons, ih, List.filter_cons]
    split
    · rw [List.length_cons]
      omega
    · rfl

theorem popc64_eq : popc64 x = ((List.range 64).filter fun i => x.getLsbD i).length :=
  (foldl_count _ _ 0).trans (Nat.zero_add _)

theorem toNat_popc64 : (BitVec.ofNat 64 (popc64 x)).toNat = ((List.range 64).filter fun i => x.getLsbD i).length := by
  have := List.length_filter_le (fun i => x.getLsbD i) (List.range 64)
  rw [List.length_range] at this
  rw [BitVec.toNat_ofNat, popc64_eq]
  exact Nat.mod_eq_of_lt (by omega)

end

/-! ### Comparisons -/

section
variable (x y : Word)

theorem toNat_bit64 (c : Bool) : (bit64 c).toNat = if c then 1 else 0 := by cases c <;> rfl

theorem toNat_bit64_slt : (bit64 (x.slt y)).toNat = if x.toInt < y.toInt then 1 else 0 := by
  rw [toNat_bit64, BitVec.slt_eq_decide]
  simp

theorem toNat_bit64_ult : (bit64 (x.ult y)).toNat = if x.toNat < y.toNat then 1 else 0 := by
  rw [toNat_bit64, BitVec.ult_eq_decide]
  simp

/-- The choice of the one whose measure is less. -/
theorem measure_lesser {α : Type} [LinearOrder α] (f : Word → α) {c : Bool} (h : c = decide (f y < f x)) :
    f (if c then y else x) = min (f x) (f y) := by
  subst h
  by_cases lt : f y < f x
  · rw [if_pos (decide_eq_true lt), min_eq_right lt.le]
  · rw [if_neg (by simpa using lt), min_eq_left (not_lt.mp lt)]

/-- The choice of the one whose measure is greater. -/
theorem measure_greater {α : Type} [LinearOrder α] (f : Word → α) {c : Bool} (h : c = decide (f x < f y)) :
    f (if c then y else x) = max (f x) (f y) := by
  subst h
  by_cases lt : f x < f y
  · rw [if_pos (decide_eq_true lt), max_eq_right lt.le]
  · rw [if_neg (by simpa using lt), max_eq_left (not_lt.mp lt)]

end

/-! ### Pointers (R165) -/

section
variable {s : State} {d a : R5} {x : Int} {q : Bool} {p : Word}

theorem ptrH_eq_div (p : Word) : ptrH p = p.toNat / 2 ^ 52 := Nat.shiftRight_eq_div_pow ..

/-- A pointer moved within its field keeps its handle. -/
theorem offsetAdd_fits (h : Claims.fits p x) : ∃ v, offsetAdd p x = some v ∧ v.toNat / 2 ^ 52 = p.toNat / 2 ^ 52
    ∧ ((v.toNat % 2 ^ 52 : Nat) : Int) = ((p.toNat % 2 ^ 52 : Nat) : Int) + x := by
  have handle : ptrH p < 4096 := by
    have := p.isLt
    rw [ptrH_eq_div]
    omega
  unfold Claims.fits at h
  refine ⟨mkPtr (ptrH p) (((ptrOff p : Nat) : Int) + x).toNat, if_neg (by unfold ptrOff; omega), ?_, ?_⟩
  · rw [← ptrH_eq_div, ptrH_mkPtr _ _ handle, ptrH_eq_div]
  · have off := ptrOff_mkPtr (ptrH p) (((ptrOff p : Nat) : Int) + x).toNat handle (by unfold ptrOff; omega)
    unfold ptrOff at *
    omega

theorem offsetAdd_leaves (h : ¬ Claims.fits p x) : offsetAdd p x = none :=
  if_pos (by unfold Claims.fits at h; unfold ptrOff; omega)

theorem aluOffset_moves {v : Word} (h : offsetAdd (s.regs.rg a) x = some v) :
    aluOffset d a x q s = Claims.wrote s d v (s.regs.rgp a || q) := by
  unfold aluOffset
  rw [h]
  exact finish_wg s d v fun r => r.rgp a || q

theorem aluOffset_leaves (h : offsetAdd (s.regs.rg a) x = none) : aluOffset d a x q s = Claims.faults s 0x0F (s.regs.rg a) := by
  unfold aluOffset
  rw [h]
  rfl

end

/-! ### The instructions -/

/-- Settles O9: each instruction writes one value of its operands, and the value is the one of whole numbers. -/
theorem integerArithmetic : Obligations.IntegerArithmetic := by
  unfold Obligations.IntegerArithmetic
  intro s d a b imm x y p q
  simp only [Claims.Gives, exec]
  refine ⟨alu2_gives ?add, alu2_gives ?sub, alu2_gives ?mul, alu2_gives ?mulh, alu2_gives ?mulhu,
    alu2_gives ?addw, alu2_gives ?subw, alu1_gives ?addi, alu1_gives ?sextb, alu1_gives ?sexth,
    alu1_gives ?sextw⟩
  case add => exact BitVec.toNat_add x y
  case sub => exact (BitVec.toNat_sub x y).trans (by rw [Nat.add_comm])
  case mul => exact BitVec.toNat_mul x y
  case mulh => exact toInt_mulHS x y
  case mulhu => exact toNat_mulHU x y
  case addw => exact toInt_sext64_add x y
  case subw => exact toInt_sext64_sub x y
  case addi => exact toInt_add_immediate x imm
  case sextb => exact toInt_sext64 x (by decide)
  case sexth => exact toInt_sext64 x (by decide)
  case sextw => exact toInt_sext64 x (by decide)

/-- Settles O10: each of the four instructions by its divisor, zero or not. -/
theorem integerDivision : Obligations.IntegerDivision := by
  unfold Obligations.IntegerDivision
  intro s d a b x y q
  simp only [Claims.Gives, exec]
  refine ⟨alu2_gives ?div, alu2_gives ?divu, alu2_gives ?rem, alu2_gives ?remu⟩
  case div =>
    split
    next zero => exact if_pos zero
    next other => exact (congrArg _ (if_neg other)).trans (BitVec.toInt_sdiv x y)
  case divu =>
    split
    next zero => exact if_pos zero
    next other => exact (congrArg _ (if_neg other)).trans (BitVec.toNat_udiv (x := x) (y := y))
  case rem =>
    split
    next zero => exact if_pos zero
    next other => exact (congrArg _ (if_neg other)).trans (BitVec.toInt_srem x y)
  case remu =>
    split
    next zero => exact if_pos zero
    next other => exact (congrArg _ (if_neg other)).trans (BitVec.toNat_umod (x := x) (y := y))

/-- Settles O11: the bitwise instructions bit by bit, the shifts as products and quotients by powers of two. -/
theorem logicAndShifts : Obligations.LogicAndShifts := by
  unfold Obligations.LogicAndShifts
  intro s d a b imm h sh x y p q n
  simp only [Claims.Gives, exec]
  refine ⟨alu2_gives ?and, alu2_gives ?or, alu2_gives ?xor, alu2_gives ?andn, alu2_gives ?sll,
    alu2_gives ?srl, alu2_gives ?sra, alu1_gives ?slli, alu1_gives ?srli, alu1_gives ?srai,
    alu1_gives ?andi, alu1_gives ?ori, alu1_gives ?xori, ⟨_, finish_wg s d _ fun _ => false, ?lui⟩,
    alu1_gives ?lhi⟩
  case and => exact fun i _ => BitVec.getLsbD_and
  case or => exact fun i _ => BitVec.getLsbD_or
  case xor => exact fun i _ => BitVec.getLsbD_xor
  case andn =>
    intro i hi
    rw [BitVec.getLsbD_and, BitVec.getLsbD_not, decide_eq_true hi, Bool.true_and]
  case sll => exact toNat_shiftLeft_pow x n
  case srl => exact toNat_shiftRight_pow x n
  case sra => exact toInt_sshiftRight_pow x n
  case slli => exact toNat_shiftLeft_pow x sh.toNat
  case srli => exact toNat_shiftRight_pow x sh.toNat
  case srai => exact toInt_sshiftRight_pow x sh.toNat
  case andi =>
    intro i hi
    rw [BitVec.getLsbD_and, BitVec.getLsbD_setWidth, decide_eq_true hi, Bool.true_and]
  case ori =>
    intro i hi
    rw [BitVec.getLsbD_or, BitVec.getLsbD_setWidth, decide_eq_true hi, Bool.true_and]
  case xori =>
    intro i hi
    rw [BitVec.getLsbD_xor, BitVec.getLsbD_setWidth, decide_eq_true hi, Bool.true_and]
  case lui => exact toInt_upper imm
  case lhi => exact toNat_handle x h

/-- Settles O12: each comparison is the one of its operands as whole numbers. -/
theorem integerComparisons : Obligations.IntegerComparisons := by
  unfold Obligations.IntegerComparisons
  intro s d a b imm x y p q
  simp only [Claims.Gives, exec]
  have immediate : (imm.signExtend 64).toInt = imm.toInt := BitVec.toInt_signExtend_of_le (by decide)
  refine ⟨alu2_gives ?slt, alu2_gives ?sltu, alu1_gives ?slti, alu1_gives ?sltiu, alu2_gives ?min,
    alu2_gives ?max, alu2_gives ?minu, alu2_gives ?maxu⟩
  case slt => exact toNat_bit64_slt x y
  case sltu => exact toNat_bit64_ult x y
  case slti => exact (toNat_bit64_slt x (imm.signExtend 64)).trans (by rw [immediate])
  case sltiu => exact toNat_bit64_ult x (imm.signExtend 64)
  case min => exact measure_lesser x y BitVec.toInt BitVec.slt_eq_decide
  case max => exact measure_greater x y BitVec.toInt BitVec.slt_eq_decide
  case minu => exact measure_lesser x y BitVec.toNat BitVec.ult_eq_decide
  case maxu => exact measure_greater x y BitVec.toNat BitVec.ult_eq_decide

/-- Settles O13: the counts end at the highest and at the lowest one. -/
theorem bitCounts : Obligations.BitCounts := by
  unfold Obligations.BitCounts
  intro s d a x p
  simp only [Claims.Gives, exec]
  refine ⟨alu1_gives ?clz, alu1_gives ?ctz, alu1_gives ?popc⟩
  case clz => exact clz64_spec
  case ctz => exact ctz64_spec
  case popc => exact toNat_popc64

/-- Settles O14: an offset that fits is moved under its handle, another takes the handle-carry fault. -/
theorem pointerArithmetic : Obligations.PointerArithmetic := by
  unfold Obligations.PointerArithmetic
  intro s d a b imm p moved fits result
  refine ⟨fun fit => ?addh, fun out => aluOffset_leaves (offsetAdd_leaves out), fun fit => ?addih,
    fun out => aluOffset_leaves (offsetAdd_leaves out)⟩
  case addh =>
    obtain ⟨v, sum, kept⟩ := offsetAdd_fits fit
    exact ⟨v, aluOffset_moves sum, kept⟩
  case addih =>
    obtain ⟨v, sum, kept⟩ := offsetAdd_fits fit
    exact ⟨v, (aluOffset_moves sum).trans (by rw [Bool.or_false]), kept⟩

end Sys2Proof.Machine
end

section
/-! Transfers of control (R160, R162, R163): branches and jumps with the checks of their targets, the loops that a transfer ends,
and the end checks of loop bodies. -/

namespace Sys2Proof.Machine

/-! ### Branches and jumps (R160, R162) -/

section
variable {s : State} {a b : R5} {t : Word} {link : Regs → Regs}

theorem jumpTo_eq (t : Word) (s : State) (link : Regs → Regs) :
    jumpTo t s link = if s.inCode t then .next (s.mapRegs fun r => (link r).transfer t) else Claims.faults s 0x01 t := rfl

/-- A branch is taken when its test of the operands says so. -/
theorem branch_branches {c : Word → Word → Bool} {q : Bool} (off : BitVec 16) (test : c (s.regs.rg a) (s.regs.rg b) = q) :
    branch c a b off s = Claims.branches s off q := by
  cases q with
  | false => exact branch_not c a b off s test
  | true => exact branch_taken c a b off s test

/-- A register target is good when it has the handle of the pc, is a multiple of 4 and lies in the code (R160). -/
theorem regJump_eq (t : Word) (s : State) (link : Regs → Regs) : regJump t s link =
    if decide (t.toNat / 2 ^ 52 = s.regs.pc.toNat / 2 ^ 52) && decide (t.toNat % 4 = 0) && s.inCode t then
      .next (s.mapRegs fun r => (link r).transfer t)
    else Claims.faults s 0x01 t := by
  unfold regJump
  rw [ptrH_eq_div, ptrH_eq_div, jumpTo_eq]
  by_cases handle : t.toNat / 2 ^ 52 = s.regs.pc.toNat / 2 ^ 52
  · by_cases aligned : t.toNat % 4 = 0
    · rw [if_neg (not_or.2 ⟨not_not.2 handle, not_not.2 aligned⟩), decide_eq_true handle, decide_eq_true aligned]
      rfl
    · rw [if_pos (.inr aligned), decide_eq_false aligned, Bool.and_false]
      rfl
  · rw [if_pos (.inl handle), decide_eq_false handle]
    rfl

end

/-- Settles O15: each branch by the test of its two operands. -/
theorem conditionalBranches : Obligations.ConditionalBranches := by
  unfold Obligations.ConditionalBranches
  intro s a b off x y
  have less : (x.slt y) = decide (x.toInt < y.toInt) := BitVec.slt_eq_decide
  have below : (x.ult y) = decide (x.toNat < y.toNat) := BitVec.ult_eq_decide
  simp only [exec]
  refine ⟨branch_branches off rfl, branch_branches off ?bne, branch_branches off less, branch_branches off ?bge,
    branch_branches off below, branch_branches off ?bgeu⟩
  case bne => exact Bool.eq_iff_iff.2 (by simp [x, y])
  case bge => exact (congrArg not less).trans (by rw [← decide_not]; exact decide_eq_decide.2 Int.not_lt)
  case bgeu => exact (congrArg not below).trans (by rw [← decide_not]; exact decide_eq_decide.2 Nat.not_lt)

/-- Settles O16: the two forms of target, each with its link. -/
theorem jumps : Obligations.Jumps := by
  unfold Obligations.Jumps
  intro s d a off t r good
  simp only [exec]
  exact ⟨jumpTo_eq t s id, jumpTo_eq t s _, regJump_eq r s id, regJump_eq r s _⟩

/-! ### The loops that a transfer ends (R163) -/

/-- The nesting depth after a transfer. -/
theorem Regs.transfer_depth (r : Regs) (t : Word) : (r.transfer t).depth =
    if 1 ≤ r.depth ∧ ¬ (r.ls0.toNat ≤ t.toNat ∧ t.toNat ≤ r.le0.toNat) then 0
    else if 2 ≤ r.depth ∧ ¬ (r.ls1.toNat ≤ t.toNat ∧ t.toNat ≤ r.le1.toNat) then 1 else r.depth := by
  unfold Regs.transfer
  simp only [Bool.and_eq_true, decide_eq_true_eq, Bool.not_eq_true', Bool.and_eq_false_iff, decide_eq_false_iff_not, not_and_or,
    ge_iff_le]

/-- Settles O17: the loops that stay are those whose bodies, and whose outer bodies, hold the target. -/
theorem transferEndsLoops : Obligations.TransferEndsLoops := by
  unfold Obligations.TransferEndsLoops
  intro r t deep inBody
  rw [r.transfer_depth]
  refine ⟨rfl, fun none_ => ?none_, fun some_ out => ?outer, fun some_ within one => ?inner, fun two within inside => ?both⟩
  case none_ => rw [if_neg (by omega), if_neg (by omega), none_]
  case outer => exact if_pos ⟨some_, out⟩
  case inner =>
    rw [if_neg fun h => h.2 within]
    rcases one with one | out
    · rw [if_neg (by omega), one]
    · split
      · rfl
      · next h => exact Nat.le_antisymm (by by_contra deeper; exact h ⟨by omega, out⟩) some_
  case both => rw [if_neg fun h => h.2 within, if_neg fun h => h.2 inside, two]

/-! ### The ends of loop bodies (R163) -/

section
variable {r : Regs} {p : Word}

/-- The end check of the outer body. -/
theorem Regs.endChecks_outer (one : r.depth = 1) : r.endChecks p =
    if p ≠ r.le0 then { r with pc := p + 4 }
    else if 1 < r.lc0.toNat then { r with lc0 := r.lc0 - 1, pc := r.ls0 }
    else { r with lc0 := 0, depth := 0, pc := p + 4 } := by
  unfold Regs.endChecks
  simp only [one]

/-- The end check of the inner body: with no passes left the outer body's end is tested. -/
theorem Regs.endChecks_inner (two : r.depth = 2) : r.endChecks p =
    if p ≠ r.le1 then { r with pc := p + 4 }
    else if 1 < r.lc1.toNat then { r with lc1 := r.lc1 - 1, pc := r.ls1 }
    else ({ r with lc1 := 0, depth := 1 } : Regs).endChecks p := by
  rw [Regs.endChecks_outer (r := { r with lc1 := 0, depth := 1 }) rfl]
  unfold Regs.endChecks
  simp only [two]

end

/-- Settles O19: the innermost active body is tested, and its outer one when it has ended. -/
theorem loopEndChecks : Obligations.LoopEndChecks := by
  unfold Obligations.LoopEndChecks
  intro r p
  refine ⟨r.endChecks_straight p, fun one off => ?_, fun one on more => ?_, fun one on last => ?_, fun two off => ?_,
    fun two on more => ?_, fun two on last => ?_⟩
  · rw [Regs.endChecks_outer one, if_pos off]
  · rw [Regs.endChecks_outer one, if_neg (not_not.mpr on), if_pos more]
  · rw [Regs.endChecks_outer one, if_neg (not_not.mpr on), if_neg (by omega)]
  · rw [Regs.endChecks_inner two, if_pos off]
  · rw [Regs.endChecks_inner two, if_neg (not_not.mpr on), if_pos more]
  · rw [Regs.endChecks_inner two, if_neg (not_not.mpr on), if_neg (by omega)]

/-! ### LOOP (R163) -/

/-- A new body of `n` passes that ends at `e`, at the next free level. -/
def Regs.enterLoop (r : Regs) (e n : Word) : Regs :=
  if r.depth = 0 then { r with ls0 := r.pc + 4, le0 := e, lc0 := n, depth := 1 }
  else { r with ls1 := r.pc + 4, le1 := e, lc1 := n, depth := 2 }

/-- LOOP through its checks, in their order; `e` is the end of the body and `n` its passes. -/
theorem exec_loop {s : State} {a : R5} {off : BitVec 16} {e n : Word} (end_ : s.regs.pc + BitVec.ofInt 64 (4 * off.toInt) = e)
    (passes : s.regs.rg a = n) : exec (.loop a off) s =
    if off.toInt < 1 then Claims.faults s 0x10 e
    else if s.inCode e = false then Claims.faults s 0x01 e
    else if n = 0 then .next (s.mapRegs fun r => r.endChecks e)
    else if 2 ≤ s.regs.depth then Claims.faults s 0x10 e
    else if s.regs.depth = 1 ∧ s.regs.le0.toNat < e.toNat then Claims.faults s 0x10 e
    else finish s fun r => r.enterLoop e n := by
  subst end_ passes
  show execLoop a off s = _
  unfold execLoop
  simp only [Bool.not_eq_true']
  rfl

theorem finish_enterLoop_outer {s : State} (e n : Word) (none_ : s.regs.depth = 0) : finish s (fun r => r.enterLoop e n) =
    Claims.retires s fun r => { r with ls0 := r.pc + 4, le0 := e, lc0 := n, depth := 1 } := by
  refine Eq.trans ?_ (finish_retires fun _ => rfl)
  exact finish_congr (if_pos none_)

theorem finish_enterLoop_inner {s : State} (e n : Word) (some_ : s.regs.depth ≠ 0) : finish s (fun r => r.enterLoop e n) =
    Claims.retires s fun r => { r with ls1 := r.pc + 4, le1 := e, lc1 := n, depth := 2 } := by
  refine Eq.trans ?_ (finish_retires fun _ => rfl)
  exact finish_congr (if_neg some_)

/-- Settles O18: the checks of LOOP in their order, then the new body at the next free level. -/
theorem loopInstruction : Obligations.LoopInstruction := by
  unfold Obligations.LoopInstruction
  intro s a off e n
  rw [exec_loop (e := e) (n := n) rfl rfl]
  have forward (on : 1 ≤ off.toInt) : ¬ off.toInt < 1 := Int.not_lt.2 on
  have held (inside : s.inCode e = true) : ¬ s.inCode e = false := by rw [inside]; decide
  refine ⟨fun back => if_pos back, fun on out => ?out, fun on inside zero => ?skips, fun on inside some_ two => ?full,
    fun on inside some_ one past => ?past, fun on inside some_ none_ => ?outer, fun on inside some_ one within => ?inner⟩
  case out => rw [if_neg (forward on), if_pos out]
  case skips => rw [if_neg (forward on), if_neg (held inside), if_pos zero]
  case full => rw [if_neg (forward on), if_neg (held inside), if_neg some_, if_pos two.ge]
  case past => rw [if_neg (forward on), if_neg (held inside), if_neg some_, if_neg (by omega), if_pos ⟨one, past⟩]
  case outer =>
    rw [if_neg (forward on), if_neg (held inside), if_neg some_, if_neg (by omega), if_neg (by omega)]
    exact finish_enterLoop_outer e n none_
  case inner =>
    rw [if_neg (forward on), if_neg (held inside), if_neg some_, if_neg (by omega), if_neg (by omega)]
    exact finish_enterLoop_inner e n (by omega)

end Sys2Proof.Machine
end

section
/-! Faults and control (R150-R152, R156-R161, R175-R178): what a fault changes, FENCE with nothing on its way, the end of a
firing, and the control registers. -/

namespace Sys2Proof.Machine

/-! ### Fields after a report (R258) -/

section
variable {s : State} {f g : Nat} {x : Field} {r : FaultRec}

/-- The other fields are found as before. -/
theorem State.field?_setField_ne (other : g ≠ x.id) : (s.setField x).field? g = s.field? g := by
  show (s.fields.map _).find? _ = s.fields.find? _
  induction s.fields with
  | nil => rfl
  | cons y l ih =>
    by_cases same : y.id = x.id
    · have yg : (y.id == g) = false := beq_false_of_ne fun h => other (h.symm.trans same)
      have xg : (x.id == g) = false := beq_false_of_ne fun h => other h.symm
      simpa only [List.map_cons, if_pos same, List.find?_cons, xg, yg] using ih
    · simp only [List.map_cons, if_neg same, List.find?_cons, ih]

/-- A field that is there is found as it has been set. -/
theorem State.field?_setField_same {y : Field} (found : s.field? x.id = some y) : (s.setField x).field? x.id = some x := by
  show (s.fields.map _).find? _ = _
  revert found
  show s.fields.find? _ = _ → _
  induction s.fields with
  | nil => exact fun found => absurd found (by simp)
  | cons z l ih =>
    by_cases same : z.id = x.id
    · simp [same]
    · have zx : (z.id == x.id) = false := beq_false_of_ne same
      simpa only [List.map_cons, if_neg same, List.find?_cons, zx] using ih

/-- A report looks at the fields alone. -/
theorem State.report_fields {t : State} (same : t.fields = s.fields) : (t.report f r).fields = (s.report f r).fields := by
  have found : t.field? f = s.field? f := congrArg (List.find? fun y : Field => y.id == f) same
  unfold State.report
  rw [found]
  cases s.field? f with
  | none => exact same
  | some y =>
    dsimp only
    split
    · exact congrArg (List.map _) same
    · exact congrArg (List.map _) same

theorem State.report_other (other : g ≠ f) : (s.report f r).field? g = s.field? g := by
  unfold State.report
  split
  · rfl
  · next y found =>
    have id : y.id = f := State.field?_id found
    split
    · exact State.field?_setField_ne (by exact fun h => other (h.trans id))
    · exact State.field?_setField_ne (by exact fun h => other (h.trans id))

theorem State.report_none (gone : s.field? f = none) : s.report f r = s := by
  unfold State.report
  rw [gone]

/-- A first fault is kept. -/
theorem State.report_first (found : s.field? f = some x) (first : x.fault = none) :
    (s.report f r).field? f = some { x with fault := some r } := by
  obtain rfl : x.id = f := State.field?_id found
  unfold State.report
  rw [found]
  simp only [first]
  exact State.field?_setField_same (x := { x with fault := some r }) found

/-- A later fault is counted. -/
theorem State.report_later {q : FaultRec} (found : s.field? f = some x) (later : x.fault = some q) :
    (s.report f r).field? f = some { x with faults := x.faults + 1 } := by
  obtain rfl : x.id = f := State.field?_id found
  unfold State.report
  split
  · next gone => exact absurd (gone.symm.trans found) (by simp)
  · next y there =>
    obtain rfl : y = x := Option.some.inj (there.symm.trans found)
    split
    · next none_ => exact absurd (none_.symm.trans later) (by simp)
    · exact State.field?_setField_same (x := { y with faults := y.faults + 1 }) found

end

/-! ### Taking a fault (R107, R152) -/

section
variable (s : State) (code : Nat) (fa : Word)

/-- What a fault of the firing in the issue stage reports. -/
def State.faultRec : FaultRec :=
  ⟨BitVec.ofNat 8 code, fa, s.regs.pc, (match s.inst? s.fir.field s.fir.inst with | some x => x.node | none => 0), s.fir.inst,
    s.fir.bay, false⟩

/-- The fields after a fault are those after its report. -/
theorem State.faultAt_fields : (s.faultAt code fa).fields = (s.report s.fir.field (s.faultRec code fa)).fields :=
  State.report_fields rfl

theorem State.faultAt_field? (g : Nat) :
    (s.faultAt code fa).field? g = (s.report s.fir.field (s.faultRec code fa)).field? g :=
  congrArg (List.find? fun x : Field => x.id == g) (s.faultAt_fields code fa)

theorem State.faultAt_whole : s.faultAt code fa = { s with
    fir := { s.fir with status := .ended, slot := false, region := none }
    bays := tput s.fir.bay { s.bay s.fir.bay with
      cause := BitVec.ofNat 8 code, epc := s.regs.pc, faddr := fa, faulted := true } s.bays
    fields := (s.faultAt code fa).fields } := by
  obtain ⟨l, h⟩ := s.faultAt_eq code fa
  rw [h]
  rfl

theorem State.faultAt_bay_ne {c : Nat} (other : c ≠ s.fir.bay) : (s.faultAt code fa).bay c = s.bay c := by
  rw [s.faultAt_whole code fa]
  exact (tgetD_tput ..).trans (if_neg other)

/-- A bay that has taken a fault fires no more. -/
theorem State.fireables_faulted {b : Nat} (faulted : (s.bay b).faulted = true) : s.fireables b = [] := by
  unfold State.fireables
  split
  · rfl
  · exact if_pos faulted

/-- What an access has cached changes caches alone, as the kept state says them. -/
theorem State.keeping_whole (g : Flt) : s.keeping g = { s with
    bays := (s.keeping g).bays, seqCache := (s.keeping g).seqCache, tlb := (s.keeping g).tlb, walks := (s.keeping g).walks } := by
  obtain ⟨l, q, t, w, h⟩ := s.keeping_eq g
  rw [h]

end

/-- Settles O20: the whole state after a fault, then the report to the field by what it held before. -/
theorem takingAFault : Obligations.TakingAFault := by
  unfold Obligations.TakingAFault
  constructor
  case left =>
    intro s code fa t b
    have bay : t.bay b = _ := s.faultAt_bay code fa
    have field (g : Nat) : t.field? g = _ := s.faultAt_field? code fa g
    refine ⟨s.faultAt_whole code fa, ?_, ?_, ?_, ?_, s.faultAt_regs code fa, s.faultAt_status code fa,
      fun c other => s.faultAt_bay_ne code fa other, fun g other => (field g).trans (State.report_other other), fun gone => ?gone,
      fun f found first => ?first, fun f r found later => (field _).trans (State.report_later found later), ?idle⟩
    case gone => exact (s.faultAt_fields code fa).trans (congrArg State.fields (State.report_none gone))
    case first =>
      refine ⟨s.faultRec code fa, (field _).trans (State.report_first found first), rfl, rfl, rfl, rfl, rfl, rfl, fun x there => ?_⟩
      unfold State.faultRec
      rw [there]
    case idle =>
      refine State.fireables_faulted _ ?_
      rw [bay]
    all_goals rw [bay]
  case right =>
    intro s g t
    refine ⟨s.keeping_whole g, fun b => ?_⟩
    obtain ⟨hc, h⟩ := s.keeping_bay g b
    show (s.keeping g).bay b = { s.bay b with hcache := ((s.keeping g).bay b).hcache }
    rw [h]

/-- Settles O21: each is the fault that its meaning takes. -/
theorem trapAndBreak : Obligations.TrapAndBreak := by
  unfold Obligations.TrapAndBreak
  intro s a w
  refine ⟨rfl, rfl, ?illegal, congrArg Regs.pc (s.faultAt_regs _ _), ?cause⟩
  case illegal =>
    simp only [exec]
    rfl
  case cause => rw [s.faultAt_bay]; rfl

/-! ### A firing with nothing on its way (R61, R67) -/

section
variable {s : State}

/-- With no store held, there is nothing to perform. -/
theorem State.flushed_nothing (nothing : Claims.nothingSent s) : Claims.flushed s = s := by
  unfold Claims.flushed State.flush
  simp only [State.firCtx_who]
  exact if_pos (by rw [nothing.2]; rfl)

/-- With no pair on its way, there is nothing to serialise. -/
theorem State.drain_nothing (nothing : Claims.nothingSent s) : s.drain s.firCtx.who = s :=
  State.drainIf_none fun p on => beq_false_of_ne (nothing.1 p on)

theorem State.sent_nothing (nothing : Claims.nothingSent s) : Claims.sent s := by
  have pairs : s.pairs.any (fun p => p.who == s.firCtx.who && s.stays p) = false :=
    List.any_eq_false.2 fun p on => by simp [nothing.1 p on]
  unfold Claims.sent State.pairsHeld
  rw [State.flushed_nothing nothing, pairs, State.firCtx_who]
  simp only [nothing.2]
  rfl

end

/-! ### FENCE, regions and class masks (R161, R175-R178) -/

theorem exec_fence (sc : Scope) (s : State) : exec (.fence sc) s =
    if (Claims.flushed s).pairsHeld s.firCtx.who then .next (Claims.flushed s)
    else Claims.retires ((Claims.flushed s).drain s.firCtx.who) id := by
  rw [← s.who_of_flushed]
  rfl

theorem exec_fence_sent {s : State} (sc : Scope) (sent : Claims.sent s) :
    exec (.fence sc) s = Claims.retires ((Claims.flushed s).drain s.firCtx.who) id := by
  have free : (Claims.flushed s).pairsHeld s.firCtx.who = false := sent
  rw [exec_fence, free]
  rfl

theorem exec_fence_waits {s : State} (sc : Scope) (waits : ¬ Claims.sent s) :
    exec (.fence sc) s = .next (Claims.flushed s) := by
  have held : (Claims.flushed s).pairsHeld s.firCtx.who = true := Bool.not_eq_false _ |>.mp waits
  rw [exec_fence, held]
  rfl

/-- Settles O22: FENCE by whether the firing has been sent, the regions by whether one is open. -/
theorem plainControl : Obligations.PlainControl := by
  unfold Obligations.PlainControl
  intro s a sc
  refine ⟨rfl, exec_fence_sent sc, exec_fence_waits sc, fun nothing => ?fence, fun closed => ?begins, fun open_ => ?nested,
    fun closed => ?unopened, fun r open_ idle => ?ends, rfl, rfl⟩
  case fence =>
    rw [exec_fence_sent sc (State.sent_nothing nothing), State.flushed_nothing nothing, State.drain_nothing nothing]
  case begins =>
    show execIdmb s = _
    unfold execIdmb
    rw [outsideRegion_closed .idmb s _ closed]
    rfl
  case nested =>
    show execIdmb s = _
    unfold execIdmb
    exact (outsideRegion_open .idmb s _ open_).trans (wordFault_eq ..)
  case unopened =>
    show execIdme s = _
    unfold execIdme
    rw [closed]
    exact wordFault_eq ..
  case ends =>
    show execIdme s = _
    unfold execIdme
    rw [open_]
    exact if_neg (by rw [idle]; decide)

/-! ### The end of a firing (R39, R157, R203) -/

theorem execFend_eq {s : State} (closed : s.fir.region = none) : exec .fend s =
    match s.fendShort with
    | some p => Claims.faults s 0x05 (BitVec.ofNat 64 p)
    | none => .next s.endFiring := by
  show execFend s = _
  unfold execFend
  exact outsideRegion_closed .fend s _ closed

/-- The end of a firing changes of the bays its own alone, whose persistent set of the actor is the firing's. -/
theorem State.endFiring_bays (s : State) : ∃ x : Bay, s.endFiring.bays = tput s.fir.bay x s.bays
    ∧ x.persist = tput s.fir.actor s.regs.persist (s.bay s.fir.bay).persist ∧ x.queues = (s.bay s.fir.bay).queues :=
  ⟨_, rfl, rfl, rfl⟩

/-- Poison bits of g16..g23 in the persistent set. -/
theorem Regs.persist_poison (r : Regs) (i : Fin 8) : r.persist.gp.getLsbD i.val = r.gp.getLsbD (16 + i.val) := by
  show (BitVec.ofNat 8 (r.gp.toNat >>> 16)).getLsbD i.val = _
  rw [BitVec.getLsbD_ofNat, Nat.testBit_shiftRight, decide_eq_true i.isLt, Bool.true_and, BitVec.testBit_toNat]

/-- Settles O23: FEND by its checks, and what the end of a firing leaves. -/
theorem firingEnd : Obligations.FiringEnd := by
  unfold Obligations.FiringEnd
  intro s
  refine ⟨fun closed met => ?ends, fun p closed short => ?short, fun open_ => ?open_, fun i => ⟨?g, ?v, s.regs.persist_poison i⟩⟩
  case ends =>
    obtain ⟨x, bays, persist, queues⟩ := s.endFiring_bays
    have bay (c : Nat) : s.endFiring.bay c = if c = s.fir.bay then x else s.bay c := by
      unfold State.bay
      rw [bays]
      exact tgetD_tput ..
    have own : s.endFiring.bay s.fir.bay = x := (bay _).trans (if_pos rfl)
    refine ⟨s.endFiring, ?_, rfl, rfl, rfl, ?_, rfl, ?_, fun c other => (bay c).trans (if_neg other)⟩
    · rw [execFend_eq closed, met]
    · rw [own, persist]
      exact tget_tput_same ..
    · rw [own, queues]
  case short => rw [execFend_eq closed, short]
  case open_ =>
    show execFend s = _
    unfold execFend
    exact (outsideRegion_open .fend s _ open_).trans (wordFault_eq ..)
  case g => exact Vector.getElem_ofFn ..
  case v => exact Vector.getElem_ofFn ..

/-! ### Control registers (R150, R159) -/

section
variable (s : State) (c : Ctl) (d : R5)

theorem exec_mfc : exec (.mfc d c) s = Claims.wrote s d (s.ctl c) false := finish_wg s d (s.ctl c) fun _ => false

variable {c}

/-- MTC to a register that may be written by any tenant. -/
theorem exec_mtc (writable : c.writable = true) (allowed : ¬ (c = .samplep ∧ s.firCtx.tenant ≠ 0)) :
    exec (.mtc c d) s = retire (s.setCtl c (s.regs.rg d)) := by
  show execMtc c d s = _
  unfold execMtc
  rw [if_neg (by rw [writable]; decide), if_neg allowed]

theorem exec_mtc_readOnly (fixed : c.writable = false) : exec (.mtc c d) s = Claims.faultsWord s 0x02 (.mtc c d) :=
  (if_pos (by rw [fixed]; rfl)).trans (wordFault_eq ..)

theorem exec_mtc_denied (other : s.firCtx.tenant ≠ 0) :
    exec (.mtc .samplep d) s = Claims.faultsWord s 0x03 (.mtc .samplep d) :=
  (if_pos ⟨rfl, other⟩).trans (wordFault_eq ..)

/-- SAMPLEP takes a legal period. -/
theorem State.setCtl_samplep {x : Word} (low : 1 ≤ x.toNat % 16384) (high : x.toNat % 16384 ≤ 10000) :
    s.setCtl .samplep x = { s with samplep := x.setWidth 14 } := by
  have period : (x.setWidth 14 : BitVec 14).toNat = x.toNat % 16384 := BitVec.toNat_setWidth ..
  refine if_neg (not_or.2 ⟨fun zero => ?_, by omega⟩)
  rw [zero] at period
  exact absurd (low.trans_eq period.symm) (by decide)

end

/-- Settles O24: MFC writes what the control register holds, MTC sets it after its two checks. -/
theorem controlRegisters : Obligations.ControlRegisters := by
  unfold Obligations.ControlRegisters
  intro s d b
  refine ⟨exec_mfc s _ d, exec_mfc s _ d, exec_mfc s _ d, exec_mfc s _ d, exec_mfc s _ d, exec_mfc s _ d, exec_mfc s _ d,
    exec_mfc s _ d, exec_mfc s _ d, exec_mfc s _ d, exec_mfc s _ d, exec_mfc s _ d, exec_mfc s _ d, fun c => exec_mfc s c d,
    exec_mtc s d rfl (by simp), exec_mtc s d rfl (by simp), exec_mtc s d rfl (by simp), exec_mtc s d rfl (by simp),
    fun host low high => ?period, exec_mtc_denied s d, fun c => exec_mtc_readOnly s d⟩
  rw [exec_mtc s d rfl (by simp [host]), s.setCtl_samplep low high]
  rfl

end Sys2Proof.Machine
end

section
/-! Frames of the instructions that touch registers alone (R162, R164, R166, R187-R200): each shape of meaning changes the
registers it names and the pc and loop registers, or takes a fault. -/

namespace Sys2Proof.Machine

open Claims (Writes keeps onlyRegs regWrites)

/-! ### Registers that a change leaves alone -/

section
variable {r t u : Regs} {w : Writes}

theorem keeps_refl (r : Regs) (w : Writes) : keeps r r w :=
  ⟨fun _ _ => ⟨rfl, rfl⟩, fun _ _ => ⟨rfl, rfl⟩, fun _ _ => rfl, fun _ _ => rfl, fun _ _ => ⟨rfl, rfl⟩, rfl, fun _ => rfl⟩

/-- The same registers read the same: a change of the loop registers and the pc. -/
theorem keeps_congr (h : keeps r t w) (g : u.g = t.g) (gp : u.gp = t.gp) (v : u.v = t.v) (vp : u.vp = t.vp) (m : u.m = t.m)
    (z : u.z = t.z) (k : u.k = t.k) (kp : u.kp = t.kp) (mode : u.rmode = t.rmode) (flags : u.flags = t.flags) : keeps r u w := by
  simpa only [keeps, Regs.rg, Regs.rgp, Regs.rv, Regs.rvp, Regs.rm, Regs.rz, Regs.rk, Regs.rkp, g, gp, v, vp, m, z, k, kp, mode,
    flags] using h

theorem keeps_endChecks (h : keeps r t w) (p : Word) : keeps r (t.endChecks p) w := by
  apply keeps_congr h <;> simp

theorem keeps_transfer (h : keeps r t w) (p : Word) : keeps r (t.transfer p) w := by
  apply keeps_congr h <;> rfl

theorem keeps_wg {d : R5} (h : keeps r t w) (named : w.g = some d) (x : Word) (q : Bool) : keeps r (t.wg d x q) w := by
  obtain ⟨g, v, m, z, k, mode, flags⟩ := h
  refine ⟨fun j other => ?_, by simpa using v, by simpa using m, by simpa using z, by simpa using k, by simpa using mode,
    by simpa using flags⟩
  have ne : j ≠ d := fun same => other (same ▸ named)
  simpa [Regs.rg_wg, Regs.rgp_wg, ne] using g j other

theorem keeps_wv {d : R5} (h : keeps r t w) (named : w.v = some d) (x : VReg) (q : Word) : keeps r (t.wv d x q) w := by
  obtain ⟨g, v, m, z, k, mode, flags⟩ := h
  refine ⟨by simpa using g, fun j other => ?_, by simpa using m, by simpa using z, by simpa using k, mode, flags⟩
  have ne : j ≠ d := fun same => other (same ▸ named)
  simpa [Regs.rv_wv, Regs.rvp_wv, ne] using v j other

theorem keeps_wm {d : R3} (h : keeps r t w) (named : w.m = some d) (x : Word) : keeps r (t.wm d x) w := by
  obtain ⟨g, v, m, z, k, mode, flags⟩ := h
  refine ⟨by simpa using g, by simpa using v, fun j other => ?_, by simpa using z, by simpa using k, by simpa using mode,
    by simpa using flags⟩
  have ne : j ≠ d := fun same => other (same ▸ named)
  simpa [Regs.rm_wm, ne] using m j other

theorem keeps_wz {d : R4} (h : keeps r t w) (named : w.z = some d) (x : Word) : keeps r (t.wz d x) w := by
  obtain ⟨g, v, m, z, k, mode, flags⟩ := h
  refine ⟨by simpa using g, by simpa using v, by simpa using m, fun j other => ?_, by simpa using k, mode, flags⟩
  have ne : j ≠ d := fun same => other (same ▸ named)
  simpa [Regs.rz_wz, ne] using z j other

theorem keeps_wk {d : R3} (h : keeps r t w) (named : w.k = some d) (x : KWord) (q : Bool) : keeps r (t.wk d x q) w := by
  obtain ⟨g, v, m, z, k, mode, flags⟩ := h
  refine ⟨by simpa using g, by simpa using v, by simpa using m, by simpa using z, fun j other => ?_, mode, flags⟩
  have ne : j ≠ d := fun same => other (same ▸ named)
  simpa [Regs.rk_wk, Regs.rkp_wk, ne] using k j other

/-- Flags rise where they are named, or none does. -/
theorem keeps_raise {f : BitVec 5} (h : keeps r t w) (named : w.fl = false → f = 0) : keeps r (t.raise f) w := by
  obtain ⟨g, v, m, z, k, mode, flags⟩ := h
  refine ⟨by simpa using g, by simpa using v, by simpa using m, by simpa using z, by simpa using k, mode, fun none_ => ?_⟩
  rw [Regs.raise_flags, named none_, flags none_]
  exact BitVec.or_zero

/-- Where FLAGS are named, any may rise. -/
theorem named_flags_elim {P : Prop} (named : w.fl = true) (none_ : w.fl = false) : P := absurd named (by rw [none_]; decide)

/-- Flags of which none is raised. -/
theorem foldl_flags_zero {α : Type} {f : α → BitVec 5} (l : List α) (none_ : ∀ x ∈ l, f x = 0) :
    l.foldl (fun a x => a ||| f x) 0 = 0 := by
  induction l with
  | nil => rfl
  | cons x l ih =>
    rw [List.foldl_cons, none_ x List.mem_cons_self]
    exact ih fun y on => none_ y (List.mem_cons_of_mem _ on)

end

/-! ### What an outcome changes -/

/-- An outcome changes of the machine the registers named and the pc and loop registers, or is a fault's. -/
structure Framed (s : State) (w : Writes) (o : Out) : Prop where
  next : ∀ t, o = .next t → (onlyRegs s t ∧ keeps s.regs t.regs w) ∨ ∃ code fa, t = s.faultAt code fa

section
variable {s : State} {w : Writes}

theorem framed_mapRegs {f : Regs → Regs} (h : keeps s.regs (f s.regs) w) : Framed s w (.next (s.mapRegs f)) := by
  refine ⟨fun t next => ?_⟩
  obtain rfl : s.mapRegs f = t := Host.Outcome.next.inj next
  exact .inl ⟨rfl, h⟩

theorem framed_fault (code : Nat) (fa : Word) : Framed s w (takeFault code fa s) :=
  ⟨fun _ next => .inr ⟨code, fa, (Host.Outcome.next.inj next).symm⟩⟩

theorem framed_finish {f : Regs → Regs} (h : keeps s.regs (f s.regs) w) : Framed s w (finish s f) :=
  framed_mapRegs (f := fun r => (f r).endChecks (f r).pc) (keeps_endChecks h _)

theorem framed_retire : Framed s w (retire s) := framed_finish (f := id) (keeps_refl ..)

theorem framed_jumpTo {link : Regs → Regs} (h : keeps s.regs (link s.regs) w) (t : Word) : Framed s w (jumpTo t s link) := by
  unfold jumpTo
  split
  · exact framed_mapRegs (keeps_transfer h t)
  · exact framed_fault ..

theorem framed_regJump {link : Regs → Regs} (h : keeps s.regs (link s.regs) w) (t : Word) :
    Framed s w (regJump t s link) := by
  unfold regJump
  split
  · exact framed_fault ..
  · exact framed_jumpTo h t

theorem framed_branch (c : Word → Word → Bool) (a b : R5) (off : BitVec 16) : Framed s w (branch c a b off s) := by
  unfold branch
  split
  · exact framed_jumpTo (keeps_refl ..) _
  · exact framed_retire

/-! ### Shapes of the scalar instructions -/

variable {d a b : R5} {k : R3}

theorem framed_wg (named : w.g = some d) (x : Regs → Word) (q : Regs → Bool) :
    Framed s w (finish s fun r => r.wg d (x r) (q r)) := framed_finish (keeps_wg (keeps_refl ..) named ..)

theorem framed_alu2 (named : w.g = some d) (f : Word → Word → Word) : Framed s w (alu2 f d a b s) := framed_wg named ..

theorem framed_alu1 (named : w.g = some d) (f : Word → Word) : Framed s w (alu1 f d a s) := framed_wg named ..

theorem framed_aluOffset (named : w.g = some d) (x : Int) (q : Bool) : Framed s w (aluOffset d a x q s) := by
  unfold aluOffset
  split
  · exact framed_wg named ..
  · exact framed_fault ..

/-! ### Shapes of the vector instructions -/

theorem framed_wv (named : w.v = some d) (x : Regs → VReg) (q : Regs → Word) :
    Framed s w (finish s fun r => r.wv d (x r) (q r)) := framed_finish (keeps_wv (keeps_refl ..) named ..)

theorem framed_wv_raise (named : w.v = some d) (x : Regs → VReg) (q : Regs → Word) {f : BitVec 5}
    (flags : w.fl = false → f = 0) : Framed s w (finish s fun r => (r.wv d (x r) (q r)).raise f) :=
  framed_finish (keeps_raise (keeps_wv (keeps_refl ..) named ..) flags)

theorem framed_vWrite (named : w.v = some d) {n : Nat} {f : Nat → Nat × BitVec 5} {p : Word}
    (flags : w.fl = false → ∀ j, (f j).2 = 0) : Framed s w (vWrite n d k f p s) := by
  refine framed_wv_raise named _ _ fun none_ => foldl_flags_zero _ fun x on => ?_
  obtain ⟨j, -, rfl⟩ := List.mem_map.1 on
  split
  · exact flags none_ j
  · rfl

theorem framed_vInt2 (named : w.v = some d) (t : EW) (g : Nat → Nat → Nat → Nat) : Framed s w (vInt2 t g d a b k s) :=
  framed_vWrite named fun _ _ => rfl

theorem framed_vFp (named : w.v = some d) (flags : w.fl = true) (t : FT) (g : Fmt → Nat → Nat → Nat → Nat → Nat × BitVec 5)
    (p : Regs → Word) : Framed s w (vFp t g d a b k p s) :=
  framed_vWrite named (named_flags_elim flags)

theorem framed_vNarrow (named : w.v = some d) {n h : Nat} {g : Nat → Nat → Nat × BitVec 5} {q : Bool}
    (flags : w.fl = false → ∀ x y, (g x y).2 = 0) : Framed s w (vNarrow n h g d a k q s) := by
  refine framed_wv_raise named _ _ fun none_ => foldl_flags_zero _ fun x on => ?_
  obtain ⟨j, -, rfl⟩ := List.mem_map.1 on
  split
  · exact flags none_ ..
  · rfl

theorem framed_vWiden (named : w.v = some d) {n h : Nat} {g : Nat → Nat × BitVec 5}
    (flags : w.fl = false → ∀ x, (g x).2 = 0) : Framed s w (vWiden n h g d a k s) :=
  framed_vWrite named fun none_ _ => flags none_ _

theorem framed_vBlockEnc (named : w.v = some d) (flags : w.fl = true) (h : Nat) (enc : List FVal → List Nat × BitVec 5)
    (q : Bool) : Framed s w (vBlockEnc h enc d a k q s) :=
  framed_wv_raise named _ _ (named_flags_elim flags)

theorem framed_vBlockDec (named : w.v = some d) (flags : w.fl = true) (h n : Nat) (dec : List Nat → List FVal)
    (at_ : Nat → Nat) (q : Bool) : Framed s w (vBlockDec h n dec at_ d a k q s) :=
  framed_vWrite named (named_flags_elim flags)

theorem framed_vReduce (named : w.v = some d) {res : Nat × BitVec 5} (flags : w.fl = false → res.2 = 0) :
    Framed s w (vReduce d b k res a s) := framed_wv_raise named _ _ flags

theorem framed_vLanes (named : w.v = some d) (m : Word) (f : Nat → Nat) (q : Nat → Bool) : Framed s w (vLanes d m f q s) :=
  framed_wv named ..

theorem framed_vPick (named : w.v = some d) (m : Word) (ix : Nat → Option Nat) (q : Nat → Bool) :
    Framed s w (vPick d a m ix q s) := framed_vLanes named ..

/-! ### Compares and masks -/

variable {md : R3}

theorem framed_vCompare (named : w.m = some md) {n : Nat} {g : Nat → Nat → Bool × BitVec 5}
    (flags : w.fl = false → ∀ x y, (g x y).2 = 0) : Framed s w (vCompare n g md a b k s) := by
  refine framed_finish (keeps_raise (keeps_wm (keeps_refl ..) named _) fun none_ => ?_)
  refine List.foldlRecOn (motive := fun x => x = 0) _ _ rfl fun x zero i _ => ?_
  subst zero
  refine foldl_flags_zero _ fun e on => ?_
  obtain ⟨j, -, rfl⟩ := List.mem_map.1 on
  exact flags none_ ..

theorem framed_vcInt (named : w.m = some md) (t : EW) (g : Nat → Nat → Nat → Bool) : Framed s w (vcInt t g md a b k s) :=
  framed_vCompare named fun _ _ _ => rfl

theorem framed_vcFp (named : w.m = some md) (flags : w.fl = true) (t : FT) (quiet : Bool) (g : FVal → FVal → Bool) :
    Framed s w (vcFp t quiet g md a b k s) := by
  unfold vcFp
  exact framed_vCompare named (named_flags_elim flags)

theorem framed_maskOp (named : w.m = some md) (g : Word → Word → Word) (ma mb : R3) : Framed s w (maskOp g md ma mb k s) :=
  framed_finish (keeps_wm (keeps_refl ..) named _)

theorem framed_wz {z : R4} (named : w.z = some z) (x : Regs → Word) : Framed s w (finish s fun r => r.wz z (x r)) :=
  framed_finish (keeps_wz (keeps_refl ..) named _)

theorem framed_wk {n : R3} (named : w.k = some n) (x : Regs → KWord) (q : Regs → Bool) :
    Framed s w (finish s fun r => r.wk n (x r) (q r)) := framed_finish (keeps_wk (keeps_refl ..) named ..)

theorem framed_t5upk (named : w.v = some d) (h : BitVec 3) : Framed s w (execT5upk d a h k s) := by
  unfold execT5upk
  dsimp only
  split
  · exact framed_fault ..
  · exact framed_vWrite named fun _ _ => rfl

theorem framed_t5cnt (named : w.g = some d) (h : BitVec 3) : Framed s w (execT5cnt d a h k s) := by
  unfold execT5cnt
  dsimp only
  split
  · exact framed_fault ..
  · exact framed_wg named ..

theorem framed_vqnt (named : w.v = some d) (flags : w.fl = true) (t : QT) : Framed s w (execVqnt t d a b k s) := by
  unfold execVqnt
  cases t with
  | i8 => exact framed_vNarrow named (named_flags_elim flags)
  | i16 => exact framed_vNarrow named (named_flags_elim flags)

end

/-- Every instruction that touches no memory, by the shape of its meaning. -/
theorem exec_framed {i : Instr} {w : Writes} (writes : regWrites i = some w) (s : State) : Framed s w (exec i s) := by
  cases i
  case nop => cases writes; simp only [exec]; exact framed_retire
  case beq | bne | blt | bge | bltu | bgeu => cases writes; simp only [exec]; exact framed_branch ..
  case j => cases writes; simp only [exec]; exact framed_jumpTo (keeps_refl ..) _
  case jal => cases writes; simp only [exec]; exact framed_jumpTo (keeps_wg (keeps_refl ..) rfl ..) _
  case jr => cases writes; simp only [exec]; exact framed_regJump (keeps_refl ..) _
  case jalr => cases writes; simp only [exec]; exact framed_regJump (keeps_wg (keeps_refl ..) rfl ..) _
  case mfc | lui | semget | mpopc | mfirst | vget | ztest => cases writes; simp only [exec]; exact framed_wg rfl ..
  case add | sub | and | or | xor | andn | sll | srl | sra | slt | sltu | min | max | minu | maxu | mul | mulh | mulhu | div | divu | rem
      | remu | addw | subw =>
    cases writes; simp only [exec]; exact framed_alu2 rfl _
  case slli | srli | srai | clz | ctz | popc | sextb | sexth | sextw | addi | andi | ori | xori | slti | sltiu | lhi =>
    cases writes; simp only [exec]; exact framed_alu1 rfl _
  case addh | addih => cases writes; simp only [exec]; exact framed_aluOffset rfl ..
  case vadd | vsub | vmul | vmulh | vand | vor | vxor | vsll | vsrl | vsra | vmin | vmax | vminu | vmaxu | vabs | vadds =>
    cases writes; simp only [exec]; exact framed_vInt2 rfl ..
  case vfadd | vfsub | vfmul | vfma | vfnma | vfmin | vfmax | vfabs | vfneg | vfrcp | vfrsq | vfexp2 | vflog2 =>
    cases writes; simp only [exec]; exact framed_vFp rfl rfl ..
  case vceq | vcne | vclt | vcle | vcltu => cases writes; simp only [exec]; exact framed_vcInt rfl ..
  case vcfeq | vcflt | vcfle | vcfun => cases writes; simp only [exec]; exact framed_vcFp rfl rfl ..
  case mand | mor | mxor | mnot => cases writes; simp only [exec]; exact framed_maskOp rfl ..
  case vperm | vslideup | vslidedn | vbcast | vcompress | vexpand | vmov => cases writes; simp only [exec]; exact framed_vPick rfl ..
  case vsel => cases writes; simp only [exec]; exact framed_wv rfl ..
  case vmovg | vput | viota | t5pk => cases writes; simp only [exec]; exact framed_vLanes rfl ..
  case vcvtF32I32 | vcvtI32F32 => cases writes; simp only [exec]; exact framed_vWrite rfl (named_flags_elim rfl)
  case vcvtBf16F32 | vcvtF16F32 => cases writes; simp only [exec]; exact framed_vNarrow rfl (named_flags_elim rfl)
  case vcvtF32Bf16 | vcvtF32F16 => cases writes; simp only [exec]; exact framed_vWiden rfl (named_flags_elim rfl)
  case vcvtI8I32 => cases writes; simp only [exec]; exact framed_vNarrow rfl fun _ _ _ => rfl
  case vcvtI32I8 => cases writes; simp only [exec]; exact framed_vWiden rfl fun _ _ => rfl
  case vcvtE2m1F32 | vbxenc => cases writes; simp only [exec]; exact framed_vBlockEnc rfl rfl ..
  case vcvtF32E2m1 | vbxdec => cases writes; simp only [exec]; exact framed_vBlockDec rfl rfl ..
  case vqnt => cases writes; simp only [exec]; exact framed_vqnt rfl rfl _
  case vrsum | vrmin | vrmax | vdot | vargmax => cases writes; simp only [exec]; exact framed_vReduce rfl fun _ => rfl
  case vfrsum | vfrmin | vfrmax | vfdot => cases writes; simp only [exec]; exact framed_vReduce rfl (named_flags_elim rfl)
  case t5upk => cases writes; simp only [exec]; exact framed_t5upk rfl _
  case t5cnt => cases writes; simp only [exec]; exact framed_t5cnt rfl _
  case zset | zclr | zand | zor | zfromm => cases writes; simp only [exec]; exact framed_wz rfl _
  case kins | kclr => cases writes; simp only [exec]; exact framed_wk rfl ..
  -- the others write more than registers
  all_goals exact nomatch writes

/-- Settles O25: by the shape of each instruction's meaning. -/
theorem registerFrame : Obligations.RegisterFrame := by
  unfold Obligations.RegisterFrame
  exact fun _ s t _ writes next => (exec_framed writes s).next t next

end Sys2Proof.Machine
end

section
/-! Frames of loads and stores (R61, R167, R196, R200, R211): a load changes its destination register and no memory, a store the
bytes that its own address formation names. -/

namespace Sys2Proof.Machine

open Claims (Writes keeps memSame loadWrites storesTo isStore quietMem)

/-! ### Address formation changes caches alone (R48, R51) -/

/-- The state without what address formation caches. -/
def State.uncached (s : State) : State := { s with bays := [], seqCache := [], tlb := [], walks := [] }

/-- An address formed from `o`: of the state, caches alone have changed. -/
def cachesOnly (o : State) : Except Flt (State × List Seg) → Prop
  | .ok (s, _) => s.uncached = o.uncached
  | .error _ => True

section
variable {s t o : State} {c : Ctx}

theorem State.slices_of_uncached (h : s.uncached = o.uncached) (none_ : o.slices = []) : s.slices = [] := by
  have slices : s.uncached.slices = o.uncached.slices := by rw [h]
  exact slices.trans none_

theorem State.walk_uncached (none_ : o.slices = []) (h : s.uncached = o.uncached) (u n va tbl : Nat)
    (ls : List (Nat × Nat × Nat)) : (State.walk State.atHome s u n va tbl ls).1.uncached = o.uncached := by
  induction ls generalizing s tbl with
  | nil => exact h
  | cons l ls ih =>
    obtain ⟨lo, w, al⟩ := l
    unfold State.walk
    extract_lets a read fresh mine old next e addr last
    have k : next.uncached = o.uncached := by
      unfold next read
      rw [State.atHome_noSlices (State.slices_of_uncached h none_), ite_self]
      exact h
    have cached : last.uncached = o.uncached := by
      unfold last
      split <;> exact k
    clear_value next last
    split
    · exact k
    split
    · exact k
    split
    · split
      · exact k
      · exact k
    split
    · exact k
    · exact ih cached _

/-- A translation changes the caches of translations alone. -/
theorem State.translate_uncached (none_ : o.slices = []) (h : s.uncached = o.uncached) (u n va : Nat) :
    (State.translate State.atHome s u n va).1.uncached = o.uncached := by
  unfold State.translate
  extract_lets +onlyGivenNames fresh
  have walked : fresh.1.uncached = o.uncached := State.walk_uncached none_ h ..
  clear_value fresh
  extract_lets +onlyGivenNames hit start put
  have cached : put.uncached = o.uncached := by unfold put; split <;> exact walked
  split
  · exact cached
  · extract_lets +onlyGivenNames old
    split
    · exact h
    · split
      · exact h
      · exact cached

theorem State.transRange_cachesOnly (none_ : o.slices = []) (h : s.uncached = o.uncached) (c : Ctx) (p : Word) (wr : Bool)
    (fuel va len : Nat) : cachesOnly o (State.transRange State.atHome s c p wr fuel va len) := by
  induction fuel generalizing s va len with
  | zero => exact h
  | succ fuel ih =>
    unfold State.transRange
    split
    · exact h
    have k := State.translate_uncached none_ h c.walker c.tenant va
    split
    · trivial
    next e =>
    rw [e] at k
    extract_lets off n
    split
    · trivial
    split
    · trivial
    split
    · trivial
    have tail := ih k (va + n) (len - n)
    split
    · trivial
    next rest => rwa [rest] at tail

/-- Reading an entry changes a cache of entries alone. -/
theorem State.cachedEntry_uncached (none_ : s.slices = []) {h e : Nat} (found : s.cachedEntry c h = some (t, e)) :
    t.uncached = s.uncached := by
  unfold State.cachedEntry at found
  rw [State.atHome_noSlices none_] at found
  extract_lets key cached put u fresh read at found
  have kept (v : State) (n : Nat) : (put v n).uncached = v.uncached := by unfold put; split <;> rfl
  have fromMemory (hr : read = some (t, e)) : t.uncached = s.uncached := by
    unfold read at hr
    split at hr
    · cases hr
    · cases hr; exact kept ..
  clear_value cached read
  split at found
  · split at found
    · cases found; rfl
    · exact fromMemory found
  · exact fromMemory found

theorem State.entry_uncached (none_ : s.slices = []) {h : Nat} {e : Ent} (found : s.entry c h = some (t, e)) :
    t.uncached = s.uncached := by
  unfold State.entry at found
  extract_lets win at found
  split at found
  · split at found
    · cases found
    · repeat' split at found
      all_goals cases found
      all_goals rfl
  split at found
  · cases found
  split at found
  · cases found
  next cached =>
  split at found
  · cases found; exact State.cachedEntry_uncached none_ cached
  · cases found

theorem State.addressOf_cachesOnly (none_ : s.slices = []) (c : Ctx) (p : Word) (n : Nat) (wr : Bool) :
    cachesOnly s (s.addressOf c p n wr) := by
  unfold State.addressOf
  split
  · trivial
  next u e found =>
  have k := State.entry_uncached none_ found
  by_cases right : (if wr then !e.wr else !e.rd) = true
  · rw [if_pos right]
    trivial
  rw [if_neg right]
  split
  · trivial
  extract_lets a done
  have kept (l : List Seg) : cachesOnly s (done l) := by
    unfold done
    split
    · trivial
    · exact k
  clear_value done
  split
  · exact State.transRange_cachesOnly none_ k ..
  · split
    · trivial
    · exact kept _
  · exact kept _
  · exact kept _
  · split
    · trivial
    · exact kept _

theorem State.loadAddr_cachesOnly (none_ : s.slices = []) (c : Ctx) (p : Word) (n : Nat) :
    cachesOnly s (s.loadAddr c p n) := by
  have formed := s.addressOf_cachesOnly none_ c p n false
  unfold State.loadAddr
  split
  · trivial
  next e =>
  rw [e] at formed
  split
  · exact formed
  · trivial

theorem State.storeAddr_cachesOnly (none_ : s.slices = []) (c : Ctx) (p : Word) (n : Nat) :
    cachesOnly s (s.storeAddr c p n) := by
  have formed := s.addressOf_cachesOnly none_ c p n true
  unfold State.storeAddr
  split
  · trivial
  next e =>
  rw [e] at formed
  split
  · trivial
  · exact formed

/-- The addresses of a vector access are formed lane by lane. -/
theorem State.laneAddrs_cachesOnly (none_ : o.slices = []) (h : s.uncached = o.uncached) (c : Ctx) (p : Word) (wr : Bool)
    (off : Nat → Int) (ls : List Nat) : cachesOnly o (s.laneAddrs c p wr off ls) := by
  induction ls generalizing s with
  | nil => exact h
  | cons i ls ih =>
    have here := State.slices_of_uncached h none_
    unfold State.laneAddrs
    split
    · trivial
    next q _ =>
    have formed : cachesOnly s (if wr then s.storeAddr c q 4 else s.loadAddr c q 4) := by
      split
      · exact State.storeAddr_cachesOnly here ..
      · exact State.loadAddr_cachesOnly here ..
    split
    · trivial
    next e =>
    rw [e] at formed
    split
    · trivial
    have tail := ih (formed.trans h)
    split
    · trivial
    next rest => rwa [rest] at tail

theorem kAddr_cachesOnly (none_ : s.slices = []) (p : Word) (wr : Bool) : cachesOnly s (kAddr s p wr) := by
  have formed : cachesOnly s (if wr then s.storeAddr s.firCtx p 16 else s.loadAddr s.firCtx p 16) := by
    split
    · exact State.storeAddr_cachesOnly none_ ..
    · exact State.loadAddr_cachesOnly none_ ..
  unfold kAddr
  split
  · trivial
  next e =>
  rw [e] at formed
  split
  · trivial
  · exact formed

end

/-! ### What loads leave -/

/-- The registers, the memory and what else no load may change. -/
def State.lasting (s : State) :=
  (s.regs, s.mem, s.mpoison, s.samplep, s.modnum, s.islands)

/-- What a read gives leaves registers and memory as they were. -/
def Got.leaves (o : State) : Got → Prop
  | .ok s _ | .wait s => s.lasting = o.lasting
  | .flt _ => True

section
variable {s o : State} {c : Ctx} {l : List Seg}

theorem Got.leaves.of_ok {g : Got} {bs : List (Byte × Bool)} (h : g.leaves o) (e : g = .ok s bs) : s.lasting = o.lasting := by
  rwa [e] at h

theorem Got.leaves.of_wait {g : Got} (h : g.leaves o) (e : g = .wait s) : s.lasting = o.lasting := by
  rwa [e] at h

theorem State.lasting_of_uncached (h : s.uncached = o.uncached) : s.lasting = o.lasting := by
  have lasting : s.uncached.lasting = o.uncached.lasting := by rw [h]
  exact lasting

theorem State.noteDrops_lasting (s : State) (f i n addr : Nat) : (s.noteDrops f i n addr).lasting = s.lasting := by
  unfold State.noteDrops
  extract_lets t
  have noted : t.lasting = s.lasting := by dsimp only [t, State.lasting, State.regs]
  clear_value t
  split
  · exact noted
  · exact noted

/-- Waiting for a route, and giving it up, leave registers and memory. -/
theorem State.routeFor_lasting (s : State) (c : Ctx) (l : List Seg) : (s.routeFor c l).1.lasting = s.lasting := by
  unfold State.routeFor
  split
  · rfl
  extract_lets m mine
  split
  · rfl
  · split
    · exact State.noteDrops_lasting ..
    · rfl

/-- With every module in reach a route changes nothing. -/
theorem State.routeFor_none {t : State} (h : s.routeFor c l = (t, none)) : t = s := by
  unfold State.routeFor at h
  split at h
  · cases h; rfl
  extract_lets m mine at h
  split at h
  · cases h
  · split at h <;> cases h

theorem State.readOpen_leaves (slices : s.slices = []) (pairs : s.pairs = []) (c : Ctx) (l : List Seg) :
    (s.readOpen c l).leaves s := by
  have route := s.routeFor_lasting c l
  unfold State.readOpen
  split
  · rfl
  split
  · next e => rw [e] at route; exact route
  · next e => rw [e] at route; exact route
  · next e =>
    obtain rfl := State.routeFor_none e
    rw [readSegs_noPairs slices pairs]
    rfl

theorem State.readVia_leaves (slices : s.slices = []) (pairs : s.pairs = []) (c : Ctx) (l : List Seg) :
    (s.readVia c l).leaves s := by
  have opened := State.readOpen_leaves slices pairs c l
  unfold State.readVia
  extract_lets f at_ ahead older
  split
  · split
    · rfl
    · exact opened
  split
  · rfl
  split
  · rfl
  · split
    · next e => rw [e] at opened; exact opened
    · exact opened

/-! ### A page request in an open region (R178) -/

theorem State.modChan_lasting (s : State) (f i k : Nat) (g : Chan → Chan) : (s.modChan f i k g).lasting = s.lasting := by
  unfold State.modChan State.modInst
  split
  · rfl
  · rfl

theorem State.enqueue_lasting (s : State) (b p : Nat) (k : Cmd) : (s.enqueue b p k).lasting = s.lasting := by
  unfold State.enqueue
  extract_lets t port?
  have queued : t.lasting = s.lasting := rfl
  clear_value t port?
  split
  · split
    · exact (State.modChan_lasting ..).trans queued
    · exact queued
  · exact queued

/-- A KISSUE that is served takes an entry of the scoreboard and one of the queue. -/
theorem State.serveKissue_lasting (s : State) (b : Nat) (f : Firing) : (s.serveKissue b f).lasting = s.lasting := by
  unfold State.serveKissue
  split
  · split
    · extract_lets t
      have taken : t.lasting = s.lasting := rfl
      clear_value t
      split
      · exact (State.enqueue_lasting ..).trans taken
      · exact taken
    · rfl
  · split
    · exact State.enqueue_lasting ..
    · rfl
  · rfl

theorem State.serveQueues_lasting (s : State) (b : Nat) : (s.serveQueues b).lasting = s.lasting :=
  State.foldl_keeps State.lasting (fun s f => s.serveKissue_lasting b f) ..

theorem State.cancelRegion_lasting (s : State) (b a : Nat) : (s.cancelRegion b a).lasting = s.lasting := by
  unfold State.cancelRegion
  exact State.serveQueues_lasting ..

theorem State.postPage_lasting (s : State) (t : Nat) (page : Nat × Nat × Nat) (w : Who) :
    (s.postPage t page w).lasting = s.lasting := by
  unfold State.postPage
  split
  extract_lets same join
  split
  · rfl
  split
  · rfl
  · split
    · rfl
    · rfl

theorem State.keeping_lasting (s : State) (f : Flt) : (s.keeping f).lasting = s.lasting := by
  obtain ⟨l, q, t, w, h⟩ := s.keeping_eq f
  rw [h]
  rfl

theorem State.faultAt_lasting (s : State) (code : Nat) (fa : Word) : (s.faultAt code fa).lasting = s.lasting := by
  obtain ⟨l, h⟩ := s.faultAt_eq code fa
  rw [h]
  rfl

theorem State.regionPage_lasting (s : State) (f : Flt) : (s.regionPage f).lasting = s.lasting := by
  unfold State.regionPage
  extract_lets c u v w z
  have cancelled : u.lasting = s.lasting := (State.cancelRegion_lasting ..).trans (s.keeping_lasting f)
  have parked : z.lasting = u.lasting := rfl
  clear_value u z
  split
  · exact (State.postPage_lasting ..).trans (parked.trans cancelled)
  · exact parked.trans cancelled

/-! ### Outcomes of loads -/

/-- An outcome of a load: the register named and the pc and loop registers have changed, and no memory. -/
structure LoadFramed (s : State) (w : Writes) (o : Out) : Prop where
  next : ∀ t, o = .next t → keeps s.regs t.regs w ∧ t.lasting.2 = s.lasting.2

variable {w : Writes}

theorem loadFramed_left {t : State} (left : t.lasting = s.lasting) : LoadFramed s w (.next t) := by
  refine ⟨fun u next => ?_⟩
  obtain rfl : t = u := Host.Outcome.next.inj next
  have regs : t.regs = s.regs := congrArg Prod.fst left
  exact ⟨regs ▸ keeps_refl .., congrArg Prod.snd left⟩

theorem loadFramed_fault {t : State} (left : t.lasting = s.lasting) (code : Nat) (fa : Word) :
    LoadFramed s w (takeFault code fa t) := loadFramed_left ((t.faultAt_lasting code fa).trans left)

theorem loadFramed_memFault (b : Bool) (f : Flt) : LoadFramed s w (memFault b f s) := by
  unfold memFault
  split
  · exact loadFramed_left (s.regionPage_lasting f)
  · exact loadFramed_fault (s.keeping_lasting f) ..

theorem loadFramed_finish {t : State} {f : Regs → Regs} (left : t.lasting = s.lasting) (h : keeps t.regs (f t.regs) w) :
    LoadFramed s w (finish t f) := by
  refine ⟨fun u next => ?_⟩
  obtain rfl : t.retired f = u := Host.Outcome.next.inj next
  have regs : t.regs = s.regs := congrArg Prod.fst left
  have others : t.lasting.2 = s.lasting.2 := congrArg Prod.snd left
  exact ⟨regs ▸ keeps_endChecks h _, others⟩

end

/-! ### Loads -/

section
variable {s u : State} {w : Writes} (slices : s.slices = []) (pairs : s.pairs = [])
include slices pairs

/-- A read through a formed address. -/
theorem State.readVia_formed (formed : u.uncached = s.uncached) (c : Ctx) (l : List Seg) : (u.readVia c l).leaves s := by
  have same : u.uncached.pairs = s.uncached.pairs := by rw [formed]
  have left := State.readVia_leaves (State.slices_of_uncached formed slices) (same.trans pairs) c l
  have lasting := State.lasting_of_uncached formed
  cases read : u.readVia c l with
  | ok t bs => rw [read] at left; exact left.trans lasting
  | wait t => rw [read] at left; exact left.trans lasting
  | flt f => trivial

theorem State.load_leaves (c : Ctx) (p : Word) (n : Nat) : (s.load c p n).leaves s := by
  have formed := State.loadAddr_cachesOnly slices c p n
  unfold State.load
  split
  · trivial
  · next e =>
    rw [e] at formed
    exact State.readVia_formed slices pairs formed ..

/-- LD and LDX. -/
theorem loadFramed_loadThen {k : State → List (Byte × Bool) → Out}
    (then_ : ∀ t bs, t.lasting = s.lasting → LoadFramed s w (k t bs)) (p : Word) (off : Int) (n : Nat) :
    LoadFramed s w (loadThen s p off n k) := by
  unfold loadThen
  split
  · exact loadFramed_memFault ..
  next q _ =>
  have left := State.load_leaves slices pairs s.firCtx q n
  split
  · exact loadFramed_memFault ..
  · next e => exact loadFramed_left (left.of_wait e)
  · next e => exact then_ _ _ (left.of_ok e)

/-- Vector loads, lane by lane. -/
theorem loadFramed_vLoad {d gb : R5} {k : R3} (named : w.v = some d) (off4 : BitVec 4) (off : Nat → Int) (q : Word) :
    LoadFramed s w (vLoad d gb k off4 off q s) := by
  unfold vLoad
  extract_lets r m ls
  have formed := State.laneAddrs_cachesOnly slices rfl s.firCtx (r.rg gb) false (fun i => 256 * off4.toNat + off i) ls
  split
  · exact loadFramed_memFault ..
  next e =>
  rw [e] at formed
  split
  · exact loadFramed_memFault ..
  · next read => exact loadFramed_left ((State.readVia_formed slices pairs formed ..).of_wait read)
  · next read =>
    exact loadFramed_finish ((State.readVia_formed slices pairs formed ..).of_ok read) (keeps_wv (keeps_refl ..) named ..)

theorem loadFramed_vldb {d gb : R5} {k : R3} (named : w.v = some d) (off4 : BitVec 4) :
    LoadFramed s w (execVldb d gb k off4 s) := by
  unfold execVldb
  extract_lets r m
  have formed := State.laneAddrs_cachesOnly slices rfl s.firCtx (r.rg gb) false (fun _ => 256 * off4.toNat)
    (if m = 0 then [] else [0])
  split
  · exact loadFramed_memFault ..
  next e =>
  rw [e] at formed
  split
  · exact loadFramed_memFault ..
  · next read => exact loadFramed_left ((State.readVia_formed slices pairs formed ..).of_wait read)
  · next read =>
    exact loadFramed_finish ((State.readVia_formed slices pairs formed ..).of_ok read) (keeps_wv (keeps_refl ..) named ..)

theorem loadFramed_zld {d : R4} {a : R5} (named : w.z = some d) : LoadFramed s w (execZld d a s) := by
  unfold execZld
  extract_lets p
  have formed := State.loadAddr_cachesOnly slices s.firCtx p 8
  split
  · exact loadFramed_memFault ..
  next e =>
  rw [e] at formed
  split
  · exact loadFramed_fault (State.lasting_of_uncached formed) ..
  split
  · exact loadFramed_memFault ..
  · next read => exact loadFramed_left ((State.readVia_formed slices pairs formed ..).of_wait read)
  · next read =>
    exact loadFramed_finish ((State.readVia_formed slices pairs formed ..).of_ok read) (keeps_wz (keeps_refl ..) named _)

theorem loadFramed_kld {n : R3} {a : R5} (named : w.k = some n) : LoadFramed s w (execKld n a s) := by
  have formed := kAddr_cachesOnly slices (s.regs.rg a) false
  unfold execKld
  split
  · exact loadFramed_memFault ..
  next e =>
  rw [e] at formed
  split
  · exact loadFramed_memFault ..
  · next read => exact loadFramed_left ((State.readVia_formed slices pairs formed ..).of_wait read)
  · next read =>
    exact loadFramed_finish ((State.readVia_formed slices pairs formed ..).of_ok read) (keeps_wk (keeps_refl ..) named ..)

theorem exec_loadFramed {i : Instr} (writes : loadWrites i = some w) : LoadFramed s w (exec i s) := by
  cases i
  case ld | ldx =>
    cases writes
    simp only [exec]
    exact loadFramed_loadThen slices pairs (fun _ _ left => loadFramed_finish left (keeps_wg (keeps_refl ..) rfl ..)) ..
  case vld | vlds | vldx => cases writes; simp only [exec]; exact loadFramed_vLoad slices pairs rfl ..
  case vldb => cases writes; exact loadFramed_vldb slices pairs rfl _
  case zld => cases writes; exact loadFramed_zld slices pairs rfl
  case kld => cases writes; exact loadFramed_kld slices pairs rfl
  all_goals exact nomatch writes

end

/-- Settles O26: every load by what its read leaves. -/
theorem loadFrame : Obligations.LoadFrame := by
  unfold Obligations.LoadFrame
  intro i s t w writes slices pairs next
  obtain ⟨regs, left⟩ := (exec_loadFramed slices pairs writes).next t next
  simp only [State.lasting, Prod.mk.injEq] at left
  obtain ⟨mem, poison, samplep, modnum, islands⟩ := left
  exact ⟨regs, fun _ _ => by rw [mem], poison, samplep, modnum, islands⟩

/-! ### Where a store may write -/

/-- The bytes of a store, formed from `o` with only caches changed, none of them a register byte (R54). -/
def StoresAt (o u : State) (l : List Seg) : Prop := u.uncached = o.uncached ∧ ∀ a ∈ segBytes l, isRegByte a = false

/-- What a write gives leaves the registers, and every byte but those of its runs. -/
def Put.writes (o : State) (l : List Seg) : Put → Prop
  | .ok t | .wait t => t.regs = o.regs ∧ memSame o t (· ∈ segBytes l)
  | .flt _ => True

section
variable {s u o : State} {c : Ctx} {l : List Seg}

theorem State.stored_of_uncached (h : u.uncached = s.uncached) : u.stored = s.stored := by
  have stored : u.uncached.stored = s.uncached.stored := by rw [h]
  exact stored

theorem State.storeAddr_storesAt (slices : s.slices = []) {p : Word} {n : Nat} (h : s.storeAddr c p n = .ok (u, l)) :
    StoresAt s u l := by
  have formed := s.storeAddr_cachesOnly slices c p n
  rw [h] at formed
  exact ⟨formed, (State.storeAddr_formed slices h).2⟩

theorem segBytes_append (l m : List Seg) : segBytes (l ++ m) = segBytes l ++ segBytes m := List.flatMap_append

/-- No lane of a vector store writes a register byte. -/
theorem State.laneAddrs_notRegister (slices : s.slices = []) {p : Word} {off : Nat → Int} {ls : List Nat}
    (h : s.laneAddrs c p true off ls = .ok (u, l)) : ∀ a ∈ segBytes l, isRegByte a = false := by
  induction ls generalizing s l with
  | nil => cases h; exact fun _ on => absurd on List.not_mem_nil
  | cons i ls ih =>
    unfold State.laneAddrs at h
    simp only [if_true] at h
    split at h
    · cases h
    split at h
    · cases h
    next first =>
    obtain ⟨formed, here⟩ := State.storeAddr_storesAt slices first
    split at h
    · cases h
    split at h
    · cases h
    next rest =>
    cases h
    intro a on
    rw [segBytes_append, List.mem_append] at on
    rcases on with on | on
    · exact here a on
    · exact ih (State.slices_of_uncached formed slices) rest a on

theorem State.laneAddrs_storesAt (slices : s.slices = []) {p : Word} {off : Nat → Int} {ls : List Nat}
    (h : s.laneAddrs c p true off ls = .ok (u, l)) : StoresAt s u l := by
  have formed := State.laneAddrs_cachesOnly slices rfl c p true off ls
  rw [h] at formed
  exact ⟨formed, State.laneAddrs_notRegister slices h⟩

/-- KST forms the address of a store and checks its alignment. -/
theorem kAddr_store {p : Word} (h : kAddr s p true = .ok (u, l)) : s.storeAddr s.firCtx p 16 = .ok (u, l) := by
  unfold kAddr at h
  simp only [if_true] at h
  split at h
  · cases h
  next e =>
  split at h
  · cases h
  · cases h; exact e

/-! ### What a write leaves -/

theorem Put.writes.of_ok {t : State} {g : Put} (h : g.writes o l) (e : g = .ok t) :
    t.regs = o.regs ∧ memSame o t (· ∈ segBytes l) := by
  rwa [e] at h

theorem Put.writes.of_wait {t : State} {g : Put} (h : g.writes o l) (e : g = .wait t) :
    t.regs = o.regs ∧ memSame o t (· ∈ segBytes l) := by
  rwa [e] at h

variable (calm : u.calm c.field c.inst) (wf : u.mem.wf = true) (memory : ∀ a ∈ segBytes l, isRegByte a = false)
  (bs : List (Byte × Bool))
include calm wf memory

theorem State.writeSegs_memSame : memSame u (u.writeSegs c l bs) (· ∈ segBytes l) := by
  intro a out
  rw [State.writeSegs_mem calm memory]
  refine Memory.read_put_other wf fun on => out ?_
  obtain ⟨x, hx, rfl⟩ := List.mem_map.1 on
  exact (List.of_mem_zip hx).1

theorem State.writeOpen_writes : (u.writeOpen c l bs).writes u l := by
  have fir : (u.writeSegs c l bs).fir = u.fir := (State.writeSegs_upholds (State.upholds_refl (fix := true) u) c l bs).1
  have route := u.routeFor_lasting c l
  have regs {t : State} (h : t.lasting = u.lasting) : t.regs = u.regs := congrArg Prod.fst h
  have mem {t : State} (h : t.lasting = u.lasting) : memSame u t (· ∈ segBytes l) := by
    have mem : t.mem = u.mem := congrArg (fun x => x.2.1) h
    exact fun _ _ => by rw [mem]
  unfold State.writeOpen
  split
  · exact ⟨rfl, fun _ _ => rfl⟩
  split
  · next e => rw [e] at route; exact ⟨regs route, mem route⟩
  · next e => rw [e] at route; exact ⟨regs route, mem route⟩
  · next e =>
    obtain rfl := State.routeFor_none e
    exact ⟨congrArg Firing.regs fir, State.writeSegs_memSame calm wf memory bs⟩

theorem State.writeVia_writes : (u.writeVia c l bs).writes u l := by
  unfold State.writeVia
  split
  · exact ⟨rfl, fun _ _ => rfl⟩
  · exact State.writeOpen_writes calm wf memory bs

theorem State.issueStore_writes (h : Nat) : (u.issueStore c h l bs).writes u l := by
  have written := State.writeOpen_writes calm wf memory bs
  unfold State.issueStore
  split
  · exact ⟨rfl, fun _ _ => rfl⟩
  split
  · exact ⟨rfl, fun _ _ => rfl⟩
  split
  · next e =>
    have waits := written.of_wait e
    exact waits
  · exact written

end

/-! ### Outcomes of stores -/

/-- An outcome of a store with the bytes `dest` that its address formation names: no register has changed but the pc and loop
registers, and no other byte of memory. -/
structure StoreFramed (s : State) (dest : Option (State × List Seg)) (o : Out) : Prop where
  next : ∀ t, o = .next t → keeps s.regs t.regs {} ∧ (∀ u l, dest = some (u, l) → memSame s t (· ∈ segBytes l))
    ∧ (dest = none → memSame s t fun _ => False)

section
variable {s u t : State} {dest : Option (State × List Seg)} {l : List Seg}

/-- A fault writes nothing. -/
theorem storeFramed_fault (regs : t.regs = s.regs) (mem : t.mem = s.mem) (code : Nat) (fa : Word) :
    StoreFramed s dest (takeFault code fa t) := by
  refine ⟨fun v next => ?_⟩
  obtain rfl : t.faultAt code fa = v := Host.Outcome.next.inj next
  rw [State.faultAt_regs, regs]
  refine ⟨keeps_refl .., fun u l _ _ _ => ?_, fun _ _ _ => ?_⟩ <;> rw [State.faultAt_mem, mem]

theorem storeFramed_memFault (f : Flt) : StoreFramed s dest (memFault false f s) :=
  storeFramed_fault (s.keeping_regs f) (s.keeping_mem f) ..

theorem storeFramed_allowed {p : Word} {i : Instr} {k : State → Out} (h : StoreFramed s dest (k s)) :
    StoreFramed s dest (storeAllowed p i s k) := by
  unfold storeAllowed
  split
  · exact storeFramed_fault rfl rfl ..
  · exact h

variable (formed : StoresAt s u l) (wrote : t.regs = u.regs ∧ memSame u t (· ∈ segBytes l))
include formed wrote

/-- A write to the bytes formed, after which the pc and loop registers may have moved. -/
theorem storeFramed_wrote {f : Regs → Regs} (h : keeps t.regs (f t.regs) {}) :
    StoreFramed s (some (u, l)) (.next (t.mapRegs f)) := by
  have lasting := State.lasting_of_uncached formed.1
  have mem : u.mem = s.mem := congrArg (fun x => x.2.1) lasting
  have regs : t.regs = s.regs := wrote.1.trans (congrArg Prod.fst lasting)
  refine ⟨fun v next => ?_⟩
  obtain rfl : t.mapRegs f = v := Host.Outcome.next.inj next
  refine ⟨regs ▸ h, fun v m same a out => ?_, nofun⟩
  cases same
  exact (wrote.2 a out).trans (congrArg (fun m => m.read a) mem)

theorem storeFramed_retire : StoreFramed s (some (u, l)) (retire t) :=
  storeFramed_wrote formed wrote (keeps_endChecks (keeps_refl ..) _)

theorem storeFramed_wait : StoreFramed s (some (u, l)) (.next t) :=
  storeFramed_wrote (f := id) formed wrote (keeps_refl ..)

end

/-! ### Stores -/

section
variable {s u : State} {l : List Seg} (quiet : quietMem s)
include quiet

/-- Forming an address leaves memory as calm as it was. -/
theorem calm_of_storesAt (formed : StoresAt s u l) : u.calm s.firCtx.field s.firCtx.inst := by
  rw [s.firCtx_field, s.firCtx_inst]
  exact State.calm_of_stored (State.stored_of_uncached formed.1) quiet

variable (wf : s.mem.wf = true)
include wf

omit quiet in
theorem wf_of_storesAt (formed : StoresAt s u l) : u.mem.wf = true := by
  have mem : u.mem = s.mem := congrArg Prod.fst (State.stored_of_uncached formed.1)
  rw [mem]
  exact wf

theorem State.issueStore_formed (formed : StoresAt s u l) (h : Nat) (bs : List (Byte × Bool)) :
    (u.issueStore s.firCtx h l bs).writes u l :=
  State.issueStore_writes (calm_of_storesAt quiet formed) (wf_of_storesAt wf formed) formed.2 bs h

theorem State.writeVia_formed (formed : StoresAt s u l) (bs : List (Byte × Bool)) : (u.writeVia s.firCtx l bs).writes u l :=
  State.writeVia_writes (calm_of_storesAt quiet formed) (wf_of_storesAt wf formed) formed.2 bs

theorem storeFramed_storeThen {p q : Word} {off : Int} (moved : movePtr p off = .ok q) (bs : List (Byte × Bool)) :
    StoreFramed s (s.storeAddr s.firCtx q bs.length).toOption (storeThen s p off bs) := by
  unfold storeThen State.store
  rw [moved]
  dsimp only
  cases addr : s.storeAddr s.firCtx q bs.length with
  | error f => exact storeFramed_memFault f
  | ok r =>
    have formed := State.storeAddr_storesAt quiet.1 addr
    have wrote := State.issueStore_formed quiet wf formed (ptrH q) bs
    dsimp only
    split
    · exact storeFramed_memFault _
    · next e => exact storeFramed_wait formed (wrote.of_wait e)
    · next e => exact storeFramed_retire formed (wrote.of_ok e)

theorem exec_storeFramed_st (w : Width) (d a : R5) (off : BitVec 14) :
    StoreFramed s (storesTo (.st w d a off) s) (exec (.st w d a off) s) := by
  show StoreFramed s _ (execSt w d a off s)
  refine storeFramed_allowed ?_
  cases moved : movePtr (s.regs.rg a) off.toInt with
  | error f =>
    unfold storeThen
    rw [moved]
    exact storeFramed_memFault f
  | ok q =>
    have framed := storeFramed_storeThen quiet wf moved (putBytes (widthBytes w) (s.regs.rg d).toNat (s.regs.rgp d))
    rw [length_putBytes] at framed
    simpa only [storesTo, moved] using framed

/-- Vector stores, lane by lane. -/
theorem storeFramed_vStore (v gb : R5) (k : R3) (off4 : BitVec 4) (off : Nat → Int) (i : Instr) :
    StoreFramed s (s.laneAddrs s.firCtx (s.regs.rg gb) true (fun i => 256 * off4.toNat + off i)
      ((List.range 64).filter (s.regs.rm k).getLsbD)).toOption (vStore v gb k off4 off i s) := by
  refine storeFramed_allowed ?_
  dsimp only
  split
  · next addr => rw [addr]; exact storeFramed_memFault _
  next addr =>
  have formed := State.laneAddrs_storesAt quiet.1 addr
  rw [addr]
  split
  · exact storeFramed_memFault _
  · next e => exact storeFramed_wait formed ((State.issueStore_formed quiet wf formed ..).of_wait e)
  · next e => exact storeFramed_retire formed ((State.issueStore_formed quiet wf formed ..).of_ok e)

theorem exec_storeFramed_zst (a : R5) (b : R4) : StoreFramed s (storesTo (.zst a b) s) (exec (.zst a b) s) := by
  show StoreFramed s (s.storeAddr s.firCtx (s.regs.rg a) 8).toOption (execZst a b s)
  unfold execZst
  refine storeFramed_allowed ?_
  split
  · exact storeFramed_memFault _
  next addr =>
  have formed := State.storeAddr_storesAt quiet.1 addr
  have lasting := State.lasting_of_uncached formed.1
  rw [addr]
  split
  · exact storeFramed_fault (congrArg Prod.fst lasting) (congrArg (fun x => x.2.1) lasting) ..
  split
  · exact storeFramed_memFault _
  · next e => exact storeFramed_wait formed ((State.writeVia_formed quiet wf formed _).of_wait e)
  · next e => exact storeFramed_retire formed ((State.writeVia_formed quiet wf formed _).of_ok e)

theorem exec_storeFramed_kst (n : R3) (a : R5) : StoreFramed s (storesTo (.kst n a) s) (exec (.kst n a) s) := by
  show StoreFramed s (s.storeAddr s.firCtx (s.regs.rg a) 16).toOption (execKst n a s)
  unfold execKst
  refine storeFramed_allowed ?_
  split
  · exact storeFramed_memFault _
  next aligned =>
  have addr := kAddr_store aligned
  have formed := State.storeAddr_storesAt quiet.1 addr
  rw [addr]
  split
  · exact storeFramed_memFault _
  · next e => exact storeFramed_wait formed ((State.writeVia_formed quiet wf formed _).of_wait e)
  · next e => exact storeFramed_retire formed ((State.writeVia_formed quiet wf formed _).of_ok e)

theorem exec_storeFramed {i : Instr} (store : isStore i = true) : StoreFramed s (storesTo i s) (exec i s) := by
  cases i
  case st => exact exec_storeFramed_st quiet wf ..
  case vst | vstx => exact storeFramed_vStore quiet wf ..
  case zst => exact exec_storeFramed_zst quiet wf ..
  case kst => exact exec_storeFramed_kst quiet wf ..
  all_goals exact nomatch store

end

/-- Settles O27: every store by where its address formation lets it write. -/
theorem storeFrame : Obligations.StoreFrame := by
  unfold Obligations.StoreFrame
  exact fun i s t store quiet wf next => (exec_storeFramed quiet wf store).next t next

end Sys2Proof.Machine
end

section
/-! Semaphores and yards (R169-R171): the service of waiters in arrival order, counts that no party waits on, and the arrivals of
a yard. -/

namespace Sys2Proof.Machine

open Claims (keeps nothingSent)

/-! ### The service of a semaphore's waiters (R170) -/

section
variable {n v : Nat} {w : SemWaiter} {kept l : List SemWaiter}

/-- Some older waiter of semaphore `n` has been passed over 64 times. -/
def blocksYounger (n : Nat) (kept : List SemWaiter) : Bool := kept.any fun k => k.sem == n && decide (k.passed ≥ 64)

/-- A waiter of another semaphore stays. -/
theorem semServeFrom_other (other : w.sem ≠ n) : semServeFrom n v kept (w :: l) = semServeFrom n v (kept ++ [w]) l := by
  rw [semServeFrom, if_pos other]

theorem semServeFrom_serves (mine : w.sem = n) (free : blocksYounger n kept = false) (met : w.thr ≤ v) :
    semServeFrom n v kept (w :: l) =
      let r := semServeFrom n (v - w.thr) (kept.map fun k => if k.sem = n then { k with passed := k.passed + 1 } else k) l
      (r.1, r.2.1, w.who :: r.2.2) := by
  rw [semServeFrom, if_neg (not_not.2 mine), if_neg (by rw [← blocksYounger, free]; decide), if_pos met]

theorem semServeFrom_keeps (mine : w.sem = n) (free : blocksYounger n kept = false) (short : v < w.thr) :
    semServeFrom n v kept (w :: l) = semServeFrom n v (kept ++ [w]) l := by
  rw [semServeFrom, if_neg (not_not.2 mine), if_neg (by rw [← blocksYounger, free]; decide), if_neg (Nat.not_le.2 short)]

/-- A waiter passed over 64 times blocks every younger one. -/
theorem semServeFrom_blocked (blocked : blocksYounger n kept = true) : semServeFrom n v kept l = (v, kept ++ l, []) := by
  induction l generalizing kept with
  | nil => rw [List.append_nil]; rfl
  | cons w l ih =>
    by_cases mine : w.sem = n
    · rw [semServeFrom, if_neg (not_not.2 mine)]
      exact if_pos blocked
    · have still : blocksYounger n (kept ++ [w]) = true := by
        unfold blocksYounger at *
        rw [List.any_append, blocked, Bool.true_or]
      rw [semServeFrom_other mine, ih still, List.append_assoc]
      rfl

theorem blocksYounger_one : blocksYounger n [w] = (w.sem == n && decide (w.passed ≥ 64)) := Bool.or_false _

/-- Service never raises a count. -/
theorem semServeFrom_le : (semServeFrom n v kept l).1 ≤ v := by
  induction l generalizing v kept with
  | nil => exact le_rfl
  | cons w l ih =>
    unfold semServeFrom
    split
    · exact ih
    split
    · exact le_rfl
    split
    · exact ih.trans (Nat.sub_le ..)
    · exact ih

/-- While no waiter can be passed over 64 times, the count that is left meets no waiter that stays. -/
theorem semServeFrom_unmet (older : ∀ k ∈ kept, k.sem = n → v < k.thr ∧ k.passed + l.length < 64)
    (younger : ∀ y ∈ l, y.sem = n → y.passed + l.length ≤ 64) :
    ∀ y ∈ (semServeFrom n v kept l).2.1, y.sem = n → (semServeFrom n v kept l).1 < y.thr := by
  induction l generalizing v kept with
  | nil => exact fun y on mine => (older y on mine).1
  | cons w l ih =>
    rw [List.length_cons] at older younger
    have rest (y) (on : y ∈ l) (mine : y.sem = n) : y.passed + l.length ≤ 64 := by
      have := younger y (List.mem_cons_of_mem _ on) mine
      omega
    have stays (short : w.sem = n → v < w.thr) :
        ∀ k ∈ kept ++ [w], k.sem = n → v < k.thr ∧ k.passed + l.length < 64 := by
      intro k on mine
      rcases List.mem_append.1 on with on | on
      · have := older k on mine
        exact ⟨this.1, by omega⟩
      · obtain rfl := List.mem_singleton.1 on
        have := younger k List.mem_cons_self mine
        exact ⟨short mine, by omega⟩
    have free : blocksYounger n kept = false := by
      refine List.any_eq_false.2 fun k on both => ?_
      rw [Bool.and_eq_true, beq_iff_eq, decide_eq_true_eq] at both
      have := older k on both.1
      omega
    by_cases mine : w.sem = n
    · by_cases met : w.thr ≤ v
      · rw [semServeFrom_serves mine free met]
        refine ih (fun k on same => ?_) rest
        obtain ⟨x, hx, rfl⟩ := List.mem_map.1 on
        by_cases his : x.sem = n
        · have := older x hx his
          rw [if_pos his]
          exact ⟨by dsimp only; omega, by dsimp only; omega⟩
        · rw [if_neg his] at same
          exact absurd same his
      · have short := Nat.lt_of_not_le met
        rw [semServeFrom_keeps mine free short]
        exact ih (stays fun _ => short) rest
    · rw [semServeFrom_other mine]
      exact ih (stays fun same => absurd same mine) rest

/-- The service of one waiter. -/
theorem semServe_one_met {h : Nat} {who : Who} (met : h ≤ v) : semServe n v [⟨n, h, who, 0⟩] = (v - h, [], [who]) :=
  semServeFrom_serves (kept := []) rfl rfl met

theorem semServe_one_short {h : Nat} {who : Who} (short : v < h) : semServe n v [⟨n, h, who, 0⟩] = (v, [⟨n, h, who, 0⟩], []) :=
  semServeFrom_keeps (kept := []) rfl rfl short

end

/-! ### Counts that no other party waits on (R169) -/

section
variable {s t : State} {b n v : Nat}

/-- The state without the module sets that parties and semaphores hold. -/
def State.unsent (s : State) : State := { s with sentSets := [] }

theorem State.bay_of_unsent (h : t.unsent = s.unsent) (b : Nat) : t.bay b = s.bay b := by
  have bay : t.unsent.bay b = s.unsent.bay b := by rw [h]
  exact bay

theorem State.fir_of_unsent (h : t.unsent = s.unsent) : t.fir = s.fir := by
  have fir : t.unsent.fir = s.unsent.fir := by rw [h]
  exact fir

/-- Passing module sets on changes the sets alone. -/
theorem State.passSent_unsent (s : State) (n : Nat) (src : Carrier) (dst : List Carrier) (keep : Bool) :
    (s.passSent n src dst keep).unsent = s.unsent := by
  have adds (x : SentSet) (t : State) : (dst.foldl (fun s d => s.addSent { x with who := d }) t).unsent = t.unsent :=
    State.foldl_keeps State.unsent (g := fun s d => s.addSent { x with who := d }) (fun _ _ => rfl) dst t
  unfold State.passSent
  extract_lets mine
  split
  · rfl
  · refine (State.foldl_keeps State.unsent (fun t x => adds x t) _ _).trans ?_
    cases keep <;> rfl

theorem State.semTaken_unsent (s : State) (b n : Nat) (l : List Who) : (s.semTaken b n l).unsent = s.unsent := by
  unfold State.semTaken
  split
  · rfl
  · exact State.passSent_unsent ..

/-- Setting a count that no party waits on changes the count alone. -/
theorem State.setSem_alone (alone : (s.bay b).semWaiters = []) (n v : Nat) : s.setSem b n v =
    s.modBay b fun x => { x with sems := tput n (BitVec.ofNat 16 v) x.sems, semWaiters := [] } := by
  unfold State.setSem
  rw [alone]
  rfl

theorem State.sem_lt (s : State) (b n : Nat) : s.sem b n < 2 ^ 16 := BitVec.isLt _

/-- The counts of a bay after one of them has been set. -/
theorem State.sem_of_tput {x : BitVec 16} (h : (t.bay b).sems = tput n x (s.bay b).sems) (m : Nat) :
    t.sem b m = if m = n then x.toNat else s.sem b m := by
  unfold State.sem
  rw [h, tgetD_tput]
  split <;> rfl

theorem State.setSem_sem (alone : (s.bay b).semWaiters = []) (small : v < 2 ^ 16) (m : Nat) :
    (s.setSem b n v).sem b m = if m = n then v else s.sem b m := by
  rw [State.setSem_alone alone, State.sem_of_tput (s := s) (n := n) (x := BitVec.ofNat 16 v) (by rw [State.bay_modBay, if_pos rfl]),
    BitVec.toNat_ofNat, Nat.mod_eq_of_lt small]

/-- A release at a scope below a module's, with nothing on its way, does nothing. -/
theorem State.release_nothing {scope : Nat} (nothing : nothingSent s) (near : scope < 3) :
    s.release s.firCtx scope none = s := by
  unfold State.release
  rw [State.drain_nothing nothing]
  exact if_neg (Nat.not_le.2 near)

theorem whenSent_nothing (nothing : nothingSent s) (k : State → Out) : whenSent s k = k s := by
  rw [whenSent_sent (State.sent_nothing nothing), State.flushed_nothing nothing]

end

/-! ### Semaphore instructions (R170) -/

section
variable {s : State} {d a b : R5} (closed : s.fir.region = none)
include closed

theorem exec_semadd_nothing (nothing : nothingSent s) : exec (.semadd a b) s =
    retire (s.setSem s.fir.bay ((s.regs.rg a).toNat % 256)
      (min (s.sem s.fir.bay ((s.regs.rg a).toNat % 256) + (s.regs.rg b).toNat % 65536) 0xFFFF)) := by
  show execSemadd a b s = _
  unfold execSemadd
  rw [outsideRegion_closed _ s _ closed, whenSent_nothing nothing]
  dsimp only
  rw [State.release_nothing nothing (by decide)]
  rfl

theorem exec_semsub_closed : exec (.semsub d a b) s =
    finish (s.setSem s.fir.bay ((s.regs.rg a).toNat % 256) (s.sem s.fir.bay ((s.regs.rg a).toNat % 256)
        - min (s.sem s.fir.bay ((s.regs.rg a).toNat % 256)) ((s.regs.rg b).toNat % 65536)))
      fun r => r.wg d (BitVec.ofNat 64 (min (s.sem s.fir.bay ((s.regs.rg a).toNat % 256)) ((s.regs.rg b).toNat % 65536)))
        (r.rgp a || r.rgp b) := by
  show execSemsub d a b s = _
  unfold execSemsub
  rw [outsideRegion_closed _ s _ closed]
  rfl

theorem exec_semwait_zero (zero : (s.regs.rg b).toNat % 65536 = 0) : exec (.semwait a b) s = Claims.retires s id := by
  show execSemwait a b s = _
  unfold execSemwait
  rw [outsideRegion_closed _ s _ closed]
  exact if_pos zero

/-- SEMWAIT on a count that meets its threshold, with no other waiter. -/
theorem exec_semwait_met {n h : Nat} (sem : (s.regs.rg a).toNat % 256 = n) (threshold : (s.regs.rg b).toNat % 65536 = h)
    (some_ : h ≠ 0) (alone : (s.bay s.fir.bay).semWaiters = []) (met : h ≤ s.sem s.fir.bay n) :
    exec (.semwait a b) s = retire ((s.setBay s.fir.bay { s.bay s.fir.bay with
      sems := tput n (BitVec.ofNat 16 (s.sem s.fir.bay n - h)) (s.bay s.fir.bay).sems, semWaiters := [] }).semTaken
        s.fir.bay n [.actor s.fir.bay s.fir.actor]) := by
  subst sem threshold
  show execSemwait a b s = _
  unfold execSemwait
  rw [outsideRegion_closed _ s _ closed]
  dsimp only
  rw [if_neg some_, alone, List.nil_append, semNo, semServe_one_met met]
  simp

/-- SEMWAIT on a count that does not meet its threshold, with no other waiter. -/
theorem exec_semwait_short {n h : Nat} (sem : (s.regs.rg a).toNat % 256 = n) (threshold : (s.regs.rg b).toNat % 65536 = h)
    (some_ : h ≠ 0) (alone : (s.bay s.fir.bay).semWaiters = []) (short : s.sem s.fir.bay n < h) :
    exec (.semwait a b) s = parkAt (.sem n h) (s.setBay s.fir.bay { s.bay s.fir.bay with
      sems := tput n (BitVec.ofNat 16 (s.sem s.fir.bay n)) (s.bay s.fir.bay).sems
      semWaiters := [⟨n, h, .actor s.fir.bay s.fir.actor, 0⟩] }) := by
  subst sem threshold
  show execSemwait a b s = _
  unfold execSemwait
  rw [outsideRegion_closed _ s _ closed]
  dsimp only
  rw [if_neg some_, alone, List.nil_append, semNo, semServe_one_short short]
  rfl

end

theorem exec_semget (s : State) (d a : R5) : exec (.semget d a) s =
    Claims.wrote s d (BitVec.ofNat 64 (s.sem s.fir.bay ((s.regs.rg a).toNat % 256))) (s.regs.rgp a) := by
  refine Eq.trans ?_ (finish_wg s d _ fun r => r.rgp a)
  exact finish_congr (f := fun r => r.wg d (BitVec.ofNat 64 (s.sem s.fir.bay (semNo (r.rg a)))) (r.rgp a)) rfl

/-! ### What the instructions leave -/

section
variable {s : State} {d a b : R5} {n v : Nat} (closed : s.fir.region = none) (alone : (s.bay s.fir.bay).semWaiters = [])
  (sem : (s.regs.rg a).toNat % 256 = n) (amount : (s.regs.rg b).toNat % 65536 = v)
include closed alone sem amount

theorem semadd_alone (nothing : nothingSent s) : ∃ t, exec (.semadd a b) s = .next t
    ∧ t.sem s.fir.bay n = min (s.sem s.fir.bay n + v) 0xFFFF ∧ (∀ m, m ≠ n → t.sem s.fir.bay m = s.sem s.fir.bay m)
    ∧ t.regs = s.regs.endChecks s.regs.pc ∧ t.mem = s.mem := by
  subst sem amount
  refine ⟨_, exec_semadd_nothing closed nothing, ?_, fun m other => ?_, ?_, ?_⟩
  · exact (State.setSem_sem alone (by omega) _).trans (if_pos rfl)
  · exact (State.setSem_sem alone (by omega) _).trans (if_neg other)
  · rw [State.setSem_alone alone]
    rfl
  · rw [State.setSem_alone alone]
    rfl

theorem semsub_alone : ∃ t, exec (.semsub d a b) s = .next t
    ∧ t.sem s.fir.bay n = s.sem s.fir.bay n - min (s.sem s.fir.bay n) v
    ∧ (∀ m, m ≠ n → t.sem s.fir.bay m = s.sem s.fir.bay m) ∧ t.mem = s.mem
    ∧ (d ≠ 0 → (t.regs.rg d).toNat = min (s.sem s.fir.bay n) v) ∧ keeps s.regs t.regs { g := some d } := by
  subst sem amount
  have small := s.sem_lt s.fir.bay ((s.regs.rg a).toNat % 256)
  refine ⟨_, exec_semsub_closed closed, ?_, fun m other => ?_, ?_, fun some_ => ?_, ?_⟩
  · exact (State.setSem_sem alone (by omega) _).trans (if_pos rfl)
  · exact (State.setSem_sem alone (by omega) _).trans (if_neg other)
  · rw [State.setSem_alone alone]
    rfl
  · rw [State.setSem_alone alone]
    refine (congrArg BitVec.toNat ((Regs.rg_endChecks ..).trans ((Regs.rg_wg ..).trans (if_pos ⟨rfl, some_⟩)))).trans ?_
    rw [BitVec.toNat_ofNat, Nat.mod_eq_of_lt (by omega)]
  · rw [State.setSem_alone alone]
    exact keeps_endChecks (keeps_wg (keeps_refl ..) rfl ..) _

theorem semwait_met (some_ : v ≠ 0) (met : v ≤ s.sem s.fir.bay n) : ∃ t, exec (.semwait a b) s = .next t
    ∧ t.sem s.fir.bay n = s.sem s.fir.bay n - v ∧ (t.bay s.fir.bay).semWaiters = []
    ∧ t.regs = s.regs.endChecks s.regs.pc := by
  have small := s.sem_lt s.fir.bay n
  have count : (BitVec.ofNat 16 (s.sem s.fir.bay n - v)).toNat = s.sem s.fir.bay n - v := by
    rw [BitVec.toNat_ofNat, Nat.mod_eq_of_lt (by omega)]
  let counted := s.setBay s.fir.bay { s.bay s.fir.bay with
    sems := tput n (BitVec.ofNat 16 (s.sem s.fir.bay n - v)) (s.bay s.fir.bay).sems, semWaiters := [] }
  have passed := counted.semTaken_unsent s.fir.bay n [.actor s.fir.bay s.fir.actor]
  have bay := (State.bay_of_unsent passed s.fir.bay).trans ((s.bay_setBay ..).trans (if_pos rfl))
  have regs := congrArg Firing.regs (State.fir_of_unsent passed)
  refine ⟨_, exec_semwait_met closed sem amount some_ alone met, ?_, ?_, ?_⟩
  · exact ((State.sem_of_tput (congrArg Bay.sems bay) n).trans (if_pos rfl)).trans count
  · exact congrArg Bay.semWaiters bay
  · exact congrArg (fun r : Regs => r.endChecks r.pc) regs

theorem semwait_short (some_ : v ≠ 0) (short : s.sem s.fir.bay n < v) : ∃ t, exec (.semwait a b) s = .next t
    ∧ t.sem s.fir.bay n = s.sem s.fir.bay n ∧ (t.bay s.fir.bay).semWaiters = [⟨n, v, .actor s.fir.bay s.fir.actor, 0⟩]
    ∧ t.fir.status = .parked (.sem n v) false ∧ t.fir.slot = false ∧ t.regs = s.regs := by
  have small := s.sem_lt s.fir.bay n
  have count : (BitVec.ofNat 16 (s.sem s.fir.bay n)).toNat = s.sem s.fir.bay n := by
    rw [BitVec.toNat_ofNat, Nat.mod_eq_of_lt small]
  refine ⟨_, exec_semwait_short closed sem amount some_ alone short, ?_, ?_, rfl, rfl, rfl⟩
  · exact ((State.sem_of_tput (congrArg Bay.sems ((s.bay_setBay ..).trans (if_pos rfl))) n).trans (if_pos rfl)).trans count
  · exact congrArg Bay.semWaiters ((s.bay_setBay ..).trans (if_pos rfl))

end

/-- Settles O32: each instruction with no other waiter, then the service of waiters by its recursion. -/
theorem semaphores : Obligations.Semaphores := by
  unfold Obligations.Semaphores
  constructor
  case left =>
    intro s d a b k n v closed
    exact ⟨exec_semget s d a, fun outside alone nothing => semadd_alone outside alone rfl rfl nothing,
      fun outside alone => semsub_alone outside alone rfl rfl, fun outside zero => exec_semwait_zero outside zero,
      fun outside some_ alone met => semwait_met outside alone rfl rfl some_ met,
      fun outside some_ alone short => semwait_short outside alone rfl rfl some_ short⟩
  case right =>
    intro n v w l
    refine ⟨fun mine met => semServeFrom_serves mine rfl met, fun mine short passed => ?blocked, semServeFrom_le,
      fun y mine his short fresh met => ?passedOver, semServeFrom_unmet fun _ on => absurd on List.not_mem_nil⟩
    case blocked =>
      have full : blocksYounger n [w] = true := by simp [blocksYounger_one, mine, passed]
      exact (semServeFrom_keeps mine rfl short).trans (semServeFrom_blocked full)
    case passedOver =>
      have free : blocksYounger n [w] = false := by simp [blocksYounger_one, fresh]
      have later : semServe n (v - y.thr) ({ w with passed := w.passed + 1 } :: l)
          = semServeFrom n (v - y.thr) [{ w with passed := w.passed + 1 }] l :=
        semServeFrom_keeps mine rfl (by dsimp only; omega)
      rw [later]
      refine (semServeFrom_keeps mine rfl short).trans ((semServeFrom_serves his free met).trans ?_)
      simp only [List.map_cons, List.map_nil, if_pos mine]

/-! ### Yards (R171) -/

section
variable {s : State} {y : Word} {f : Field} {k : Field → Option Yard → Out}

theorem withYard_past (past : 23 < y.toNat) : withYard y s k = Claims.faults s 0x13 y := if_pos past

theorem withYard_field (found : s.field? s.fir.field = some f) (ok : y.toNat ≤ 23) :
    withYard y s k = k f (tget y.toNat f.yards) := by
  unfold withYard
  rw [if_neg (Nat.not_lt.2 ok), found]

end

section
variable {s : State} {d a b : R5} {f : Field} (closed : s.fir.region = none) (found : s.field? s.fir.field = some f)
include closed

theorem exec_rvinit_past (past : 23 < (s.regs.rg a).toNat) : exec (.rvinit a b) s = Claims.faults s 0x13 (s.regs.rg a) := by
  show execRvinit a b s = _
  unfold execRvinit
  exact (outsideRegion_closed _ s _ closed).trans (withYard_past past)

theorem exec_rvarr_past (past : 23 < (s.regs.rg a).toNat) : exec (.rvarr d a) s = Claims.faults s 0x13 (s.regs.rg a) := by
  show execRvarr d a s = _
  unfold execRvarr
  exact (outsideRegion_closed _ s _ closed).trans (withYard_past past)

theorem exec_rvwait_past (past : 23 < (s.regs.rg a).toNat) : exec (.rvwait a b) s = Claims.faults s 0x13 (s.regs.rg a) := by
  show execRvwait a b s = _
  unfold execRvwait
  exact (outsideRegion_closed _ s _ closed).trans (withYard_past past)

include found
variable (ok : (s.regs.rg a).toNat ≤ 23)
include ok

/-- RVINIT through its checks; `n` is the number of parties and `p` the plot. -/
theorem exec_rvinit {n p : Nat} (parties : (s.regs.rg b).toNat % 65536 = n) (plot : (s.regs.rg b).toNat / 65536 % 2 ^ 24 = p) :
    exec (.rvinit a b) s =
      if n = 0 then Claims.faults s 0x13 (s.regs.rg a)
      else if plotValid (pktFw f.packet) (pktFh f.packet) p = false then Claims.faults s 0x15 (BitVec.ofNat 64 p)
      else match tget (s.regs.rg a).toNat f.yards with
        | none => Claims.retires (s.setField { f with yards := tput (s.regs.rg a).toNat ⟨n, BitVec.ofNat 24 p, 0, 0⟩ f.yards }) id
        | some q => if q.n = n ∧ q.plot.toNat = p then Claims.retires s id else Claims.faults s 0x13 (s.regs.rg a) := by
  have low : wget (s.regs.rg b) 15 0 = n := (wget_low _ _ (by decide)).trans parties
  have high : wget (s.regs.rg b) 39 16 = p := by
    rw [← plot, wget, bits, Nat.shiftRight_eq_div_pow]
  show execRvinit a b s = _
  unfold execRvinit
  rw [outsideRegion_closed _ s _ closed]
  dsimp only
  rw [withYard_field found ok, low, high]
  simp only [Bool.not_eq_true']
  rfl

/-- RVWAIT at a yard that is set up. -/
theorem exec_rvwait {q : Yard} (at_ : tget (s.regs.rg a).toNat f.yards = some q) : exec (.rvwait a b) s =
    if q.phase ≠ (s.regs.rg b).setWidth 1 then Claims.retires s id
    else .next (s.park (.yard (s.regs.rg a).toNat ((s.regs.rg b).setWidth 1)) false) := by
  show execRvwait a b s = _
  unfold execRvwait
  rw [outsideRegion_closed _ s _ closed]
  dsimp only
  rw [withYard_field found ok, at_]
  rfl

theorem exec_rvwait_unset (unset : tget (s.regs.rg a).toNat f.yards = none) :
    exec (.rvwait a b) s = Claims.faults s 0x13 (s.regs.rg a) := by
  show execRvwait a b s = _
  unfold execRvwait
  rw [outsideRegion_closed _ s _ closed]
  dsimp only
  rw [withYard_field found ok, unset]
  rfl

theorem exec_rvarr_unset (unset : tget (s.regs.rg a).toNat f.yards = none) :
    exec (.rvarr d a) s = Claims.faults s 0x13 (s.regs.rg a) := by
  show execRvarr d a s = _
  unfold execRvarr
  rw [outsideRegion_closed _ s _ closed]
  dsimp only
  rw [withYard_field found ok, unset]
  rfl

theorem exec_rvarr_outside {q : Yard} (at_ : tget (s.regs.rg a).toNat f.yards = some q)
    (outside : inPlot s.firCtx.fw s.firCtx.fh q.plot.toNat s.fir.fx s.fir.fy = false) :
    exec (.rvarr d a) s = Claims.faults s 0x13 (s.regs.rg a) := by
  show execRvarr d a s = _
  unfold execRvarr
  rw [outsideRegion_closed _ s _ closed]
  dsimp only
  rw [withYard_field found ok, at_]
  dsimp only
  rw [outside]
  rfl

/-- An arrival at a yard, with nothing of the firing on its way: the last one flips the phase. -/
theorem exec_rvarr_arrives {q : Yard} (at_ : tget (s.regs.rg a).toNat f.yards = some q)
    (inside : inPlot s.firCtx.fw s.firCtx.fh q.plot.toNat s.fir.fx s.fir.fy = true) (nothing : nothingSent s) :
    exec (.rvarr d a) s = Claims.wrote
      (if q.count + 1 = q.n then
          (s.setField { f with yards := tput (s.regs.rg a).toNat { q with count := 0, phase := 1 - q.phase } f.yards }).flipYard
            f.id (s.regs.rg a).toNat (1 - q.phase)
        else s.setField { f with yards := tput (s.regs.rg a).toNat { q with count := q.count + 1 } f.yards })
      d (q.phase.setWidth 64) (s.regs.rgp a) := by
  show execRvarr d a s = _
  unfold execRvarr
  rw [outsideRegion_closed _ s _ closed]
  dsimp only
  rw [withYard_field found ok, at_]
  dsimp only
  rw [inside, whenSent_nothing nothing]
  rw [State.release_nothing nothing (by decide), found]
  dsimp only
  by_cases full : q.count + 1 = q.n
  · rw [if_pos full]
    simp only [decide_eq_true full, if_true]
    exact finish_wg _ d _ fun r => r.rgp a
  · rw [if_neg full]
    simp only [decide_eq_false full]
    exact finish_wg _ d _ fun r => r.rgp a

end

/-- Settles O33: each instruction through its checks. -/
theorem yards : Obligations.Yards := by
  unfold Obligations.Yards
  intro s d a b f closed found y v n plot ok
  refine ⟨fun past => ⟨exec_rvinit_past closed past, exec_rvarr_past closed past, exec_rvwait_past closed past⟩,
    fun ok none_ => ?nobody, fun ok some_ bad => ?badPlot, fun ok some_ good unset => ?sets, fun q ok some_ good at_ => ?agrees,
    fun ok unset => ⟨exec_rvarr_unset closed found ok unset, exec_rvwait_unset closed found ok unset⟩,
    fun q ok at_ outside => exec_rvarr_outside closed found ok at_ outside,
    fun q ok at_ inside nothing early => ?counts, fun q ok at_ inside nothing last => ?flips,
    fun q ok at_ differs => ?passes, fun q ok at_ same => ?waits⟩
  case nobody => rw [exec_rvinit closed found ok rfl rfl, if_pos none_]
  case badPlot => rw [exec_rvinit closed found ok rfl rfl, if_neg some_, if_pos bad]
  case sets => rw [exec_rvinit closed found ok rfl rfl, if_neg some_, if_neg (by rw [good]; decide), unset]
  case agrees => rw [exec_rvinit closed found ok rfl rfl, if_neg some_, if_neg (by rw [good]; decide), at_]
  case counts => rw [exec_rvarr_arrives closed found ok at_ inside nothing, if_neg early]
  case flips => rw [exec_rvarr_arrives closed found ok at_ inside nothing, if_pos last]
  case passes => rw [exec_rvwait closed found ok at_, if_pos differs]
  case waits => rw [exec_rvwait closed found ok at_, if_neg (not_not.2 same)]

end Sys2Proof.Machine
end

section
/-! Messages and updates (R174, R184-R186): MSG through its checks, and the pairs that UPD, UPDV and UPDFL send, stage or wait
for. -/

namespace Sys2Proof.Machine

open Claims (faults faultsWord memFaults retires opens)

/-! ### MSG (R174) -/

section
variable {s t u : State} {cl : R3} {a : R5} {l : List Seg} {bs : List (Byte × Bool)}

/-- The message that MSG sends: the class, the sender, the bytes read and the poison of each 8 of them. -/
def msgOf (s : State) (cl : R3) (bs : List (Byte × Bool)) : Msg :=
  ⟨cl.toNat, s.ctl .bayxy, BitVec.ofNat 512 (gotNat bs), BitVec.ofNat 8 ((List.range 8).foldl (fun x k =>
    if gotPoison ((bs.drop (8 * k)).take 8) then x + 2 ^ k else x) 0), []⟩

theorem exec_msg_open (open_ : s.fir.region.isSome = true) : exec (.msg cl a) s = faultsWord s 0x11 (.msg cl a) := by
  show execMsg cl a s = _
  unfold execMsg
  exact (outsideRegion_open _ s _ open_).trans (wordFault_eq ..)

variable (closed : s.fir.region = none)
include closed

theorem exec_msg_unformed {f : Flt} (bad : s.loadAddr s.firCtx (s.regs.rg a) 64 = .error f) :
    exec (.msg cl a) s = memFaults s f := by
  show execMsg cl a s = _
  unfold execMsg
  rw [outsideRegion_closed _ s _ closed]
  dsimp only
  rw [bad]
  exact memFault_taken (.inl rfl)

variable (addr : s.loadAddr s.firCtx (s.regs.rg a) 64 = .ok (t, l))
include addr

/-- MSG from a formed address: the alignment and the route are checked before the bytes are read. -/
theorem exec_msg_formed : exec (.msg cl a) s =
    if (s.regs.rg a).toNat % 8 ≠ 0 then faults t 0x0D (s.regs.rg a)
    else if s.classRoute cl.toNat = false then faults t 0x14 (cl.setWidth 64)
    else match t.readVia s.firCtx l with
      | .flt f => memFault false f s
      | .wait v => .next v
      | .ok v bs =>
        if s.routeAccepts s.fir.field (s.handlerBays cl.toNat) = false then .next (s.park .route false)
        else retires { v with msgs := v.msgs ++ (s.handlerBays cl.toNat).map fun b =>
          ⟨s.fir.field, s.fir.inst, b, msgOf s cl bs, s.firCtx.who⟩ } id := by
  show execMsg cl a s = _
  unfold execMsg
  rw [outsideRegion_closed _ s _ closed]
  dsimp only
  rw [addr]
  simp only [Bool.not_eq_true']
  rfl

theorem exec_msg_read (aligned : (s.regs.rg a).toNat % 8 = 0) (route : s.classRoute cl.toNat = true) (may : opens t s.firCtx l) :
    exec (.msg cl a) s =
      if s.routeAccepts s.fir.field (s.handlerBays cl.toNat) = false then .next (s.park .route false)
      else retires { (t.readSegs s.firCtx l).1 with
        msgs := (t.readSegs s.firCtx l).1.msgs ++ (s.handlerBays cl.toNat).map fun b =>
          ⟨s.fir.field, s.fir.inst, b, msgOf s cl (t.readSegs s.firCtx l).2, s.firCtx.who⟩ } id := by
  rw [exec_msg_formed closed addr, if_neg (not_not.2 aligned), if_neg (by rw [route]; decide),
    State.readVia_opens s.firCtx_who may]

end

/-! ### Pairs (R184-R186) -/

section
variable {s t : State} {d a b : R5}

/-- A pair goes on its way behind those sent before it; one of a party without a version goes untagged. -/
theorem State.sendPair_pairs (t : State) (x : Pair) : (t.sendPair x).pairs =
    t.pairs ++ [if (t.inst? x.field x.tag).any Inst.versioned then x else { x with tag := 0 }] := by
  unfold State.sendPair
  extract_lets p u
  split
  · rfl
  · rfl

theorem State.pairOf_window {c : Ctx} {p : Word} {u : State} {e : Ent} {l : List Seg} {v : Nat → Nat} {q : Bool}
    (found : s.entry c (ptrH p) = some (u, e)) (formed : u.addressOf c p (opSize e.op) true = .ok (t, l))
    (touches : segsTouchReg l = true) : s.pairOf c p v q = .error (t.flt c 0x0B p) := by
  unfold State.pairOf
  rw [found]
  dsimp only
  rw [formed]
  exact if_pos touches

theorem exec_upd_unformed {f : Flt}
    (bad : s.pairOf s.firCtx (s.regs.rg a) (updVal (s.regs.rg b).toNat) (s.regs.rgp b) = .error f) :
    exec (.upd a b) s = memFaults s f := by
  show execUpd a b s = _
  unfold execUpd
  dsimp only
  rw [bad]
  exact memFault_taken (.inl rfl)

/-- UPD with its pair formed: sent, or staged in an open region with room. -/
theorem exec_upd {x : Pair} (formed : s.pairOf s.firCtx (s.regs.rg a) (updVal (s.regs.rg b).toNat) (s.regs.rgp b) = .ok (t, x)) :
    exec (.upd a b) s = match s.fir.region with
      | some g => if Config.stageSize ≤ g.staged.length then faults t 0x12 (s.regs.rg a)
          else retires { t with fir := { t.fir with region := some { g with staged := g.staged ++ [x] } } } id
      | none => retires ((t.sendPair x).notePoisonSent s.fir.field s.fir.inst x.poison) id := by
  show execUpd a b s = _
  unfold execUpd
  dsimp only
  rw [formed]
  rfl

theorem exec_updv_unformed {f : Flt}
    (bad : s.updvPairs s.firCtx (s.regs.rg d) (s.regs.rv a) (s.regs.rv b) (s.regs.rvp b) (List.range 64) = .error f) :
    exec (.updv d a b) s = memFaults s f := by
  show execUpdv d a b s = _
  unfold execUpdv
  dsimp only
  rw [bad]
  exact memFault_taken (.inl rfl)

/-- UPDV with its pairs formed: sent, or staged in an open region with room for all. -/
theorem exec_updv {xs : List (Word × Pair)}
    (formed : s.updvPairs s.firCtx (s.regs.rg d) (s.regs.rv a) (s.regs.rv b) (s.regs.rvp b) (List.range 64) = .ok (t, xs)) :
    exec (.updv d a b) s = match s.fir.region with
      | some g =>
        if Config.stageSize < g.staged.length + xs.length then
          faults t 0x12 ((xs.map Prod.fst).getD (Config.stageSize - g.staged.length) 0)
        else retires { t with fir := { t.fir with region := some { g with staged := g.staged ++ xs.map Prod.snd } } } id
      | none => retires (((xs.map Prod.snd).foldl State.sendPair t).notePoisonSent s.fir.field s.fir.inst
          (xs.any fun x => x.2.poison)) id := by
  show execUpdv d a b s = _
  unfold execUpdv
  dsimp only
  rw [formed]
  rfl

theorem exec_updfl (closed : s.fir.region = none) : exec .updfl s =
    if s.pairs.any fun p => p.who == s.firCtx.who then .next (s.park .pairs false) else retires s id := by
  show execUpdfl s = _
  unfold execUpdfl
  exact outsideRegion_closed _ s _ closed

end

/-- Settles O34: MSG through its checks, the updates by whether a region is open and its stage has room. -/
theorem messagesAndUpdates : Obligations.MessagesAndUpdates := by
  unfold Obligations.MessagesAndUpdates
  intro s t cl d a b c p
  refine ⟨fun l closed addr aligned route may => ⟨fun accepts => ?msgSent, fun full => ?msgWaits⟩,
    fun l closed addr odd => ?msgOdd, fun l closed addr aligned lost => ?msgLost, fun f closed bad => exec_msg_unformed closed bad,
    exec_msg_open, fun x closed formed => ?updSent, fun x g open_ room formed => ?updStaged,
    fun x g open_ full formed => ?updFull, fun f bad => exec_upd_unformed bad, fun xs closed formed => ?updvSent,
    fun xs g open_ room formed => ?updvStaged, fun xs g open_ full formed => ?updvFull, fun f bad => exec_updv_unformed bad,
    fun closed none_ => ?flushed, fun closed some_ => ?flushWaits, t.sendPair_pairs,
    fun u e l v q found formed touches => State.pairOf_window found formed touches⟩
  case msgSent =>
    refine ⟨_, (exec_msg_read closed addr aligned route may).trans (if_neg (by rw [accepts]; decide)), rfl, rfl, rfl⟩
  case msgWaits => rw [exec_msg_read closed addr aligned route may, if_pos full]
  case msgOdd => rw [exec_msg_formed closed addr, if_pos odd]
  case msgLost => rw [exec_msg_formed closed addr, if_neg (not_not.2 aligned), if_pos lost]
  case updSent => rw [exec_upd formed, closed]
  case updStaged =>
    rw [exec_upd formed, open_]
    exact if_neg (Nat.not_le.2 room)
  case updFull =>
    rw [exec_upd formed, open_]
    exact if_pos full
  case updvSent => rw [exec_updv formed, closed]
  case updvStaged =>
    rw [exec_updv formed, open_]
    exact if_neg (Nat.not_lt.2 room)
  case updvFull =>
    rw [exec_updv formed, open_]
    exact if_pos full
  case flushed =>
    have idle : s.pairs.any (fun q => q.who == c.who) = false := List.any_eq_false.2 fun q on => by simp [none_ q on]
    rw [exec_updfl closed, idle]
    rfl
  case flushWaits =>
    obtain ⟨q, on, mine⟩ := some_
    have busy : s.pairs.any (fun q => q.who == c.who) = true := List.any_eq_true.2 ⟨q, on, beq_iff_eq.2 mine⟩
    rw [exec_updfl closed, busy]
    rfl

end Sys2Proof.Machine
end

section
/-! Elements, lanes and masks of vector registers (R106, R181, R182): what an element of a register that is built from elements,
merged under a mask or written as a number is, and which bits a mask of lanes has. -/

namespace Sys2Proof.Machine

/-! ### Elements (R181) -/

section
variable {w i j n : Nat} {l : List Nat} {x : VReg}

theorem elem_lt (w : Nat) (x : VReg) (j : Nat) : elem w x j < 2 ^ w := Nat.mod_lt _ (Nat.two_pow_pos w)

theorem elem_mod (w : Nat) (x : VReg) (j : Nat) : elem w x j % 2 ^ w = elem w x j := Nat.mod_eq_of_lt (elem_lt w x j)

theorem testBit_elem : (elem w x j).testBit i = (decide (i < w) && x.getLsbD (w * j + i)) := by
  unfold elem
  rw [Nat.testBit_mod_two_pow, Nat.testBit_shiftRight]
  rfl

/-- An element that lies in the register, of the register that holds a number. -/
theorem elem_ofNat (inside : w * j + w ≤ 2048) : elem w (BitVec.ofNat 2048 n) j = (n >>> (w * j)) % 2 ^ w := by
  refine Nat.eq_of_testBit_eq fun i => ?_
  rw [testBit_elem, Nat.testBit_mod_two_pow, Nat.testBit_shiftRight, BitVec.getLsbD_ofNat]
  by_cases low : i < w
  · rw [decide_eq_true (show w * j + i < 2048 by omega), Bool.true_and]
  · rw [decide_eq_false low, Bool.false_and, Bool.false_and]

/-- The digits in base `2 ^ w` of the number that `ofElems` forms. -/
theorem digit_foldr (l : List Nat) (j : Nat) :
    (l.foldr (fun x a => x % 2 ^ w + 2 ^ w * a) 0) >>> (w * j) % 2 ^ w = l.getD j 0 % 2 ^ w := by
  induction l generalizing j with
  | nil => simp
  | cons x l ih =>
    rw [List.foldr_cons]
    cases j with
    | zero => simp
    | succ j =>
      rw [List.getD_cons_succ, ← ih j, Nat.mul_succ, Nat.add_comm (w * j), Nat.shiftRight_add, Nat.shiftRight_eq_div_pow _ w,
        Nat.add_mul_div_left _ _ (Nat.two_pow_pos w), Nat.div_eq_of_lt (Nat.mod_lt _ (Nat.two_pow_pos w)), Nat.zero_add]

theorem elem_ofElems (inside : w * j + w ≤ 2048) : elem w (ofElems w l) j = l.getD j 0 % 2 ^ w :=
  (elem_ofNat inside).trans (digit_foldr l j)

/-- An element of a register that is written element by element. -/
theorem elem_ofElems_map {f : Nat → Nat} (inside : w * j + w ≤ 2048) (listed : j < n) :
    elem w (ofElems w ((List.range n).map f)) j = f j % 2 ^ w := by
  rw [elem_ofElems inside, List.getD_eq_getElem?_getD, List.getElem?_map, List.getElem?_range listed]
  rfl

/-- Elements are numbered so that each lies in the register. -/
theorem elem_inside (fits : w ∣ 2048) (h : j < 2048 / w) : w * j + w ≤ 2048 :=
  calc w * j + w = w * (j + 1) := rfl
    _ ≤ w * (2048 / w) := Nat.mul_le_mul_left w h
    _ = 2048 := Nat.mul_div_cancel' fits

end

/-! ### Masks of lanes (R106) -/

section
variable {f : Nat → Bool} {m new old : Word} {n i : Nat} {x y : VReg}

theorem getLsbD_foldr_bits (l : List Nat) (f : Nat → Bool) (i : Nat) :
    (l.foldr (fun i a => (if f i then 1 else 0) + 2 * a) 0).testBit i = ((l[i]?).map f).getD false := by
  induction l generalizing i with
  | nil => simp
  | cons j l ih =>
    rw [List.foldr_cons]
    cases i with
    | zero => cases h : f j <;> simp [Nat.testBit_zero, h]
    | succ i =>
      have half : ((if f j then 1 else 0) + 2 * l.foldr (fun i a => (if f i then 1 else 0) + 2 * a) 0) / 2
          = l.foldr (fun i a => (if f i then 1 else 0) + 2 * a) 0 := by split <;> omega
      rw [Nat.testBit_succ, half, ih, List.getElem?_cons_succ]

theorem getLsbD_wordOfBits (h : n < 64) : (wordOfBits f).getLsbD n = f n := by
  unfold wordOfBits
  rw [BitVec.getLsbD_ofNat, getLsbD_foldr_bits, List.getElem?_range h, decide_eq_true h]
  rfl

theorem getLsbD_mergeBits (h : n < 64) :
    (mergeBits m new old).getLsbD n = if m.getLsbD n then new.getLsbD n else old.getLsbD n := by
  unfold mergeBits
  rw [BitVec.getLsbD_or, BitVec.getLsbD_and, BitVec.getLsbD_and, BitVec.getLsbD_not, decide_eq_true h]
  cases m.getLsbD n <;> simp

theorem getLsbD_laneMask (h : i < 2048) : (laneMask m).getLsbD i = m.getLsbD (i / 32) := by
  have bit := testBit_elem (w := 32) (x := laneMask m) (j := i / 32) (i := i % 32)
  rw [decide_eq_true (Nat.mod_lt i (by decide)), Bool.true_and, Nat.div_add_mod] at bit
  rw [← bit, laneMask, elem_ofElems_map (by omega) (by omega), Nat.testBit_mod_two_pow]
  have low : i % 32 < 32 := Nat.mod_lt i (by decide)
  cases m.getLsbD (i / 32)
  · simp
  · rw [if_pos rfl, decide_eq_true low, Bool.true_and]
    exact (Nat.testBit_two_pow_sub_one 32 (i % 32)).trans (decide_eq_true low)

theorem getLsbD_mergeLanes (h : i < 2048) :
    (mergeLanes m x y).getLsbD i = if m.getLsbD (i / 32) then x.getLsbD i else y.getLsbD i := by
  unfold mergeLanes
  split
  next all => rw [all, BitVec.getLsbD_allOnes, decide_eq_true (by omega), if_pos rfl]
  next =>
    rw [BitVec.getLsbD_or, BitVec.getLsbD_and, BitVec.getLsbD_and, BitVec.getLsbD_not, getLsbD_laneMask h, decide_eq_true h]
    cases m.getLsbD (i / 32) <;> simp

/-- A merge takes each element whole: its lane is active or not. -/
theorem elem_mergeLanes {w j : Nat} (fits : w ∣ 32) (h : j < 2048 / w) :
    elem w (mergeLanes m x y) j = if m.getLsbD (j * w / 32) then elem w x j else elem w y j := by
  have inside := elem_inside (fits.trans (by decide)) h
  obtain ⟨c, hc⟩ := fits
  have bits (i : Nat) (low : i < w) : (mergeLanes m x y).getLsbD (w * j + i)
      = if m.getLsbD (j * w / 32) then x.getLsbD (w * j + i) else y.getLsbD (w * j + i) := by
    have pos : 0 < w := by omega
    have lane_ : (w * j + i) / 32 = j * w / 32 := by
      rw [hc, ← Nat.div_div_eq_div_mul, ← Nat.div_div_eq_div_mul, Nat.mul_add_div pos, Nat.div_eq_of_lt low,
        Nat.mul_div_cancel _ pos, Nat.add_zero]
    rw [getLsbD_mergeLanes (by omega), lane_]
  refine Nat.eq_of_testBit_eq fun i => ?_
  rw [testBit_elem]
  by_cases low : i < w
  · rw [bits i low]
    split <;> rw [testBit_elem]
  · split <;> rw [testBit_elem, decide_eq_false low, Bool.false_and, Bool.false_and]

theorem lane_mergeLanes (h : n < 64) : lane (mergeLanes m x y) n = if m.getLsbD n then lane x n else lane y n := by
  unfold lane
  rw [elem_mergeLanes (by decide) h, Nat.mul_div_cancel _ (by decide)]

end

/-! ### Widths of elements -/

theorem ewBits_dvd (t : EW) : ewBits t ∣ 32 := by cases t <;> decide

theorem ewBits_pos (t : EW) : 0 < ewBits t := by cases t <;> decide

theorem width_dvd (t : FT) : (ftFmt t).width ∣ 32 := by cases t <;> decide

end Sys2Proof.Machine
end

section
/-! Vector arithmetic (R187-R189): the one write of major 0x20, 0x21 and the conversions, element by element, and the values of the
integer operations as whole numbers. -/

namespace Sys2Proof.Machine

open Claims (retires wrote active sg VGives FGives)

/-! ### What an instruction writes element by element -/

section
variable {s : State} {w n : Nat} {d a b : R5} {k : R3} {q q' : Word} {i : Instr} {f g : Nat → Nat × BitVec 5}

theorem finish_wrote (s : State) (d : R5) (v : Regs → Word) (q : Regs → Bool) :
    finish s (fun r => r.wg d (v r) (q r)) = wrote s d (v s.regs) (q s.regs) :=
  (finish_congr rfl).trans (finish_wg s d _ q)

theorem finish_wv (s : State) (d : R5) (v : Regs → VReg) (p : Regs → Word) :
    finish s (fun r => r.wv d (v r) (p r)) = retires s fun r => r.wv d (v s.regs) (p s.regs) :=
  (finish_congr rfl).trans (finish_retires fun _ => rfl)

theorem finish_wv_raise (s : State) (d : R5) (v : Regs → VReg) (p : Regs → Word) (fl : BitVec 5) :
    finish s (fun r => (r.wv d (v r) (p r)).raise fl) = retires s fun r => (r.wv d (v s.regs) (p s.regs)).raise fl :=
  (finish_congr rfl).trans (finish_retires fun _ => rfl)

/-- A bit of the flags that a list of steps has raised, when a step keeps what was raised and adds what `P` says. -/
theorem getLsbD_foldl {α : Type} {n : Nat} {step : BitVec 5 → α → BitVec 5} {P : α → Prop}
    (one : ∀ x i, (step x i).getLsbD n = true ↔ x.getLsbD n = true ∨ P i) (l : List α) (x : BitVec 5) :
    (l.foldl step x).getLsbD n = true ↔ x.getLsbD n = true ∨ ∃ i ∈ l, P i := by
  induction l generalizing x with
  | nil => simp
  | cons i l ih => rw [List.foldl_cons, ih, one, List.exists_mem_cons_iff, or_assoc]

/-- No flag is raised at first. -/
theorem getLsbD_noFlags (n : Nat) : (0 : BitVec 5).getLsbD n = false := BitVec.getLsbD_zero

theorem Regs.raise_none (r : Regs) : r.raise 0 = r := congrArg (fun f => { r with flags := f }) BitVec.or_zero

theorem flags_none {fl : BitVec 5} (h : ∀ n, n < 5 → fl.getLsbD n ≠ true) : fl = 0 :=
  BitVec.eq_of_getLsbD_eq fun n hn => (Bool.eq_false_iff.2 (h n hn)).trans (getLsbD_noFlags n).symm

theorem getLsbD_raise (n : Nat) (x y : BitVec 5) : (x ||| y).getLsbD n = true ↔ x.getLsbD n = true ∨ y.getLsbD n = true := by
  rw [BitVec.getLsbD_or, Bool.or_eq_true]

/-- What `vWrite` does: active elements and lanes take their results and poison, the others keep theirs, and the flags are
those of the active elements. -/
theorem vWrite_writes (fits : w ∣ 32) : ∃ v p fl, vWrite w d k f q s = retires s (fun r => (r.wv d v p).raise fl) ∧
    (∀ j, j < 2048 / w → elem w v j = if active s k w j then (f j).1 % 2 ^ w else elem w (s.regs.rv d) j)
    ∧ (∀ n, n < 64 → p.getLsbD n = if (s.regs.rm k).getLsbD n then q.getLsbD n else (s.regs.rvp d).getLsbD n)
    ∧ ∀ n, n < 5 → (fl.getLsbD n = true ↔ ∃ j, j < 2048 / w ∧ active s k w j = true ∧ (f j).2.getLsbD n = true) := by
  refine ⟨_, _, _, finish_wv_raise .., fun j hj => ?value, fun n hn => getLsbD_mergeBits hn, fun n _ => ?flags⟩
  case value =>
    have inside := elem_inside (fits.trans (by decide)) hj
    rw [elem_mergeLanes fits hj, List.map_map, elem_ofElems_map inside hj, active]
    split
    next on => rw [Function.comp_apply, if_pos on]
    next => rfl
  case flags =>
    rw [getLsbD_foldl fun x (r : Nat × BitVec 5) => getLsbD_raise n x r.2, getLsbD_noFlags]
    simp only [Bool.false_eq_true, false_or, List.mem_map, List.mem_range]
    constructor
    · rintro ⟨_, ⟨j, hj, rfl⟩, raised⟩
      by_cases on : (s.regs.rm k).getLsbD (j * w / 32) = true
      · rw [if_pos on] at raised
        exact ⟨j, hj, on, raised⟩
      · rw [if_neg on, getLsbD_noFlags] at raised
        cases raised
    · rintro ⟨j, hj, on, raised⟩
      exact ⟨_, ⟨j, hj, rfl⟩, by rwa [if_pos (show (s.regs.rm k).getLsbD (j * w / 32) = true from on)]⟩

/-- An instruction that writes results with flags element by element. -/
theorem fgives_of_vWrite (form : exec i s = vWrite w d k f q s) (fits : w ∣ 32) (same : ∀ j, j < 2048 / w → f j = g j)
    (poison : q = q') : FGives i s w d k q' g := by
  obtain ⟨v, p, fl, writes, elems, marks, flags⟩ := vWrite_writes (s := s) (d := d) (k := k) (q := q) (f := f) fits
  refine ⟨v, p, fl, form.trans writes, fun j hj => ?_, poison ▸ marks, fun n hn => (flags n hn).trans ?_⟩
  · rw [elems j hj, same j hj]
  · exact exists_congr fun j => and_congr_right fun hj => by rw [same j hj]

/-- An instruction that writes whole numbers element by element, and raises no flag. -/
theorem vgives_of_vWrite {h : Nat → Nat} {P : Nat → Nat → Prop} (form : exec i s = vWrite w d k (fun j => (h j, 0)) q s)
    (fits : w ∣ 32) (value : ∀ j, P j (h j % 2 ^ w)) (poison : q = q') : VGives i s w d k q' P := by
  obtain ⟨v, p, fl, writes, elems, marks, flags⟩ := vWrite_writes (s := s) (d := d) (k := k) (q := q)
    (f := fun j => (h j, 0)) fits
  have none_ : fl = 0 := flags_none fun n hn raised => by
    obtain ⟨j, -, -, on⟩ := (flags n hn).1 raised
    exact absurd on (Bool.eq_false_iff.1 (getLsbD_noFlags n))
  subst none_
  simp only [Regs.raise_none] at writes
  refine ⟨v, p, form.trans writes, fun j hj => ?_, poison ▸ marks⟩
  have value_ := elems j hj
  split
  next on => rw [value_, if_pos on]; exact value j
  next off => rw [value_, if_neg off]

end

/-! ### Whole numbers of a width (R187) -/

section
variable {w x y n : Nat} {z : Int}

theorem sg_mod (w x : Nat) : sg w (x % 2 ^ w) = sg w x :=
  congrArg BitVec.toInt (BitVec.eq_of_toNat_eq (by rw [BitVec.toNat_ofNat, BitVec.toNat_ofNat, Nat.mod_mod]))

theorem sg_lower (w x : Nat) : -2 ^ (w - 1) ≤ sg w x := BitVec.le_toInt _

theorem sg_upper (w x : Nat) : sg w x < 2 ^ (w - 1) := BitVec.toInt_lt

theorem ofInt_mod (w : Nat) (z : Int) : ofInt w z % 2 ^ w = ofInt w z := Nat.mod_eq_of_lt (BitVec.ofInt w z).isLt

/-- The low bits of an integer in the signed range stand for it. -/
theorem sg_ofInt (pos : 0 < w) (lo : -2 ^ (w - 1) ≤ z) (hi : z < 2 ^ (w - 1)) : sg w (ofInt w z) = z := by
  unfold sg ofInt
  rw [BitVec.ofNat_toNat, BitVec.setWidth_eq, BitVec.toInt_ofInt_eq_self pos lo hi]

/-- The number of the low bits of an integer. -/
theorem ofInt_cast (w : Nat) (z : Int) : (ofInt w z : Int) = z % 2 ^ w := by
  unfold ofInt
  rw [BitVec.toNat_ofInt, Int.toNat_of_nonneg (Int.emod_nonneg z (by exact_mod_cast (Nat.two_pow_pos w).ne'))]
  norm_cast

/-- The high half of a product lies in the signed range. -/
theorem sg_mulh (pos : 0 < w) : sg w (ofInt w (sint w x * sint w y / 2 ^ w)) = sg w x * sg w y / 2 ^ w := by
  have xlo := sg_lower w x
  have xhi := sg_upper w x
  have ylo := sg_lower w y
  have yhi := sg_upper w y
  have full : (2 : Int) ^ w = 2 ^ (w - 1) * 2 := by rw [← pow_succ, Nat.sub_add_cancel pos]
  have half : (0 : Int) < 2 ^ (w - 1) := by positivity
  have whole : (0 : Int) < 2 ^ w := by positivity
  refine sg_ofInt pos ((Int.le_ediv_iff_mul_le whole).2 ?lower) ((Int.ediv_lt_iff_lt_mul whole).2 ?upper)
  case lower =>
    change _ ≤ sg w x * sg w y
    rw [full]
    nlinarith
  case upper =>
    change sg w x * sg w y < _
    rw [full]
    nlinarith

theorem sg_sra (pos : 0 < w) : sg w (ofInt w (sint w x / 2 ^ n)) = sg w x / 2 ^ n := by
  have lo := sg_lower w x
  have hi := sg_upper w x
  have half : (0 : Int) < 2 ^ (w - 1) := by positivity
  have by_ : (1 : Int) ≤ 2 ^ n := one_le_pow₀ (by decide)
  refine sg_ofInt pos ((Int.le_ediv_iff_mul_le (by omega)).2 ?lower) ((Int.ediv_lt_iff_lt_mul (by omega)).2 ?upper)
  case lower => exact (show -2 ^ (w - 1) * (2 : Int) ^ n ≤ _ by nlinarith).trans lo
  case upper => exact lt_of_lt_of_le hi (by nlinarith)

theorem ofInt_natAbs (pos : 0 < w) : ofInt w ((sint w x).natAbs : Int) = (sg w x).natAbs := by
  have lo := sg_lower w x
  have hi := sg_upper w x
  have full : (2 : Int) ^ w = 2 ^ (w - 1) * 2 := by rw [← pow_succ, Nat.sub_add_cancel pos]
  have bound : ((sg w x).natAbs : Int) < 2 ^ w := by omega
  have cast := ofInt_cast w ((sg w x).natAbs : Int)
  rw [Int.emod_eq_of_lt (by omega) bound] at cast
  exact_mod_cast cast

theorem sg_satInt (pos : 0 < w) : sg w (ofInt w (satInt w z)) = max (-(2 : Int) ^ (w - 1)) (min ((2 : Int) ^ (w - 1) - 1) z) := by
  have half : (0 : Int) < 2 ^ (w - 1) := by positivity
  exact sg_ofInt pos (le_max_left ..) (by unfold satInt; omega)

theorem sub_wraps (hy : y < 2 ^ w) : (((x + 2 ^ w - y) % 2 ^ w : Nat) : Int) = ((x : Int) - y) % 2 ^ w := by
  rw [Int.natCast_mod, Int.natCast_sub (by omega)]
  push_cast
  rw [show (x : Int) + 2 ^ w - y = x - y + 2 ^ w by ring, Int.add_emod_right]

theorem sg_min : sg w (if sint w y < sint w x then y else x) = min (sg w x) (sg w y) := by
  change sg w (if sg w y < sg w x then y else x) = _
  split <;> omega

theorem sg_max : sg w (if sint w x < sint w y then y else x) = max (sg w x) (sg w y) := by
  change sg w (if sg w x < sg w y then y else x) = _
  split <;> omega

theorem testBit_and_mod (i : Nat) (h : i < w) : ((x &&& y) % 2 ^ w).testBit i = (x.testBit i && y.testBit i) := by
  rw [Nat.testBit_mod_two_pow, decide_eq_true h, Bool.true_and, Nat.testBit_and]
theorem testBit_or_mod (i : Nat) (h : i < w) : ((x ||| y) % 2 ^ w).testBit i = (x.testBit i || y.testBit i) := by
  rw [Nat.testBit_mod_two_pow, decide_eq_true h, Bool.true_and, Nat.testBit_or]
theorem testBit_xor_mod (i : Nat) (h : i < w) : ((x ^^^ y) % 2 ^ w).testBit i = (x.testBit i != y.testBit i) := by
  rw [Nat.testBit_mod_two_pow, decide_eq_true h, Bool.true_and, Nat.testBit_xor]

end

/-! ### Integer arithmetic -/

/-- Settles O35: each instruction writes its results element by element, and each result is the one of whole numbers. -/
theorem vectorInteger : Obligations.VectorInteger := by
  unfold Obligations.VectorInteger
  intro s t d a b k w x y q n
  have fits : w ∣ 32 := ewBits_dvd t
  have pos : 0 < w := ewBits_pos t
  have small (j : Nat) : x j < 2 ^ w := elem_lt ..
  have small' (j : Nat) : y j < 2 ^ w := elem_lt ..
  refine ⟨vgives_of_vWrite rfl fits (fun j => ?add) rfl, vgives_of_vWrite rfl fits (fun j => ?sub) rfl,
    vgives_of_vWrite rfl fits (fun j => ?mul) rfl, vgives_of_vWrite rfl fits (fun j => ?mulh) rfl,
    vgives_of_vWrite rfl fits (fun j => ?and) rfl, vgives_of_vWrite rfl fits (fun j => ?or) rfl,
    vgives_of_vWrite rfl fits (fun j => ?xor) rfl, vgives_of_vWrite rfl fits (fun j => ?sll) rfl,
    vgives_of_vWrite rfl fits (fun j => ?srl) rfl, vgives_of_vWrite rfl fits (fun j => ?sra) rfl,
    vgives_of_vWrite rfl fits (fun j => ?min) rfl, vgives_of_vWrite rfl fits (fun j => ?max) rfl,
    vgives_of_vWrite rfl fits (fun j => ?minu) rfl, vgives_of_vWrite rfl fits (fun j => ?maxu) rfl,
    vgives_of_vWrite rfl fits (fun j => ?abs) BitVec.or_self, vgives_of_vWrite rfl fits (fun j => ?adds) rfl⟩
  case add => exact Nat.mod_mod ..
  case sub => exact (congrArg Nat.cast (Nat.mod_mod ..)).trans (sub_wraps (small' j))
  case mul => exact Nat.mod_mod ..
  case mulh => exact (sg_mod ..).trans (sg_mulh pos)
  case and => exact testBit_and_mod
  case or => exact testBit_or_mod
  case xor => exact testBit_xor_mod
  case sll => exact Nat.mod_mod ..
  case srl => exact Nat.mod_eq_of_lt (lt_of_le_of_lt (Nat.div_le_self ..) (small j))
  case sra => exact (sg_mod ..).trans (sg_sra pos)
  case min => exact (sg_mod ..).trans sg_min
  case max => exact (sg_mod ..).trans sg_max
  case minu => exact Nat.mod_eq_of_lt (lt_of_le_of_lt (Nat.min_le_left ..) (small j))
  case maxu => exact Nat.mod_eq_of_lt (Nat.max_lt.2 ⟨small j, small' j⟩)
  case abs => exact (ofInt_mod ..).trans (ofInt_natAbs pos)
  case adds => exact (sg_mod ..).trans (sg_satInt pos)

end Sys2Proof.Machine
end

section
/-! Floating-point vector arithmetic (R188, R189), compares and mask operations (R190, R191). -/

namespace Sys2Proof.Machine

open Claims (retires active sg VGives FGives wrote)

/-! ### The sign of an element (R188) -/

section
variable {f : Fmt} {x : Nat}

theorem width_pred (f : Fmt) : f.width - 1 = f.eb + f.fb := by
  unfold Fmt.width
  omega

theorem signOp_eq (g : Bool → Bool) : signOp f g x = if (f.decode x).isNan then (f.nan, flagIf (f.decode x).isSig fNV)
    else (x % 2 ^ (f.width - 1) + f.sgn (g (x.testBit (f.width - 1))), 0) := by
  unfold signOp
  rw [width_pred]
  cases f.decode x <;> rfl

/-- The sign bit of an element is the one place in which it and its negation differ. -/
theorem sign_flipped (small : x < 2 ^ f.width) : x % 2 ^ (f.width - 1) + f.sgn (!x.testBit (f.width - 1))
    = if x.testBit (f.width - 1) then x - 2 ^ (f.width - 1) else x + 2 ^ (f.width - 1) := by
  have top : 2 ^ f.width = 2 * 2 ^ (f.width - 1) := by
    rw [← pow_succ']
    unfold Fmt.width
    congr 1
    omega
  unfold Fmt.sgn
  rw [← width_pred]
  cases sign : x.testBit (f.width - 1)
  case true =>
    have ge := Nat.ge_two_pow_of_testBit sign
    rw [Nat.mod_eq_sub_mod ge, Nat.mod_eq_of_lt (by omega)]
    rfl
  case false =>
    have lt : x < 2 ^ (f.width - 1) := by
      by_contra ge
      rw [Nat.testBit_of_two_pow_le_and_two_pow_add_one_gt (by omega) (by rw [pow_succ]; omega)] at sign
      cases sign
    rw [Nat.mod_eq_of_lt lt]
    rfl

end

/-- Settles O36: each instruction writes its results element by element; VFABS and VFNEG change the sign bit alone. -/
theorem vectorFloat : Obligations.VectorFloat := by
  unfold Obligations.VectorFloat
  intro s t d a b k f w m bx x y z q1 q2 q3
  have fits : w ∣ 32 := width_dvd t
  refine ⟨fgives_of_vWrite rfl fits (fun _ _ => rfl) rfl, fgives_of_vWrite rfl fits (fun _ _ => rfl) rfl,
    fgives_of_vWrite rfl fits (fun _ _ => rfl) rfl, fgives_of_vWrite rfl fits (fun _ _ => rfl) rfl,
    fgives_of_vWrite rfl fits (fun _ _ => rfl) rfl, fgives_of_vWrite rfl fits (fun _ _ => rfl) rfl,
    fgives_of_vWrite rfl fits (fun _ _ => rfl) rfl, fgives_of_vWrite rfl fits (fun j _ => ?abs) BitVec.or_self,
    fgives_of_vWrite rfl fits (fun j _ => ?neg) BitVec.or_self, fgives_of_vWrite rfl fits (fun _ _ => rfl) BitVec.or_self,
    fgives_of_vWrite rfl fits (fun _ _ => rfl) BitVec.or_self, fgives_of_vWrite rfl fits (fun _ _ => rfl) BitVec.or_self,
    fgives_of_vWrite rfl fits (fun _ _ => rfl) BitVec.or_self⟩
  case abs => exact signOp_eq _
  case neg =>
    refine (signOp_eq _).trans ?_
    split
    · rfl
    · exact congrArg (·, 0) (sign_flipped (elem_lt ..))

/-! ### Compares (R190) -/

section
variable {s : State} {i : Instr} {w n : Nat} {md ma mb k : R3} {d a b : R5}

theorem getLsbD_flagIf {c : Bool} {f : BitVec 5} : (flagIf c f).getLsbD n = (c && f.getLsbD n) := by
  cases c
  · exact getLsbD_noFlags n
  · rfl

/-- The flags of the elements of each lane, lane after lane. -/
theorem getLsbD_foldl_foldl {α β : Type} (l : List α) (f : α → List β) (g : β → BitVec 5) (x : BitVec 5) :
    (l.foldl (fun x i => (f i).foldl (fun y e => y ||| g e) x) x).getLsbD n = true
      ↔ x.getLsbD n = true ∨ ∃ i ∈ l, ∃ e ∈ f i, (g e).getLsbD n = true :=
  getLsbD_foldl (fun x i => getLsbD_foldl (fun x e => getLsbD_raise n x (g e)) (f i) x) l x

theorem finish_wm (s : State) (md : R3) (v : Regs → Word) :
    finish s (fun r => r.wm md (v r)) = retires s fun r => r.wm md (v s.regs) :=
  (finish_congr rfl).trans (finish_retires fun r => Regs.wm_pc r md _)

theorem finish_wm_raise (s : State) (md : R3) (v : Regs → Word) (fl : BitVec 5) :
    finish s (fun r => (r.wm md (v r)).raise fl) = retires s fun r => (r.wm md (v s.regs)).raise fl :=
  (finish_congr rfl).trans (finish_retires fun r => Regs.wm_pc r md _)

/-- What a compare does for a relation that comes with the invalid flag where `nv` holds. -/
theorem vCompare_compares {g : Nat → Nat → Bool × BitVec 5} {rel nv : Nat → Nat → Bool} (form : exec i s = vCompare w g md a b k s)
    (each : ∀ x y, g x y = (rel x y, flagIf (nv x y) fNV)) :
    ∃ v fl, exec i s = retires s (fun r => (r.wm md v).raise fl) ∧
      (∀ n, n < 64 → v.getLsbD n = if (s.regs.rm k).getLsbD n then
        decide (∀ j, j < 32 / w → rel (elem w (s.regs.rv a) (n * (32 / w) + j)) (elem w (s.regs.rv b) (n * (32 / w) + j)) = true)
        else (s.regs.rm md).getLsbD n)
      ∧ (fl = fNV ∨ fl = 0)
      ∧ (fl = fNV ↔ ∃ n j, n < 64 ∧ (s.regs.rm k).getLsbD n = true ∧ j < 32 / w ∧
          nv (elem w (s.regs.rv a) (n * (32 / w) + j)) (elem w (s.regs.rv b) (n * (32 / w) + j)) = true) := by
  obtain rfl : g = fun x y => (rel x y, flagIf (nv x y) fNV) := funext fun x => funext fun y => each x y
  refine ⟨_, _, form.trans (finish_wm_raise ..), fun n hn => ?bit, ?flags⟩
  case bit =>
    rw [getLsbD_mergeBits hn, getLsbD_wordOfBits hn]
    split
    next on =>
      rw [on, Bool.true_and, List.all_map, Bool.eq_iff_iff, List.all_eq_true, decide_eq_true_iff]
      simp only [List.mem_range, Function.comp_apply]
    next => rfl
  case flags =>
    set raised := ∃ n j, n < 64 ∧ (s.regs.rm k).getLsbD n = true ∧ j < 32 / w ∧
      nv (elem w (s.regs.rv a) (n * (32 / w) + j)) (elem w (s.regs.rv b) (n * (32 / w) + j)) = true
    generalize flags_ : (List.foldl _ 0 _ : BitVec 5) = fl
    have bits (n : Nat) : fl.getLsbD n = true ↔ raised ∧ fNV.getLsbD n = true := by
      rw [← flags_, getLsbD_foldl_foldl, getLsbD_noFlags]
      simp only [Bool.false_eq_true, false_or, List.mem_filter, List.mem_map, List.mem_range, exists_exists_and_eq_and,
        getLsbD_flagIf, Bool.and_eq_true]
      constructor
      · rintro ⟨i, ⟨hi, on⟩, j, hj, hv, bit⟩
        exact ⟨⟨i, j, hi, on, hj, hv⟩, bit⟩
      · rintro ⟨⟨i, j, hi, on, hj, hv⟩, bit⟩
        exact ⟨i, ⟨hi, on⟩, j, hj, hv, bit⟩
    by_cases on : raised
    · obtain rfl : fl = fNV := BitVec.eq_of_getLsbD_eq fun n _ => Bool.eq_iff_iff.2 ((bits n).trans (and_iff_right on))
      exact ⟨.inl rfl, iff_of_true rfl on⟩
    · obtain rfl : fl = 0 := flags_none fun n _ bit => on ((bits n).1 bit).1
      exact ⟨.inr rfl, iff_of_false (by decide) on⟩

theorem vcFp_eq (t : FT) (quiet : Bool) (g : FVal → FVal → Bool) : vcFp t quiet g md a b k s =
    vCompare (ftFmt t).width (fun x y => (g ((ftFmt t).decode x) ((ftFmt t).decode y),
      flagIf (if quiet then ((ftFmt t).decode x).isSig || ((ftFmt t).decode y).isSig
        else ((ftFmt t).decode x).isNan || ((ftFmt t).decode y).isNan) fNV)) md a b k s := rfl

/-- What a mask operation does, bit by bit. -/
theorem maskOp_writes {g : Word → Word → Word} {h : Nat → Bool} (form : exec i s = maskOp g md ma mb k s)
    (bit : ∀ n, n < 64 → (g (s.regs.rm ma) (s.regs.rm mb)).getLsbD n = h n) :
    ∃ v, exec i s = retires s (fun r => r.wm md v)
      ∧ ∀ n, n < 64 → v.getLsbD n = if (s.regs.rm k).getLsbD n then h n else (s.regs.rm md).getLsbD n := by
  refine ⟨_, form.trans (finish_wm s md fun r => mergeBits (r.rm k) (g (r.rm ma) (r.rm mb)) (r.rm md)), fun n hn => ?_⟩
  rw [getLsbD_mergeBits hn, bit n hn]

end

/-- Settles O37: compares lane by lane, mask operations bit by bit, the counts by those of 64 bits. -/
theorem vectorComparesAndMasks : Obligations.VectorComparesAndMasks := by
  unfold Obligations.VectorComparesAndMasks
  intro s t ft md ma mb k d a b mk old cmp w f none2 anySig anyNan mask
  have ints {i : Instr} {rel : Nat → Nat → Bool} (g : Nat → Nat → Nat → Bool) (form : exec i s = vcInt t g md a b k s)
      (each : ∀ x y, g w x y = rel x y) : cmp i w rel none2 :=
    vCompare_compares form fun x y => Prod.ext (each x y) rfl
  have floats {i : Instr} {rel nv : Nat → Nat → Bool} (quiet : Bool) (g : FVal → FVal → Bool)
      (form : exec i s = vcFp ft quiet g md a b k s) (each : ∀ x y, g (f.decode x) (f.decode y) = rel x y)
      (invalid : ∀ x y, (if quiet then anySig x y else anyNan x y) = nv x y) : cmp i f.width rel nv :=
    vCompare_compares (form.trans (vcFp_eq ..)) fun x y => Prod.ext (each x y) (congrArg (flagIf · fNV) (invalid x y))
  have masks {i : Instr} {m : R3} {h : Bool → Bool → Bool} (g : Word → Word → Word) (form : exec i s = maskOp g md ma m k s)
      (bit : ∀ n, n < 64 → (g (s.regs.rm ma) (s.regs.rm m)).getLsbD n = h ((s.regs.rm ma).getLsbD n) ((s.regs.rm mb).getLsbD n)) :
      mask i h := maskOp_writes form bit
  clear_value cmp mask
  refine ⟨ints (fun _ x y => x == y) rfl fun _ _ => rfl, ints (fun _ x y => x != y) rfl fun x y => ?ne,
    ints (fun w x y => decide (sint w x < sint w y)) rfl fun _ _ => rfl,
    ints (fun w x y => decide (sint w x ≤ sint w y)) rfl fun _ _ => rfl, ints (fun _ x y => decide (x < y)) rfl fun _ _ => rfl,
    floats true (fun x y => (x.cmp y).2) rfl (fun _ _ => rfl) fun _ _ => rfl,
    floats false (fun x y => (x.cmp y).1) rfl (fun _ _ => rfl) fun _ _ => rfl,
    floats false (fun x y => (x.cmp y).1 || (x.cmp y).2) rfl (fun _ _ => rfl) fun _ _ => rfl,
    floats true (fun x y => x.isNan || y.isNan) rfl (fun _ _ => rfl) fun _ _ => rfl,
    masks (· &&& ·) rfl fun _ _ => BitVec.getLsbD_and, masks (· ||| ·) rfl fun _ _ => BitVec.getLsbD_or,
    masks (· ^^^ ·) rfl fun _ _ => BitVec.getLsbD_xor, masks (m := ma) (fun x _ => ~~~x) rfl fun n hn => ?not, ?popc, ?first⟩
  case ne => exact (decide_not (p := x = y)).symm
  case not => rw [BitVec.getLsbD_not, decide_eq_true hn, Bool.true_and]
  case popc =>
    have count : popc64 (s.regs.rm ma &&& mk) = ((List.range 64).filter fun n => (s.regs.rm ma).getLsbD n && mk.getLsbD n).length := by
      rw [popc64_eq]
      simp only [BitVec.getLsbD_and]
    rw [← count]
    exact finish_wrote s d (fun r => BitVec.ofNat 64 (popc64 (r.rm ma &&& r.rm k))) fun _ => false
  case first =>
    obtain ⟨le, below, at_⟩ := ctz64_spec (x := s.regs.rm ma &&& mk)
    simp only [BitVec.getLsbD_and] at below at_
    exact ⟨_, finish_wrote s d (fun r => ctz64 (r.rm ma &&& r.rm k)) fun _ => false, le, below, at_⟩

end Sys2Proof.Machine
end

section
/-! Permutes and moves (R192, R198): where each lane of the result comes from. -/

namespace Sys2Proof.Machine

open Claims (retires wrote)

/-! ### What a write of lanes leaves in each lane -/

section
variable {s : State} {d a b : R5} {m : Word} {on q : Nat → Bool} {v : Nat → Nat}

theorem lane_lt (x : VReg) (i : Nat) : lane x i < 2 ^ 32 := elem_lt ..

/-- A write of lanes: those that the mask selects take their value and poison, the others keep theirs. -/
theorem vLanes_gives {f : Nat → Nat} {p : Nat → Bool} (mask : ∀ i, i < 64 → m.getLsbD i = on i)
    (value : ∀ i, i < 64 → f i % 2 ^ 32 = v i) (poison : ∀ i, i < 64 → p i = q i) :
    ∃ r p', vLanes d m f p s = retires s (fun z => z.wv d r p') ∧ ∀ i, i < 64 →
      lane r i = (if on i then v i else lane (s.regs.rv d) i)
      ∧ p'.getLsbD i = (if on i then q i else (s.regs.rvp d).getLsbD i) := by
  refine ⟨_, _, finish_wv .., fun i hi => ⟨?_, ?_⟩⟩
  · rw [lane_mergeLanes hi, mask i hi, lane, elem_ofElems_map (by omega) hi, value i hi]
  · rw [getLsbD_mergeBits hi, mask i hi, getLsbD_wordOfBits hi, poison i hi]

/-- Lanes taken by index from a register. -/
theorem vPick_gives {ix : Nat → Option Nat} {p : Nat → Bool} (mask : ∀ i, i < 64 → m.getLsbD i = on i)
    (value : ∀ i, i < 64 → (ix i).elim 0 (lane (s.regs.rv a)) = v i)
    (poison : ∀ i, i < 64 → (p i || (ix i).elim false (s.regs.rvp a).getLsbD) = q i) :
    ∃ r p', vPick d a m ix p s = retires s (fun z => z.wv d r p') ∧ ∀ i, i < 64 →
      lane r i = (if on i then v i else lane (s.regs.rv d) i)
      ∧ p'.getLsbD i = (if on i then q i else (s.regs.rvp d).getLsbD i) := by
  refine vLanes_gives mask (fun i hi => ?_) poison
  rw [← value i hi]
  refine Nat.mod_eq_of_lt ?_
  cases ix i
  · exact Nat.two_pow_pos 32
  · exact lane_lt ..

theorem elim_ite {α β : Type} (c : Prop) [Decidable c] (x : α) (y : β) (f : α → β) :
    (if c then some x else none).elim y f = if c then f x else y := by
  split <;> rfl

theorem elim_ite_bool (c : Prop) [Decidable c] (x : Nat) (f : Nat → Bool) :
    (if c then some x else none).elim false f = (decide c && f x) := by
  by_cases h : c <;> simp [h]

end

/-- Settles O38: each form by the lane that an index names, or by the value it writes to every lane. -/
theorem permutesAndMoves : Obligations.PermutesAndMoves := by
  unfold Obligations.PermutesAndMoves
  intro s d a b k mk x xp n g gives before act
  have self (i : Nat) (_ : i < 64) : mk.getLsbD i = mk.getLsbD i := rfl
  have all (i : Nat) (hi : i < 64) : (BitVec.allOnes 64).getLsbD i = true := by
    rw [BitVec.getLsbD_allOnes, decide_eq_true hi]
  have low (i : Nat) (_ : i < 64) : wget (s.regs.rg a) 31 0 % 2 ^ 32 = g := Nat.mod_mod ..
  have count (i : Nat) : ((activeLanes mk).filter (· < i)).length = before i := by
    unfold activeLanes
    rw [List.filter_filter]
    simp only [before, Bool.and_comm]
  refine ⟨vPick_gives self (fun _ _ => rfl) fun _ _ => rfl,
    vPick_gives self (fun i _ => elim_ite ..) fun i _ => congrArg _ (elim_ite_bool ..),
    vPick_gives self (fun i _ => elim_ite ..) fun i _ => congrArg _ (elim_ite_bool ..),
    vPick_gives self (fun _ _ => rfl) fun _ _ => rfl,
    vPick_gives all (fun _ _ => rfl) fun _ _ => Bool.false_or _,
    vPick_gives self (fun i _ => congrArg x (count i)) fun i _ => (Bool.false_or _).trans (congrArg xp (count i)),
    ?sel, vLanes_gives self low fun _ _ => rfl, ?get, vLanes_gives (fun i hi => ?put) low fun _ _ => rfl,
    vLanes_gives self (fun _ _ => Nat.mod_mod ..) fun _ _ => rfl, vPick_gives self (fun _ _ => rfl) fun _ _ => Bool.false_or _⟩
  case sel =>
    refine ⟨_, _, finish_wv .., fun i hi => ⟨?_, ?_⟩⟩
    · exact (lane_mergeLanes hi).trans (if_pos rfl).symm
    · exact (getLsbD_mergeBits hi).trans (if_pos rfl).symm
  case get => exact finish_wrote ..
  case put =>
    rw [BitVec.getLsbD_and, getLsbD_wordOfBits hi]
    rfl

end Sys2Proof.Machine
end

section
/-! Conversions (R89, R91-R95, R193, R194): the narrowing and widening forms, and the blocks of 32 values that lie in the 64-byte
parts of a register. -/

namespace Sys2Proof.Machine

open Claims (retires sg FGives)

/-! ### Narrowing (R193) -/

section
variable {s : State} {i : Instr} {w h j n : Nat} {d a : R5} {k : R3}

/-- The lane of an element, by the number of elements in a lane. -/
theorem lane_of_elem (fits : w ∣ 32) (j : Nat) : j * w / 32 = j / (32 / w) := by
  obtain ⟨c, hc⟩ := fits
  have pos : 0 < w := Nat.pos_of_ne_zero fun zero => by simp [zero] at hc
  rw [hc, Nat.mul_div_cancel_left _ pos, Nat.mul_comm j w, Nat.mul_div_mul_left _ _ pos]

/-- The lanes of part `h` of a register hold its elements `64 * h` to `64 * h + 63`. -/
theorem part_lanes (fits : w ∣ 32) : (64 * h / (32 / w) ≤ j / (32 / w) ∧ j / (32 / w) < 64 * h / (32 / w) + 64 / (32 / w))
    ↔ 64 * h ≤ j ∧ j < 64 * h + 64 := by
  have pos : 0 < 32 / w := Nat.div_pos (Nat.le_of_dvd (by decide) fits) (Nat.pos_of_dvd_of_pos fits (by decide))
  obtain ⟨e, he⟩ : 32 / w ∣ 64 := (Nat.div_dvd_of_dvd fits).trans (by decide)
  rw [Nat.le_div_iff_mul_le pos, Nat.div_lt_iff_lt_mul pos]
  generalize 32 / w = c at *
  rw [he, Nat.mul_assoc, Nat.mul_div_cancel_left _ pos, Nat.mul_div_cancel_left _ pos, Nat.add_mul, Nat.mul_comm e c,
    Nat.mul_comm (e * h) c]

/-- A part of a register that lies in it: a bit of the mask of its lanes, at the lane of an element. -/
theorem getLsbD_part (fits : w ∣ 32) (hj : j < 2048 / w) (m : Word) :
    (m &&& wordOfBits fun i => decide (64 * h / (32 / w) ≤ i) && decide (i < 64 * h / (32 / w) + 64 / (32 / w))).getLsbD
      (j / (32 / w)) = (m.getLsbD (j * w / 32) && decide (64 * h ≤ j ∧ j < 64 * h + 64)) := by
  have low : j / (32 / w) < 64 := by
    have := elem_inside (fits.trans (by decide)) hj
    have pos := Nat.pos_of_dvd_of_pos fits (by decide)
    rw [← lane_of_elem fits, Nat.div_lt_iff_lt_mul (by decide)]
    nlinarith
  rw [BitVec.getLsbD_and, getLsbD_wordOfBits low, ← Bool.decide_and, decide_eq_decide.2 (part_lanes fits), lane_of_elem fits]

/-- What a narrowing form does: 64 lanes give the elements of one part of the destination, under the mask. -/
theorem vNarrow_writes {g : Nat → Nat → Nat × BitVec 5} {c : Nat → Nat × BitVec 5} {q : Bool}
    (form : exec i s = vNarrow w h g d a k q s) (fits : w ∣ 32) (inside : 64 * h + 64 ≤ 2048 / w)
    (each : ∀ x, g s.regs.rmode.toNat x = c x) :
    ∃ v p fl, exec i s = retires s (fun r => (r.wv d v p).raise fl)
      ∧ (∀ j, j < 2048 / w → elem w v j =
          if (s.regs.rm k).getLsbD (j * w / 32) ∧ 64 * h ≤ j ∧ j < 64 * h + 64
          then (c (lane (s.regs.rv a) (j - 64 * h))).1 % 2 ^ w else elem w (s.regs.rv d) j)
      ∧ ∀ n, n < 5 → (fl.getLsbD n = true ↔ ∃ j, j < 64 ∧ (s.regs.rm k).getLsbD ((64 * h + j) * w / 32) = true
          ∧ (c (lane (s.regs.rv a) j)).2.getLsbD n = true) := by
  obtain rfl : g s.regs.rmode.toNat = c := funext each
  refine ⟨_, _, _, form.trans (finish_wv_raise ..), fun j hj => ?value, fun n _ => ?flags⟩
  case value =>
    rw [elem_mergeLanes fits hj, lane_of_elem fits j, getLsbD_part fits hj, List.map_map,
      elem_ofElems_map (elem_inside (fits.trans (by decide)) hj) hj, Function.comp_apply, getLsbD_part fits hj,
      lane_of_elem fits j]
    simp only [Bool.and_eq_true, decide_eq_true_eq]
    split <;> rfl
  case flags =>
    rw [getLsbD_foldl fun x (r : Nat × BitVec 5) => getLsbD_raise n x r.2, getLsbD_noFlags]
    simp only [Bool.false_eq_true, false_or, List.mem_map, List.mem_range, exists_exists_and_eq_and]
    constructor
    · rintro ⟨j, hj, raised⟩
      rw [getLsbD_part fits hj] at raised
      split at raised
      next on =>
        rw [Bool.and_eq_true, decide_eq_true_eq] at on
        obtain ⟨on, lo, hi⟩ := on
        exact ⟨j - 64 * h, by omega, by rwa [Nat.add_sub_cancel' lo], raised⟩
      next => exact absurd raised (Bool.eq_false_iff.1 (getLsbD_noFlags n))
    · rintro ⟨j, hj, on, raised⟩
      refine ⟨64 * h + j, by omega, ?_⟩
      rw [getLsbD_part fits (by omega), on, Bool.true_and, if_pos (decide_eq_true ⟨by omega, by omega⟩), Nat.add_sub_cancel_left]
      exact raised

end

/-! ### Bytes of a register (R5, R193) -/

section
variable {l : List Byte} {j r : Nat}

/-- The number that bytes form, by its digits. -/
theorem leNat_eq (l : List Byte) : leNat l = (l.map BitVec.toNat).foldr (fun x a => x % 2 ^ 8 + 2 ^ 8 * a) 0 := by
  induction l with
  | nil => rfl
  | cons b l ih =>
    rw [leNat, ih, List.map_cons, List.foldr_cons, Nat.mod_eq_of_lt b.isLt]
    rfl

theorem digit_leNat (l : List Byte) (j : Nat) : leNat l >>> (8 * j) % 2 ^ 8 = (l.getD j 0).toNat := by
  rw [leNat_eq, digit_foldr]
  by_cases inside : j < l.length
  · simpa [List.getD_eq_getElem?_getD, List.getElem?_map, List.getElem?_eq_getElem inside] using l[j].isLt
  · simp [List.getD_eq_getElem?_getD, List.getElem?_map, List.getElem?_eq_none (Nat.le_of_not_lt inside)]

/-- A byte of a register that is built from a list of bytes which starts at byte `128 * h`. -/
theorem elem_bytes {h : Nat} {bs : List Nat} (lo : 128 * h ≤ j) (hi : j < 256) :
    elem 8 (BitVec.ofNat 2048 (leNat (bs.map (BitVec.ofNat 8)) * 2 ^ (1024 * h))) j = bs.getD (j - 128 * h) 0 % 256 := by
  have split_ : 8 * j = 1024 * h + 8 * (j - 128 * h) := by omega
  rw [elem_ofNat (by omega), split_, Nat.shiftRight_add, Nat.shiftRight_eq_div_pow (_ * _), Nat.mul_div_cancel _ (Nat.two_pow_pos _),
    digit_leNat]
  by_cases inside : j - 128 * h < bs.length
  · simp [List.getD_eq_getElem?_getD, List.getElem?_map, List.getElem?_eq_getElem inside]
  · simp [List.getD_eq_getElem?_getD, List.getElem?_map, List.getElem?_eq_none (Nat.le_of_not_lt inside)]

theorem getD_pad {bs : List Nat} (n : Nat) : (bs ++ List.replicate n 0).getD j 0 = bs.getD j 0 := by
  by_cases inside : j < bs.length
  · exact List.getD_append _ _ _ _ inside
  · rw [List.getD_append_right _ _ _ _ (Nat.le_of_not_lt inside), List.getD_eq_default bs 0 (Nat.le_of_not_lt inside)]
    by_cases low : j - bs.length < n
    · exact List.getD_replicate 0 low
    · exact List.getD_eq_default _ _ (by simpa using low)

theorem length_pad {bs : List Nat} (h : bs.length ≤ 64) : (bs ++ List.replicate (64 - bs.length) 0).length = 64 := by
  rw [List.length_append, List.length_replicate]
  omega

/-- Two blocks in the 64-byte parts of 128 bytes: a byte is one of its part's block. -/
theorem getD_blocks {b : Nat → List Nat} (short : ∀ n, (b n).length ≤ 64) (h : r < 128) :
    ((b 0 ++ List.replicate (64 - (b 0).length) 0) ++ (b 1 ++ List.replicate (64 - (b 1).length) 0)).getD r 0
      = (b (r / 64)).getD (r % 64) 0 := by
  by_cases low : r < 64
  · rw [List.getD_append _ _ _ _ (by rwa [length_pad (short 0)]), getD_pad, Nat.div_eq_of_lt low, Nat.mod_eq_of_lt low]
  · rw [List.getD_append_right _ _ _ _ (by rw [length_pad (short 0)]; omega), length_pad (short 0), getD_pad,
      show r / 64 = 1 by omega, show r % 64 = r - 64 by omega]

end

/-! ### Blocks (R91-R94, R193) -/

section
variable {s : State} {i : Instr} {h : Nat} {d a : R5} {k : R3} {q : Bool}

/-- What a block encoder does: two blocks of at most 64 bytes in a half of the destination, under the mask. -/
theorem vBlockEnc_writes {blk : List FVal → List Nat × BitVec 5} (form : exec i s = vBlockEnc h blk d a k q s) (half : h < 2)
    (short : ∀ xs, xs.length = 32 → (blk xs).1.length ≤ 64) :
    ∃ v p fl, exec i s = retires s (fun r => (r.wv d v p).raise fl) ∧ ∀ o, o < 256 → elem 8 v o =
      if (s.regs.rm k).getLsbD (o / 4) ∧ o / 128 = h then
        ((blk ((List.range 32).map fun l => F32.decode (lane (s.regs.rv a) (32 * (o / 64 % 2) + l)))).1.getD (o % 64) 0) % 256
      else elem 8 (s.regs.rv d) o := by
  refine ⟨_, _, _, form.trans (finish_wv_raise ..), fun o ho => ?_⟩
  rw [elem_mergeLanes (by decide) ho, show o * 8 / 32 = o / 4 by omega, BitVec.getLsbD_and, getLsbD_wordOfBits (by omega),
    show o / 4 / 32 = o / 128 by omega]
  simp only [Bool.and_eq_true, beq_iff_eq]
  split
  next on =>
    obtain ⟨-, rfl⟩ := on
    rw [elem_bytes (by omega) ho]
    have bytes := getD_blocks (r := o - 128 * (o / 128)) (b := fun b =>
      (blk ((List.range 32).map fun l => F32.decode (lane (s.regs.rv a) (32 * b + l)))).1) (fun n => short _ (by simp)) (by omega)
    rw [show (o - 128 * (o / 128)) / 64 = o / 64 % 2 by omega, show (o - 128 * (o / 128)) % 64 = o % 64 by omega] at bytes
    rw [← bytes]
    simp only [List.flatMap_cons, List.flatMap_nil, List.append_nil]
  next => rfl

/-- Two decoded blocks of 32 values one after the other. -/
theorem getD_twoBlocks {b : Nat → List (Nat × BitVec 5)} {j : Nat} (full : ∀ n, (b n).length = 32) (hj : j < 64) :
    (b 0 ++ b 1).getD j (0, 0) = (b (j / 32)).getD (j % 32) (0, 0) := by
  by_cases low : j < 32
  · rw [List.getD_append _ _ _ _ (by rwa [full]), Nat.div_eq_of_lt low, Nat.mod_eq_of_lt low]
  · rw [List.getD_append_right _ _ _ _ (by rw [full]; omega), full, show j / 32 = 1 by omega, show j % 32 = j - 32 by omega]

/-- What a block decoder does: 32 values from each of the two blocks of a half. -/
theorem vBlockDec_gives {n : Nat} {blk : List Nat → List FVal} {at_ : Nat → Nat} (form : exec i s = vBlockDec h n blk at_ d a k q s)
    (full : ∀ bs, bs.length = n → (blk bs).length = 32) : ∃ q', FGives i s 32 d k q' (fun j =>
      ((blk ((List.range n).map fun o => elem 8 (s.regs.rv a) (128 * h + 64 * (j / 32) + o))).map fun v => F32.ofVal 0 v).getD
        (j % 32) (0, 0)) := by
  refine ⟨_, fgives_of_vWrite form (by decide) (fun j hj => ?_) rfl⟩
  exact getD_twoBlocks (b := fun b => (blk ((List.range n).map fun o => elem 8 (s.regs.rv a) (128 * h + 64 * b + o))).map
    fun v => F32.ofVal 0 v) (fun b => by rw [List.length_map]; exact full _ (by simp)) hj

theorem length_nibbles_le : ∀ l : List Nat, (nibbles l).length ≤ l.length
  | [] => Nat.le_refl 0
  | [_] => Nat.le_refl 1
  | _ :: _ :: l => by
    have := length_nibbles_le l
    simp only [nibbles, List.length_cons]
    omega

theorem length_unnibble (l : List Nat) : (unnibble l).length = 2 * l.length := by
  unfold unnibble
  induction l with
  | nil => rfl
  | cons b l ih =>
    rw [List.flatMap_cons, List.length_append, ih, List.length_cons]
    simp only [List.length_cons, List.length_nil]
    omega

/-- An MXFP4 block takes one byte for its scale and at most one for each of its values. -/
theorem length_e2m1Block_le (xs : List FVal) : (e2m1Block xs).1.length ≤ 1 + xs.length := by
  have scale : (e2m1Encode xs).1.length = 1 ∧ (e2m1Encode xs).2.1.length = xs.length := by
    unfold e2m1Encode
    split
    · exact ⟨rfl, List.length_map ..⟩
    · exact ⟨rfl, by simp only [List.length_map]⟩
  have codes := length_nibbles_le (e2m1Encode xs).2.1
  unfold e2m1Block
  rw [List.length_append]
  omega

/-- A BX block takes two bytes for its exponents and at most one for each of its values. -/
theorem length_bxEncode_le (t : BXT) (e : Nat) (xs : List FVal) : (bxEncode t e xs).1.length ≤ 2 + xs.length := by
  have pack (x y : Nat) (es : List Nat) (same : es.length = xs.length) :
      ([x, y] ++ match t with | .bx8 => es | .bx4 => nibbles es).length ≤ 2 + xs.length := by
    have := length_nibbles_le es
    cases t <;> simp only [List.length_append, List.length_cons, List.length_nil] <;> omega
  unfold bxEncode
  extract_lets pack_ mx body
  have bodies (e0 : Nat) : (body e0).1.length ≤ 2 + xs.length := pack _ _ _ (by simp only [List.length_map])
  split
  · exact pack _ _ _ (List.length_map ..)
  · split
    · exact bodies _
    · split
      · exact pack _ _ _ (List.length_map ..)
      · exact bodies _

theorem length_e2m1Decode {bs : List Nat} (h : bs.length = 17) : (e2m1Decode bs).length = 32 := by
  unfold e2m1Decode
  rw [List.length_map, length_unnibble, List.length_drop, h]

theorem length_bxDecode (t : BXT) {bs : List Nat} (h : bs.length = bxSize t) : (bxDecode t bs).length = 32 := by
  unfold bxDecode
  cases t
  · rw [List.length_map, List.length_take, List.length_drop, h]
    rfl
  · rw [List.length_map, List.length_take, length_unnibble, List.length_drop, h]
    rfl

end

/-- Settles O39: the lane forms element by element, the narrowing forms by the part that they write, the block forms by the bytes
and values of their blocks. -/
theorem conversions : Obligations.Conversions := by
  unfold Obligations.Conversions
  intro s d a b h h2 bt k m mk x q g narrow wide enc dec
  have one : h.toNat < 2 := h.isLt
  have two : h2.toNat < 4 := h2.isLt
  have bit4 : wget g 4 4 < 2 := Nat.mod_lt _ (by decide)
  have bit32 : wget g 32 32 < 2 := Nat.mod_lt _ (by decide)
  have bits33 : wget g 33 32 < 4 := Nat.mod_lt _ (by decide)
  have narrows {i : Instr} {w h : Nat} {c : Nat → Nat × BitVec 5} (g : Nat → Nat → Nat × BitVec 5) (p : Bool)
      (form : exec i s = vNarrow w h g d a k p s) (fits : w ∣ 32) (inside : 64 * h + 64 ≤ 2048 / w) (each : ∀ x, g m x = c x) :
      narrow i w h c := vNarrow_writes form fits inside each
  have wides {i : Instr} {w h : Nat} (c : Nat → Nat × BitVec 5) (form : exec i s = vWiden w h c d a k s) : wide i w h c :=
    ⟨_, fgives_of_vWrite form (by decide) (fun _ _ => rfl) rfl⟩
  have encs {i : Instr} {h : Nat} (blk : List FVal → List Nat × BitVec 5) (p : Bool) (form : exec i s = vBlockEnc h blk d a k p s)
      (half : h < 2) (short : ∀ xs, (blk xs).1.length ≤ 2 + xs.length) : enc i h blk :=
    vBlockEnc_writes form half fun xs full => (short xs).trans (by omega)
  have decs {i : Instr} {h n : Nat} (blk : List Nat → List FVal) (at_ : Nat → Nat) (p : Bool)
      (form : exec i s = vBlockDec h n blk at_ d a k p s) (full : ∀ bs, bs.length = n → (blk bs).length = 32) : dec i h n blk :=
    vBlockDec_gives form full
  clear_value narrow wide enc dec
  refine ⟨fgives_of_vWrite rfl (by decide) (fun _ _ => rfl) rfl, fgives_of_vWrite rfl (by decide) (fun _ _ => rfl) rfl,
    narrows (fun m x => BF16.ofVal m (F32.decode x)) false rfl (by decide) (by omega) fun _ => rfl,
    wides (fun x => F32.ofVal 0 (BF16.decode x)) rfl,
    narrows (fun m x => F16.ofVal m (F32.decode x)) false rfl (by decide) (by omega) fun _ => rfl,
    wides (fun x => F32.ofVal 0 (F16.decode x)) rfl,
    narrows (fun _ x => (ofInt 8 (satInt 8 (sint 32 x)), 0)) false rfl (by decide) (by omega) fun _ => rfl,
    wides (fun x => (ofInt 32 (sint 8 x), 0)) rfl,
    encs e2m1Block false rfl one fun xs => (length_e2m1Block_le xs).trans (by omega),
    decs e2m1Decode (fun i => 1 + i / 2) false rfl fun _ => length_e2m1Decode,
    encs (bxEncode bt (if wget g 3 0 = 0 then 6 else wget g 3 0)) (s.regs.rgp b) rfl bit4 fun xs => length_bxEncode_le _ _ xs,
    decs (bxDecode bt) (fun i => match bt with | .bx8 => 2 + i | .bx4 => 2 + i / 2) (s.regs.rgp b) rfl fun _ => length_bxDecode bt,
    narrows (fun _ x => qnt 8 (F32.decode x) (scaleRcp (wget g 31 0))) (s.regs.rgp b) rfl (by decide) (by omega) fun _ => rfl,
    narrows (fun _ x => qnt 16 (F32.decode x) (scaleRcp (wget g 31 0))) (s.regs.rgp b) rfl (by decide) (by omega) fun _ => rfl⟩

end Sys2Proof.Machine
end

section
/-! Reductions (R103, R195): the lane that holds the result, sums and products of integers, the least and the largest element, and
the first of the largest. -/

namespace Sys2Proof.Machine

open Claims (retires sg active)

/-! ### Folds over the active elements -/

section
variable {op : Int → Int → Int} {le : Int → Int → Prop} {a : Int} {l : List Int}

theorem foldl_add_map {α : Type} (f : α → Int) (l : List α) (a : Int) : l.foldl (fun x p => x + f p) a = a + (l.map f).sum := by
  induction l generalizing a with
  | nil => simp
  | cons p l ih => rw [List.foldl_cons, ih, List.map_cons, List.sum_cons, add_assoc]

/-- An operation that picks the better of two gives the best of a list and the value that it starts from. -/
theorem foldl_best (refl : ∀ x, le x x) (trans : ∀ {x y z}, le x y → le y z → le x z) (left : ∀ x y, le (op x y) x)
    (right : ∀ x y, le (op x y) y) (picks : ∀ x y, op x y = x ∨ op x y = y) :
    le (l.foldl op a) a ∧ (∀ x ∈ l, le (l.foldl op a) x) ∧ (l.foldl op a = a ∨ l.foldl op a ∈ l) := by
  induction l generalizing a with
  | nil => exact ⟨refl a, fun _ h => absurd h List.not_mem_nil, .inl rfl⟩
  | cons b l ih =>
    obtain ⟨first, rest, pick⟩ := ih (a := op a b)
    rw [List.foldl_cons]
    refine ⟨trans first (left a b), fun x hx => ?_, ?_⟩
    · rcases List.mem_cons.1 hx with rfl | hx
      · exact trans first (right a x)
      · exact rest x hx
    · rcases pick with pick | pick
      · rw [pick]
        exact (picks a b).imp id fun e => List.mem_cons.2 (.inl e)
      · exact .inr (List.mem_cons_of_mem b pick)

/-- The best of some values that are no better than the one the fold starts from is one of them, when there is one. -/
theorem foldl_best_map {js : List Nat} {x : Nat → Int} (refl : ∀ x, le x x) (trans : ∀ {x y z}, le x y → le y z → le x z)
    (anti : ∀ {x y}, le x y → le y x → x = y) (left : ∀ x y, le (op x y) x) (right : ∀ x y, le (op x y) y)
    (picks : ∀ x y, op x y = x ∨ op x y = y) (worst : ∀ j ∈ js, le (x j) a) :
    (∀ j ∈ js, le ((js.map x).foldl op a) (x j))
      ∧ ((∃ j ∈ js, x j = (js.map x).foldl op a) ∨ (js = [] ∧ (js.map x).foldl op a = a)) := by
  obtain ⟨-, bounds, pick⟩ := foldl_best (a := a) (l := js.map x) refl trans left right picks
  have bounds (j : Nat) (hj : j ∈ js) := bounds (x j) (List.mem_map_of_mem hj)
  refine ⟨bounds, ?_⟩
  rcases pick with pick | pick
  · rcases js with _ | ⟨j, js⟩
    · exact .inr ⟨rfl, pick⟩
    · have hj : j ∈ j :: js := List.mem_cons_self ..
      exact .inl ⟨j, hj, anti (pick.symm ▸ worst j hj) (bounds j hj)⟩
  · obtain ⟨j, hj, e⟩ := List.mem_map.1 pick
    exact .inl ⟨j, hj, e⟩

/-- The first of the largest elements of a list in ascending order. -/
theorem argMax_first {x : Nat → Int} {js : List Nat} (sorted : js.Pairwise (· < ·)) :
    match argMax (js.map fun j => (j, x j)) with
    | none => js = []
    | some y => y.2 = x y.1 ∧ y.1 ∈ js ∧ (∀ j ∈ js, x j ≤ x y.1) ∧ ∀ j ∈ js, x j = x y.1 → y.1 ≤ j := by
  induction js with
  | nil => rfl
  | cons j js ih =>
    obtain ⟨first, sorted⟩ := List.pairwise_cons.1 sorted
    have rest := ih sorted
    rw [List.map_cons, argMax]
    revert rest
    cases argMax (js.map fun j => (j, x j)) with
    | none =>
      rintro rfl
      simp
    | some y =>
      rintro ⟨value, on, most, least⟩
      dsimp only
      by_cases better : x j < y.2
      · rw [if_pos better]
        refine ⟨value, List.mem_cons_of_mem j on, fun i hi => ?_, fun i hi e => ?_⟩
        · rcases List.mem_cons.1 hi with rfl | hi
          · omega
          · exact most i hi
        · rcases List.mem_cons.1 hi with rfl | hi
          · omega
          · exact least i hi e
      · rw [if_neg better]
        refine ⟨rfl, List.mem_cons_self .., fun i hi => ?_, fun i hi _ => ?_⟩
        · rcases List.mem_cons.1 hi with rfl | hi
          · exact Int.le_refl _
          · have := most i hi
            show x i ≤ x j
            omega
        · rcases List.mem_cons.1 hi with rfl | hi
          · exact Nat.le_refl _
          · exact Nat.le_of_lt (first i hi)

/-- The number that a reduction to the first of the largest elements gives, `n` when there is none. -/
theorem argMax_elim {x : Nat → Int} {js : List Nat} {n r : Nat} (sorted : js.Pairwise (· < ·))
    (result : (argMax (js.map fun j => (j, x j))).elim n Prod.fst = r) :
    (js = [] → r = n) ∧ (js ≠ [] → r ∈ js ∧ (∀ j ∈ js, x j ≤ x r) ∧ ∀ j ∈ js, x j = x r → r ≤ j) := by
  have found := argMax_first (x := x) sorted
  revert found result
  cases argMax (js.map fun j => (j, x j)) with
  | none =>
    rintro rfl none_
    exact ⟨fun _ => rfl, fun some_ => absurd none_ some_⟩
  | some y =>
    rintro rfl ⟨-, on, most, least⟩
    exact ⟨fun none_ => absurd (none_ ▸ on) List.not_mem_nil, fun _ => ⟨on, most, least⟩⟩

end

/-! ### The result of a reduction -/

section
variable {s : State} {i : Instr} {w : Nat} {d a b : R5} {k : R3} {q : Word}

/-- What a reduction writes: its result in lane 0, poisoned by any active source lane, and its flags. -/
theorem vReduce_writes {res : Nat × BitVec 5} (form : exec i s = vReduce d b k res a s) (poison : s.regs.rvp a ||| s.regs.rvp b = q) :
    exec i s = retires s fun r => (r.wv d (BitVec.ofNat 2048 (res.1 % 2 ^ 32)) (if q &&& s.regs.rm k = 0 then 0 else 1)).raise res.2 := by
  have mark : bit64 (decide ((s.regs.rvp a ||| s.regs.rvp b) &&& s.regs.rm k ≠ 0)) = if q &&& s.regs.rm k = 0 then 0 else 1 := by
    subst poison
    by_cases none_ : (s.regs.rvp a ||| s.regs.rvp b) &&& s.regs.rm k = 0
    · rw [if_pos none_, decide_eq_false (not_not.2 none_)]
      rfl
    · rw [if_neg none_, decide_eq_true none_]
      rfl
  rw [form, ← mark]
  exact finish_wv_raise s d (fun _ => BitVec.ofNat 2048 (res.1 % 2 ^ 32)) _ res.2

theorem pairwise_actives (w : Nat) (m : Word) : (actives w m).Pairwise (· < ·) :=
  List.pairwise_lt_range.sublist List.filter_sublist

theorem lt_of_mem_actives {j : Nat} {m : Word} (h : j ∈ actives w m) : j < 2048 / w :=
  List.mem_range.1 (List.mem_filter.1 h).1

/-- An integer of the signed range of an element stands in the result's lane. -/
theorem sg_result {t : EW} {z : Int} (range : -2 ^ (ewBits t - 1) ≤ z ∧ z ≤ 2 ^ (ewBits t - 1) - 1) :
    sg 32 (ofInt 32 z % 2 ^ 32) = z := by
  rw [ofInt_mod]
  have wide : (2 : Int) ^ (ewBits t - 1) ≤ 2 ^ 31 := pow_le_pow_right₀ (by decide) (by cases t <;> decide)
  refine sg_ofInt (by decide) ?_ ?_ <;> omega

theorem cast_result (z : Int) : ((ofInt 32 z % 2 ^ 32 : Nat) : Int) = z % 2 ^ 32 := by
  rw [ofInt_mod, ofInt_cast]

theorem sg_range (t : EW) (x : Nat) : -2 ^ (ewBits t - 1) ≤ sg (ewBits t) x ∧ sg (ewBits t) x ≤ 2 ^ (ewBits t - 1) - 1 :=
  ⟨sg_lower .., Int.le_sub_one_of_lt (sg_upper ..)⟩

end

/-- Settles O40: sums and products as whole numbers, the best element of a fold, and the floating-point forms by the sum that the
drawn order gives. -/
theorem reductions : Obligations.Reductions := by
  unfold Obligations.Reductions
  intro s t f d a b k w js fm fs x y vx vy red qa qb
  have one {i : Instr} {res : Nat × BitVec 5} {P : Nat → Prop} (form : exec i s = vReduce d a k res a s) (value : P (res.1 % 2 ^ 32)) :
      red i qa P res.2 := ⟨_, Nat.mod_lt _ (by decide), vReduce_writes form BitVec.or_self, value⟩
  have two {i : Instr} {res : Nat × BitVec 5} {P : Nat → Prop} (form : exec i s = vReduce d b k res a s) (value : P (res.1 % 2 ^ 32)) :
      red i qb P res.2 := ⟨_, Nat.mod_lt _ (by decide), vReduce_writes form rfl, value⟩
  clear_value red
  have range (j : Nat) : -2 ^ (w - 1) ≤ x j ∧ x j ≤ 2 ^ (w - 1) - 1 := sg_range t _
  have edge : -2 ^ (w - 1) ≤ (2 : Int) ^ (w - 1) - 1 := by
    have : (0 : Int) < 2 ^ (w - 1) := by positivity
    omega
  have sum : (activeInts t k a s).foldl (· + ·) 0 = (js.map x).sum := by
    rw [foldl_add_map (fun z => z), Int.zero_add, List.map_id']
    rfl
  have dots : ((activeInts t k a s).zip (activeInts t k b s)).foldl (fun x p => x + p.1 * p.2) 0 = (js.map fun j => x j * y j).sum := by
    rw [foldl_add_map fun p : Int × Int => p.1 * p.2, Int.zero_add, activeInts, activeInts, List.zip_map', List.map_map]
    rfl
  have products : ((activeVals fm k a s).zip (activeVals fm k b s)).map (fun p => p.1.mul p.2) = fs.map fun j => (vx j).mul (vy j) := by
    rw [activeVals, activeVals, List.zip_map', List.map_map]
    rfl
  refine ⟨one (res := (ofInt 32 _, 0)) rfl ?sum, two (res := (ofInt 32 _, 0)) rfl ?dot, one (res := (ofInt 32 _, 0)) rfl ?min,
    one (res := (ofInt 32 _, 0)) rfl ?max, one (res := (_, 0)) rfl ?first, one rfl rfl, ?fdot, one rfl rfl, one rfl rfl⟩
  case sum => rw [sum]; exact cast_result _
  case dot => rw [dots]; exact cast_result _
  case fdot =>
    rw [← products]
    exact two rfl rfl
  case min =>
    obtain ⟨bounds, best⟩ := foldl_best_map (js := js) (x := x) (op := min) (le := (· ≤ ·)) (a := 2 ^ (w - 1) - 1) Int.le_refl
      Int.le_trans Int.le_antisymm min_le_left min_le_right min_choice fun j _ => (range j).2
    have z : sg 32 (ofInt 32 ((js.map x).foldl min (2 ^ (w - 1) - 1)) % 2 ^ 32) = (js.map x).foldl min (2 ^ (w - 1) - 1) := by
      refine sg_result (t := t) ?_
      rcases best with ⟨j, -, e⟩ | ⟨-, e⟩
      · exact e ▸ range j
      · exact e.symm ▸ ⟨edge, Int.le_refl _⟩
    exact z.symm ▸ ⟨bounds, best⟩
  case max =>
    obtain ⟨bounds, best⟩ := foldl_best_map (js := js) (x := x) (op := max) (le := (· ≥ ·)) (a := -2 ^ (w - 1)) Int.le_refl
      (fun h h' => Int.le_trans h' h) (fun h h' => Int.le_antisymm h' h) le_max_left le_max_right max_choice fun j _ => (range j).1
    have z : sg 32 (ofInt 32 ((js.map x).foldl max (-2 ^ (w - 1))) % 2 ^ 32) = (js.map x).foldl max (-2 ^ (w - 1)) := by
      refine sg_result (t := t) ?_
      rcases best with ⟨j, -, e⟩ | ⟨-, e⟩
      · exact e ▸ range j
      · exact e.symm ▸ ⟨Int.le_refl _, edge⟩
    exact z.symm ▸ ⟨bounds, best⟩
  case first =>
    have pairs : js.zip (activeInts t k a s) = js.map fun j => (j, x j) := by
      have zip := List.zip_map' (f := id) (g := x) (l := js)
      rwa [List.map_id] at zip
    generalize result : (argMax (js.map fun j => (j, x j))).elim 0xFFFFFFFF Prod.fst = r
    obtain ⟨none_, some_⟩ := argMax_elim (pairwise_actives w (s.regs.rm k)) result
    have small : r < 2 ^ 32 := by
      by_cases e : js = []
      · rw [none_ e]
        decide
      · exact (lt_of_mem_actives (some_ e).1).trans_le ((Nat.div_le_self ..).trans (by decide))
    have value : (argMax (js.zip (activeInts t k a s))).elim 0xFFFFFFFF Prod.fst % 2 ^ 32 = r := by
      rw [pairs, result]
      exact Nat.mod_eq_of_lt small
    exact value ▸ ⟨none_, some_⟩

end Sys2Proof.Machine
end

section
/-! Vector loads and stores (R196, R197): the addresses of the active lanes in ascending order, the bytes of each lane, and what the
forwarding table and the scoreboard let through. -/

namespace Sys2Proof.Machine

open Claims (retires faultsWord memFaults opens roomy held)

/-! ### The addresses of the lanes (R196) -/

section
variable {s t u : State} {c : Ctx} {p : Word} {wr : Bool} {off : Nat → Int} {i : Nat} {ls : List Nat} {l : List Seg}

theorem offsetAdd_moved {x : Int} (h : Claims.fits p x) : offsetAdd p x = some (Claims.moved p x) := by
  have fit := movePtr_fits h
  unfold movePtr at fit
  split at fit
  next q e => rw [e, Except.ok.inj fit]
  next => cases fit

theorem State.laneAddrs_out (out : ¬ Claims.fits p (off i)) : s.laneAddrs c p wr off [i] = .error (s.flt c 0x08 p) := by
  rw [State.laneAddrs, offsetAdd_leaves out]

theorem State.laneAddrs_unformed {f : Flt} (fit : Claims.fits p (off i))
    (bad : (if wr then s.storeAddr c (Claims.moved p (off i)) 4 else s.loadAddr c (Claims.moved p (off i)) 4) = .error f) :
    s.laneAddrs c p wr off [i] = .error f := by
  rw [State.laneAddrs, offsetAdd_moved fit]
  dsimp only
  rw [bad]

theorem State.laneAddrs_formed (fit : Claims.fits p (off i))
    (addr : (if wr then s.storeAddr c (Claims.moved p (off i)) 4 else s.loadAddr c (Claims.moved p (off i)) 4) = .ok (u, l)) :
    s.laneAddrs c p wr off [i] = if (l.map Seg.addr).headD 0 % 4 ≠ 0 then .error (u.flt c 0x0D (Claims.moved p (off i)))
      else .ok (u, l) := by
  rw [State.laneAddrs, offsetAdd_moved fit]
  dsimp only
  rw [addr]
  dsimp only
  split
  · rfl
  · rw [State.laneAddrs]
    simp only [List.append_nil]

/-- The lowest lane comes first: its fault is the access's, and the other lanes follow from the state that it leaves. -/
theorem State.laneAddrs_cons : s.laneAddrs c p wr off (i :: ls) = match s.laneAddrs c p wr off [i] with
    | .error f => .error f
    | .ok (u, x) => (u.laneAddrs c p wr off ls).map fun r => (r.1, x ++ r.2) := by
  simp only [State.laneAddrs]
  cases offsetAdd p (off i) with
  | none => rfl
  | some q =>
    dsimp only
    cases (if wr then s.storeAddr c q 4 else s.loadAddr c q 4) with
    | error f => rfl
    | ok r =>
      obtain ⟨u, x⟩ := r
      dsimp only
      split
      · rfl
      · simp only [List.append_nil]
        cases u.laneAddrs c p wr off ls <;> rfl

/-- Forming the addresses leaves the firing in the issue stage as it is. -/
theorem State.fir_of_laneAddrs (h : s.laneAddrs c p wr off ls = .ok (u, l)) : u.fir = s.fir :=
  (ok_upholds (State.laneAddrs_upholds (State.upholds_refl (fix := true) s) c p wr off ls) h).1

end

/-! ### The bytes of a lane -/

/-- The bytes of lane `n` among those loaded: four for each active lane, lowest first. -/
def nthLane (m : Word) (bs : List (Byte × Bool)) (n : Nat) : List (Byte × Bool) :=
  (bs.drop (4 * ((List.range n).filter fun j => m.getLsbD j).length)).take 4

theorem findAt_append {α : Type} {p : α → Bool} {l r : List α} {a : α} (none_ : ∀ x ∈ l, p x = false) (here : p a = true) :
    findAt p (l ++ a :: r) = some (l.length, a) := by
  induction l with
  | nil => exact if_pos here
  | cons x l ih =>
    obtain ⟨first, rest⟩ := List.forall_mem_cons.1 none_
    rw [List.cons_append, findAt, if_neg (by rw [first]; decide), ih rest]
    rfl

theorem laneOf_active {m : Word} {bs : List (Byte × Bool)} {n : Nat} (h : n < 64) (on : m.getLsbD n = true) :
    laneOf ((List.range 64).filter m.getLsbD) bs n = nthLane m bs n := by
  obtain ⟨k, hk⟩ : ∃ k, 64 = n + (k + 1) := ⟨63 - n, by omega⟩
  have lanes : List.range 64 = List.range n ++ n :: (List.range k).map fun j => n + (j + 1) := by
    rw [congrArg List.range hk, List.range_add, List.range_succ_eq_map, List.map_cons, List.map_map]
    rfl
  have here : findAt (· == n) ((List.range 64).filter m.getLsbD) = some (((List.range n).filter m.getLsbD).length, n) := by
    rw [lanes, List.filter_append, List.filter_cons_of_pos on]
    refine findAt_append (fun x hx => ?_) (beq_self_eq_true n)
    have := List.mem_range.1 (List.mem_filter.1 hx).1
    exact beq_eq_false_iff_ne.2 (by omega)
  unfold laneOf
  rw [here]
  rfl

theorem getLsbD_allLanes {b : Bool} {n : Nat} (h : n < 64) : (allLanes b).getLsbD n = b := by
  cases b
  · exact BitVec.getLsbD_zero
  · exact BitVec.getLsbD_allOnes.trans (decide_eq_true h)

theorem mergeLanes_none (x y : VReg) : mergeLanes 0 x y = y :=
  BitVec.eq_of_getLsbD_eq fun i hi => by rw [getLsbD_mergeLanes hi]; exact if_neg (by simp)

theorem mergeBits_none (x y : Word) : mergeBits 0 x y = y :=
  BitVec.eq_of_getLsbD_eq fun i hi => by rw [getLsbD_mergeBits hi]; exact if_neg (by simp)

theorem Regs.wv_self (r : Regs) (d : R5) : r.wv d (r.rv d) (r.rvp d) = r := by
  unfold Regs.wv Regs.rv Regs.rvp
  simp

/-! ### Loads -/

section
variable {s t : State} {i : Instr} {d b c : R5} {k : R3} {o : BitVec 4} {off : Nat → Int} {q : Word} {l : List Seg} {f : Flt}

theorem memFault_load (f : Flt) (s : State) : memFault true f s
    = if f.code = 0x0A ∧ s.fir.region.isSome then .next (s.regionPage f) else memFaults s f := by
  split
  next page => exact memFault_page page.1 page.2
  next other =>
    refine memFault_taken (.inr ?_)
    by_cases code : f.code = 0x0A
    · exact .inr (Option.not_isSome_iff_eq_none.1 fun open_ => other ⟨code, open_⟩)
    · exact .inl code

theorem vLoad_unformed (form : exec i s = vLoad d b k o off q s)
    (bad : s.laneAddrs s.firCtx (s.regs.rg b) false (fun n => 256 * (o.toNat : Int) + off n)
      ((List.range 64).filter fun n => (s.regs.rm k).getLsbD n) = .error f) :
    exec i s = if f.code = 0x0A ∧ s.fir.region.isSome then .next (s.regionPage f) else memFaults s f := by
  rw [form, ← memFault_load]
  unfold vLoad vLoad.activeLanes'
  dsimp only
  rw [bad]

/-- A vector load whose bytes may be read now: each active lane takes the bytes of its own address, with their poison and that
of the address. -/
theorem vLoad_reads {ix : Nat → Bool} (form : exec i s = vLoad d b k o off q s) (poison : ∀ n, n < 64 → q.getLsbD n = ix n)
    (addr : s.laneAddrs s.firCtx (s.regs.rg b) false (fun n => 256 * (o.toNat : Int) + off n)
      ((List.range 64).filter fun n => (s.regs.rm k).getLsbD n) = .ok (t, l)) (may : opens t s.firCtx l) :
    ∃ v p, exec i s = retires (t.readSegs s.firCtx l).1 (fun z => z.wv d v p) ∧ ∀ n, n < 64 →
      lane v n = (if (s.regs.rm k).getLsbD n then gotNat (nthLane (s.regs.rm k) (t.readSegs s.firCtx l).2 n) % 2 ^ 32
        else lane ((t.readSegs s.firCtx l).1.regs.rv d) n)
      ∧ p.getLsbD n = (if (s.regs.rm k).getLsbD n then gotPoison (nthLane (s.regs.rm k) (t.readSegs s.firCtx l).2 n)
          || (t.readSegs s.firCtx l).1.regs.rgp b || ix n else ((t.readSegs s.firCtx l).1.regs.rvp d).getLsbD n) := by
  have read : exec i s = finish (t.readSegs s.firCtx l).1 fun r => r.wv d
      (mergeLanes (s.regs.rm k) (ofElems 32 ((List.range 64).map fun i => gotNat (laneOf ((List.range 64).filter (s.regs.rm k).getLsbD)
        (t.readSegs s.firCtx l).2 i))) (r.rv d))
      (mergeBits (s.regs.rm k) (wordOfBits fun i => gotPoison (laneOf ((List.range 64).filter (s.regs.rm k).getLsbD)
        (t.readSegs s.firCtx l).2 i) || r.rgp b || q.getLsbD i) (r.rvp d)) := by
    rw [form]
    unfold vLoad vLoad.activeLanes'
    dsimp only
    rw [addr]
    dsimp only
    rw [State.readVia_opens s.firCtx_who may]
  refine ⟨_, _, read.trans (finish_wv ..), fun n hn => ⟨?_, ?_⟩⟩
  · rw [lane_mergeLanes hn, lane, elem_ofElems_map (by omega) hn]
    split
    next on => rw [laneOf_active hn on]
    next => rfl
  · rw [getLsbD_mergeBits hn, getLsbD_wordOfBits hn, poison n hn]
    split
    next on => rw [laneOf_active hn on]
    next => rfl

/-- VLDB forms one address, for all lanes, when a lane is active. -/
theorem execVldb_unformed (on : s.regs.rm k ≠ 0)
    (bad : s.laneAddrs s.firCtx (s.regs.rg b) false (fun _ => 256 * (o.toNat : Int)) [0] = .error f) :
    exec (.vldb d b k o) s = if f.code = 0x0A ∧ s.fir.region.isSome then .next (s.regionPage f) else memFaults s f := by
  rw [← memFault_load]
  show execVldb d b k o s = _
  unfold execVldb
  dsimp only
  rw [if_neg on, bad]

theorem execVldb_reads (on : s.regs.rm k ≠ 0)
    (addr : s.laneAddrs s.firCtx (s.regs.rg b) false (fun _ => 256 * (o.toNat : Int)) [0] = .ok (t, l)) (may : opens t s.firCtx l) :
    ∃ v p, exec (.vldb d b k o) s = retires (t.readSegs s.firCtx l).1 (fun z => z.wv d v p) ∧ ∀ n, n < 64 →
      lane v n = (if (s.regs.rm k).getLsbD n then gotNat (t.readSegs s.firCtx l).2 % 2 ^ 32
        else lane ((t.readSegs s.firCtx l).1.regs.rv d) n)
      ∧ p.getLsbD n = (if (s.regs.rm k).getLsbD n then gotPoison (t.readSegs s.firCtx l).2 || (t.readSegs s.firCtx l).1.regs.rgp b
          else ((t.readSegs s.firCtx l).1.regs.rvp d).getLsbD n) := by
  have read : exec (.vldb d b k o) s = finish (t.readSegs s.firCtx l).1 fun r => r.wv d
      (mergeLanes (s.regs.rm k) (ofElems 32 ((List.range 64).map fun _ => gotNat (t.readSegs s.firCtx l).2)) (r.rv d))
      (mergeBits (s.regs.rm k) (allLanes (gotPoison (t.readSegs s.firCtx l).2 || r.rgp b)) (r.rvp d)) := by
    show execVldb d b k o s = _
    unfold execVldb
    dsimp only
    rw [if_neg on, addr]
    dsimp only
    rw [State.readVia_opens s.firCtx_who may]
  refine ⟨_, _, read.trans (finish_wv ..), fun n hn => ⟨?_, ?_⟩⟩
  · rw [lane_mergeLanes hn, lane, elem_ofElems_map (by omega) hn]
  · rw [getLsbD_mergeBits hn, getLsbD_allLanes hn]

theorem State.readVia_nil (slices : s.slices = []) (pairs : s.pairs = []) (b a : Nat) (c : Ctx) (who : c.who = .actor b a) :
    s.readVia c [] = .ok s [] := by
  have free : s.sbBlocks c [] = false := by
    simp [State.sbBlocks, State.portBlocks, State.frozenAt, State.heldBlocks, who, State.afterHeld, laps, State.inWindow]
  rw [State.readVia_opens who ⟨free, fun x hx => absurd hx List.not_mem_nil⟩, readSegs_noPairs slices pairs]
  rfl

/-- VLDB without an active lane makes no access. -/
theorem execVldb_none (off_ : s.regs.rm k = 0) (slices : s.slices = []) (pairs : s.pairs = []) :
    exec (.vldb d b k o) s = retires s id := by
  show execVldb d b k o s = _
  unfold execVldb
  dsimp only
  rw [off_, if_pos rfl, State.laneAddrs]
  dsimp only
  rw [State.readVia_nil slices pairs _ _ _ s.firCtx_who]
  dsimp only
  simp only [mergeLanes_none, mergeBits_none, Regs.wv_self]
  rfl

end

/-! ### Stores -/

section
variable {s t u : State} {i : Instr} {d b : R5} {k : R3} {o : BitVec 4} {off : Nat → Int} {l : List Seg} {f : Flt}

/-- The bytes of the active lanes of a register, lowest lane first. -/
def laneBytes (s : State) (d : R5) (k : R3) : List (Byte × Bool) :=
  ((List.range 64).filter fun n => (s.regs.rm k).getLsbD n).flatMap fun n =>
    putBytes 4 (lane (s.regs.rv d) n) ((s.regs.rvp d).getLsbD n)

theorem vStore_region (form : exec i s = vStore d b k o off i s) (open_ : s.fir.region.isSome = true) (high : 1 < ptrH (s.regs.rg b)) :
    exec i s = faultsWord s 0x11 i := by
  rw [← wordFault_eq, form]
  exact storeAllowed_never open_ high

variable (form : exec i s = vStore d b k o off i s) (may : s.fir.region = none ∨ ptrH (s.regs.rg b) ≤ 1)
include form may

theorem vStore_unformed (bad : s.laneAddrs s.firCtx (s.regs.rg b) true (fun n => 256 * (o.toNat : Int) + off n)
      ((List.range 64).filter fun n => (s.regs.rm k).getLsbD n) = .error f) : exec i s = memFaults s f := by
  rw [form]
  refine (storeAllowed_may may).trans ?_
  dsimp only
  rw [bad]
  exact memFault_taken (.inl rfl)

variable (addr : s.laneAddrs s.firCtx (s.regs.rg b) true (fun n => 256 * (o.toNat : Int) + off n)
  ((List.range 64).filter fun n => (s.regs.rm k).getLsbD n) = .ok (t, l))
include addr

theorem vStore_stores (stored : t.issueStore s.firCtx (ptrH (s.regs.rg b)) l (laneBytes s d k) = .ok u) : exec i s = retires u id := by
  rw [form]
  refine (storeAllowed_may may).trans ?_
  dsimp only
  rw [addr]
  dsimp only
  rw [← laneBytes, stored]
  rfl

theorem vStore_waits (waits : t.issueStore s.firCtx (ptrH (s.regs.rg b)) l (laneBytes s d k) = .wait u) : exec i s = .next u := by
  rw [form]
  refine (storeAllowed_may may).trans ?_
  dsimp only
  rw [addr]
  dsimp only
  rw [← laneBytes, waits]

omit may form in
theorem bay_of_laneAddrs : s.firCtx.bay = t.fir.bay := by
  rw [s.firCtx_bay, State.fir_of_laneAddrs addr]

theorem vStore_opens (now : opens t s.firCtx l) (room : roomy t) : exec i s = retires (t.writeSegs s.firCtx l (laneBytes s d k)) id :=
  vStore_stores form may addr (State.issueStore_opens _ (by rw [bay_of_laneAddrs addr]; exact room) now)

theorem vStore_held (room : roomy t) (blocked : t.sbBlocks s.firCtx l = true) : held i s t l (laneBytes s d k) :=
  exec_held (ptrH (s.regs.rg b)) s.firCtx_bay (State.fir_of_laneAddrs addr)
    (vStore_stores form may addr (State.issueStore_blocked _ (by rw [bay_of_laneAddrs addr]; exact room) blocked))

theorem vStore_full (full : ¬ roomy t) : exec i s = .next t :=
  vStore_waits form may addr (State.issueStore_full _ (by rw [bay_of_laneAddrs addr]; exact full))

end

/-- Settles O41: loads and stores by whether their lane addresses are formed, VLDB by whether a lane is active. -/
theorem vectorMemory : Obligations.VectorMemory := by
  unfold Obligations.VectorMemory
  intro s t d b c k o l mk p act base r nth loads stores loadFaults one idx
  have load {i : Instr} {q : Word} (off : Nat → Int) {ix : Nat → Bool} (form : exec i s = vLoad d b k o off q s)
      (poison : ∀ n, n < 64 → q.getLsbD n = ix n) : loads i off ix := fun addr may => vLoad_reads form poison addr may
  have loadFault {i : Instr} {q : Word} (off : Nat → Int) (form : exec i s = vLoad d b k o off q s) : loadFaults i off act :=
    fun f bad => vLoad_unformed form bad
  have store {i : Instr} (off : Nat → Int) (form : exec i s = vStore d b k o off i s) : stores i off := fun may =>
    ⟨fun addr => vStore_opens form may addr, fun addr => vStore_held form may addr, fun addr => vStore_full form may addr,
      fun f bad => vStore_unformed form may bad⟩
  have each (wr : Bool) (off : Nat → Int) : one wr off := fun i =>
    ⟨State.laneAddrs_out (off := fun n => base + off n), fun fit =>
      ⟨fun f => State.laneAddrs_unformed (off := fun n => base + off n) fit, fun u x => State.laneAddrs_formed (off := fun n => base + off n) fit⟩⟩
  refine ⟨load _ rfl fun n _ => BitVec.getLsbD_zero, load _ rfl fun n hn => getLsbD_allLanes hn, load _ rfl fun n _ => rfl,
    store _ rfl, store _ rfl, execVldb_reads, execVldb_none, fun on f bad => ?broadcast, loadFault _ rfl, loadFault _ rfl, loadFault _ rfl,
    fun open_ high => ⟨vStore_region rfl open_ high, vStore_region rfl open_ high⟩, fun wr => ⟨each wr _, each wr _, each wr _⟩,
    fun wr off i ls => State.laneAddrs_cons⟩
  case broadcast =>
    simp only [Int.add_zero] at bad
    exact execVldb_unformed on bad

end Sys2Proof.Machine
end

section
/-! T5 bytes (R96, R199) and tile predicates (R200): five trits a byte, the fault of a byte that is no code, and the accesses of
ZLD and ZST. -/

namespace Sys2Proof.Machine

open Claims (retires wrote sg active faults faultsWord memFaults opens)

/-! ### Packing (R96) -/

section
variable {s : State} {d a : R5} {h : BitVec 3} {k : R3} {x : VReg} {o : Nat}

/-- A byte of a register is a byte of its lane. -/
theorem elem_of_lane (x : VReg) (o : Nat) : elem 8 x o = lane x (o / 4) >>> (8 * (o % 4)) % 2 ^ 8 := by
  refine Nat.eq_of_testBit_eq fun i => ?_
  rw [Nat.testBit_mod_two_pow, Nat.testBit_shiftRight, lane, testBit_elem, testBit_elem]
  by_cases low : i < 8
  · rw [decide_eq_true low, decide_eq_true (show 8 * (o % 4) + i < 32 by omega), Bool.true_and, Bool.true_and, Bool.true_and,
      show 32 * (o / 4) + (8 * (o % 4) + i) = 8 * o + i by omega]
  · rw [decide_eq_false low, Bool.false_and, Bool.false_and]

/-- Four bytes of a lane. -/
theorem byte_leNat {f : Nat → Nat} {r : Nat} (hr : r < 4) :
    (leNat ((List.range 4).map fun q => BitVec.ofNat 8 (f q)) % 2 ^ 32) >>> (8 * r) % 2 ^ 8 = f r % 256 := by
  have low : (leNat ((List.range 4).map fun q => BitVec.ofNat 8 (f q)) % 2 ^ 32) >>> (8 * r) % 2 ^ 8
      = leNat ((List.range 4).map fun q => BitVec.ofNat 8 (f q)) >>> (8 * r) % 2 ^ 8 := by
    refine Nat.eq_of_testBit_eq fun i => ?_
    simp only [Nat.testBit_mod_two_pow, Nat.testBit_shiftRight]
    by_cases low : i < 8
    · rw [decide_eq_true (show 8 * r + i < 32 by omega), Bool.true_and]
    · rw [decide_eq_false low, Bool.false_and, Bool.false_and]
  rw [low, digit_leNat, List.getD_eq_getElem?_getD, List.getElem?_map, List.getElem?_range hr]
  exact BitVec.toNat_ofNat ..

theorem tritOf_elem (x : VReg) (j : Nat) : tritOf (elem 8 x j) = if elem 8 x j = 0 then 0 else if elem 8 x j < 128 then 1 else 2 := by
  unfold tritOf
  rw [show elem 8 x j % 256 = elem 8 x j from elem_mod 8 x j]

theorem tritOf_le (e : Nat) : tritOf e ≤ 2 := by
  unfold tritOf
  split
  · omega
  · split <;> omega

/-- The byte that five trits make. -/
theorem t5Pack_five (f : Nat → Nat) :
    t5Pack ((List.range 5).map f) = f 0 + 3 * f 1 + 9 * f 2 + 27 * f 3 + 81 * f 4 := by
  show f 0 + 3 * (f 1 + 3 * (f 2 + 3 * (f 3 + 3 * (f 4 + 3 * 0)))) = _
  omega

theorem getLsbD_groupMask {i h : Nat} (hi : i < 64) : (groupMask h).getLsbD i = (i / 12 == h) := getLsbD_wordOfBits hi

/-- T5PK packs five elements a byte into the lanes of its group. -/
theorem execT5pk_packs : ∃ r q, exec (.t5pk d a h k) s = retires s (fun z => z.wv d r q) ∧ ∀ o, o < 256 → elem 8 r o =
    if (s.regs.rm k).getLsbD (o / 4) ∧ o / 48 = h.toNat
    then t5Pack ((List.range 5).map fun i => tritOf (elem 8 (s.regs.rv a) (5 * (o % 48) + i))) else elem 8 (s.regs.rv d) o := by
  refine ⟨_, _, finish_wv .., fun o ho => ?_⟩
  rw [elem_mergeLanes (by decide) ho, show o * 8 / 32 = o / 4 by omega, BitVec.getLsbD_and, getLsbD_groupMask (by omega),
    show o / 4 / 12 = o / 48 by omega]
  simp only [Bool.and_eq_true, beq_iff_eq]
  split
  next on =>
    obtain ⟨-, group⟩ := on
    rw [elem_of_lane, lane, elem_ofElems_map (by omega) (by omega), byte_leNat (Nat.mod_lt o (by decide)),
      show 4 * (o / 4 - 12 * h.toNat) + o % 4 = o % 48 by omega, t5Pack_five]
    refine Nat.mod_eq_of_lt ?_
    have code (j : Nat) := tritOf_le (elem 8 (s.regs.rv a) (5 * (o % 48) + j))
    have := code 0
    have := code 1
    have := code 2
    have := code 3
    have := code 4
    omega
  next => rfl

end

/-! ### Unpacking and counting (R199) -/

section
variable {s : State} {d a : R5} {h : BitVec 3} {k : R3} {v : VReg} {g j : Nat}

theorem t5Digits_eq (b : Nat) : t5Digits b = (List.range 5).map fun i => b / 3 ^ i % 3 := by
  show [b % 3, b / 3 % 3, b / 9 % 3, b / 27 % 3, b / 81 % 3] = [b / 3 ^ 0 % 3, b / 3 ^ 1 % 3, b / 3 ^ 2 % 3, b / 3 ^ 3 % 3, b / 3 ^ 4 % 3]
  norm_num

/-- Rows of five in order. -/
theorem flatMap_fives {α : Type} (f : Nat → Nat → α) (n : Nat) : ((List.range n).flatMap fun j => (List.range 5).map (f j))
    = (List.range (5 * n)).map fun e => f (e / 5) (e % 5) := by
  induction n with
  | zero => rfl
  | succ n ih =>
    rw [List.range_succ (n := n), List.flatMap_append, ih, List.flatMap_singleton, Nat.mul_succ, List.range_add, List.map_append, List.map_map]
    congr 1
    refine List.map_congr_left fun i hi => ?_
    have := List.mem_range.1 hi
    rw [Function.comp_apply, show (5 * n + i) / 5 = n by omega, show (5 * n + i) % 5 = i by omega]

/-- The trits of a group in order: that of element `e` is digit `e % 5` of byte `e / 5`. -/
theorem t5Trits_eq (v : VReg) (g : Nat) :
    t5Trits v g = (List.range 240).map fun e => elem 8 v (48 * g + e / 5) / 3 ^ (e % 5) % 3 := by
  unfold t5Trits
  simp only [t5Digits_eq]
  exact flatMap_fives (fun j i => elem 8 v (48 * g + j) / 3 ^ i % 3) 48

theorem getD_t5Trits (v : VReg) (g e : Nat) :
    (t5Trits v g).getD e 0 = if e < 240 then elem 8 v (48 * g + e / 5) / 3 ^ (e % 5) % 3 else 0 := by
  rw [t5Trits_eq, List.getD_eq_getElem?_getD, List.getElem?_map]
  split
  next inside => rw [List.getElem?_range inside]; rfl
  next outside => rw [List.getElem?_eq_none (by rw [List.length_range]; omega)]; rfl

theorem count_t5Trits (v : VReg) (g n : Nat) : (t5Trits v g).count n
    = ((List.range 240).filter fun e => elem 8 v (48 * g + e / 5) / 3 ^ (e % 5) % 3 = n).length := by
  rw [t5Trits_eq, List.count_eq_countP, List.countP_map, List.countP_eq_length_filter]
  rfl

theorem t5Bad_none (good : ∀ j, j < 48 → elem 8 v (48 * g + j) < 243) : t5Bad v g = none := by
  unfold t5Bad
  rw [List.find?_eq_none]
  intro j hj
  have := good j (List.mem_range.1 hj)
  rw [decide_eq_true_eq]
  omega

theorem t5Bad_first (hj : j < 48) (bad : 243 ≤ elem 8 v (48 * g + j)) (below : ∀ i, i < j → elem 8 v (48 * g + i) < 243) :
    t5Bad v g = some j := by
  unfold t5Bad
  rw [List.find?_range_eq_some]
  refine ⟨decide_eq_true bad, List.mem_range.2 hj, fun i hi => ?_⟩
  rw [Bool.not_eq_true', decide_eq_false_iff_not]
  exact Nat.not_le.2 (below i hi)

theorem sg_tritVal (n : Nat) : sg 8 (ofInt 8 (tritVal n) % 2 ^ 8) = tritVal n := by
  rw [ofInt_mod]
  unfold tritVal
  refine sg_ofInt (by decide) ?_ ?_
  all_goals
    split
    · decide
    · split <;> decide

/-- T5UPK of a group of codes gives each active element the value of its trit. -/
theorem execT5upk_unpacks (good : ∀ j, j < 48 → elem 8 (s.regs.rv a) (48 * h.toNat + j) < 243) :
    ∃ q, Claims.VGives (.t5upk d a h k) s 8 d k q fun e v => sg 8 v =
      if e < 240 then tritVal (elem 8 (s.regs.rv a) (48 * h.toNat + e / 5) / 3 ^ (e % 5) % 3) else 0 := by
  have unpack : exec (.t5upk d a h k) s = vWrite 8 d k (fun e => (ofInt 8 (tritVal ((t5Trits (s.regs.rv a) h.toNat).getD e 0)), 0))
      (wordOfBits fun i => (List.range 4).any fun q =>
        decide (4 * i + q < 240) && (s.regs.rvp a).getLsbD ((48 * h.toNat + (4 * i + q) / 5) / 4)) s := by
    show execT5upk d a h k s = _
    unfold execT5upk
    dsimp only
    rw [t5Bad_none good]
  refine ⟨_, vgives_of_vWrite unpack (by decide) (fun e => ?_) rfl⟩
  rw [sg_tritVal, getD_t5Trits]
  split <;> rfl

theorem execT5cnt_counts (good : ∀ j, j < 48 → elem 8 (s.regs.rv a) (48 * h.toNat + j) < 243) :
    ∃ q, exec (.t5cnt d a h k) s = wrote s d (BitVec.ofNat 64
      ((t5Trits (s.regs.rv a) h.toNat).count 2 * 2 ^ 16 + (t5Trits (s.regs.rv a) h.toNat).count 1)) q := by
  refine ⟨decide (s.regs.rvp a &&& groupMask h.toNat ≠ 0), ?_⟩
  show execT5cnt d a h k s = _
  unfold execT5cnt
  dsimp only
  rw [t5Bad_none good]
  exact finish_wrote s d (fun _ => _) fun _ => _

theorem execT5upk_faults (bad : t5Bad (s.regs.rv a) h.toNat = some j) :
    exec (.t5upk d a h k) s = faults s 0x1B (BitVec.ofNat 64 ((48 * h.toNat + j) * 2 ^ 16 + 0xFF)) := by
  show execT5upk d a h k s = _
  unfold execT5upk
  dsimp only
  rw [bad]
  rfl

theorem execT5cnt_faults (bad : t5Bad (s.regs.rv a) h.toNat = some j) :
    exec (.t5cnt d a h k) s = faults s 0x1B (BitVec.ofNat 64 ((48 * h.toNat + j) * 2 ^ 16 + 0xFF)) := by
  show execT5cnt d a h k s = _
  unfold execT5cnt
  dsimp only
  rw [bad]
  rfl

end

/-! ### Tile predicates (R200) -/

section
variable {s t : State} {d : R5} {zd za : R4} {a : R5} {l : List Seg} {f : Flt}

theorem finish_wz (s : State) (zd : R4) (v : Regs → Word) :
    finish s (fun r => r.wz zd (v r)) = retires s fun r => r.wz zd (v s.regs) :=
  (finish_congr rfl).trans (finish_retires fun _ => rfl)

theorem execZld_unformed (bad : s.loadAddr s.firCtx (s.regs.rg a) 8 = .error f) : exec (.zld zd a) s
    = if f.code = 0x0A ∧ s.fir.region.isSome then .next (s.regionPage f) else memFaults s f := by
  rw [← memFault_load]
  show execZld zd a s = _
  unfold execZld
  dsimp only
  rw [bad]

theorem execZld_odd (addr : s.loadAddr s.firCtx (s.regs.rg a) 8 = .ok (t, l)) (odd : (l.map Seg.addr).headD 0 % 8 ≠ 0) :
    exec (.zld zd a) s = faults t 0x0D (s.regs.rg a) := by
  show execZld zd a s = _
  unfold execZld
  dsimp only
  rw [addr]
  exact if_pos odd

theorem execZld_reads (addr : s.loadAddr s.firCtx (s.regs.rg a) 8 = .ok (t, l)) (may : opens t s.firCtx l)
    (aligned : (l.map Seg.addr).headD 0 % 8 = 0) : exec (.zld zd a) s
      = retires (t.readSegs s.firCtx l).1 fun r => r.wz zd (BitVec.ofNat 64 (gotNat (t.readSegs s.firCtx l).2)) := by
  show execZld zd a s = _
  unfold execZld
  dsimp only
  rw [addr]
  refine (if_neg (not_not.2 aligned)).trans ?_
  rw [State.readVia_opens s.firCtx_who may]
  exact finish_wz _ zd fun _ => _

theorem execZst_region (open_ : s.fir.region.isSome = true) (high : 1 < ptrH (s.regs.rg a)) :
    exec (.zst a za) s = faultsWord s 0x11 (.zst a za) := by
  rw [← wordFault_eq]
  show execZst a za s = _
  unfold execZst
  dsimp only
  exact storeAllowed_never open_ high

section
variable (may : s.fir.region = none ∨ ptrH (s.regs.rg a) ≤ 1)
include may

theorem execZst_unformed (bad : s.storeAddr s.firCtx (s.regs.rg a) 8 = .error f) : exec (.zst a za) s = memFaults s f := by
  show execZst a za s = _
  unfold execZst
  dsimp only
  refine (storeAllowed_may may).trans ?_
  rw [bad]
  exact memFault_taken (.inl rfl)

variable (addr : s.storeAddr s.firCtx (s.regs.rg a) 8 = .ok (t, l))
include addr

theorem execZst_odd (odd : (l.map Seg.addr).headD 0 % 8 ≠ 0) : exec (.zst a za) s = faults t 0x0D (s.regs.rg a) := by
  show execZst a za s = _
  unfold execZst
  dsimp only
  refine (storeAllowed_may may).trans ?_
  rw [addr]
  exact if_pos odd

theorem execZst_writes (now : opens t s.firCtx l) (aligned : (l.map Seg.addr).headD 0 % 8 = 0) :
    exec (.zst a za) s = retires (t.writeSegs s.firCtx l (putBytes 8 (s.regs.rz za).toNat false)) id := by
  show execZst a za s = _
  unfold execZst
  dsimp only
  refine (storeAllowed_may may).trans ?_
  rw [addr]
  refine (if_neg (not_not.2 aligned)).trans ?_
  rw [State.writeVia_opens now]
  rfl

end

end

/-- Settles O42: T5 by the digits of each byte, tile predicates by their registers and by whether their addresses are formed. -/
theorem ternaryAndTiles : Obligations.TernaryAndTiles := by
  unfold Obligations.TernaryAndTiles
  intro s t d a h k zd za zb m l v mk good trit val code p free
  refine ⟨?pack, fun codes _ => ?unpack, fun codes => ?count, fun j hj bad below =>
      ⟨execT5upk_faults (t5Bad_first hj bad below), execT5cnt_faults (t5Bad_first hj bad below)⟩,
    finish_wz s zd fun r => r.rg a, finish_wz s zd fun _ => 0, finish_wz s zd fun r => r.rz za &&& r.rz zb,
    finish_wz s zd fun r => r.rz za ||| r.rz zb, finish_wrote s d (fun r => bit64 ((r.rz za).getLsbD ((r.rg a).toNat % 64))) fun r => r.rgp a,
    finish_wz s zd fun r => r.rm m, execZld_reads, execZld_odd, fun f => execZld_unformed, fun may f => execZst_unformed may,
    execZst_region, fun may addr now aligned => execZst_writes may addr now aligned, fun may addr odd => execZst_odd may addr odd⟩
  case pack =>
    obtain ⟨r, q, packs, bytes⟩ := execT5pk_packs (s := s) (d := d) (a := a) (h := h) (k := k)
    refine ⟨r, q, packs, fun o ho => (bytes o ho).trans ?_⟩
    rw [t5Pack_five]
    simp only [tritOf_elem]
    rfl
  case unpack =>
    obtain ⟨q, r, p, unpacks, elems, -⟩ := execT5upk_unpacks (d := d) (k := k) codes
    exact ⟨r, p, unpacks, elems⟩
  case count =>
    obtain ⟨q, counts⟩ := execT5cnt_counts (d := d) (k := k) codes
    rw [count_t5Trits, count_t5Trits] at counts
    exact ⟨q, counts⟩

end Sys2Proof.Machine
end

section
/-! Ports (R39, R123, R201-R204): the bound port of an instruction, the tokens taken from it and sent on it, and the parts of a
row. -/

namespace Sys2Proof.Machine

open Claims (retires wrote faults faultsWord)

/-! ### Bound ports (R123) -/

/-- Input port `p` of the firing's actor is bound to a channel. -/
def InPort (s : State) (p : Port) (x : Inst) (c : Nat) (r : ChanRec) : Prop :=
  ∃ n a, s.actorNo s.fir.bay s.fir.actor = some (x, n, a) ∧ inChan x n p.toNat = some (c, r)
/-- Output port `p` of the firing's actor is bound to a channel. -/
def OutPort (s : State) (p : Port) (x : Inst) (c : Nat) (r : ChanRec) : Prop :=
  ∃ n a, s.actorNo s.fir.bay s.fir.actor = some (x, n, a) ∧ outChan x n p.toNat = some (c, r)

section
variable {s : State} {p : Port} {x : Inst} {c : Nat} {r : ChanRec} {k : Inst → Nat → ChanRec → Out} {i : Instr}

theorem withIn_bound (low : p.toNat < 16) (at_ : InPort s p x c r) : withIn p s k = k x c r := by
  obtain ⟨n, a, actor, chan⟩ := at_
  unfold withIn
  rw [if_neg (Nat.not_le.2 low), actor]
  dsimp only
  rw [chan]

theorem withOut_bound (lo : 16 ≤ p.toNat) (hi : p.toNat < 32) (at_ : OutPort s p x c r) : withOut p s k = k x c r := by
  obtain ⟨n, a, actor, chan⟩ := at_
  unfold withOut
  rw [if_neg (by omega), actor]
  dsimp only
  rw [chan]

theorem withIn_beyond (h : 16 ≤ p.toNat) : withIn p s k = faults s 0x04 (p.setWidth 64) := if_pos h

theorem withOut_beyond (h : 32 ≤ p.toNat) : withOut p s k = faults s 0x04 (p.setWidth 64) := if_pos (.inr h)

theorem withIn_noActor (none_ : s.actorNo s.fir.bay s.fir.actor = none) : withIn p s k = faults s 0x04 (p.setWidth 64) := by
  unfold withIn
  rw [none_]
  exact ite_id _

theorem withOut_noActor (none_ : s.actorNo s.fir.bay s.fir.actor = none) : withOut p s k = faults s 0x04 (p.setWidth 64) := by
  unfold withOut
  rw [none_]
  exact ite_id _

/-- Some region is open when it is not the case that none is. -/
theorem region_open (open_ : ¬ s.fir.region = none) : s.fir.region.isSome = true := Option.isSome_iff_ne_none.2 open_

end

/-! ### Tokens taken and sent (R39, R202, R204) -/

/-- The firing has taken `n` tokens from an input port. -/
def State.taken (s : State) (p : Port) (x : Inst) (c n : Nat) (r : ChanRec) : State := (s.takeToks x c r n).countMoved p.toNat n
/-- The firing has sent tokens on an output port. -/
def State.sentOn (s : State) (p : Port) (x : Inst) (c : Nat) (l : List Tok) : State :=
  (l.foldl (fun s t => s.pushTok x.field x.id c t) (s.countMoved p.toNat l.length)).notePoisonSent
    x.field x.id (l.any fun t => t.poison != 0)

section
variable {s : State} {p : Port} {x : Inst} {c n m : Nat} {r : ChanRec} {l : List Tok} {k : State → List Tok → Out}

theorem overRate_true (h : m < tgetD p.toNat 0 s.fir.moved + n) : s.overRate p m n = true := decide_eq_true h
theorem overRate_false (h : tgetD p.toNat 0 s.fir.moved + n ≤ m) : s.overRate p m n = false := decide_eq_false (Nat.not_lt.2 h)

theorem takeIn_over (h : r.cn < tgetD p.toNat 0 s.fir.moved + n) : takeIn p n x c r s k = faults s 0x05 (p.setWidth 64) :=
  if_pos (overRate_true h)

theorem takeIn_takes (rate : tgetD p.toNat 0 s.fir.moved + n ≤ r.cn) (enough : n ≤ (x.chan c).seenToks.length) :
    takeIn p n x c r s k = k (s.taken p x c n r) ((x.chan c).seenToks.take n) := by
  unfold takeIn
  rw [overRate_false rate]
  exact if_pos enough

variable (rate : tgetD p.toNat 0 s.fir.moved + n ≤ r.cn) (few : (x.chan c).seenToks.length < n)
include rate few

theorem takeIn_ended (closed : (x.chan c).closed = true) (left : (x.chan c).left < n) :
    takeIn p n x c r s k = faults s 0x05 (p.setWidth 64) := by
  unfold takeIn
  rw [overRate_false rate]
  dsimp only
  rw [closed, decide_eq_true left]
  exact if_neg (Nat.not_le.2 few)

theorem takeIn_waits (more : (x.chan c).closed = false ∨ n ≤ (x.chan c).left) :
    takeIn p n x c r s k = .next (s.park (.tokens p n) false) := by
  have going : ((x.chan c).closed && decide ((x.chan c).left < n)) = false := by
    rcases more with more | more
    · rw [more, Bool.false_and]
    · rw [decide_eq_false (Nat.not_lt.2 more), Bool.and_false]
  unfold takeIn
  rw [overRate_false rate]
  dsimp only
  rw [going]
  exact if_neg (Nat.not_le.2 few)

end

section
variable {s : State} {p : Port} {x : Inst} {c : Nat} {r : ChanRec} {l : List Tok}

theorem sendOut_over (h : r.pn < tgetD p.toNat 0 s.fir.moved + l.length) : sendOut p l x c r s = faults s 0x05 (p.setWidth 64) :=
  if_pos (overRate_true h)

variable (rate : tgetD p.toNat 0 s.fir.moved + l.length ≤ r.pn)
include rate

theorem sendOut_full (full : roomOf x r (x.chan c) < l.length) : sendOut p l x c r s = .next (s.park (.room p l.length) false) := by
  unfold sendOut
  rw [overRate_false rate]
  exact if_pos full

theorem sendOut_sends (room : l.length ≤ roomOf x r (x.chan c)) : sendOut p l x c r s = retires (s.sentOn p x c l) id := by
  unfold sendOut
  rw [overRate_false rate]
  exact if_neg (Nat.not_lt.2 room)

end

/-! ### Rows (R203) -/

section
variable {s : State} {d : R5} {p : Port} {k : R3} {x : Inst} {c : Nat} {r : ChanRec} {t : Tok} {l : List Tok} {f : Tok → Out}

theorem headRow_some (seen : (x.chan c).seenToks = t :: l) : headRow p x c s f = f t := by
  unfold headRow
  rw [seen]
  rfl

theorem headRow_none (seen : (x.chan c).seenToks = []) : headRow p x c s f =
    if (x.chan c).closed = true ∧ (x.chan c).left = 0 then faults s 0x05 (p.setWidth 64) else .next (s.park (.row p) false) := by
  unfold headRow
  rw [seen]
  simp only [List.head?_nil, Bool.and_eq_true, decide_eq_true_eq]
  rfl

/-- A register with lanes under a mask taken from a number, and their poison from another. -/
def Regs.putLanes (g : Regs) (d : R5) (m : Word) (v : Nat) (q : Word) : Regs :=
  g.wv d (mergeLanes m (BitVec.ofNat 2048 v) (g.rv d)) (mergeBits m q (g.rvp d))

theorem recvRow_over (first : (s.rowPart p).p = 0) (past : r.cn < tgetD p.toNat 0 s.fir.moved + 1) :
    recvRow d p k x c r s = faults s 0x05 (p.setWidth 64) := by
  unfold recvRow
  dsimp only
  rw [if_pos first]
  exact if_pos (overRate_true past)

theorem recvRow_first (first : (s.rowPart p).p = 0) (rate : tgetD p.toNat 0 s.fir.moved + 1 ≤ r.cn) : recvRow d p k x c r s =
    headRow p x c s fun t => retires (s.setRow { s.rowPart p with p := 1 }) fun g =>
      g.putLanes d (s.regs.rm k) (t.data.toNat % 2 ^ 2048) (BitVec.ofNat 64 (t.poison.toNat % 2 ^ 64)) := by
  unfold recvRow
  dsimp only
  rw [if_pos first, overRate_false rate]
  rfl

theorem recvRow_second (second : (s.rowPart p).p ≠ 0) : recvRow d p k x c r s =
    headRow p x c s fun t => retires ((s.setRow { s.rowPart p with p := 0 }).taken p x c 1 r) fun g =>
      g.putLanes d (s.regs.rm k) (bits t.data.toNat 3839 2048) (BitVec.ofNat 64 (bits t.poison.toNat 119 64)) := by
  unfold recvRow
  dsimp only
  rw [if_neg second]
  rfl

end

/-! ### Instructions on input ports -/

section
variable {s : State} {d : R5} {p : Port} {k : R3} {x : Inst} {c : Nat} {r : ChanRec} {t : Tok} {l : List Tok}
variable (low : p.toNat < 16) (at_ : InPort s p x c r)
include low at_

theorem exec_recv_open (open_ : s.fir.region.isSome = true) : exec (.recv d p k) s = faultsWord s 0x11 (.recv d p k) := by
  show execRecv d p k s = _
  unfold execRecv
  rw [withIn_bound low at_, outsideRegion_open _ s _ open_, wordFault_eq]

theorem exec_recv_row (closed : s.fir.region = none) (row : r.fmtc = 10) : exec (.recv d p k) s = recvRow d p k x c r s := by
  show execRecv d p k s = _
  unfold execRecv
  rw [withIn_bound low at_, outsideRegion_closed _ s _ closed, if_pos row]

theorem exec_recv_tokens (closed : s.fir.region = none) (whole : r.fmtc ≠ 10) : exec (.recv d p k) s =
    takeIn p (activeSlots r.fmtc (s.regs.rm k)).length x c r s fun u l => retires u fun g =>
      g.putLanes d (s.regs.rm k &&& slotLanes (slotsOf r.fmtc).1 (activeSlots r.fmtc (s.regs.rm k)))
        (layIn r.fmtc (activeSlots r.fmtc (s.regs.rm k)) l).1 (BitVec.ofNat 64 (layIn r.fmtc (activeSlots r.fmtc (s.regs.rm k)) l).2) := by
  show execRecv d p k s = _
  unfold execRecv
  rw [withIn_bound low at_, outsideRegion_closed _ s _ closed, if_neg whole]
  rfl

theorem exec_recvg_format (other : r.fmtc ≠ 0) : exec (.recvg d p k) s = faults s 0x04 (p.setWidth 64) := by
  show execRecvg d p k s = _
  unfold execRecvg
  rw [withIn_bound low at_]
  exact if_pos other

theorem exec_recvg_open (word : r.fmtc = 0) (open_ : s.fir.region.isSome = true) :
    exec (.recvg d p k) s = faultsWord s 0x11 (.recvg d p k) := by
  show execRecvg d p k s = _
  unfold execRecvg
  rw [withIn_bound low at_, if_neg (not_not.2 word), outsideRegion_open _ s _ open_, wordFault_eq]

theorem exec_recvg (word : r.fmtc = 0) (closed : s.fir.region = none) : exec (.recvg d p k) s =
    takeIn p 1 x c r s fun u l => wrote u d ((l.headD ⟨0, 0, none⟩).data.setWidth 64) (decide ((l.headD ⟨0, 0, none⟩).poison ≠ 0)) := by
  show execRecvg d p k s = _
  unfold execRecvg
  rw [withIn_bound low at_, if_neg (not_not.2 word), outsideRegion_closed _ s _ closed]
  simp only [finish_wrote]

theorem exec_peektag_format (other : r.fmtc ≠ 10) : exec (.peektag d p k) s = faults s 0x04 (p.setWidth 64) := by
  show execPeektag d p k s = _
  unfold execPeektag
  rw [withIn_bound low at_]
  exact if_pos other

theorem exec_peektag_row (row : r.fmtc = 10) (seen : (x.chan c).seenToks = t :: l) : exec (.peektag d p k) s = retires s fun g =>
    g.putLanes d (s.regs.rm k &&& 3) (bits t.data.toNat 3903 3840) (BitVec.ofNat 64 (bits t.poison.toNat 121 120)) := by
  show execPeektag d p k s = _
  unfold execPeektag
  rw [withIn_bound low at_, if_neg (not_not.2 row)]
  dsimp only
  rw [seen]
  rfl

theorem exec_peektag_none (row : r.fmtc = 10) (seen : (x.chan c).seenToks = []) : exec (.peektag d p k) s =
    if (x.chan c).closed = true ∧ (x.chan c).left = 0 then retires s fun g => g.putLanes d (s.regs.rm k &&& 3) (2 ^ 64 - 1) 0
    else .next (s.park (.row p) false) := by
  show execPeektag d p k s = _
  unfold execPeektag
  rw [withIn_bound low at_, if_neg (not_not.2 row)]
  dsimp only
  rw [seen]
  simp only [List.head?_nil, Bool.and_eq_true, decide_eq_true_eq]
  rfl

theorem exec_pcount_in : exec (.pcount d p k) s =
    wrote s d (BitVec.ofNat 64 ((x.chan c).seenToks.length + if (x.chan c).closed then 2 ^ 63 else 0)) false := by
  show execPcount d p k s = _
  unfold execPcount
  rw [if_pos low, withIn_bound low at_]
  exact finish_wrote s d (fun _ => _) fun _ => false

end

/-! ### Instructions on output ports -/

section
variable {s : State} {d : R5} {p : Port} {k : R3} {x : Inst} {c : Nat} {r : ChanRec}

theorem sendRow_over (first : (s.rowPart p).p = 0) (past : r.pn < tgetD p.toNat 0 s.fir.moved + 1) :
    sendRow d p k x c r s = faults s 0x05 (p.setWidth 64) := by
  unfold sendRow
  dsimp only
  rw [if_pos first]
  exact if_pos (overRate_true past)

theorem sendRow_full (first : (s.rowPart p).p = 0) (rate : tgetD p.toNat 0 s.fir.moved + 1 ≤ r.pn)
    (full : roomOf x r (x.chan c) = 0) : sendRow d p k x c r s = .next (s.park (.room p 1) false) := by
  unfold sendRow
  dsimp only
  rw [if_pos first, overRate_false rate]
  exact (if_neg Bool.false_ne_true).trans (if_pos (Nat.lt_one_iff.2 full))

theorem sendRow_first (first : (s.rowPart p).p = 0) (rate : tgetD p.toNat 0 s.fir.moved + 1 ≤ r.pn)
    (room : 0 < roomOf x r (x.chan c)) : sendRow d p k x c r s = retires
      ((s.setRow ⟨p.toNat, 1, BitVec.ofNat 3904 (mergeLanes (s.regs.rm k) (s.regs.rv d) 0).toNat,
        (s.regs.rvp d &&& s.regs.rm k).setWidth 128⟩).modChan x.field x.id c fun ch => { ch with sent := ch.sent + 1 }) id := by
  unfold sendRow
  dsimp only
  rw [if_pos first, overRate_false rate]
  exact (if_neg Bool.false_ne_true).trans (if_neg (Nat.not_lt.2 room))

theorem sendRow_second (second : (s.rowPart p).p = 1) : sendRow d p k x c r s = retires (s.setRow ⟨p.toNat, 2,
      (s.rowPart p).buf ||| BitVec.ofNat 3904 ((mergeLanes (s.regs.rm k) (s.regs.rv d) 0).toNat % 2 ^ 1792 * 2 ^ 2048),
      (s.rowPart p).poison ||| ((s.regs.rvp d &&& s.regs.rm k).setWidth 128 &&& BitVec.ofNat 128 (2 ^ 56 - 1)) <<< 64⟩) id := by
  unfold sendRow
  dsimp only
  rw [if_neg (by rw [second]; decide)]
  exact if_pos second

variable (lo : 16 ≤ p.toNat) (hi : p.toNat < 32) (at_ : OutPort s p x c r)
include lo hi at_

theorem exec_send_twice (row : r.fmtp = 10) (both : (s.rowPart p).p = 2) :
    exec (.send d p k) s = faults s 0x04 (p.setWidth 64) := by
  show execSend d p k s = _
  unfold execSend
  rw [withOut_bound lo hi at_]
  exact if_pos ⟨row, both⟩

theorem exec_send_open (open_ : s.fir.region.isSome = true) (part : r.fmtp = 10 → (s.rowPart p).p ≠ 2) :
    exec (.send d p k) s = faultsWord s 0x11 (.send d p k) := by
  show execSend d p k s = _
  unfold execSend
  rw [withOut_bound lo hi at_, if_neg fun both => part both.1 both.2, outsideRegion_open _ s _ open_, wordFault_eq]

theorem exec_send_row (closed : s.fir.region = none) (row : r.fmtp = 10) (part : (s.rowPart p).p ≠ 2) :
    exec (.send d p k) s = sendRow d p k x c r s := by
  show execSend d p k s = _
  unfold execSend
  rw [withOut_bound lo hi at_, if_neg fun both => part both.2, outsideRegion_closed _ s _ closed, if_pos row]

theorem exec_send_tokens (closed : s.fir.region = none) (whole : r.fmtp ≠ 10) : exec (.send d p k) s =
    sendOut p (layOut r.fmtp (s.regs.rm k) (s.regs.rv d) (s.regs.rvp d)) x c r s := by
  show execSend d p k s = _
  unfold execSend
  rw [withOut_bound lo hi at_, if_neg fun both => whole both.1, outsideRegion_closed _ s _ closed, if_neg whole]

theorem exec_sendg_format (other : r.fmtp ≠ 0) : exec (.sendg d p k) s = faults s 0x04 (p.setWidth 64) := by
  show execSendg d p k s = _
  unfold execSendg
  rw [withOut_bound lo hi at_]
  exact if_pos other

theorem exec_sendg_open (word : r.fmtp = 0) (open_ : s.fir.region.isSome = true) :
    exec (.sendg d p k) s = faultsWord s 0x11 (.sendg d p k) := by
  show execSendg d p k s = _
  unfold execSendg
  rw [withOut_bound lo hi at_, if_neg (not_not.2 word), outsideRegion_open _ s _ open_, wordFault_eq]

theorem exec_sendg (word : r.fmtp = 0) (closed : s.fir.region = none) : exec (.sendg d p k) s =
    sendOut p [⟨(s.regs.rg d).setWidth 3904, if s.regs.rgp d then 3 else 0, none⟩] x c r s := by
  show execSendg d p k s = _
  unfold execSendg
  rw [withOut_bound lo hi at_, if_neg (not_not.2 word), outsideRegion_closed _ s _ closed]

theorem exec_sendtag_bad (bad : r.fmtp ≠ 10 ∨ (s.rowPart p).p ≠ 2 ∨ bits ((s.regs.rv d).toNat % 2 ^ 64) 47 43 ≠ 0) :
    exec (.sendtag d p k) s = faults s 0x04 (p.setWidth 64) := by
  show execSendtag d p k s = _
  unfold execSendtag
  rw [withOut_bound lo hi at_]
  exact if_pos bad

section
variable (row : r.fmtp = 10) (both : (s.rowPart p).p = 2) (tag : bits ((s.regs.rv d).toNat % 2 ^ 64) 47 43 = 0)
include row both tag

theorem exec_sendtag_open (open_ : s.fir.region.isSome = true) : exec (.sendtag d p k) s = faultsWord s 0x11 (.sendtag d p k) := by
  show execSendtag d p k s = _
  unfold execSendtag
  rw [withOut_bound lo hi at_, if_neg (by rintro (h | h | h); exacts [h row, h both, h tag]),
    outsideRegion_open _ s _ open_, wordFault_eq]

theorem exec_sendtag (closed : s.fir.region = none) : exec (.sendtag d p k) s =
    let q : BitVec 128 := (s.rowPart p).poison ||| (s.regs.rvp d &&& 3).setWidth 128 <<< 120
    retires (((((s.setRow ⟨p.toNat, 0, 0, 0⟩).modChan x.field x.id c fun ch => { ch with sent := ch.sent - 1 }).pushTok
      x.field x.id c ⟨(s.rowPart p).buf ||| BitVec.ofNat 3904 ((s.regs.rv d).toNat % 2 ^ 64 * 2 ^ 3840), q, none⟩).countMoved
        p.toNat 1).notePoisonSent x.field x.id (q != 0)) id := by
  show execSendtag d p k s = _
  unfold execSendtag
  rw [withOut_bound lo hi at_, if_neg (by rintro (h | h | h); exacts [h row, h both, h tag]),
    outsideRegion_closed _ s _ closed]
  rfl

end

theorem exec_pcount_out : exec (.pcount d p k) s = wrote s d (BitVec.ofNat 64 (roomOf x r (x.chan c))) false := by
  show execPcount d p k s = _
  unfold execPcount
  rw [if_neg (Nat.not_lt.2 lo), withOut_bound lo hi at_]
  exact finish_wrote s d (fun _ => _) fun _ => false

end

theorem exec_pcount_noActor {s : State} {d : R5} {p : Port} {k : R3} (none_ : s.actorNo s.fir.bay s.fir.actor = none) :
    exec (.pcount d p k) s = faults s 0x04 (p.setWidth 64) := by
  show execPcount d p k s = _
  unfold execPcount
  split
  · exact withIn_noActor none_
  · exact withOut_noActor none_

/-- Settles O43: at a bound port the checks come in the order of the rules above, so each clause is one of them; the rest are the
ports that no channel answers. -/
theorem ports : Obligations.Ports := by
  unfold Obligations.Ports
  intro s d p k no actor bound closed m done
  have input {c x r} (low : no < 16) (h : bound c x r) : InPort s p x c r := by
    obtain ⟨n, a, actor, chan⟩ := h
    exact ⟨n, a, actor, (if_pos low).symm.trans chan⟩
  have output {c x r} (lo : 16 ≤ no) (h : bound c x r) : OutPort s p x c r := by
    obtain ⟨n, a, actor, chan⟩ := h
    exact ⟨n, a, actor, (if_neg (Nat.not_lt.2 lo)).symm.trans chan⟩
  refine ⟨fun h => ?beyond, fun h => ⟨withIn_noActor h, withOut_noActor h, exec_pcount_noActor h⟩,
    fun c x r low h => ?inputs, fun c x r lo hi h => ?outputs, fun open_ c x r low h => exec_recv_open low (input low h) open_⟩
  case beyond =>
    have h' : 16 ≤ p.toNat := le_trans (by decide) h
    exact ⟨withIn_beyond h', withIn_beyond h', withOut_beyond h, withOut_beyond h, withIn_beyond h', withOut_beyond h⟩
  case inputs =>
    have at_ := input low h
    intro ch seen act had
    have none_seen {n : Nat} (e : seen = []) (h : 0 < n) : (x.chan c).seenToks.length < n :=
      (congrArg List.length e).trans_lt h
    refine ⟨exec_recvg_format low at_, fun f z rate => ?_, fun t l f z rate e => ?_, fun f z rate e going => ?_,
      fun f z rate e ended left => ?_, fun f z rate e ended left => ?_, fun f z => exec_recvg_open low at_ f (region_open z),
      fun f z rate => ?_, fun f z rate few ended left => ?_, fun f z rate few ended left => ?_, fun f z rate enough => ?_,
      fun f z rate few going => ?_, fun f z first past => ?_, fun f z rate e => ?_, fun t l f z first rate e => ?_,
      fun t l f z second e => ?_, exec_peektag_format low at_, fun t l f e => exec_peektag_row low at_ f e,
      fun f e ended left => ?_, fun f e going => ?_, exec_pcount_in low at_⟩
    · rw [exec_recvg low at_ f z, takeIn_over rate]
    · rw [exec_recvg low at_ f z, takeIn_takes rate (by rw [show (x.chan c).seenToks = _ from e]; exact Nat.succ_pos _),
        show (x.chan c).seenToks = _ from e]
      rfl
    · rw [exec_recvg low at_ f z, takeIn_waits rate (none_seen e one_pos) (.inl going)]
    · rw [exec_recvg low at_ f z, takeIn_ended rate (none_seen e one_pos) ended (Nat.lt_one_iff.2 left)]
    · rw [exec_recvg low at_ f z, takeIn_waits rate (none_seen e one_pos) (.inr (Nat.pos_of_ne_zero left))]
    · rw [exec_recv_tokens low at_ z f, takeIn_over rate]
    · rw [exec_recv_tokens low at_ z f, takeIn_ended rate few ended left]
    · rw [exec_recv_tokens low at_ z f, takeIn_waits rate few (.inr left)]
    · rw [exec_recv_tokens low at_ z f, takeIn_takes rate enough]
      rfl
    · rw [exec_recv_tokens low at_ z f, takeIn_waits rate few (.inl going)]
    · rw [exec_recv_row low at_ z f, recvRow_over first past]
    · rw [exec_recv_row low at_ z f]
      by_cases first : (s.rowPart p).p = 0
      · rw [recvRow_first first (rate first), headRow_none e]
      · rw [recvRow_second first, headRow_none e]
    · rw [exec_recv_row low at_ z f, recvRow_first first rate, headRow_some e]
      rfl
    · rw [exec_recv_row low at_ z f, recvRow_second second, headRow_some e]
      rfl
    · exact (exec_peektag_none low at_ f e).trans (if_pos ⟨ended, left⟩)
    · refine (exec_peektag_none low at_ f e).trans (if_neg ?_)
      rintro ⟨ended, left⟩
      exact going.elim (fun h => Bool.false_ne_true (h.symm.trans ended)) fun h => h left
  case outputs =>
    have at_ := output lo h
    intro room had toks sent
    refine ⟨exec_sendg_format lo hi at_, fun f z rate => ?_, fun f z rate full => ?_, fun f z rate space => ?_,
      fun f z => exec_sendg_open lo hi at_ f (region_open z), fun z part => exec_send_open lo hi at_ (region_open z) part,
      fun f z rate => ?_, fun f z first past => ?_, fun f z first rate full => ?_, fun f z rate space => ?_,
      fun f z rate full => ?_, fun f z first rate space => ?_, fun f z second => ?_, exec_send_twice lo hi at_,
      ⟨exec_sendtag_bad lo hi at_, fun f both tag z => exec_sendtag_open lo hi at_ f both tag (region_open z),
        fun f both tag z => exec_sendtag lo hi at_ f both tag z⟩, exec_pcount_out lo hi at_⟩
    · rw [exec_sendg lo hi at_ f z, sendOut_over rate]
    · exact (exec_sendg lo hi at_ f z).trans (sendOut_full rate (Nat.lt_one_iff.2 full))
    · exact (exec_sendg lo hi at_ f z).trans (sendOut_sends rate space)
    · rw [exec_send_tokens lo hi at_ z f, sendOut_over rate]
    · rw [exec_send_row lo hi at_ z f (by rw [first]; decide), sendRow_over first past]
    · rw [exec_send_row lo hi at_ z f (by rw [first]; decide), sendRow_full first rate full]
    · exact (exec_send_tokens lo hi at_ z f).trans (sendOut_sends rate space)
    · exact (exec_send_tokens lo hi at_ z f).trans (sendOut_full rate full)
    · exact (exec_send_row lo hi at_ z f (by rw [first]; decide)).trans (sendRow_first first rate space)
    · exact (exec_send_row lo hi at_ z f (by rw [second]; decide)).trans (sendRow_second second)

end Sys2Proof.Machine
end

section
/-! Command registers (R209-R213): KLD, KST, KINS and KCLR, the checks of KISSUE in their order and the place that its command
takes, and KWAIT. -/

namespace Sys2Proof.Machine

open Claims (retires faults faultsWord memFaults opens)

/-! ### The address of a KLD or KST (R211) -/

section
variable {s t : State} {q : Word} {wr : Bool} {l : List Seg} {f : Flt}

theorem State.firCtx_isBay (s : State) : s.firCtx.isBay = true := by
  unfold State.firCtx State.ctxOf
  split <;> rfl

/-- A fault keeps the caches of the firing's bay, whichever of two states names the firing. -/
theorem State.flt_firCtx (fir : t.fir = s.fir) (code : Nat) (p : Word) : t.flt t.firCtx code p = t.flt s.firCtx code p := by
  have bay : t.firCtx.bay = s.firCtx.bay := by rw [State.firCtx_bay, State.firCtx_bay, fir]
  unfold State.flt State.kept
  rw [bay, State.firCtx_isBay, State.firCtx_isBay]

theorem State.fir_of_loadAddr {c : Ctx} {p : Word} {n : Nat} (h : s.loadAddr c p n = .ok (t, l)) : t.fir = s.fir :=
  (ok_upholds (State.loadAddr_upholds (State.upholds_refl (fix := true) s) c p n) h).1

theorem kAddr_unformed {f : Flt} (bad : (if wr then s.storeAddr s.firCtx q 16 else s.loadAddr s.firCtx q 16) = .error f) :
    kAddr s q wr = .error f := by
  unfold kAddr
  rw [bad]

variable (addr : (if wr then s.storeAddr s.firCtx q 16 else s.loadAddr s.firCtx q 16) = .ok (t, l))
include addr

theorem kAddr_aligned (aligned : (l.map Seg.addr).headD 0 % 16 = 0) : kAddr s q wr = .ok (t, l) := by
  unfold kAddr
  rw [addr]
  exact if_neg (not_not.2 aligned)

theorem kAddr_unaligned (odd : (l.map Seg.addr).headD 0 % 16 ≠ 0) : kAddr s q wr = .error (t.flt s.firCtx 0x0D q) := by
  have fir : t.fir = s.fir := by
    cases wr
    · exact State.fir_of_loadAddr addr
    · exact State.fir_of_storeAddr addr
  unfold kAddr
  rw [addr]
  exact (if_pos odd).trans (congrArg Except.error (State.flt_firCtx fir 0x0D q))

end

/-! ### KLD, KST, KINS, KCLR (R211) -/

section
variable {s t : State} {n : R3} {a : R5} {h : BitVec 1} {l : List Seg} {f : Flt}

theorem finish_wk (s : State) (n : R3) (v : Regs → KWord) (q : Regs → Bool) :
    finish s (fun r => r.wk n (v r) (q r)) = retires s fun r => r.wk n (v s.regs) (q s.regs) :=
  (finish_congr rfl).trans (finish_retires fun _ => rfl)

theorem exec_kld_reads (addr : kAddr s (s.regs.rg a) false = .ok (t, l)) (may : opens t s.firCtx l) : exec (.kld n a) s
    = retires (t.readSegs s.firCtx l).1 fun r =>
        r.wk n (BitVec.ofNat 128 (gotNat (t.readSegs s.firCtx l).2)) (gotPoison (t.readSegs s.firCtx l).2) := by
  show execKld n a s = _
  unfold execKld
  rw [addr]
  dsimp only
  rw [State.readVia_opens s.firCtx_who may]
  exact finish_wk _ n (fun _ => _) fun _ => _

theorem exec_kld_faults (bad : kAddr s (s.regs.rg a) false = .error f) (taken : f.code ≠ 0x0A ∨ s.fir.region = none) :
    exec (.kld n a) s = memFaults s f := by
  show execKld n a s = _
  unfold execKld
  rw [bad]
  exact memFault_taken (.inr taken)

theorem exec_kst_region (open_ : s.fir.region.isSome = true) (high : 1 < ptrH (s.regs.rg a)) :
    exec (.kst n a) s = faultsWord s 0x11 (.kst n a) := by
  rw [← wordFault_eq]
  show execKst n a s = _
  unfold execKst
  exact storeAllowed_never open_ high

section
variable (may : s.fir.region = none ∨ ptrH (s.regs.rg a) ≤ 1)
include may

theorem exec_kst_faults (bad : kAddr s (s.regs.rg a) true = .error f) : exec (.kst n a) s = memFaults s f := by
  show execKst n a s = _
  unfold execKst
  refine (storeAllowed_may may).trans ?_
  rw [bad]
  exact memFault_taken (.inl rfl)

theorem exec_kst_writes (addr : kAddr s (s.regs.rg a) true = .ok (t, l)) (now : opens t s.firCtx l) : exec (.kst n a) s
    = retires (t.writeSegs s.firCtx l (putBytes 16 (s.regs.rk n).toNat (s.regs.rkp n))) id := by
  show execKst n a s = _
  unfold execKst
  refine (storeAllowed_may may).trans ?_
  rw [addr]
  dsimp only
  rw [State.writeVia_opens now]
  rfl

end

theorem setBits_low {x v : Nat} (hv : v < 2 ^ 64) : setBits x 63 0 v = 2 ^ 64 * (x / 2 ^ 64) + v := by
  simp only [setBits, bits, Nat.shiftLeft_eq, Nat.shiftRight_eq_div_pow]
  omega

theorem setBits_high {x v : Nat} (hx : x < 2 ^ 128) (hv : v < 2 ^ 64) : setBits x 127 64 v = 2 ^ 64 * v + x % 2 ^ 64 := by
  simp only [setBits, bits, Nat.shiftLeft_eq, Nat.shiftRight_eq_div_pow]
  omega

/-- Bits of a command register after KINS: the half `h` is the word, the other half stays. -/
theorem getLsbD_putHalf (w : KWord) (g : Word) (h : BitVec 1) {i : Nat} (hi : i < 128) :
    (BitVec.ofNat 128 (setBits w.toNat (64 * h.toNat + 63) (64 * h.toNat) g.toNat)).getLsbD i
      = if i / 64 = h.toNat then g.getLsbD (i % 64) else w.getLsbD i := by
  rw [BitVec.getLsbD_ofNat, decide_eq_true hi, Bool.true_and]
  have half : h = 0 ∨ h = 1 := by
    revert h
    decide
  rcases half with rfl | rfl
  · show (setBits w.toNat 63 0 g.toNat).testBit i = _
    rw [setBits_low g.isLt, Nat.testBit_two_pow_mul_add _ g.isLt]
    by_cases low : i < 64
    · rw [if_pos low, if_pos (by simp; omega), Nat.mod_eq_of_lt low]
      rfl
    · rw [if_neg low, if_neg (by simp; omega), Nat.testBit_div_two_pow, Nat.sub_add_cancel (Nat.le_of_not_lt low)]
      rfl
  · show (setBits w.toNat 127 64 g.toNat).testBit i = _
    rw [setBits_high w.isLt g.isLt, Nat.testBit_two_pow_mul_add _ (Nat.mod_lt _ (by decide))]
    by_cases low : i < 64
    · rw [if_pos low, if_neg (by simp; omega), Nat.testBit_mod_two_pow, decide_eq_true low, Bool.true_and]
      rfl
    · rw [if_neg low, if_pos (by simp; omega), show i % 64 = i - 64 by omega]
      rfl

theorem exec_kins : exec (.kins n a h) s = retires s fun r => r.wk n
    (BitVec.ofNat 128 (setBits (s.regs.rk n).toNat (64 * h.toNat + 63) (64 * h.toNat) (s.regs.rg a).toNat))
    (s.regs.rkp n || s.regs.rgp a) :=
  finish_wk s n (fun r => BitVec.ofNat 128 (setBits (r.rk n).toNat (64 * h.toNat + 63) (64 * h.toNat) (r.rg a).toNat))
    fun r => r.rkp n || r.rgp a

end

/-! ### What the bay holds after KISSUE's steps (R60, R76, R212) -/

section
variable {s : State} {b : Nat}

/-- A command that comes after the held stores of its firing changes the forwarding table alone. -/
theorem State.bay_followStores (s : State) (b a : Nat) (f : BitVec 32) (id : Nat) : (s.followStores b a f id).bay b =
    { s.bay b with fwd := (s.bay b).fwd.map fun e =>
        if e.actor = a ∧ e.fidx = f ∧ s.inWindow b (asSegs e.segs) = true then { e with cmds := e.cmds ++ [id] } else e } := by
  unfold State.followStores
  split
  · next none_ =>
    rw [List.isEmpty_iff] at none_
    rw [none_, List.map_nil, ← none_]
  · rw [State.bay_modBay, if_pos rfl]
    simp only [Bool.and_eq_true, beq_iff_eq, and_assoc]

theorem State.bays_modChan (s : State) (f i c : Nat) (g : Chan → Chan) : (s.modChan f i c g).bays = s.bays := by
  unfold State.modChan State.modInst
  split <;> rfl

theorem State.queue_modBay (s : State) (b p : Nat) (f : Bay → Bay) :
    (s.modBay b f).queue b p = tgetD p [] (f (s.bay b)).queues := by
  unfold State.queue
  rw [State.bay_modBay, if_pos rfl]

theorem State.queue_enqueue (s : State) (b p : Nat) (c : Cmd) : (s.enqueue b p c).queue b p = s.queue b p ++ [c] := by
  have put : (s.modBay b fun x => { x with queues := tmod p [] (· ++ [c]) x.queues }).queue b p = s.queue b p ++ [c] := by
    rw [State.queue_modBay, tgetD_tmod, if_pos rfl]
    rfl
  have same {t u : State} (h : t.bays = u.bays) : t.queue b p = u.queue b p := by
    unfold State.queue State.bay
    rw [h]
  unfold State.enqueue
  dsimp only
  split
  · split
    · exact (same (State.bays_modChan ..)).trans put
    · exact put
  · exact put

end

/-! ### KISSUE (R212) -/

/-- The extension that KISSUE reads with k(n). -/
def Regs.kExt (r : Regs) (n : R3) : KWord := if cX (r.rk n) then r.rk (n + 1) else 0

/-- The tile predicate that KISSUE captures with a command (R272). -/
def Regs.kTile (r : Regs) (w : KWord) : Word :=
  if cOpc w = 0x0B ∧ w.getLsbD 19 then r.rz (BitVec.ofNat 4 (cb w 18 15))
  else if cOpc w = 0x0C ∧ w.getLsbD 14 then r.rz (BitVec.ofNat 4 (cb w 13 10)) else 0

/-- The command that KISSUE queues; `seq` is its number among the collectives of its pair. -/
def State.kCmd (s : State) (n : R3) (seq : Nat) : Cmd :=
  let w := s.regs.rk n
  ⟨s.nextCmd, w, s.regs.kExt n, s.fir.actor, s.fir.fidx, s.regs.pc, s.regs.kTile w, .tokens, 0, cPtr w, s.fir.region.isSome,
    false, [], 0, 0, seq, 0, 0, 0⟩

/-- The state `t` in which a command of the firing of `s` that has passed its checks looks for its place: it has its number, and
comes after the held stores of its firing. -/
def State.numbered (s t : State) : State :=
  ({ t with nextCmd := s.nextCmd + 1 } : State).followStores s.fir.bay s.fir.actor s.fir.fidx s.nextCmd

/-- The number of a collective is kept with its field. -/
theorem State.collSeq_fields (s : State) (c e : KWord) : ∃ x, (s.collSeq c e).1 = { s with fields := x } := by
  unfold State.collSeq
  split
  · exact ⟨s.fields, rfl⟩
  · exact ⟨_, rfl⟩

/-- The place that a command takes: its scoreboard entry, then its queue entry (R212). -/
def placeCmd (b : Nat) (p : Port) (c : Cmd) (range : Option (Nat × Nat)) (s : State) : Out :=
  if range.isSome && !s.sbFree b then parkAt (.queue p c range) (s.sbWait b c.id)
  else
    let s := match range with
      | some g => s.sbTake b p.toNat b c.id g
      | none => s
    if (s.queue b p.toNat).length ≥ Config.queueDepth then parkAt (.queue p c none) s else retire (s.enqueue b p.toNat c)

/-- A port that commands are issued to. -/
def enginePort (p : Port) : Prop := 0x20 ≤ p.toNat ∧ p.toNat ≤ 0x2C

/-- The command is in a register that may hold its extension behind it, and nothing of it is poisoned. -/
def Regs.kClean (r : Regs) (n : R3) : Prop :=
  (cX (r.rk n) = true → n.toNat % 2 = 0) ∧ r.rkp n = false ∧ (cX (r.rk n) = true → r.rkp (n + 1) = false)

/-- The command passes the checks of its header and payload. -/
def State.kLegal (s : State) (n : R3) (p : Port) : Prop :=
  headerBad p.toNat (s.regs.rk n) = false
    ∧ s.payloadBad s.fir.bay p.toNat s.firCtx.fw s.firCtx.fh (s.regs.rk n) (s.regs.kExt n) = false

section
variable {s : State} {n : R3} {p : Port}

/-- The test of an open region is passed. -/
theorem region_passes {w e : KWord} (allowed : s.fir.region = none ∨ s.regionAllows s.firCtx w e = true) :
    ¬ (s.fir.region.isSome && !s.regionAllows s.firCtx w e) = true := by
  rcases allowed with closed | allowed
  · rw [closed]
    exact Bool.false_ne_true
  · rw [allowed, Bool.not_true, Bool.and_false]
    exact Bool.false_ne_true

theorem exec_kissue_port (other : ¬ enginePort p) : exec (.kissue n p) s = faults s 0x04 (p.setWidth 64) :=
  if_pos (by unfold enginePort at other; omega)

theorem exec_kwait_port (other : ¬ enginePort p) : exec (.kwait p) s = faults s 0x04 (p.setWidth 64) :=
  if_pos (by unfold enginePort at other; omega)

theorem Regs.kClean_iff (r : Regs) (n : R3) : r.kClean n ↔ (cX (r.rk n) && n.getLsbD 0) = false
    ∧ (r.rkp n || (cX (r.rk n) && r.rkp (n + 1))) = false := by
  have even : n.getLsbD 0 = decide (n.toNat % 2 = 1) := Nat.testBit_zero _
  unfold Regs.kClean
  rw [even]
  cases cX (r.rk n) <;> simp

/-- The captured tile predicate, with the model's tests. -/
theorem Regs.kTile_eq (r : Regs) (w : KWord) : r.kTile w =
    if cOpc w == 0x0B && w.getLsbD 19 then r.rz (BitVec.ofNat 4 (cb w 18 15))
    else if cOpc w == 0x0C && w.getLsbD 14 then r.rz (BitVec.ofNat 4 (cb w 13 10)) else 0 := by
  unfold Regs.kTile
  simp only [Bool.and_eq_true, beq_iff_eq]

variable (port : enginePort p)
include port

/-- The port test of KISSUE and KWAIT is passed. -/
theorem enginePort_passes : ¬ (p.toNat < 0x20 ∨ p.toNat > 0x2C) := by
  unfold enginePort at port
  omega

theorem exec_kissue_unclean (unclean : ¬ s.regs.kClean n) :
    exec (.kissue n p) s = faults s 0x16 (BitVec.ofNat 64 (cOpc (s.regs.rk n) * 256 + p.toNat)) := by
  rw [Regs.kClean_iff, not_and, Bool.not_eq_false] at unclean
  refine (if_neg (enginePort_passes port)).trans ?_
  by_cases odd : (cX (s.regs.rk n) && n.getLsbD 0) = true
  · exact if_pos odd
  · exact (if_neg odd).trans (if_pos (unclean (Bool.eq_false_of_not_eq_true odd)))

variable (clean : s.regs.kClean n)
include clean

theorem exec_kissue_illegal (illegal : ¬ s.kLegal n p) :
    exec (.kissue n p) s = faults s 0x16 (BitVec.ofNat 64 (cOpc (s.regs.rk n) * 256 + p.toNat)) := by
  obtain ⟨even, pure_⟩ := (s.regs.kClean_iff n).1 clean
  refine (if_neg (enginePort_passes port)).trans ((if_neg (Bool.eq_false_iff.1 even)).trans
    ((if_neg (Bool.eq_false_iff.1 pure_)).trans (if_pos ?_)))
  rw [Bool.or_eq_true]
  by_contra none_
  rw [not_or, Bool.not_eq_true, Bool.not_eq_true] at none_
  exact illegal none_

variable (legal : s.kLegal n p)
include legal

/-- A command that has passed the checks of its port, registers, header and payload: the test of an open region, then its
place. -/
theorem exec_kissue_legal : exec (.kissue n p) s =
    if s.fir.region.isSome && !s.regionAllows s.firCtx (s.regs.rk n) (s.regs.kExt n) then wordFault 0x11 (.kissue n p) s
    else
      let z := if cOpc (s.regs.rk n) = 0x0F then s.collSeq (s.regs.rk n) (s.regs.kExt n) else (s, 0)
      placeCmd s.fir.bay p
        ⟨z.1.nextCmd, s.regs.rk n, s.regs.kExt n, z.1.fir.actor, z.1.fir.fidx, s.regs.pc, s.regs.kTile (s.regs.rk n), .tokens, 0,
          cPtr (s.regs.rk n), z.1.fir.region.isSome, false, [], 0, 0, z.2, 0, 0, 0⟩
        (s.ownRange s.firCtx (s.regs.rk n) (s.regs.kExt n))
        (({ z.1 with nextCmd := z.1.nextCmd + 1 } : State).followStores s.fir.bay z.1.fir.actor z.1.fir.fidx z.1.nextCmd) := by
  obtain ⟨even, pure_⟩ := (s.regs.kClean_iff n).1 clean
  obtain ⟨header, payload⟩ := legal
  have sound : (headerBad p.toNat (s.regs.rk n)
      || s.payloadBad s.fir.bay p.toNat s.firCtx.fw s.firCtx.fh (s.regs.rk n) (s.regs.kExt n)) = false := by
    rw [header, payload]
    rfl
  rw [Regs.kTile_eq]
  exact (if_neg (enginePort_passes port)).trans ((if_neg (Bool.eq_false_iff.1 even)).trans
    ((if_neg (Bool.eq_false_iff.1 pure_)).trans (if_neg (Bool.eq_false_iff.1 sound))))

theorem exec_kissue_region (open_ : s.fir.region.isSome = true)
    (forbidden : s.regionAllows s.firCtx (s.regs.rk n) (s.regs.kExt n) = false) :
    exec (.kissue n p) s = faultsWord s 0x11 (.kissue n p) := by
  rw [exec_kissue_legal port clean legal, open_, forbidden, ← wordFault_eq]
  rfl

variable (allowed : s.fir.region = none ∨ s.regionAllows s.firCtx (s.regs.rk n) (s.regs.kExt n) = true)
include allowed

theorem exec_kissue_alone (alone : cOpc (s.regs.rk n) ≠ 0x0F) {range : Option (Nat × Nat)}
    (at_ : s.ownRange s.firCtx (s.regs.rk n) (s.regs.kExt n) = range) :
    exec (.kissue n p) s = placeCmd s.fir.bay p (s.kCmd n 0) range (s.numbered s) := by
  rw [exec_kissue_legal port clean legal, if_neg (region_passes allowed), if_neg alone, at_]
  rfl

theorem exec_kissue_coll (coll : cOpc (s.regs.rk n) = 0x0F) : exec (.kissue n p) s =
    placeCmd s.fir.bay p (s.kCmd n (s.collSeq (s.regs.rk n) (s.regs.kExt n)).2) none
      (s.numbered (s.collSeq (s.regs.rk n) (s.regs.kExt n)).1) := by
  have nowhere : s.ownRange s.firCtx (s.regs.rk n) (s.regs.kExt n) = none := by
    unfold State.ownRange
    rw [coll]
    rfl
  rw [exec_kissue_legal port clean legal, if_neg (region_passes allowed), if_pos coll, nowhere]
  obtain ⟨x, fields⟩ := s.collSeq_fields (s.regs.rk n) (s.regs.kExt n)
  dsimp only
  rw [fields]
  rfl

end

/-! ### The place of a command (R60, R212) -/

section
variable {s t : State} {b : Nat} {p : Port} {c : Cmd} {g : Nat × Nat}

/-- A numbered command has changed nothing of its bay but the forwarding table. -/
theorem State.bay_numbered (s t : State) : (s.numbered t).bay s.fir.bay =
    { t.bay s.fir.bay with fwd := ((s.numbered t).bay s.fir.bay).fwd } := by
  unfold State.numbered
  rw [State.bay_followStores]
  rfl

theorem placeCmd_retires (room : (t.queue b p.toNat).length < Config.queueDepth) :
    placeCmd b p c none t = retires (t.enqueue b p.toNat c) id :=
  if_neg (Nat.not_le.2 room)

theorem placeCmd_parks (full : Config.queueDepth ≤ (t.queue b p.toNat).length) :
    placeCmd b p c none t = .next (t.park (.queue p c none) false) :=
  if_pos full

theorem placeCmd_some_free (free : t.sbFree b = true) :
    placeCmd b p c (some g) t = placeCmd b p c none (t.sbTake b p.toNat b c.id g) := by
  unfold placeCmd
  rw [free]
  rfl

theorem placeCmd_some_waits (busy : t.sbFree b = false) :
    placeCmd b p c (some g) t = .next ((t.sbWait b c.id).park (.queue p c (some g)) false) := by
  unfold placeCmd
  rw [busy]
  rfl

theorem State.queue_sbTake (t : State) (b q src id no : Nat) (g : Nat × Nat) :
    (t.sbTake b q src id g).queue b no = t.queue b no :=
  State.queue_modBay ..

theorem State.queue_numbered (s t : State) (no : Nat) : (s.numbered t).queue s.fir.bay no = t.queue s.fir.bay no := by
  unfold State.queue
  rw [State.bay_numbered]

theorem State.sbFree_numbered (s t : State) : (s.numbered t).sbFree s.fir.bay = t.sbFree s.fir.bay := by
  unfold State.sbFree
  rw [State.bay_numbered]

theorem State.queue_collSeq (s : State) (c e : KWord) (b no : Nat) : (s.collSeq c e).1.queue b no = s.queue b no := by
  obtain ⟨x, fields⟩ := s.collSeq_fields c e
  rw [fields]
  rfl

end

/-! ### KWAIT (R213) -/

section
variable {s : State} {p : Port} (port : enginePort p)
include port

theorem exec_kwait_retires (gone : ∀ c ∈ s.queue s.fir.bay p.toNat, ¬ (c.actor = s.fir.actor ∧ c.fidx = s.fir.fidx)) :
    exec (.kwait p) s = retires (s.takeCompletions s.fir.bay s.fir.actor p.toNat) id := by
  have none_ : s.firCmds s.fir.bay s.fir.actor s.fir.fidx p.toNat = false := by
    simpa [State.firCmds] using gone
  exact (if_neg (enginePort_passes port)).trans (if_neg (Bool.eq_false_iff.1 none_))

theorem exec_kwait_parks (left : ∃ c ∈ s.queue s.fir.bay p.toNat, c.actor = s.fir.actor ∧ c.fidx = s.fir.fidx) :
    exec (.kwait p) s = .next (s.park (.cmds p) false) := by
  have some_ : s.firCmds s.fir.bay s.fir.actor s.fir.fidx p.toNat = true := by
    simpa [State.firCmds] using left
  exact (if_neg (enginePort_passes port)).trans (if_pos some_)

end

/-- Settles O44. KISSUE's checks are passed in their order; the command is then numbered, which changes its bay's forwarding
table alone, so that the queue and the scoreboard it finds are those of the state before. -/
theorem commandRegisters : Obligations.CommandRegisters := by
  intro s t n a h p l g w r e b ctx no bad isPort clean legal z cmd next u full
  have taken : (t.flt ctx 0x0D g).code ≠ 0x0A ∨ s.fir.region = none := .inl (by change 0x0D ≠ 0x0A; decide)
  refine ⟨fun addr even now => exec_kld_reads (kAddr_aligned (wr := false) addr even) now,
    fun addr odd => exec_kld_faults (kAddr_unaligned (wr := false) addr odd) taken,
    fun f bad taken => exec_kld_faults (kAddr_unformed (wr := false) bad) taken,
    fun may f bad => exec_kst_faults may (kAddr_unformed (wr := true) bad),
    fun may addr odd => exec_kst_faults may (kAddr_unaligned (wr := true) addr odd),
    exec_kst_region,
    fun may addr even now => exec_kst_writes may (kAddr_aligned (wr := true) addr even) now,
    ⟨_, exec_kins, fun i hi => getLsbD_putHalf w g h hi⟩,
    finish_wk s n (fun _ => 0) fun _ => false,
    fun other => ⟨exec_kissue_port other, exec_kwait_port other⟩,
    exec_kissue_unclean, exec_kissue_illegal, exec_kissue_region, ?_, ?_, ?_,
    fun f a id => congrArg Bay.fwd (s.bay_followStores b a f id),
    s.queue_enqueue b no, exec_kwait_retires, exec_kwait_parks⟩
  · intro port clean legal allowed alone
    have placed (range) (at_ : s.ownRange ctx w e = range) := exec_kissue_alone port clean legal allowed alone at_
    have queue : (s.numbered s).queue b no = s.queue b no := s.queue_numbered s no
    have free : (s.numbered s).sbFree b = s.sbFree b := s.sbFree_numbered s
    refine ⟨fun nowhere room => ?_, fun nowhere full => ?_, fun g range entry room => ?_, fun g range entry full => ?_,
      fun g range busy => ?_⟩
    · exact (placed _ nowhere).trans (placeCmd_retires (queue ▸ Nat.not_le.1 room))
    · exact (placed _ nowhere).trans (placeCmd_parks (queue ▸ full))
    · refine (placed _ range).trans ((placeCmd_some_free (free.trans entry)).trans (placeCmd_retires ?_))
      rw [State.queue_sbTake]
      exact queue ▸ Nat.not_le.1 room
    · refine (placed _ range).trans ((placeCmd_some_free (free.trans entry)).trans (placeCmd_parks ?_))
      rw [State.queue_sbTake]
      exact queue ▸ full
    · exact (placed _ range).trans (placeCmd_some_waits (free.trans busy))
  · intro port clean legal closed coll room
    refine (exec_kissue_coll port clean legal (.inl closed) coll).trans (placeCmd_retires ?_)
    rw [State.queue_numbered, State.queue_collSeq]
    exact Nat.not_le.1 room
  · intro port clean legal closed coll full
    refine (exec_kissue_coll port clean legal (.inl closed) coll).trans (placeCmd_parks ?_)
    rw [State.queue_numbered, State.queue_collSeq]
    exact full

end Sys2Proof.Machine
end

section
/-! The head command of a port as its events see it (R208): the steps at which it acts, and what one iteration of it leaves. -/

namespace Sys2Proof.Machine

open Claims (running ends)

variable {s : State} {b p : Nat} {c : Cmd}

/-- The command that can act is the first of its queue. -/
theorem State.queue_of_head (head : s.head b p = some c) : (s.queue b p).head? = some c := by
  unfold State.head at head
  split at head
  · cases head
  · exact (Option.filter_eq_some_iff.1 head).1

theorem State.head_stuck (stuck : p ∈ (s.bay b).stuck) : s.head b p = none :=
  if_pos (by rw [List.contains_iff_mem.2 stuck, Bool.or_true])

theorem State.cmdCtx_who (s : State) (b p : Nat) : (s.cmdCtx b p).who = .cmd b p := by
  unfold State.cmdCtx State.ctxOf
  dsimp only
  split <;> rfl

section
variable {ph : Phase} {k : Cmd → Out}

theorem atPhase_none (none_ : s.head b p = none) : atPhase b p ph s k = .next s := by
  unfold atPhase
  rw [none_]

theorem atPhase_at (head : s.head b p = some c) (now : c.phase = ph) : atPhase b p ph s k = k c := by
  unfold atPhase
  rw [head]
  exact if_pos now

theorem atPhase_other (head : s.head b p = some c) (other : c.phase ≠ ph) : atPhase b p ph s k = .next s := by
  unfold atPhase
  rw [head]
  exact if_neg other

theorem executing_running {opc : Nat} (run : running s b p opc c) : executing b p opc s k = k c := by
  obtain ⟨head, phase, code⟩ := run
  exact (atPhase_at head phase).trans (if_pos code)

end

/-! ### One iteration -/

/-- The state that an iteration of the head command of a port leaves. -/
def Iter.after (b p : Nat) (c : Cmd) (resolves : Bool) : Iter → State
  | .go s => s
  | .wait s => s
  | .done s => ends s b p
  | .flt s f => s.cmdFlt b p c f resolves

section
variable {resolves : Bool} {one : State → Cmd → Iter}

theorem State.iterate_head (head : s.head b p = some c) : s.iterate b p resolves one = (one s c).after b p c resolves := by
  unfold State.iterate
  rw [head]
  dsimp only
  cases one s c <;> rfl

theorem runCmd_running {opc : Nat} (run : running s b p opc c) :
    runCmd b p opc resolves one s = .next ((one s c).after b p c resolves) :=
  (executing_running run).trans (congrArg _ (State.iterate_head run.1))

theorem runCmd_gives {opc : Nat} {o : Iter} (run : running s b p opc c) (gives : one s c = o) :
    runCmd b p opc resolves one s = .next (o.after b p c resolves) :=
  gives ▸ runCmd_running run

end

/-- A fault of a command whose page requests are not resolved is the command's end. -/
theorem State.cmdFlt_fails (s : State) (b p : Nat) (c : Cmd) (f : Flt) : s.cmdFlt b p c f false = s.cmdFail b p c f :=
  if_neg Bool.false_ne_true

end Sys2Proof.Machine
end

section
/-! The four steps of a stream command (R208, R214-R216, R227, R231): the done tokens that it takes, its wait on WSEM, NOPC, and
the completion of a command whose accesses are performed. -/

namespace Sys2Proof.Machine

open Claims (running ends)

variable {s : State} {b : Nat} {c : Cmd}

/-! ### Done tokens (R208, R216) -/

theorem State.edgeCount_setEdge (s : State) (d n v : Nat) : (s.setEdge d n v).edgeCount d n = v % 2 ^ 16 := by
  unfold State.setEdge State.edgeCount
  rw [State.bay_modBay, if_pos rfl, tgetD_tput, if_pos rfl]
  exact BitVec.toNat_ofNat ..

section
variable {x : Inst} {p n : Nat} {e : EdgeRec}

theorem State.edgeCount_sendDone (room : s.edgeCount (s.plotBay x e.dbx e.dby) n < 0xFFFF) :
    (s.sendDone x b p n e).edgeCount (s.plotBay x e.dbx e.dby) n = s.edgeCount (s.plotBay x e.dbx e.dby) n + 1 := by
  have sent : s.sendDone x b p n e = s.setEdge (s.plotBay x e.dbx e.dby) n (s.edgeCount (s.plotBay x e.dbx e.dby) n + 1) :=
    if_neg (Nat.not_le.2 room)
  rw [sent, State.edgeCount_setEdge]
  omega

end

section
variable {p : Port}

/-- A command whose incoming edges all have a token, with none of its own held back, takes one of each. -/
theorem exec_doneTokenTake_takes {x : Inst} (head : s.head b p.toNat = some c) (now : c.phase = .tokens)
    (inst : s.bayInst b = some x) (sent : ∀ h ∈ (s.bay b).held, h.1 ≠ p.toNat)
    (tokens : ∀ e ∈ s.inEdges x b p.toNat, 0 < s.edgeCount b e.1) : exec (.doneTokenTake b p) s =
      .next (((s.inEdges x b p.toNat).foldl (fun s q => s.takeDone x b p.toNat q.1 q.2) s).modHead b p.toNat
        fun c => { c with phase := .sema }) := by
  have held : ((s.bay b).held.any fun h => h.1 == p.toNat) = false := by
    simpa using sent
  have empty : ((s.inEdges x b p.toNat).any fun e => s.edgeCount b e.1 == 0) = false :=
    List.any_eq_false.2 fun e he => by simpa using (tokens e he).ne'
  refine (atPhase_at head now).trans ?_
  dsimp only
  rw [inst]
  refine if_neg ?_
  rw [held]
  exact Bool.eq_false_iff.1 empty

/-- A command waits for the token of an incoming edge. -/
theorem exec_doneTokenTake_waits {x : Inst} {e : Nat × EdgeRec} (head : s.head b p.toNat = some c) (now : c.phase = .tokens)
    (inst : s.bayInst b = some x) (edge : e ∈ s.inEdges x b p.toNat) (none_ : s.edgeCount b e.1 = 0) :
    exec (.doneTokenTake b p) s = .next s := by
  have empty : ((s.inEdges x b p.toNat).any fun e => s.edgeCount b e.1 == 0) = true :=
    List.any_eq_true.2 ⟨e, edge, beq_iff_eq.2 none_⟩
  refine (atPhase_at head now).trans ?_
  dsimp only
  rw [inst]
  refine if_pos ?_
  rw [Bool.or_eq_true]
  exact .inr empty

end

/-! ### The wait on a semaphore (R170, R214) -/

/-- The state in which the head command of a port has joined the waiters of its semaphore. -/
def State.joins (s : State) (b p : Nat) (c : Cmd) : State :=
  (s.modHead b p fun c => { c with waiting := true }).modBay b fun x =>
    { x with semWaiters := x.semWaiters ++ [⟨cWsem c.word, cWthr c.word, .cmd b p, 0⟩] }

section
variable {p : Nat}

theorem State.bay_joins (s : State) (b p : Nat) (c : Cmd) : (s.joins b p c).bay b = { s.bay b with
    queues := tmod p [] (mapFirst fun c => { c with waiting := true }) (s.bay b).queues
    semWaiters := (s.bay b).semWaiters ++ [⟨cWsem c.word, cWthr c.word, .cmd b p, 0⟩] } := by
  unfold State.joins State.modHead
  rw [State.bay_modBay, if_pos rfl, State.bay_modBay, if_pos rfl]

/-- Setting a count that meets the threshold of the one party that waits on it satisfies that party. -/
theorem State.setSem_one {n v h : Nat} {who : Who} (one : (s.bay b).semWaiters = [⟨n, h, who, 0⟩]) (met : h ≤ v) :
    s.setSem b n v = ((s.modBay b fun x =>
      { x with sems := tput n (BitVec.ofNat 16 (v - h)) x.sems, semWaiters := [] }).semDone b who).semTaken b n [who] := by
  unfold State.setSem
  rw [one, semServe_one_met met]
  rfl

/-- A command that joins the waiters of a semaphore alone, with the count at its threshold, takes the count and goes on to its
accesses. -/
theorem State.bay_satisfied (alone : (s.bay b).semWaiters = []) (met : cWthr c.word ≤ s.sem b (cWsem c.word)) :
    ((s.joins b p c).setSem b (cWsem c.word) (s.sem b (cWsem c.word))).bay b = { s.bay b with
      queues := tmod p [] (satisfiedHead s.draw) (tmod p [] (mapFirst fun c => { c with waiting := true }) (s.bay b).queues)
      sems := tput (cWsem c.word) (BitVec.ofNat 16 (s.sem b (cWsem c.word) - cWthr c.word)) (s.bay b).sems
      semWaiters := [] } := by
  have one : ((s.joins b p c).bay b).semWaiters = [⟨cWsem c.word, cWthr c.word, .cmd b p, 0⟩] := by
    rw [State.bay_joins, alone]
    rfl
  rw [State.setSem_one one met, State.bay_of_unsent (State.semTaken_unsent ..)]
  unfold State.semDone
  dsimp only
  rw [State.bay_modBay, if_pos rfl, State.bay_modBay, if_pos rfl, State.bay_joins]
  rfl

end

/-! ### Completion (R215, R216) -/

section
variable {p : Nat}

/-- What a command that ends still waits for: its units, its pairs, and the last of its tokens. -/
theorem State.cmdSettled_iff (s : State) (b p : Nat) (c : Cmd) : s.cmdSettled b p c = true ↔
    (∀ u ∈ s.rwq, u.who ≠ .cmd b p) ∧ s.pairsHeld (.cmd b p) = false
      ∧ (c.fed = 0 ∨ ∀ x, s.bayInst b = some x → c.last ≤ (x.chan (c.fed - 1)).sent - (x.chan (c.fed - 1)).part.length) := by
  unfold State.cmdSettled
  rw [Bool.and_eq_true, Bool.and_eq_true, List.all_eq_true, Bool.not_eq_true', Bool.or_eq_true, beq_iff_eq, and_assoc]
  refine and_congr (forall₂_congr fun u _ => bne_iff_ne) (and_congr_right fun _ => or_congr_right ?_)
  cases s.bayInst b with
  | none => exact ⟨fun _ _ h => (nomatch h), fun _ => rfl⟩
  | some x =>
    refine decide_eq_true_iff.trans ⟨fun last y same => ?_, fun last => last x rfl⟩
    cases same
    exact last

/-- A release at a scope below a module's, of a party with no pair on its way, does nothing. -/
theorem State.release_unpaired {ctx : Ctx} {scope : Nat} (none_ : ∀ q ∈ s.pairs, q.who ≠ ctx.who) (near : scope < 3) :
    s.release ctx scope none = s := by
  have drained : s.drain ctx.who = s := State.drainIf_none fun q hq => beq_false_of_ne (none_ q hq)
  unfold State.release
  rw [drained]
  exact if_neg (Nat.not_le.2 near)

theorem State.passSent_none {t : Nat} {src : Carrier} {dst : List Carrier} {keep : Bool} (none_ : ∀ z ∈ s.sentSets, z.who ≠ src) :
    s.passSent t src dst keep = s := by
  have mine : (s.sentSets.filter fun z => z.who == src && z.tenant == t) = [] :=
    List.filter_eq_nil_iff.2 fun z hz => by simp [none_ z hz]
  unfold State.passSent
  extract_lets
  rw [mine]

/-- A completion that has nothing to release, to pass on or to signal frees the queue entry alone. -/
theorem State.completeCmd_quiet {x : Inst} (inst : s.bayInst b = some x) (edges : s.outEdges x b p = [])
    (near : cScope c.word < 3) (silent : cSinc c.word = 0) (sets : ∀ z ∈ s.sentSets, z.who ≠ .party (.cmd b p))
    (pairs : ∀ q ∈ s.pairs, q.who ≠ .cmd b p) : s.completeCmd b p c =
      (s.modBay b fun y => { y with queues := tmod p [] (fun l => l.drop 1) y.queues }).serveQueues b := by
  unfold State.completeCmd
  rw [State.release_unpaired (fun q hq => (s.cmdCtx_who b p).symm ▸ pairs q hq) near]
  dsimp only
  rw [State.passSent_none sets, if_neg (not_not.2 silent), inst]
  dsimp only
  rw [edges]
  rfl

end

/-! ### The obligation -/

section
variable {p : Port} (head : s.head b p.toNat = some c) (sema : c.phase = .sema) (threshold : cWthr c.word ≠ 0)
  (first : c.waiting = false)
include head sema threshold first

theorem exec_commandSemaphoreWait_joins : exec (.commandSemaphoreWait b p) s =
    .next ((s.joins b p.toNat c).setSem b (cWsem c.word) (s.sem b (cWsem c.word))) := by
  have count : (s.joins b p.toNat c).sem b (cWsem c.word) = s.sem b (cWsem c.word) := by
    unfold State.sem
    rw [State.bay_joins]
  refine (atPhase_at head sema).trans ((if_neg threshold).trans ((if_neg (Bool.eq_false_iff.1 first)).trans ?_))
  exact congrArg (fun v => Host.Outcome.next ((s.joins b p.toNat c).setSem b (cWsem c.word) v)) count

theorem exec_commandSemaphoreWait_met (alone : (s.bay b).semWaiters = []) (met : cWthr c.word ≤ s.sem b (cWsem c.word)) :
    ∃ t, exec (.commandSemaphoreWait b p) s = .next t ∧ t.sem b (cWsem c.word) = s.sem b (cWsem c.word) - cWthr c.word
      ∧ (t.queue b p.toNat).head? = some { c with phase := .run, waiting := false, started := s.draw } := by
  refine ⟨_, exec_commandSemaphoreWait_joins head sema threshold first, ?_, ?_⟩
  · have small := s.sem_lt b (cWsem c.word)
    rw [State.sem_of_tput (congrArg Bay.sems (State.bay_satisfied (p := p.toNat) alone met)), if_pos rfl, BitVec.toNat_ofNat,
      Nat.mod_eq_of_lt (by omega)]
  · obtain ⟨l, queue⟩ := List.head?_eq_some_iff.1 (State.queue_of_head head)
    unfold State.queue at queue ⊢
    rw [State.bay_satisfied alone met]
    dsimp only
    rw [tgetD_tmod, if_pos rfl, tgetD_tmod, if_pos rfl, queue]
    rfl

end

/-- Settles O47. Each event acts at one step of the head command, so a command at another step, or a port with no head, is left
as it is. -/
theorem commandSteps : Obligations.CommandSteps := by
  intro s b p c no
  refine ⟨fun none_ => ⟨atPhase_none none_, atPhase_none none_, atPhase_none none_, atPhase_none none_⟩, State.head_stuck,
    fun head => ⟨fun other => atPhase_other head other,
      fun x now inst sent tokens => exec_doneTokenTake_takes head now inst sent tokens,
      fun x e now inst edge none_ => exec_doneTokenTake_waits head now inst edge none_,
      fun sema free => (atPhase_at head sema).trans (if_pos free),
      fun sema threshold waits => (atPhase_at head sema).trans ((if_neg threshold).trans (if_pos waits)),
      fun sema threshold first => ?_,
      fun sema threshold first alone met => exec_commandSemaphoreWait_met head sema threshold first alone met,
      fun run code => executing_running ⟨head, run, code⟩,
      fun finish settled => (atPhase_at head finish).trans (if_pos settled),
      fun finish unsettled => (atPhase_at head finish).trans (if_neg (Bool.eq_false_iff.1 unsettled)),
      s.cmdSettled_iff b no c,
      fun x finish settled inst edges near silent sets pairs => (atPhase_at head finish).trans ((if_pos settled).trans
        (congrArg _ (State.completeCmd_quiet inst edges near silent sets pairs))),
      fun other => atPhase_other head other⟩,
    fun x n e => State.edgeCount_sendDone, fun x n e full => if_pos full⟩
  exact exec_commandSemaphoreWait_joins head sema threshold first

end Sys2Proof.Machine
end

section
/-! Granules that a command moves whole (R65): what a read gives that takes the rest of a granule with it, and how many bytes that
rest has. -/

namespace Sys2Proof.Machine

open Claims (opens)

section
variable {s t u w : State} {ctx : Ctx} {read : State → Ctx → List Seg → Got} {q : Word} {n : Nat}
  {hold bs : List (Byte × Bool)} {more : Nat → Bool} {segs segs' : List Seg}

section
variable (addr : s.loadAddr ctx q n = .ok (t, segs))
include addr

theorem State.readAhead_held (enough : n ≤ hold.length) :
    s.readAhead ctx read q n hold more = .ok t (hold.take n) (hold.drop n) := by
  unfold State.readAhead
  rw [addr]
  exact if_pos enough

theorem State.readAhead_alone (short : hold.length < n) (alone : granuleRest segs = 0 ∨ more (granuleRest segs) = false)
    (got : read t ctx (dropRuns hold.length segs) = .ok u bs) :
    s.readAhead ctx read q n hold more = .ok u ((hold ++ bs).take n) ((hold ++ bs).drop n) := by
  have stops : (decide (granuleRest segs = 0) || !more (granuleRest segs)) = true := by
    rw [Bool.or_eq_true, decide_eq_true_eq, Bool.not_eq_true']
    exact alone
  unfold State.readAhead
  rw [addr]
  dsimp only
  rw [if_neg (Nat.not_le.2 short), if_pos stops]
  dsimp only
  rw [got]

theorem State.readAhead_whole (short : hold.length < n) (rest : granuleRest segs ≠ 0) (on : more (granuleRest segs) = true)
    (further : s.loadAddr ctx q (n + granuleRest segs) = .ok (w, segs'))
    (got : read w ctx (dropRuns hold.length segs') = .ok u bs) :
    s.readAhead ctx read q n hold more = .ok u ((hold ++ bs).take n) ((hold ++ bs).drop n) := by
  have goes : ¬ (decide (granuleRest segs = 0) || !more (granuleRest segs)) = true := by
    rw [Bool.or_eq_true, decide_eq_true_eq, Bool.not_eq_true', not_or, Bool.not_eq_false]
    exact ⟨rest, on⟩
  unfold State.readAhead
  rw [addr]
  dsimp only
  rw [if_neg (Nat.not_le.2 short), if_neg goes, further]
  dsimp only
  rw [got]

end

theorem State.readOpen_noFlt {l : List Seg} {f : Flt} : s.readOpen ctx l ≠ .flt f := by
  unfold State.readOpen
  split
  · nofun
  split <;> nofun

theorem State.readVia_noFlt {l : List Seg} {f : Flt} : s.readVia ctx l ≠ .flt f := by
  unfold State.readVia
  extract_lets held at_ ahead older
  split
  · split
    · nofun
    · exact State.readOpen_noFlt
  split
  · nofun
  split
  · nofun
  · cases read : s.readOpen ctx l with
    | ok => nofun
    | wait => nofun
    | flt f => exact absurd read State.readOpen_noFlt

/-- A fault of such a read is one of its address. -/
theorem State.loadAddr_of_readAhead {f : Flt} (bad : s.readAhead ctx State.readVia q n hold more = .flt f) :
    s.loadAddr ctx q n = .error f := by
  unfold State.readAhead at bad
  split at bad
  · cases bad
    assumption
  split at bad
  · cases bad
  extract_lets e r at bad
  split at bad
  · next read => exact absurd read State.readVia_noFlt
  · cases bad
  · cases bad

/-- A command has no store in the forwarding table: what it may read now it reads from memory. -/
theorem State.readVia_cmd {b p : Nat} {l : List Seg} (who : ctx.who = .cmd b p) (now : opens s ctx l) :
    s.readVia ctx l = .ok (s.readSegs ctx l).1 (s.readSegs ctx l).2 := by
  have none_ : s.ownHeld ctx = [] := by
    unfold State.ownHeld
    rw [who]
  rw [State.readVia_clear s ctx l (by rw [none_]; rfl), now.1, if_neg Bool.false_ne_true,
    State.readOpen_near (reaches_of_opens now)]

end

/-- The rest of the granule that the last run begins. -/
theorem granuleRest_concat (l : List Seg) (x : Seg) : granuleRest (l ++ [x]) =
    if (x.addr + x.len) % 32 = 0 ∨ (x.addr + x.len) / 32 * 32 < x.addr then 0 else 32 - (x.addr + x.len) % 32 := by
  unfold granuleRest
  rw [List.getLast?_concat]

theorem granuleRest_ends (l : List Seg) (a k : Nat) : granuleRest (l ++ [⟨a, k⟩]) < 32
    ∧ (granuleRest (l ++ [⟨a, k⟩]) ≠ 0 →
      (a + k + granuleRest (l ++ [⟨a, k⟩])) % 32 = 0 ∧ a ≤ (a + k) / 32 * 32 ∧ (a + k) % 32 ≠ 0) := by
  rw [granuleRest_concat]
  dsimp only
  split
  · exact ⟨by decide, fun h => absurd rfl h⟩
  · next begun =>
    rw [not_or, Nat.not_lt] at begun
    obtain ⟨inside, begins⟩ := begun
    exact ⟨by omega, fun _ => ⟨by omega, begins, inside⟩⟩

end Sys2Proof.Machine
end

section
/-! Commands that feed a channel, token by token (R217, R218, R220, R221, R226, R346): LDS, LDL and SPLRD, and the single-token
events. -/

namespace Sys2Proof.Machine

open Claims (running ends steps)

/-! ### The single-token events (R218, R219, R225) -/

/-- The iteration of a command that moves tokens, by its operation code. -/
def tokenOne (b p opc : Nat) : State → Cmd → Iter := match opc with
  | 0x01 => ldsOne b p
  | 0x02 => stsOne b p
  | 0x03 => ldlOne b p
  | 0x07 => sctOne b p
  | 0x08 => gthOne b
  | 0x09 => updsOne b p
  | 0x0C => adrnOne b
  | 0x0D => asortOne b
  | _ => splrdOne b p

theorem oneToken_running {s : State} {b p opc : Nat} {c : Cmd} {ops : List Nat} (run : running s b p opc c)
    (here : ops.contains opc = true) :
    oneToken b p ops s = .next ((tokenOne b p opc s c).after b p c (opc == 0x01 || opc == 0x08)) := by
  obtain ⟨head, phase, code⟩ := run
  refine (atPhase_at head phase).trans ?_
  dsimp only
  rw [code, here, ← State.iterate_head head]
  rfl

section
variable {s : State} {b : Nat} {p : Port} {c : Cmd}

theorem exec_engineTokenTake_sts (run : running s b p.toNat 0x02 c) : exec (.engineTokenTake b p) s = exec (.sts b p) s :=
  (oneToken_running run rfl).trans (runCmd_running run).symm

theorem exec_engineTokenTake_sct (run : running s b p.toNat 0x07 c) (other : p.toNat ≠ 0x2B) :
    exec (.engineTokenTake b p) s = exec (.sct b p) s :=
  (oneToken_running run rfl).trans ((if_neg other).trans (runCmd_running run)).symm

theorem exec_engineTokenTake_upds (run : running s b p.toNat 0x09 c) : exec (.engineTokenTake b p) s = exec (.upds b p) s :=
  (oneToken_running run rfl).trans (runCmd_running run).symm

/-! ### Local loads (R346) -/

theorem State.localHead_eq {p : Nat} (head : s.head b p = some c) : s.localHead b p = s.localLoad b p c := by
  unfold State.localHead
  rw [head]
  rfl

/-- The next token of a command that is no LDS is not a local load. -/
theorem State.localHead_other {p opc : Nat} (run : running s b p opc c) (other : opc ≠ 0x01) : s.localHead b p = false := by
  obtain ⟨head, phase, code⟩ := run
  rw [State.localHead_eq head]
  unfold State.localLoad
  rw [code, beq_false_of_ne other, Bool.and_false, Bool.false_and, Bool.false_and]

theorem exec_engineTokenPush_ldl (run : running s b p.toNat 0x03 c) : exec (.engineTokenPush b p) s = exec (.ldl b p) s :=
  (if_neg (Bool.eq_false_iff.1 (State.localHead_other run (by decide)))).trans
    ((oneToken_running run rfl).trans (runCmd_running run).symm)

theorem exec_engineTokenPush_splrd (run : running s b p.toNat 0x10 c) : exec (.engineTokenPush b p) s = exec (.splrd b p) s :=
  (if_neg (Bool.eq_false_iff.1 (State.localHead_other run (by decide)))).trans
    ((oneToken_running run rfl).trans (runCmd_running run).symm)

/-- A local load moves as bay cycles pass. -/
theorem exec_lds_local (here : s.localHead b p.toNat = true) :
    exec (.lds b p) s = .next s ∧ exec (.engineTokenPush b p) s = .next s :=
  ⟨if_pos here, if_pos here⟩

theorem exec_lds_away {o : Iter} (run : running s b p.toNat 0x01 c) (away : s.localHead b p.toNat = false)
    (gives : ldsOne b p.toNat s c = o) : exec (.lds b p) s = .next (o.after b p.toNat c true)
      ∧ exec (.engineTokenPush b p) s = .next (o.after b p.toNat c true) :=
  ⟨(if_neg (Bool.eq_false_iff.1 away)).trans (runCmd_gives run gives),
    (if_neg (Bool.eq_false_iff.1 away)).trans (gives ▸ oneToken_running run rfl)⟩

theorem localCycles_one {p : Nat} {o : Iter} (head : s.head b p = some c) (here : s.localHead b p = true)
    (gives : ldsOne b p s c = o) : localCycles b p 1 s = o.after b p c true :=
  (if_pos here).trans (gives ▸ State.iterate_head head)

end

/-! ### LDS (R218, R220) -/

section
variable {s t : State} {b p : Nat} {c : Cmd} {x : Inst} {k : Nat} {r : ChanRec} {q : Word} {l rest : List (Byte × Bool)}

theorem State.localLoad_end (past : cb c.word 12 0 ≤ c.pos) : s.localLoad b p c = false := by
  unfold State.localLoad
  rw [decide_eq_false (Nat.not_lt.2 past), Bool.and_false, Bool.false_and]

variable (feed : s.extIn b (cb c.word 19 13) = some (x, k, r))
include feed

/-- A token that has no address is not a local load. -/
theorem State.localLoad_unformed
    (bad : ∀ q, tokenPtr c c.pos (fmtSize r.fmtp) = some q → ∃ f, s.loadAddr (s.cmdCtx b p) q (fmtSize r.fmtp) = .error f) :
    s.localLoad b p c = false := by
  unfold State.localLoad
  rw [feed]
  dsimp only
  cases ptr : tokenPtr c c.pos (fmtSize r.fmtp) with
  | none => exact Bool.and_false _
  | some q =>
    obtain ⟨f, bad⟩ := bad q ptr
    dsimp only
    rw [bad]
    exact Bool.and_false _

theorem ldsOne_end (past : cb c.word 12 0 ≤ c.pos) : ldsOne b p s c = endFeed c x k s := by
  unfold ldsOne
  rw [feed]
  exact if_pos past

section
variable (more : c.pos < cb c.word 12 0) (free : s.feedGated x r (x.chan k) = false)
include more free

/-- The token at the place of an LDS whose channel accepts tokens. -/
theorem ldsOne_more : ldsOne b p s c = withPtr s (cPtr c.word) (tokenPtr c c.pos (fmtSize r.fmtp)) fun q =>
    match s.readAhead (s.cmdCtx b p) State.readVia q (fmtSize r.fmtp) c.held
      (tokensFollow c (cb c.word 12 0) (fmtSize r.fmtp) q) with
    | .flt f => .flt s f
    | .wait s => .wait s
    | .ok s' l rest =>
      if feedRoom x r (x.chan k) c.region then
        .go (((s'.feedTok b p x k (tokFrom b c l)).advance b p).modHead b p (Cmd.hold rest))
      else .wait s := by
  unfold ldsOne
  rw [feed]
  exact (if_neg (Nat.not_le.2 more)).trans (if_neg (Bool.eq_false_iff.1 free))

theorem ldsOne_bound (none_ : tokenPtr c c.pos (fmtSize r.fmtp) = none) : ldsOne b p s c = .flt s (.mk0 0x08 (cPtr c.word)) := by
  rw [ldsOne_more feed more free, none_]
  rfl

variable (ptr : tokenPtr c c.pos (fmtSize r.fmtp) = some q)
include ptr

theorem ldsOne_fault {f : Flt} (bad : s.readAhead (s.cmdCtx b p) State.readVia q (fmtSize r.fmtp) c.held
    (tokensFollow c (cb c.word 12 0) (fmtSize r.fmtp) q) = .flt f) : ldsOne b p s c = .flt s f := by
  rw [ldsOne_more feed more free, ptr]
  unfold withPtr
  dsimp only
  rw [bad]

theorem ldsOne_token (reads : s.readAhead (s.cmdCtx b p) State.readVia q (fmtSize r.fmtp) c.held
    (tokensFollow c (cb c.word 12 0) (fmtSize r.fmtp) q) = .ok t l rest) : ldsOne b p s c =
      if feedRoom x r (x.chan k) c.region then
        .go (((t.feedTok b p x k (tokFrom b c l)).advance b p).modHead b p (Cmd.hold rest))
      else .wait s := by
  rw [ldsOne_more feed more free, ptr]
  unfold withPtr
  dsimp only
  rw [reads]

end

/-! ### LDL (R221) -/

theorem ldlOne_end (past : ptrOff c.ptr = 0 ∨ (cb c.word 6 0 ≠ 0 ∧ cb c.word 6 0 ≤ c.pos)) :
    ldlOne b p s c = endFeed c x k s := by
  unfold ldlOne
  rw [feed]
  exact if_pos past

theorem ldlOne_node (node : ptrOff c.ptr ≠ 0) (more : cb c.word 6 0 = 0 ∨ c.pos < cb c.word 6 0)
    (free : s.feedGated x r (x.chan k) = false) (got : s.load (s.cmdCtx b p) c.ptr (fmtSize r.fmtp) = .ok t l)
    (room : feedRoom x r (x.chan k) c.region = true) : ldlOne b p s c =
      .go ((t.feedTok b p x k (tokFrom b c l)).modHead b p fun z => { z with
        pos := z.pos + 1, ptr := mkPtr (ptrH (cPtr z.word)) (gotNat ((l.drop (8 * cb c.word 12 7)).take 8)) }) := by
  have goes : ¬ (ptrOff c.ptr = 0 ∨ (cb c.word 6 0 ≠ 0 ∧ c.pos ≥ cb c.word 6 0)) := by omega
  unfold ldlOne
  rw [feed]
  dsimp only
  rw [if_neg goes, if_neg (Bool.eq_false_iff.1 free)]
  unfold readIter
  rw [got]
  exact if_pos room

/-! ### SPLRD (R226) -/

theorem splrdOne_end (past : cb c.word 12 0 ≤ c.pos) : splrdOne b p s c = endFeed c x k s := by
  unfold splrdOne
  rw [feed]
  exact if_pos past

theorem splrdOne_token {z : ChanRec} {tk : Tok} (more : c.pos < cb c.word 12 0) (free : s.feedGated x r (x.chan k) = false)
    (chan : x.image.chans[cb c.word 83 68]? = some z) (filled : (x.chan (cb c.word 83 68)).ringCount ≠ 0)
    (room : feedRoom x r (x.chan k) c.region = true) (pop : s.ringPop x (cb c.word 83 68) z = some (t, tk)) :
    splrdOne b p s c = .go (steps ((t.modChan x.field x.id (cb c.word 83 68) fun ch =>
      { ch with consumed := ch.consumed + z.k
                seen := if t.crossing x z then ch.seen else ch.consumed + z.k }).feedTok b p x k tk) b p) := by
  unfold splrdOne
  rw [feed]
  dsimp only
  rw [if_neg (Nat.not_le.2 more), if_neg (Bool.eq_false_iff.1 free), chan]
  dsimp only
  rw [if_neg filled, room, pop]
  rfl

end

end Sys2Proof.Machine
end

section
/-! Commands that drain a channel or the scratchpad, token by token (R219, R225, R290, R231): STS with the bytes it holds of a
granule, SCT, and UPDS. -/

namespace Sys2Proof.Machine

open Claims (running ends steps opens)

section
variable {s t u w : State} {b p : Nat} {c : Cmd} {x : Inst} {k : Nat} {r : ChanRec} {tk : Tok} {q q0 : Word} {segs : List Seg}

theorem State.drainHead_some {n : Nat} (drain : s.drainHead b n = some (x, k, r, tk)) :
    s.extOut b n = some (x, k, r) ∧ (x.chan k).seenToks.head? = some tk := by
  unfold State.drainHead at drain
  split at drain
  · cases drain
  · next out =>
    obtain ⟨_, head, same⟩ := Option.map_eq_some_iff.1 drain
    cases same
    exact ⟨out, head⟩

/-! ### The bytes that an STS holds (R65) -/

theorem putHeld_none (none_ : c.held = []) (f : State → Iter) : putHeld b p s c q f = f s := if_pos none_

theorem putHeld_writes (some_ : c.held ≠ []) (before : offsetAdd q (-(c.held.length : Int)) = some q0)
    (addr : s.storeAddr (s.cmdCtx b p) q0 c.held.length = .ok (u, segs)) (now : opens u (s.cmdCtx b p) segs) (f : State → Iter) :
    putHeld b p s c q f = f ((u.writeSegs (s.cmdCtx b p) segs c.held).modHead b p (Cmd.hold [])) := by
  unfold putHeld
  rw [if_neg some_, before]
  unfold withPtr
  dsimp only
  rw [addr]
  dsimp only
  rw [State.writeVia_opens now]

/-! ### STS (R219) -/

theorem stsOne_end (past : cb c.word 12 0 ≤ c.pos) : stsOne b p s c = .done s := by
  unfold stsOne
  exact if_pos past

section
variable (more : c.pos < cb c.word 12 0)
include more

/-- With no token at its port and no byte held, an STS waits. -/
theorem stsOne_waits (none_ : s.drainHead b (cb c.word 19 13) = none) (empty : c.held = []) : stsOne b p s c = .wait s := by
  unfold stsOne
  rw [if_neg (Nat.not_le.2 more)]
  unfold State.drainHead at none_
  split
  · rfl
  · next out =>
    rw [out] at none_
    dsimp only
    rw [Option.map_eq_none_iff.1 none_]
    refine if_pos ?_
    rw [decide_eq_true empty, Bool.true_or]

/-- At the end of the channel's stream the bytes held are stored as they stand. -/
theorem stsOne_closed (out : s.extOut b (cb c.word 19 13) = some (x, k, r)) (none_ : (x.chan k).seenToks = [])
    (closed : (x.chan k).closed = true) (done : (x.chan k).left = 0) (some_ : c.held ≠ [])
    (ptr : tokenPtr c c.pos (fmtSize r.fmtc) = some q) (before : offsetAdd q (-(c.held.length : Int)) = some q0)
    (addr : s.storeAddr (s.cmdCtx b p) q0 c.held.length = .ok (u, segs)) (now : opens u (s.cmdCtx b p) segs) :
    stsOne b p s c = .go ((u.writeSegs (s.cmdCtx b p) segs c.held).modHead b p (Cmd.hold [])) := by
  have flush : ¬ (decide (c.held = []) || !((x.chan k).closed && decide ((x.chan k).left = 0))) = true := by
    rw [decide_eq_false some_, closed, decide_eq_true done]
    exact Bool.false_ne_true
  unfold stsOne
  rw [if_neg (Nat.not_le.2 more), out]
  dsimp only
  rw [none_, List.head?_nil]
  dsimp only
  rw [if_neg flush, ptr]
  exact putHeld_writes some_ before addr now .go

section
variable (drain : s.drainHead b (cb c.word 19 13) = some (x, k, r, tk)) (ptr : tokenPtr c c.pos (fmtSize r.fmtc) = some q)
include drain ptr

/-- A token whose store faults: the bytes held are stored as they stand, then the fault is the command's. -/
theorem stsOne_fault {f : Flt} (bad : s.storeAddr (s.cmdCtx b p) q (fmtSize r.fmtc) = .error f) :
    stsOne b p s c = putHeld b p s c q fun s => .flt s f := by
  obtain ⟨out, head⟩ := State.drainHead_some drain
  unfold stsOne
  rw [if_neg (Nat.not_le.2 more), out]
  dsimp only
  rw [head, ptr]
  unfold withPtr
  dsimp only
  rw [bad]

/-- Bytes of the token at hand and of those held that wait for the rest of their granule: those before its last `e` bytes, where
the command's tokens go on over it and it can be stored. -/
def stsKeep (b p : Nat) (s : State) (c : Cmd) (sz : Nat) (q q0 : Word) (n e : Nat) : Nat :=
  let whole : Bool := match s.storeAddr (s.cmdCtx b p) q0 (n + e) with
    | .ok _ => true
    | .error _ => false
  if e ≠ 0 && tokensFollow c (cb c.word 12 0) sz q e && whole then 32 - e else 0

section
variable {v : State × List Seg} (formed : s.storeAddr (s.cmdCtx b p) q (fmtSize r.fmtc) = .ok v)
  (before : offsetAdd q (-(c.held.length : Int)) = some q0)
  (addr : s.storeAddr (s.cmdCtx b p) q0 (c.held ++ tokOut (fmtSize r.fmtc) tk).length = .ok (u, segs))
include formed before addr

/-- A token whose store is formed, with the bytes held before it. -/
theorem stsOne_formed :
    let all := c.held ++ tokOut (fmtSize r.fmtc) tk
    let now := all.length - stsKeep b p s c (fmtSize r.fmtc) q q0 all.length (granuleRest segs)
    let went (s : State) : Iter := .go ((steps (s.takeToks x k r 1) b p).modHead b p (Cmd.hold (all.drop now)))
    stsOne b p s c = if now = 0 then went u
      else match u.writeVia (s.cmdCtx b p) (cutRuns (segs.map fun y => (y.addr, y.len)) 0 now) (all.take now) with
        | .flt f => .flt s f
        | .wait s => .wait s
        | .ok s => went s := by
  obtain ⟨out, head⟩ := State.drainHead_some drain
  unfold stsOne
  rw [if_neg (Nat.not_le.2 more), out]
  dsimp only
  rw [head, ptr]
  unfold withPtr
  dsimp only
  rw [formed]
  dsimp only
  rw [before]
  dsimp only
  rw [addr]
  rfl

/-- Such a token goes to memory with the bytes held, as far as they do not wait for the rest of a granule. -/
theorem stsOne_token {now : Nat} (cut : (c.held ++ tokOut (fmtSize r.fmtc) tk).length - stsKeep b p s c (fmtSize r.fmtc) q q0
      (c.held ++ tokOut (fmtSize r.fmtc) tk).length (granuleRest segs) = now)
    (stored : now = 0 ∧ w = u ∨ now ≠ 0 ∧ u.writeVia (s.cmdCtx b p) (cutRuns (segs.map fun y => (y.addr, y.len)) 0 now)
      ((c.held ++ tokOut (fmtSize r.fmtc) tk).take now) = .ok w) :
    stsOne b p s c = .go ((steps (w.takeToks x k r 1) b p).modHead b p
      (Cmd.hold ((c.held ++ tokOut (fmtSize r.fmtc) tk).drop now))) := by
  refine (stsOne_formed more drain ptr formed before addr).trans ?_
  rw [cut]
  rcases stored with ⟨none_, rfl⟩ | ⟨some_, stored⟩
  · exact if_pos none_
  · rw [if_neg some_, stored]

end

end

end

theorem stsKeep_waits {sz n e : Nat} {z : State × List Seg} (rest : e ≠ 0) (follow : tokensFollow c (cb c.word 12 0) sz q e = true)
    (further : s.storeAddr (s.cmdCtx b p) q0 (n + e) = .ok z) : stsKeep b p s c sz q q0 n e = 32 - e := by
  unfold stsKeep
  rw [further]
  refine if_pos ?_
  rw [follow, decide_eq_true rest]
  rfl

theorem stsKeep_none {sz n e : Nat} (stops : e = 0 ∨ tokensFollow c (cb c.word 12 0) sz q e = false
    ∨ ∃ f, s.storeAddr (s.cmdCtx b p) q0 (n + e) = .error f) : stsKeep b p s c sz q q0 n e = 0 := by
  refine if_neg ?_
  rcases stops with none_ | alone | ⟨f, bad⟩
  · rw [decide_eq_false (not_not.2 none_)]
    exact Bool.false_ne_true
  · rw [alone, Bool.and_false]
    exact Bool.false_ne_true
  · rw [bad]
    dsimp only
    rw [Bool.and_false]
    exact Bool.false_ne_true

/-! ### SCT (R225) -/

theorem sctOne_end (past : cb c.word 10 0 ≤ c.pos) : sctOne b p s c = .done s := by
  unfold sctOne
  exact if_pos past

theorem sctOne_pair (more : c.pos < cb c.word 10 0) (drain : s.drainHead b (cb c.word 19 13) = some (x, k, r, tk))
    (ptr : offsetAdd (cPtr c.word) ((bits tk.data.toNat 51 0 : Nat) : Int) = some q)
    (addr : s.storeAddr (s.cmdCtx b p) q (((tokOut 16 tk).drop 8).take (2 ^ cb c.word 12 11)).length = .ok (u, segs))
    (now : opens u (s.cmdCtx b p) segs) : sctOne b p s c =
      .go (steps ((u.writeSegs (s.cmdCtx b p) segs (((tokOut 16 tk).drop 8).take (2 ^ cb c.word 12 11))).takeToks x k r 1) b p) := by
  unfold sctOne
  rw [if_neg (Nat.not_le.2 more), drain]
  dsimp only
  rw [ptr]
  unfold withPtr storeTok
  dsimp only
  rw [addr]
  dsimp only
  rw [State.writeVia_opens now]
  rfl

/-! ### UPDS (R290) -/

theorem updsOne_end (past : cb c.word 15 0 ≤ c.pos) : updsOne b p s c = .done s := by
  unfold updsOne
  exact if_pos past

theorem updsPairAt_sends {w : Word} {v : Nat → Nat} {bad : Bool} {pr : Pair} (f : State → Iter)
    (pair : s.pairOf (s.cmdCtx b p) w v bad = .ok (t, pr)) : updsPairAt b p s w v bad f =
      f ((t.sendPair pr).notePoisonSent ((t.bay b).inst.getD (0, 0)).1 ((t.bay b).inst.getD (0, 0)).2 bad) := by
  unfold updsPairAt
  rw [pair]

section
variable {pr : Pair} (more : c.pos < cb c.word 15 0)
include more

section
variable (tokens : c.word.getLsbD 71 = false)
include tokens

theorem updsOne_waits (none_ : s.drainHead b (cb c.word 60 54) = none) : updsOne b p s c = .wait s := by
  unfold updsOne
  rw [if_neg (Nat.not_le.2 more), if_neg (Bool.eq_false_iff.1 tokens), none_]

theorem updsOne_token (drain : s.drainHead b (cb c.word 60 54) = some (x, k, r, tk)) {bad : Bool}
    (poison : decide (bits tk.poison.toNat 3 2 ≠ 0) = bad)
    (pair : s.pairOf (s.cmdCtx b p) (mkPtr (cb c.word 83 72) (bits tk.data.toNat 63 0)) (updVal (bits tk.data.toNat 127 64)) bad
      = .ok (t, pr)) : updsOne b p s c = .go (steps (((t.sendPair pr).notePoisonSent ((t.bay b).inst.getD (0, 0)).1
        ((t.bay b).inst.getD (0, 0)).2 bad).takeToks x k r 1) b p) := by
  unfold updsOne
  rw [if_neg (Nat.not_le.2 more), if_neg (Bool.eq_false_iff.1 tokens), drain]
  dsimp only
  rw [poison, updsPair_eq, updsPairAt_sends _ pair]
  rfl

end

/-- A pair of the scratchpad is read as 16 bytes there. -/
theorem updsOne_scratch (scratch : c.word.getLsbD 71 = true) {l : List (Byte × Bool)}
    (now : opens s (s.cmdCtx b p) [⟨s.ga (windowAddr b (8 * cb c.word 70 54 + 16 * c.pos)), 16⟩])
    (got : s.readSegs (s.cmdCtx b p) [⟨s.ga (windowAddr b (8 * cb c.word 70 54 + 16 * c.pos)), 16⟩] = (u, l))
    (pair : u.pairOf (u.cmdCtx b p) (mkPtr (cb c.word 83 72) (gotNat (l.take 8))) (updVal (gotNat (l.drop 8)))
      (gotPoison (l.drop 8)) = .ok (t, pr)) : updsOne b p s c = .go (steps ((t.sendPair pr).notePoisonSent
        ((t.bay b).inst.getD (0, 0)).1 ((t.bay b).inst.getD (0, 0)).2 (gotPoison (l.drop 8))) b p) := by
  unfold updsOne
  rw [if_neg (Nat.not_le.2 more), if_pos scratch]
  dsimp only
  rw [State.readVia_cmd (s.cmdCtx_who b p) now, got]
  dsimp only
  rw [updsPair_eq, updsPairAt_sends _ pair]
  rfl

end

end

/-! ### The events (R219, R225) -/

section
variable {s : State} {b : Nat} {p : Port} {c : Cmd}

/-- SCT runs at a store element, or at the Gleaner. -/
theorem exec_sct_running {o : Iter} (run : running s b p.toNat 0x07 c) (gives : sctOne b p.toNat s c = o) :
    (p.toNat ≠ 0x2B → exec (.sct b p) s = .next (o.after b p.toNat c false))
      ∧ (p.toNat = 0x2B → exec (.sctGleaner b) s = .next (o.after b p.toNat c false)) := by
  refine ⟨fun other => (if_neg other).trans (runCmd_gives run gives), fun at_ => ?_⟩
  rw [at_] at run gives ⊢
  exact runCmd_gives run gives

end

end Sys2Proof.Machine
end

section
/-! The statement about the commands that feed and drain channels, from what one iteration of each gives. -/

namespace Sys2Proof.Machine

open Claims (running ends steps opens)

section
variable {s t : State} {b : Nat} {p : Port} {c : Cmd} {x : Inst} {k : Nat} {r : ChanRec} {q : Word} {l rest : List (Byte × Bool)}

theorem exec_lds_token (run : running s b p.toNat 0x01 c) (feed : s.extIn b (cb c.word 19 13) = some (x, k, r))
    (more : c.pos < cb c.word 12 0) (free : s.feedGated x r (x.chan k) = false)
    (ptr : tokenPtr c c.pos (fmtSize r.fmtp) = some q)
    (reads : s.readAhead (s.cmdCtx b p.toNat) State.readVia q (fmtSize r.fmtp) c.held
      (tokensFollow c (cb c.word 12 0) (fmtSize r.fmtp) q) = .ok t l rest) :
    let u := (steps (t.feedTok b p.toNat x k (tokFrom b c l)) b p.toNat).modHead b p.toNat (Cmd.hold rest)
    (feedRoom x r (x.chan k) c.region = true → s.localHead b p.toNat = false →
      exec (.lds b p) s = .next u ∧ exec (.engineTokenPush b p) s = .next u)
    ∧ (feedRoom x r (x.chan k) c.region = true → s.localHead b p.toNat = true → localCycles b p.toNat 1 s = u)
    ∧ (feedRoom x r (x.chan k) c.region = false → exec (.lds b p) s = .next s ∧ exec (.engineTokenPush b p) s = .next s) := by
  have gives := ldsOne_token feed more free ptr reads
  refine ⟨fun room away => exec_lds_away run away (gives.trans (if_pos room)),
    fun room here => localCycles_one run.1 here (gives.trans (if_pos room)), fun full => ?_⟩
  cases here : s.localHead b p.toNat with
  | true => exact exec_lds_local here
  | false => exact exec_lds_away run here (gives.trans (if_neg (Bool.eq_false_iff.1 full)))

/-- A token whose address cannot be formed is no local load: its fault ends the command in an event of its own. -/
theorem exec_lds_fault {f : Flt} (run : running s b p.toNat 0x01 c) (feed : s.extIn b (cb c.word 19 13) = some (x, k, r))
    (bad : ∀ q, tokenPtr c c.pos (fmtSize r.fmtp) = some q →
      ∃ f, s.loadAddr (s.cmdCtx b p.toNat) q (fmtSize r.fmtp) = .error f)
    (gives : ldsOne b p.toNat s c = .flt s f) : exec (.lds b p) s = .next (s.cmdFlt b p.toNat c f true) :=
  (exec_lds_away run ((State.localHead_eq run.1).trans (State.localLoad_unformed feed bad)) gives).1

end

/-- Settles O48. Each clause is what one iteration of its command gives, at the head of its port. -/
theorem streamTokens : Obligations.StreamTokens := by
  intro s t b p c x k r q l no ctx feed free room closes sz reads
  refine ⟨fun read n hold more segs addr => ⟨State.readAhead_held addr, fun u bs => State.readAhead_alone addr,
      fun u w segs' bs => State.readAhead_whole addr⟩,
    fun l a k _ => granuleRest_ends l a k,
    fun run feed past => exec_lds_away run ((State.localHead_eq run.1).trans (State.localLoad_end past)) (ldsOne_end feed past),
    fun rest run feed more free ptr reads => exec_lds_token run feed more free ptr reads,
    exec_lds_local,
    fun run feed more free none_ =>
      exec_lds_fault run feed (fun q ptr => nomatch none_.symm.trans ptr) (ldsOne_bound feed more free none_),
    fun f run feed more free ptr bad => exec_lds_fault run feed
      (fun q' ptr' => ⟨f, Option.some.inj (ptr.symm.trans ptr') ▸ State.loadAddr_of_readAhead bad⟩)
      (ldsOne_fault feed more free ptr bad),
    fun run feed past => runCmd_gives run (ldlOne_end feed past),
    fun run feed node more free got room => runCmd_gives run (ldlOne_node feed node more free got room),
    fun z tk run feed more free chan filled room pop => runCmd_gives run (splrdOne_token feed more free chan filled room pop),
    fun run feed past => runCmd_gives run (splrdOne_end feed past),
    fun run past => runCmd_gives run (stsOne_end past), ?_, ?_,
    fun run more none_ empty => runCmd_gives run (stsOne_waits more none_ empty),
    fun q0 u segs run more out none_ closed done some_ ptr before addr now =>
      runCmd_gives run (stsOne_closed more out none_ closed done some_ ptr before addr now),
    fun tk segs u run more drain ptr addr now => exec_sct_running run (sctOne_pair more drain ptr addr now),
    fun run past => exec_sct_running run (sctOne_end past),
    fun tk pr run more tokens drain pair => runCmd_gives run (updsOne_token more tokens drain rfl pair),
    fun pr run more scratch now pair => runCmd_gives run (updsOne_scratch more scratch now rfl pair),
    fun run past => runCmd_gives run (updsOne_end past),
    fun run more tokens none_ => runCmd_gives run (updsOne_waits more tokens none_),
    exec_engineTokenTake_sts, exec_engineTokenTake_sct, exec_engineTokenTake_upds, exec_engineTokenPush_ldl,
    exec_engineTokenPush_splrd⟩
  · intro tk segs u v z q0 keep run more drain ptr formed before all addr e follow kept now at_ goes
    have cut : all.length - stsKeep b no s c (fmtSize r.fmtc) q q0 all.length e = now := by
      rcases kept with ⟨kept, rest, follows, further⟩ | ⟨kept, stops⟩
      · rw [stsKeep_waits rest follows further, ← kept]
      · rw [stsKeep_none stops, ← kept]
    have gives {w : State} := stsOne_token (w := w) more drain ptr formed before addr cut
    exact ⟨fun none_ => runCmd_gives run (gives (.inl ⟨none_, rfl⟩)),
      fun some_ may => runCmd_gives run (gives (.inr ⟨some_, State.writeVia_opens may _⟩))⟩
  · intro tk f run more drain ptr bad
    have gives := stsOne_fault more drain ptr bad
    refine ⟨fun none_ => ?_, fun q0 u segs some_ before addr now => ?_⟩
    · exact (runCmd_gives run (gives.trans (putHeld_none none_ _))).trans (congrArg _ (State.cmdFlt_fails ..))
    · exact (runCmd_gives run (gives.trans (putHeld_writes some_ before addr now _))).trans (congrArg _ (State.cmdFlt_fails ..))

end Sys2Proof.Machine
end

section
/-! The pieces of CPY and FILL (R60, R65, R222, R224, R228): what comes before the first byte, and the one piece that an event
moves, whole or least. -/

namespace Sys2Proof.Machine

open Claims (running ends reaches)

/-! ### Before the first byte (R60, R222) -/

section
variable {s t z : State} {b p : Nat} {c : Cmd} {w : State × List Seg} {out : Option Flt} {k : State → Iter}

/-- The state from which the piece at hand of a copy moves: its own, or the one that has tested the destination range `w` and taken
its entry there. -/
def copyStarts (s : State) (b p : Nat) (c : Cmd) (w : State × List Seg) (out : Option Flt) (z : State) : Prop :=
  (c.pos ≠ 0 ∧ z = s) ∨ (c.pos = 0 ∧ out = none ∧ w.1.takeInbound b p c w.2 = (z, true))

theorem beforeCopy_starts (starts : copyStarts s b p c w out z) :
    beforeCopy b p (if c.pos = 0 then w.1 else s) c out w.2 k = k z := by
  unfold beforeCopy
  rcases starts with ⟨further, rfl⟩ | ⟨first, rfl, entered⟩
  · rw [if_pos further, if_neg further]
  · rw [if_neg (not_not.2 first), if_pos first]
    dsimp only
    rw [entered]
    rfl

theorem beforeCopy_fault {f : Flt} (first : c.pos = 0) :
    beforeCopy b p (if c.pos = 0 then w.1 else s) c (some f) w.2 k = .flt w.1 f := by
  unfold beforeCopy
  rw [if_neg (not_not.2 first), if_pos first]

theorem beforeCopy_waits (first : c.pos = 0) (waits : w.1.takeInbound b p c w.2 = (t, false)) :
    beforeCopy b p (if c.pos = 0 then w.1 else s) c none w.2 k = .wait t := by
  unfold beforeCopy
  rw [if_neg (not_not.2 first), if_pos first]
  dsimp only
  rw [waits]
  rfl

end

/-- A range that runs out of the windows it begins in has its fault at the pointer. -/
theorem spanFlt_out {loc : Bool} {dst : Word} {l : List Seg} {k : Nat} {f : Flt} (one : spanFault l = none) (some_ : k ≠ 0)
    (window : f.code = 0x0B) : spanFlt loc dst l (some (k, f)) = some { f with faddr := dst } := by
  unfold spanFlt
  rw [one]
  exact if_pos ⟨some_, window⟩

/-! ### Pieces -/

theorem pieceLen_within (a : Nat) {left : Nat} (some_ : 0 < left) : 0 < pieceLen a left ∧ pieceLen a left ≤ left
    ∧ pieceLen a left ≤ 32 ∧ a / 32 = (a + pieceLen a left - 1) / 32 := by
  unfold pieceLen
  have low : Nat.min (32 - a % 32) left ≤ 32 - a % 32 := Nat.min_le_left ..
  have fits : Nat.min (32 - a % 32) left ≤ left := Nat.min_le_right ..
  have pos : 0 < Nat.min (32 - a % 32) left := Nat.lt_min.2 ⟨by omega, some_⟩
  generalize Nat.min (32 - a % 32) left = n at low fits pos
  omega

theorem unitLen_within (a : Nat) {left : Nat} (some_ : 0 < left) : 0 < unitLen a left ∧ unitLen a left ≤ pieceLen a left := by
  unfold unitLen pieceLen
  extract_lets l
  split
  · exact ⟨Nat.lt_min.2 ⟨by omega, some_⟩, Nat.le_min.2 ⟨(Nat.min_le_left ..).trans (by omega), Nat.min_le_right ..⟩⟩
  · exact ⟨Nat.one_pos, Nat.le_min.2 ⟨by omega, some_⟩⟩

/-- Ranges apart leave the bytes read as they are. -/
theorem State.cpySource_apart {s : State} {src dst : List Seg} {l : List (Byte × Bool)} (a : List Nat)
    (apart : ∀ x ∈ src, ∀ y ∈ dst, x.addr + x.len ≤ y.addr ∨ y.addr + y.len ≤ x.addr) : s.cpySource src dst a l = l := by
  have laps : (src.any fun x => dst.any fun y =>
      decide (x.addr < y.addr + y.len) && decide (y.addr < x.addr + x.len)) = false := by
    refine List.any_eq_false.2 fun x hx => Bool.eq_false_iff.1 (List.any_eq_false.2 fun y hy => ?_)
    rw [Bool.and_eq_true, decide_eq_true_eq, decide_eq_true_eq]
    have := apart x hx y hy
    omega
  unfold State.cpySource
  rw [laps]
  rfl

/-- A piece `l` of a copy written at `segs`, with `rest` read past it. -/
def State.placed (s : State) (b p : Nat) (segs : List Seg) (l rest : List (Byte × Bool)) : State :=
  ((s.writeSegs (s.cmdCtx b p) segs l).unitsThrough s (((s.queue b p).head?.map copyHandle).getD 0)).modHead b p
    fun y => { Cmd.hold rest y with pos := y.pos + l.length }

theorem putPiece_near {s : State} {b p : Nat} {segs : List Seg} {l rest : List (Byte × Bool)}
    (near : reaches s (s.cmdCtx b p) segs) : putPiece b p s segs l rest = .go (s.placed b p segs l rest) := by
  unfold putPiece
  rw [State.writeOpen_near near]
  rfl

/-- The second of two iterations where the first faults. -/
def Iter.orElse (i j : Iter) : Iter := match i with
  | .flt _ _ => j
  | r => r

/-! ### CPY (R222) -/

/-- A piece of `n` bytes of a CPY, from `q` on. -/
def cpyMove (b p : Nat) (c : Cmd) (ctx : Ctx) (src dst : List Seg) (q : Word) (s : State) (n : Nat) : Iter :=
  match s.readAhead ctx State.readOpen q n c.held fun e => decide (c.pos + n + e ≤ cpyLen c) with
  | .flt f => .flt s f
  | .wait s => .wait s
  | .ok s l rest => match s.cpyDest b p c c.pos n with
    | .error f => .flt s f
    | .ok (s, segs) => putPiece b p s segs (s.cpySource src dst (segBytes segs) l) rest

/-- The fault of a CPY's destination range. -/
def State.cpyFault (s : State) (b p : Nat) (c : Cmd) : Option Flt :=
  spanFlt (!cX c.word) (ePtr c.ext) (s.cpyRange b p c).2
    (if cX c.word then s.rangeOut (s.cmdCtx b p) c (ePtr c.ext) (cpyLen c) else none)

section
variable {s z v t o u : State} {b p n : Nat} {c : Cmd} {q : Word} {f : Flt} {ctx : Ctx} {src dst segs : List Seg}
  {l rest : List (Byte × Bool)}

theorem cpyMove_goes
    (reads : z.readAhead ctx State.readOpen q n c.held (fun e => decide (c.pos + n + e ≤ cpyLen c)) = .ok t l rest)
    (addr : t.cpyDest b p c c.pos n = .ok (u, segs)) (near : reaches u (u.cmdCtx b p) segs) :
    cpyMove b p c ctx src dst q z n = .go (u.placed b p segs (u.cpySource src dst (segBytes segs) l) rest) := by
  unfold cpyMove
  rw [reads]
  dsimp only
  rw [addr]
  exact putPiece_near near

theorem cpyMove_unread
    (bad : z.readAhead ctx State.readOpen q n c.held (fun e => decide (c.pos + n + e ≤ cpyLen c)) = .flt f) :
    cpyMove b p c ctx src dst q z n = .flt z f := by
  unfold cpyMove
  rw [bad]

theorem cpyMove_unformed
    (reads : z.readAhead ctx State.readOpen q n c.held (fun e => decide (c.pos + n + e ≤ cpyLen c)) = .ok o l rest)
    (bad : o.cpyDest b p c c.pos n = .error f) : cpyMove b p c ctx src dst q z n = .flt o f := by
  unfold cpyMove
  rw [reads]
  dsimp only
  rw [bad]

theorem cpyOne_end (past : cpyLen c ≤ c.pos) : cpyOne b p s c = .done (s.sbDropAll c.id) := by
  unfold cpyOne
  exact if_pos past

section
variable (more : c.pos < cpyLen c)
include more

theorem cpyOne_fault (first : c.pos = 0) (bad : s.cpyFault b p c = some f) : cpyOne b p s c = .flt (s.cpyRange b p c).1 f := by
  unfold State.cpyFault at bad
  unfold cpyOne
  rw [if_neg (Nat.not_le.2 more)]
  dsimp only
  rw [bad]
  exact beforeCopy_fault first

theorem cpyOne_waits (first : c.pos = 0) (good : s.cpyFault b p c = none)
    (waits : (s.cpyRange b p c).1.takeInbound b p c (s.cpyRange b p c).2 = (t, false)) : cpyOne b p s c = .wait t := by
  unfold State.cpyFault at good
  unfold cpyOne
  rw [if_neg (Nat.not_le.2 more)]
  dsimp only
  rw [good]
  exact beforeCopy_waits first waits

variable (starts : copyStarts s b p c (s.cpyRange b p c) (s.cpyFault b p c) v)
include starts

/-- The piece at hand of a CPY: of each byte the source is formed before the destination. -/
theorem cpyOne_starts : cpyOne b p s c = withPtr v (cPtr c.word) (offsetAdd (cPtr c.word) (c.pos : Int)) fun q =>
    match v.loadAddr (s.cmdCtx b p) q 1 with
    | .error f => .flt v f
    | .ok (t, _) => match t.cpyDest b p c c.pos 1 with
      | .error f => .flt t f
      | .ok (z, d) =>
        let move := cpyMove b p c (s.cmdCtx b p) (s.formed (s.cmdCtx b p) false (cPtr c.word) 34 0 (cpyLen c)).2
          (s.cpyRange b p c).2 q z
        (move (pieceLen ((d.map Seg.addr).headD 0) (cpyLen c - c.pos))).orElse
          (move (unitLen ((d.map Seg.addr).headD 0) (cpyLen c - c.pos))) := by
  unfold cpyOne
  rw [if_neg (Nat.not_le.2 more)]
  exact beforeCopy_starts starts

theorem cpyOne_bound (none_ : offsetAdd (cPtr c.word) (c.pos : Int) = none) :
    cpyOne b p s c = .flt v (.mk0 0x08 (cPtr c.word)) := by
  rw [cpyOne_starts more starts, none_]
  rfl

section
variable (ptr : offsetAdd (cPtr c.word) (c.pos : Int) = some q)
include ptr

theorem cpyOne_unread (bad : v.loadAddr (s.cmdCtx b p) q 1 = .error f) : cpyOne b p s c = .flt v f := by
  rw [cpyOne_starts more starts, ptr]
  unfold withPtr
  dsimp only
  rw [bad]

variable (from_ : v.loadAddr (s.cmdCtx b p) q 1 = .ok (t, segs))
include from_

theorem cpyOne_unformed (bad : t.cpyDest b p c c.pos 1 = .error f) : cpyOne b p s c = .flt t f := by
  rw [cpyOne_starts more starts, ptr]
  unfold withPtr
  dsimp only
  rw [from_]
  dsimp only
  rw [bad]

theorem cpyOne_piece {d : List Seg} (dest : t.cpyDest b p c c.pos 1 = .ok (z, d)) {move : Nat → Iter}
    (moves : cpyMove b p c (s.cmdCtx b p) (s.formed (s.cmdCtx b p) false (cPtr c.word) 34 0 (cpyLen c)).2 (s.cpyRange b p c).2 q z
      = move) : cpyOne b p s c = (move (pieceLen ((d.map Seg.addr).headD 0) (cpyLen c - c.pos))).orElse
        (move (unitLen ((d.map Seg.addr).headD 0) (cpyLen c - c.pos))) := by
  subst moves
  rw [cpyOne_starts more starts, ptr]
  unfold withPtr
  dsimp only
  rw [from_]
  dsimp only
  rw [dest]

end

end

end

/-! ### FILL (R224) -/

/-- Length of a FILL in bytes. -/
def fillLen (c : Cmd) : Nat := 32 * cb c.word 19 8

/-- A piece of `n` bytes of a FILL, from `q` on. -/
def fillMove (b p : Nat) (c : Cmd) (ctx : Ctx) (q : Word) (s : State) (n : Nat) : Iter := match s.copyAddr ctx q n with
  | .error f => .flt s f
  | .ok (s, l) => putPiece b p s l (List.replicate n (BitVec.ofNat 8 (cb c.word 7 0), false)) []

/-- The fault of a FILL's destination range. -/
def State.fillFault (s : State) (b p : Nat) (c : Cmd) : Option Flt :=
  spanFlt false (cPtr c.word) (s.formed (s.cmdCtx b p) true (cPtr c.word) 34 0 (fillLen c)).2
    (s.rangeOut (s.cmdCtx b p) c (cPtr c.word) (fillLen c))

section
variable {s v t u : State} {b p n : Nat} {c : Cmd} {q : Word} {f : Flt} {ctx : Ctx} {l : List Seg}

theorem fillMove_goes (addr : t.copyAddr ctx q n = .ok (u, l)) (near : reaches u (u.cmdCtx b p) l) : fillMove b p c ctx q t n =
    .go (u.placed b p l (List.replicate n (BitVec.ofNat 8 (cb c.word 7 0), false)) []) := by
  unfold fillMove
  rw [addr]
  exact putPiece_near near

theorem fillMove_fault (bad : t.copyAddr ctx q n = .error f) : fillMove b p c ctx q t n = .flt t f := by
  unfold fillMove
  rw [bad]

theorem fillOne_end (past : fillLen c ≤ c.pos) : fillOne b p s c = .done (s.sbDropAll c.id) := by
  unfold fillOne
  exact if_pos past

variable (more : c.pos < fillLen c)
include more

theorem fillOne_fault (first : c.pos = 0) (bad : s.fillFault b p c = some f) :
    fillOne b p s c = .flt (s.formed (s.cmdCtx b p) true (cPtr c.word) 34 0 (fillLen c)).1 f := by
  unfold State.fillFault fillLen at bad
  unfold fillLen at more
  unfold fillOne fillLen
  rw [if_neg (Nat.not_le.2 more)]
  dsimp only
  rw [bad]
  exact beforeCopy_fault first

/-- The piece at hand of a FILL, whole or least. -/
theorem fillOne_piece
    (starts : copyStarts s b p c (s.formed (s.cmdCtx b p) true (cPtr c.word) 34 0 (fillLen c)) (s.fillFault b p c) v)
    (ptr : offsetAdd (cPtr c.word) (c.pos : Int) = some q) (dest : v.copyAddr (s.cmdCtx b p) q 1 = .ok (t, l)) :
    fillOne b p s c = (fillMove b p c (s.cmdCtx b p) q t (pieceLen ((l.map Seg.addr).headD 0) (fillLen c - c.pos))).orElse
      (fillMove b p c (s.cmdCtx b p) q t (unitLen ((l.map Seg.addr).headD 0) (fillLen c - c.pos))) := by
  have started (k : State → Iter) := beforeCopy_starts (k := k) starts
  unfold fillOne
  refine (if_neg (Nat.not_le.2 more)).trans ((started _).trans ?_)
  rw [ptr]
  unfold withPtr
  dsimp only
  rw [dest]
  rfl

end

end Sys2Proof.Machine
end

section
/-! CPYM and its multicast stream (R223, R352, R353, R361): the command's end, its granules, its faults, and the request that opens
a stream or joins one. -/

namespace Sys2Proof.Machine

open Claims (running)

section
variable {s t u : State} {b : Nat} {c : Cmd} {l : List Seg} {f : Flt} {m : McStream}

theorem cpymMoves_none (none_ : cb c.ext 127 64 = 0 ∨ cb c.word 19 0 = 0) : cpymMoves c = false := by
  unfold cpymMoves
  rcases none_ with mask | len
  · rw [decide_eq_false (not_not.2 mask), Bool.false_and]
  · rw [decide_eq_false (not_not.2 len), Bool.and_false]

theorem cpymMoves_some (mask : cb c.ext 127 64 ≠ 0) (len : cb c.word 19 0 ≠ 0) : cpymMoves c = true := by
  unfold cpymMoves
  rw [decide_eq_true mask, decide_eq_true len]
  rfl

/-- What a stream that may be joined is. -/
theorem State.joinable_some {tn n : Nat} {src : List (Nat × Nat)} (joins : s.joinable tn n src m = true) : m.tenant = tn
    ∧ m.src = src ∧ m.len = n ∧ 0 < m.read ∧ m.read < n ∧ m.written = false ∧ m.joins < 4 ∧ m.lost = false := by
  simp only [State.joinable, Bool.and_eq_true, beq_iff_eq, Bool.not_eq_true', decide_eq_true_eq] at joins
  obtain ⟨⟨⟨⟨⟨⟨⟨⟨tenant, source⟩, len⟩, lost⟩, begun⟩, unread⟩, written⟩, few⟩, _⟩ := joins
  exact ⟨tenant, source, len, begun, unread, written, few, lost⟩

variable (run : running s b 0x28 0x05 c)
include run

/-! ### The command (R223) -/

theorem exec_cpym_none (none_ : cpymMoves c = false) : exec (.cpym b) s = .next (s.cpymEnd b c) :=
  (executing_running run).trans (if_pos (by rw [none_]; rfl))

section
variable (moves : cpymMoves c = true)
include moves

theorem exec_cpym_stream (stream : s.streams.find? (fun m => m.id == c.stream) = some m) : exec (.cpym b) s =
    .next (if cpymDone m c then s.cpymEnd b c else cpymGranule b s m) := by
  refine (executing_running run).trans ?_
  rw [moves, stream]
  rfl

theorem exec_cpym_done (stream : s.streams.find? (fun m => m.id == c.stream) = some m) (all : m.len + c.joined ≤ m.read) :
    exec (.cpym b) s = .next (s.cpymEnd b c) := by
  have done : cpymDone m c = true := decide_eq_true all
  rw [exec_cpym_stream run moves stream, if_pos done]

theorem exec_cpym_granule (stream : s.streams.find? (fun m => m.id == c.stream) = some m) (more : m.read < m.len + c.joined) :
    exec (.cpym b) s = .next (cpymGranule b s m) := by
  have goes : cpymDone m c = false := decide_eq_false (Nat.not_le.2 more)
  rw [exec_cpym_stream run moves stream, if_neg (Bool.eq_false_iff.1 goes)]

section
variable (stream : s.streams.find? (fun m => m.id == c.stream) = none)
include stream

theorem exec_cpym_fault (bad : s.cpymSource b c = .error f) : exec (.cpym b) s = .next (s.cmdFail b 0x28 c f) := by
  refine (executing_running run).trans ?_
  rw [moves, stream, bad]
  exact congrArg Host.Outcome.next (State.cmdFlt_fails ..)

theorem exec_cpym_waits {z : State × List Seg} (source : s.cpymSource b c = .ok z) : exec (.cpym b) s = .next s := by
  refine (executing_running run).trans ?_
  rw [moves, stream, source]
  rfl

end

end

/-! ### Its request (R352, R353) -/

/-- A command with a stream, or one that moves nothing, makes no request. -/
theorem exec_multicastRequest_idle (idle : c.stream ≠ 0 ∨ cpymMoves c = false) : exec (.multicastRequest b) s = .next s := by
  refine (executing_running run).trans (if_pos ?_)
  rw [Bool.or_eq_true, decide_eq_true_eq, Bool.not_eq_true']
  exact idle

/-- A request whose source cannot be formed is never sent. -/
theorem exec_multicastRequest_fault (bad : s.cpymSource b c = .error f) : exec (.multicastRequest b) s = .next s := by
  refine (executing_running run).trans ?_
  dsimp only
  rw [bad]
  exact ite_self _

section
variable (moves : cpymMoves c = true) (fresh : c.stream = 0) (source : s.cpymSource b c = .ok (t, l))
include moves fresh source

theorem exec_multicastRequest_waits (route : t.routeFor (t.cmdCtx b 0x28) l = (u, some false)) :
    exec (.multicastRequest b) s = .next u := by
  refine (executing_running run).trans ?_
  dsimp only
  rw [moves, fresh, source]
  dsimp only
  rw [route]
  rfl

/-- A request that no route carries in time opens a stream whose data is lost. -/
theorem exec_multicastRequest_lost (route : t.routeFor (t.cmdCtx b 0x28) l = (u, some true)) : exec (.multicastRequest b) s =
    .next (u.openStream b (t.cmdCtx b 0x28).tenant (cb c.word 19 0) (l.map fun x => (x.addr, x.len)) true) := by
  refine (executing_running run).trans ?_
  dsimp only
  rw [moves, fresh, source]
  dsimp only
  rw [route]
  rfl

variable (near : ∀ x ∈ l, t.noRoute (t.cmdCtx b 0x28).who x.addr = false)
include near

theorem exec_multicastRequest_opens (none_ : t.streams.find? (t.joinable (t.cmdCtx b 0x28).tenant (cb c.word 19 0)
    (l.map fun x => (x.addr, x.len))) = none) : exec (.multicastRequest b) s =
      .next ((t.openStream b (t.cmdCtx b 0x28).tenant (cb c.word 19 0) (l.map fun x => (x.addr, x.len)) false).modTenant
        (t.cmdCtx b 0x28).tenant fun x => { x with mcstat := wadd x.mcstat 63 48 1 }) := by
  refine (executing_running run).trans ?_
  dsimp only
  rw [moves, fresh, source]
  dsimp only
  rw [State.routeFor_near near]
  dsimp only
  rw [none_]
  rfl

theorem exec_multicastRequest_joins (some_ : t.streams.find? (t.joinable (t.cmdCtx b 0x28).tenant (cb c.word 19 0)
    (l.map fun x => (x.addr, x.len))) = some m) : exec (.multicastRequest b) s =
      .next (({ t.takeStream b m.id m.read with streams := t.streams.map fun y => if y.id = m.id then
        { y with joins := y.joins + 1, replayTo := Nat.max y.replayTo m.read } else y } : State).modTenant
          (t.cmdCtx b 0x28).tenant fun x => { x with mcstat := wadd x.mcstat 47 32 1 }) := by
  refine (executing_running run).trans ?_
  dsimp only
  rw [moves, fresh, source]
  dsimp only
  rw [State.routeFor_near near]
  dsimp only
  rw [some_]
  rfl

end

end

end Sys2Proof.Machine
end

section
/-! The statement about the copies, from what one iteration of each command gives. -/

namespace Sys2Proof.Machine

open Claims (running ends reaches)

/-- Settles O49. A piece of a copy gives what its whole length gives, or the least length where that faults; the request of a CPYM
is settled by its source, its route and the streams that it may join. -/
theorem copies : Obligations.Copies := by
  intro s t u v b c ctx len flen cw fw from_ starts far cf ff put reads moves fails
  refine ⟨fun run past => runCmd_gives run (cpyOne_end past),
    fun run past => runCmd_gives run (fillOne_end past),
    fun f run first some_ bad => runCmd_gives run (cpyOne_fault (first ▸ some_) first bad),
    fun f run first some_ bad => runCmd_gives run (fillOne_fault (first ▸ some_) first bad),
    fun loc dst l k f => spanFlt_out,
    fun run first some_ good waits => runCmd_gives run (cpyOne_waits (first ▸ some_) first good waits),
    fun run more starts none_ => runCmd_gives run (cpyOne_bound more starts none_),
    fun q run more starts ptr => ⟨fun f bad => runCmd_gives run (cpyOne_unread more starts ptr bad), fun l read =>
      ⟨fun f bad => runCmd_gives run (cpyOne_unformed more starts ptr read bad), fun z d o w w' f f' dest => ?_⟩⟩,
    fun src dst a l apart => State.cpySource_apart a apart,
    fun q d w run more starts ptr dest => ?_,
    fun a left => unitLen_within a, fun a left => pieceLen_within a, rfl,
    fun run none_ => ⟨exec_cpym_none run (cpymMoves_none none_), exec_multicastRequest_idle run (.inr (cpymMoves_none none_))⟩,
    fun m run mask some_ stream => ⟨exec_cpym_done run (cpymMoves_some mask some_) stream,
      exec_cpym_granule run (cpymMoves_some mask some_) stream⟩,
    fun run mask some_ stream => ⟨fun f => exec_cpym_fault run (cpymMoves_some mask some_) stream,
      fun x => exec_cpym_waits run (cpymMoves_some mask some_) stream⟩,
    fun run taken => exec_multicastRequest_idle run (.inl taken),
    fun f => exec_multicastRequest_fault,
    fun l run mask some_ fresh source => ⟨exec_multicastRequest_waits run (cpymMoves_some mask some_) fresh source,
      exec_multicastRequest_lost run (cpymMoves_some mask some_) fresh source⟩,
    fun l run mask some_ fresh source near => ⟨exec_multicastRequest_opens run (cpymMoves_some mask some_) fresh source near,
      fun m => exec_multicastRequest_joins run (cpymMoves_some mask some_) fresh source near⟩,
    fun tn n src m => State.joinable_some⟩
  · let move := cpyMove b 0x28 c ctx from_ cw.2 q z
    have goes {k o} (h : moves z q k o) : move k = .go o := by
      obtain ⟨t, l, rest, u, segs, reads, addr, near, rfl⟩ := h
      exact cpyMove_goes reads addr near
    have faults {k o f} (h : fails z q k o f) : move k = .flt o f := by
      rcases h with ⟨bad, rfl⟩ | ⟨l, rest, reads, bad⟩
      · exact cpyMove_unread bad
      · exact cpyMove_unformed reads bad
    have piece := cpyOne_piece more starts ptr read dest (move := move) rfl
    refine ⟨fun whole => ?_, fun bad least => ?_, fun bad worse => ?_⟩
    · exact runCmd_gives run (piece.trans (congrArg₂ Iter.orElse (goes whole) rfl))
    · exact runCmd_gives run (piece.trans (congrArg₂ Iter.orElse (faults bad) (goes least)))
    · exact runCmd_gives run (piece.trans (congrArg₂ Iter.orElse (faults bad) (faults worse)))
  · have piece := fillOne_piece more starts ptr dest
    refine ⟨fun addr near => ?_, fun f bad => ⟨fun addr near => ?_, fun f' worse => ?_⟩⟩
    · exact runCmd_gives run (piece.trans (congrArg₂ Iter.orElse (fillMove_goes addr near) rfl))
    · exact runCmd_gives run (piece.trans (congrArg₂ Iter.orElse (fillMove_fault bad) (fillMove_goes addr near)))
    · exact runCmd_gives run (piece.trans (congrArg₂ Iter.orElse (fillMove_fault bad) (fillMove_fault worse)))

end Sys2Proof.Machine
end

section
/-! A visit of a node (R128, R236-R240, R259): the record that a task reads, which events are visits of which types of node, and
where a walk goes on. -/

namespace Sys2Proof.Machine

open Claims (Reads Visits visited nodeOf)

/-! ### What a visit keeps in its task (R240) -/

/-- The frame of a visit: it holds the record and where the list goes on. -/
def visitedFrame (x : Task) (fr : Frame) (rest : List Frame) (r : Nat) : Frame :=
  { fr with nxt := if x.parent.isSome && rest.isEmpty then none else linkOf fr.ptr r 1, record := BitVec.ofNat 256 r }

/-- The task of a visit. -/
def visitedTask (x : Task) (fr : Frame) (rest : List Frame) (r : Nat) : Task :=
  { x with frames := visitedFrame x fr rest r :: rest }

section
variable {s u : State} {f t typ r : Nat} {fd : Field} {x : Task} {fr : Frame} {rest : List Frame} {i : Instr}
  {k : State → Field → Task → Frame → Nat → Out}

@[simp] theorem visitedFrame_ptr : (visitedFrame x fr rest r).ptr = fr.ptr := rfl
@[simp] theorem visitedFrame_it : (visitedFrame x fr rest r).it = fr.it := rfl

/-- A visit leaves the depth of its task's walk as it is. -/
theorem visitedTask_tooDeep (frames : x.frames = fr :: rest) : (visitedTask x fr rest r).tooDeep = x.tooDeep := by
  unfold Task.tooDeep visitedTask
  rw [frames]
  rfl

/-! ### The record of a visit (R128, R259) -/

theorem leNat_natLe (n v : Nat) : leNat (natLe n v) = v % 256 ^ n := by
  induction n generalizing v with
  | zero => rw [pow_zero, Nat.mod_one]; rfl
  | succ n ih => rw [natLe, leNat, ih, BitVec.toNat_ofNat, pow_succ' 256 n, Nat.mod_mul]

theorem gotNat_putBytes (n v : Nat) (q : Bool) : gotNat (putBytes n v q) = v % 256 ^ n := by
  unfold gotNat putBytes
  rw [List.map_map, show Prod.fst ∘ (fun b : Byte => (b, q)) = id from rfl, List.map_id, leNat_natLe]

/-- A record of 256 bits is the number that its 32 bytes hold. -/
theorem gotNat_record (w : BitVec 256) : gotNat (putBytes 32 w.toNat false) = w.toNat := by
  rw [gotNat_putBytes]
  exact Nat.mod_eq_of_lt (w.isLt.trans_eq (by norm_num))

/-- A task that reads a record is not about to test a WHILE again. -/
theorem reads_visits (reads : Reads s u f t fd x fr rest r) : ¬ (fr.ptr = 0 ∧ fr.body = true) := by
  obtain ⟨-, -, front, -⟩ := reads
  exact fun ⟨none_, body⟩ => Bool.false_ne_true ((front none_).symm.trans body)

/-- Once its record is read, an event of a type leaves a node of another type alone, takes the node fault of a record that is
malformed or misplaced, and else goes on with the node's own meaning. -/
theorem visitNode_reads (reads : Reads s u f t fd x fr rest r) : visitNode typ f t s k =
    if nodeType r ≠ typ then .next s
    else if recordBad fr.ptr r || (typ == 10 && !x.top) || (typ != 10 && x.top && (linkOf fr.ptr r 1).isNone) then
      .next (u.nodeFault f fr.ptr x.atRoot)
    else k (visited u f t x fr rest r) fd (visitedTask x fr rest r) (visitedFrame x fr rest r) r := by
  have visits := reads_visits reads
  obtain ⟨id, parent, base, frames, st⟩ := x
  obtain ⟨walks, rfl, -, ⟨w, rfl, rfl, rfl⟩ | ⟨rfl, l, read, rfl⟩⟩ := reads
  all_goals
    unfold visitNode
    rw [walks]
    refine (if_neg visits).trans ?_
  · dsimp only
    rw [gotNat_record]
    rfl
  · dsimp only
    rw [read]
    rfl

theorem visitNode_other (reads : Reads s u f t fd x fr rest r) (other : nodeType r ≠ typ) : visitNode typ f t s k = .next s :=
  (visitNode_reads reads).trans (if_pos other)

theorem visitNode_malformed (reads : Reads s u f t fd x fr rest r) (type : nodeType r = typ) (bad : recordBad fr.ptr r = true) :
    visitNode typ f t s k = .next (u.nodeFault f fr.ptr x.atRoot) := by
  rw [visitNode_reads reads, if_neg (not_not.2 type), bad, Bool.true_or, Bool.true_or, if_pos rfl]

/-- A well-formed node in its place takes its own meaning. -/
theorem visitNode_visits (visits : Visits s u f t typ fd x fr rest r) : visitNode typ f t s k =
    k (visited u f t x fr rest r) fd (visitedTask x fr rest r) (visitedFrame x fr rest r) r := by
  obtain ⟨reads, type, good, place⟩ := visits
  have placed : ((typ == 10 && !x.top) || (typ != 10 && x.top && (linkOf fr.ptr r 1).isNone)) = false := by
    by_cases last : typ = 10
    · rw [if_pos last] at place
      simp [last, place]
    · rw [if_neg last] at place
      cases top : x.top with
      | false => simp [last]
      | true => simp [place top]
  rw [visitNode_reads reads, if_neg (not_not.2 type), good, Bool.false_or, placed, if_neg Bool.false_ne_true]

/-- A record of no node's type is a node fault. -/
theorem exec_notANodeVisit (reads : Reads s u f t fd x fr rest r) : exec (.notANodeVisit f t) s =
    if 1 ≤ nodeType r ∧ nodeType r ≤ 10 then .next s else .next (u.nodeFault f fr.ptr x.atRoot) := by
  change execNotANodeVisit f t s = _
  have visits := reads_visits reads
  obtain ⟨id, parent, base, frames, st⟩ := x
  obtain ⟨walks, rfl, -, ⟨w, rfl, rfl, rfl⟩ | ⟨rfl, l, read, rfl⟩⟩ := reads
  all_goals
    unfold execNotANodeVisit
    rw [walks]
    refine (if_neg visits).trans ?_
  · dsimp only
    rw [gotNat_record]
  · dsimp only
    rw [read]

/-! ### The events that visit a node -/

/-- The first test of a WHILE: zero ends the node, else its body is walked (R249). -/
def whileFirst (f t : Nat) (s : State) (fd : Field) (_ : Task) (fr : Frame) (r : Nat) : Out :=
  seqThen f t fr.ptr (s.seqWord (s.walkCtx fd t) (nodePtr r)) fun s v =>
    if v = 0 then .next (s.walkOn f t) else .next (s.enter f t (linkOf fr.ptr r 4) 0 true)

/-- The meaning of a node that walks a list of its own one level deeper, when the walk is too deep already (R240). -/
def deepFault (f : Nat) (k : State → Field → Task → Frame → Nat → Out) (s : State) (fd : Field) (x : Task) (fr : Frame) (r : Nat) :
    Out :=
  if x.tooDeep then .next (s.nodeFault f fr.ptr false) else k s fd x fr r

/-- A WHILE that is not about to test again is visited like any other node. -/
theorem exec_nodeWhile_reads (reads : Reads s u f t fd x fr rest r) :
    exec (.nodeWhile f t) s = visitNode 6 f t s (deepFault f (whileFirst f t)) := by
  have visits := reads_visits reads
  obtain ⟨walks, frames, -⟩ := reads
  change execNodeWhile f t s = _
  unfold execNodeWhile
  rw [walks, Option.map_some, frames]
  cases rest with
  | nil => rfl
  | cons _ _ => exact if_neg visits

theorem exec_nodeWhile_body {wh : Frame} {st : Option (BitVec 256)} (walks : s.walking f t = some (fd, x))
    (frames : x.frames = fr :: wh :: rest) (state : x.st = .visit st) (test : fr.ptr = 0 ∧ fr.body = true) :
    exec (.nodeWhile f t) s = seqThen f t wh.ptr (s.seqWord (s.walkCtx fd t) (nodePtr wh.record.toNat)) fun s v =>
      let s := s.modTask f t fun y => { y with frames := y.frames.drop 1 }
      if v = 0 then .next (s.walkOn f t) else .next (s.enter f t (linkOf wh.ptr wh.record.toNat 4) fr.it true) := by
  have again : execNodeWhile f t s = whileAgain f t s := by
    unfold execNodeWhile
    rw [walks, Option.map_some, frames]
    exact if_pos test
  refine again.trans ?_
  unfold whileAgain
  rw [walks]
  dsimp only
  rw [state, frames]
  exact if_pos test

/-- The nodes that walk a list of their own first test how deep the walk is. -/
theorem exec_nodeOf_list (list : typ ∈ [2, 3, 4, 5, 6, 7]) (node : nodeOf f t typ i) (reads : Reads s u f t fd x fr rest r) :
    ∃ k, exec i s = visitNode typ f t s (deepFault f k) := by
  rcases node with ⟨rfl, -⟩ | ⟨rfl, rfl⟩ | ⟨rfl, rfl⟩ | ⟨rfl, rfl⟩ | ⟨rfl, rfl⟩ | ⟨rfl, rfl⟩ | ⟨rfl, rfl⟩ | ⟨rfl, -⟩ | ⟨rfl, -⟩
  · exact absurd list (by decide)
  · exact (⟨_, rfl⟩ : ∃ k, startCtrl .seq 2 f t s = visitNode 2 f t s (deepFault f k))
  · exact (⟨_, rfl⟩ : ∃ k, startCtrl .pipe 3 f t s = visitNode 3 f t s (deepFault f k))
  · exact (⟨_, rfl⟩ : ∃ k, startCtrl .stream 4 f t s = visitNode 4 f t s (deepFault f k))
  · exact (⟨_, rfl⟩ : ∃ k, execNodeCond f t s = visitNode 5 f t s (deepFault f k))
  · exact ⟨_, exec_nodeWhile_reads reads⟩
  · exact (⟨_, rfl⟩ : ∃ k, execNodeSwitch f t s = visitNode 7 f t s (deepFault f k))
  · exact absurd list (by decide)
  · exact absurd list (by decide)

/-- Every event of a node's type is a visit of that type. -/
theorem exec_nodeOf (node : nodeOf f t typ i) (reads : Reads s u f t fd x fr rest r) : ∃ k, exec i s = visitNode typ f t s k := by
  have shape := node
  rcases shape with ⟨rfl, rfl⟩ | ⟨rfl, -⟩ | ⟨rfl, -⟩ | ⟨rfl, -⟩ | ⟨rfl, -⟩ | ⟨rfl, -⟩ | ⟨rfl, -⟩ | ⟨rfl, rfl⟩ | ⟨rfl, rfl⟩
  case inl => exact (⟨_, rfl⟩ : ∃ k, execNodeSection f t s = visitNode 1 f t s k)
  case inr.inr.inr.inr.inr.inr.inr.inl => exact (⟨_, rfl⟩ : ∃ k, execNodeWaitf f t s = visitNode 8 f t s k)
  case inr.inr.inr.inr.inr.inr.inr.inr => exact (⟨_, rfl⟩ : ∃ k, execNodeRate f t s = visitNode 9 f t s k)
  all_goals
    obtain ⟨k, h⟩ := exec_nodeOf_list (by decide) node reads
    exact ⟨_, h⟩

theorem exec_nodeOf_deep (list : typ ∈ [2, 3, 4, 5, 6, 7]) (node : nodeOf f t typ i) (visits : Visits s u f t typ fd x fr rest r)
    (deep : x.tooDeep = true) : exec i s = .next ((visited u f t x fr rest r).nodeFault f fr.ptr false) := by
  obtain ⟨k, visit⟩ := exec_nodeOf_list list node visits.1
  rw [visit, visitNode_visits visits]
  exact if_pos ((visitedTask_tooDeep visits.1.2.1).trans deep)

theorem visitNode_deepFault (visits : Visits s u f t typ fd x fr rest r) (shallow : x.tooDeep = false) :
    visitNode typ f t s (deepFault f k) =
      k (visited u f t x fr rest r) fd (visitedTask x fr rest r) (visitedFrame x fr rest r) r :=
  (visitNode_visits visits).trans <|
    if_neg (((visitedTask_tooDeep visits.1.2.1).trans shallow).trans_ne Bool.false_ne_true)

end

/-! ### Going on after a node (R240) -/

section
variable {fr : Frame} {l : List Frame}

theorem walkFrames_next {q : Word} (next : fr.nxt = some q) :
    walkFrames (fr :: l) = ({ fr with ptr := q, nxt := none } :: l, false) := by
  rw [walkFrames, next]

theorem walkFrames_last (last : fr.nxt = none) : walkFrames [fr] = ([], true) := by
  rw [walkFrames, last]
  rfl

/-- At the end of a list inside another: a body goes back to its WHILE, any other list ends the node that held it. -/
theorem walkFrames_end (last : fr.nxt = none) (inner : l ≠ []) : walkFrames (fr :: l) =
    if fr.body then ({ fr with ptr := 0, it := fr.it + 1 } :: l, false) else walkFrames l := by
  rw [walkFrames, last]
  exact if_neg fun empty => inner (List.isEmpty_iff.1 empty)

end

end Sys2Proof.Machine
end

section
/-! The nodes of a graph, type by type (R128, R236-R241, R246-R251, R259), and the statement about them. -/

namespace Sys2Proof.Machine

open Claims (Reads Visits visited nodeOf ctrlOf)

theorem seqThen_ok {f t : Nat} {p : Word} {g : SeqGot} {k : State → Nat → Out} {w : State} {l : List (Byte × Bool)} (got : g = .ok w l) :
    seqThen f t p g k = k w (gotNat l) := by
  rw [got]
  rfl

/-! ### The permits of a controller (R247) -/

section
variable {c : CtrlState} {j : Nat}

theorem CtrlState.permits_started (permit : c.permits j = true) :
    c.started.getD j 0 = c.done.getD j 0 ∧ c.done.getD j 0 < c.count := by
  simp only [CtrlState.permits, Bool.and_eq_true, decide_eq_true_eq] at permit
  exact permit.1

theorem CtrlState.permits_stream (kind : c.kind = .stream) (idle : c.started.getD j 0 = c.done.getD j 0)
    (more : c.done.getD j 0 < c.count) : c.permits j = true := by
  simp only [CtrlState.permits, kind, idle, more, decide_true, Bool.and_self]

theorem CtrlState.permits_pipe (kind : c.kind = .pipe) (permit : c.permits j = true) :
    c.done.getD j 0 < c.done.getD (c.children.length - 1) 0 + c.depth
      ∧ (j = 0 ∨ c.done.getD j 0 < c.done.getD (j - 1) 0) := by
  simp only [CtrlState.permits, kind, Bool.and_eq_true, Bool.or_eq_true, decide_eq_true_eq] at permit
  exact permit.2

theorem CtrlState.permits_seq (kind : c.kind = .seq) (permit : c.permits j = true) :
    if j = 0 then c.done.getD 0 0 = 0 ∨ c.done.getD 0 0 ≤ c.done.getD (c.children.length - 1) 0
    else c.done.getD j 0 < c.done.getD (j - 1) 0 := by
  simp only [CtrlState.permits, kind, Bool.and_eq_true] at permit
  obtain ⟨-, turn⟩ := permit
  by_cases first : j = 0
  · subst first
    simpa using turn
  · simpa [first] using turn

end

section
variable {s u w z : State} {f t r : Nat} {fd y : Field} {x : Task} {fr : Frame} {rest : List Frame} {l m : List (Byte × Bool)}

/-! ### SECTION (R241) -/

/-- A section with a number of tiles waits to be armed, or is done at 0. -/
def State.armed (s : State) (f t n : Nat) : State :=
  if n = 0 then s.walkOn f t else s.modTask f t fun y => { y with st := .arm n }

theorem next_armed (n : Nat) : (if n = 0 then Host.Outcome.next (s.walkOn f t)
    else .next (s.modTask f t fun y => { y with st := .arm n }) : Out) = .next (s.armed f t n) :=
  (apply_ite Host.Outcome.next ..).symm

section
variable (visits : Visits s u f t 1 fd x fr rest r)
include visits

theorem exec_nodeSection_plot (bad : plotValid (pktFw fd.packet) (pktFh fd.packet) (nodeField r 4 3) = false) :
    exec (.nodeSection f t) s =
      .next ((visited u f t x fr rest r).seqFault f 0x15 (BitVec.ofNat 64 (nodeField r 4 3)) fr.ptr false) := by
  change execNodeSection f t s = _
  unfold execNodeSection
  rw [visitNode_visits visits]
  simp only [bad, Bool.not_false, if_true, visitedFrame_ptr]

variable (good : plotValid (pktFw fd.packet) (pktFh fd.packet) (nodeField r 4 3) = true)
include good

theorem exec_nodeSection_count (count : nbit r 4 = false) :
    exec (.nodeSection f t) s = .next ((visited u f t x fr rest r).armed f t (bits r 167 128)) := by
  change execNodeSection f t s = _
  unfold execNodeSection
  rw [visitNode_visits visits]
  simp only [good, count, Bool.not_true, Bool.false_eq_true, if_false, next_armed]

/-- The tile count of a section with a table is a 40-bit entry of it. -/
theorem exec_nodeSection_table {q : Word} (table : nbit r 4 = true)
    (entry : offsetAdd (BitVec.ofNat 64 (nodeField r 16 8)) ((8 * (nodeField r 24 4 + if nbit r 5 then fr.it else 0) : Nat) : Int) = some q)
    (read : (visited u f t x fr rest r).seqWord ((visited u f t x fr rest r).walkCtx fd t) q = .ok w l) :
    exec (.nodeSection f t) s =
      .next (if bits (gotNat l) 63 40 ≠ 0 then w.nodeFault f fr.ptr false else w.armed f t (bits (gotNat l) 39 0)) := by
  change execNodeSection f t s = _
  unfold execNodeSection
  rw [visitNode_visits visits]
  simp only [good, table, Bool.not_true, Bool.false_eq_true, if_false, if_true, visitedFrame_it, visitedFrame_ptr, entry,
    seqThen_ok read, next_armed]
  exact (apply_ite Host.Outcome.next ..).symm

end

/-! ### Conditions, loops and switches (R248, R249) -/

theorem exec_nodeCond (visits : Visits s u f t 5 fd x fr rest r) (shallow : x.tooDeep = false)
    (read : (visited u f t x fr rest r).seqWord ((visited u f t x fr rest r).walkCtx fd t) (nodePtr r) = .ok w l) :
    exec (.nodeCond f t) s = .next (w.enter f t (linkOf fr.ptr r (if gotNat l ≠ 0 then 4 else 8)) fr.it false) := by
  change execNodeCond f t s = _
  exact (visitNode_deepFault visits shallow).trans (seqThen_ok read)

theorem exec_nodeWhile_first (visits : Visits s u f t 6 fd x fr rest r) (shallow : x.tooDeep = false)
    (read : (visited u f t x fr rest r).seqWord ((visited u f t x fr rest r).walkCtx fd t) (nodePtr r) = .ok w l) :
    exec (.nodeWhile f t) s = .next (if gotNat l = 0 then w.walkOn f t else w.enter f t (linkOf fr.ptr r 4) 0 true) := by
  rw [exec_nodeWhile_reads visits.1, visitNode_deepFault visits shallow]
  exact (seqThen_ok read).trans (apply_ite Host.Outcome.next ..).symm

theorem exec_nodeWhile_again {wh : Frame} {st : Option (BitVec 256)} (walks : s.walking f t = some (fd, x))
    (frames : x.frames = fr :: wh :: rest) (state : x.st = .visit st) (test : fr.ptr = 0 ∧ fr.body = true)
    (read : s.seqWord (s.walkCtx fd t) (nodePtr wh.record.toNat) = .ok w l) :
    let v := w.modTask f t fun y => { y with frames := y.frames.drop 1 }
    exec (.nodeWhile f t) s =
      .next (if gotNat l = 0 then v.walkOn f t else v.enter f t (linkOf wh.ptr wh.record.toNat 4) fr.it true) := by
  rw [exec_nodeWhile_body walks frames state test]
  exact (seqThen_ok read).trans (apply_ite Host.Outcome.next ..).symm

section
variable (visits : Visits s u f t 7 fd x fr rest r) (shallow : x.tooDeep = false)
  (read : (visited u f t x fr rest r).seqWord ((visited u f t x fr rest r).walkCtx fd t) (nodePtr r) = .ok w l)
include visits shallow read

/-- A selector past the list of a SWITCH chooses its default. -/
theorem exec_nodeSwitch_default (past : nodeField r 12 2 ≤ gotNat l) :
    exec (.nodeSwitch f t) s = .next (w.enter f t (linkOf fr.ptr r 8) fr.it false) := by
  change execNodeSwitch f t s = _
  exact (visitNode_deepFault visits shallow).trans ((seqThen_ok read).trans (if_pos past))

/-- A selector within the list of a SWITCH chooses the list whose link its entry holds. -/
theorem exec_nodeSwitch_entry {q : Word} {k : Option Word} (within : gotNat l < nodeField r 12 2)
    (entry : (linkOf fr.ptr r 4).bind (fun q => offsetAdd q ((4 * gotNat l : Nat) : Int)) = some q)
    (target : w.seqRead ((visited u f t x fr rest r).walkCtx fd t) q 4 = .ok z m) (clean : gotPoison m = false)
    (reserved : bits (gotNat m) 31 24 = 0) (link : nodeLink fr.ptr (gotNat m * 256) 1 = .ok k) :
    exec (.nodeSwitch f t) s = .next (z.enter f t k fr.it false) := by
  change execNodeSwitch f t s = _
  refine (visitNode_deepFault visits shallow).trans ((seqThen_ok read).trans ((if_neg (Nat.not_le.2 within)).trans ?_))
  simp only [visitedFrame_ptr, visitedFrame_it, entry, target, link, clean, reserved, ne_eq, not_true_eq_false, decide_false,
    Bool.or_self, Bool.false_eq_true, if_false]

end

/-! ### WAITF, RATE and END (R32, R250, R251) -/

theorem exec_nodeWaitf {a : Nat} (visits : Visits s u f t 8 fd x fr rest r)
    (word : (visited u f t x fr rest r).seqAddr ((visited u f t x fr rest r).walkCtx fd t) (nodePtr r) = .ok (w, a)) :
    exec (.nodeWaitf f t) s =
      .next (w.watchWord (w.walkCtx fd t) f t a (BitVec.ofNat 64 (nodeField r 8 8)) (nbit r 35)) := by
  change execNodeWaitf f t s = _
  unfold execNodeWaitf
  rw [visitNode_visits visits, word]

theorem exec_nodeRate (visits : Visits s u f t 9 fd x fr rest r) (field : (visited u f t x fr rest r).field? f = some y) :
    exec (.nodeRate f t) s = .next ((((visited u f t x fr rest r).setField
      { y with rate := BitVec.ofNat 32 (nodeField r 4 4), rpn := bits r 67 64 }).postSolve fd.tenant 2).walkOn f t) := by
  change execNodeRate f t s = _
  unfold execNodeRate
  rw [visitNode_visits visits, field]

theorem exec_nodeEnd_waits {i : Inst} (live : i ∈ s.insts) (own : i.field = f) : exec (.nodeEnd f t) s = .next s := by
  have some_ : (s.insts.any fun i => i.field == f) = true := List.any_eq_true.2 ⟨i, live, beq_iff_eq.2 own⟩
  exact if_pos some_

theorem exec_nodeEnd (visits : Visits s u f t 10 fd x fr rest r) (ended : ∀ i ∈ s.insts, i.field ≠ f)
    (field : (visited u f t x fr rest r).field? f = some y) : exec (.nodeEnd f t) s =
      .next ((visited u f t x fr rest r).setField { y with stage := .ended, code := 0, tasks := [] }) := by
  have none_ : ¬ (s.insts.any fun i => i.field == f) = true := fun some_ => by
    obtain ⟨i, live, own⟩ := List.any_eq_true.1 some_
    exact ended i live (beq_iff_eq.1 own)
  refine (if_neg none_).trans ?_
  rw [visitNode_visits visits, field]

/-! ### Controllers (R246, R247) -/

/-- The event of a controller's type is the start of a controller of its kind. -/
theorem exec_nodeOf_ctrl {typ : Nat} {k : CtrlKind} {i : Instr} (ctrl : ctrlOf typ k) (node : nodeOf f t typ i) :
    exec i s = startCtrl k typ f t s := by
  rcases ctrl with ⟨rfl, rfl⟩ | ⟨rfl, rfl⟩ | ⟨rfl, rfl⟩
  · obtain rfl : i = .nodeSeq f t := by simpa [nodeOf] using node
    rfl
  · obtain rfl : i = .nodePipe f t := by simpa [nodeOf] using node
    rfl
  · obtain rfl : i = .nodeStream f t := by simpa [nodeOf] using node
    rfl

section
variable {typ : Nat} {k : CtrlKind} (visits : Visits s u f t typ fd x fr rest r) (shallow : x.tooDeep = false)
include visits shallow

theorem startCtrl_none (none_ : nodeField r 8 4 = 0) : startCtrl k typ f t s = .next ((visited u f t x fr rest r).walkOn f t) :=
  (visitNode_deepFault visits shallow).trans (if_pos none_)

/-- A controller with iterations to run reads its children and grants its first permits. -/
theorem startCtrl_grants {l : List Word} (some_ : nodeField r 8 4 ≠ 0)
    (kids : (visited u f t x fr rest r).readKids ((visited u f t x fr rest r).walkCtx fd t) (2 ^ 59) (linkOf fr.ptr r 4) = .ok w l)
    (field : (w.modTask f t fun q =>
      { q with st := .ctrl ⟨k, l, nodeField r 8 4, nodeField r 7 1, l.map fun _ => 0, l.map fun _ => 0⟩ }).field? f = some y) :
    startCtrl k typ f t s = .next ((w.modTask f t fun q =>
      { q with st := .ctrl ⟨k, l, nodeField r 8 4, nodeField r 7 1, l.map fun _ => 0, l.map fun _ => 0⟩ }).setField (y.grant t)) := by
  refine (visitNode_deepFault visits shallow).trans ((if_neg some_).trans ?_)
  unfold linkOf at kids
  simp only [visitedFrame_ptr, kids, field]

end

end

/-- Settles O53. A node's event is a visit of its type (`exec_nodeOf`); what a visit does is told by its record
(`visitNode_reads`), and each type of node by its own lemma. -/
theorem sequencerNodes : Obligations.SequencerNodes := by
  refine ⟨?_, ?_, ?_, ?_⟩
  · intro s u f t fd x fr rest r v c is good armed
    refine ⟨fun visits bad => exec_nodeSection_plot visits bad,
      fun visits good count => exec_nodeSection_count visits good count,
      fun q w l visits good table entry read => exec_nodeSection_table visits good table entry read,
      fun w l visits shallow read => exec_nodeCond visits shallow read,
      fun w l visits shallow read => exec_nodeWhile_first visits shallow read,
      fun w l visits shallow read past => exec_nodeSwitch_default visits shallow read past,
      fun w l q z m k visits shallow read within entry target clean reserved link =>
        exec_nodeSwitch_entry visits shallow read within entry target clean reserved link,
      fun w a visits word => exec_nodeWaitf visits word,
      fun y visits field => exec_nodeRate visits field,
      fun y visits ended field => exec_nodeEnd visits ended field,
      fun i live own => exec_nodeEnd_waits live own,
      fun typ k i ctrl node visits shallow => ?_,
      fun typ i list node visits deep => exec_nodeOf_deep list node visits deep,
      fun typ i node reads type bad => ?_, fun typ i node reads other => ?_,
      fun reads none_ => ?_, fun reads low high => ?_⟩
    · rw [exec_nodeOf_ctrl ctrl node]
      exact ⟨startCtrl_none visits shallow, fun w l y some_ kids field => startCtrl_grants visits shallow some_ kids field⟩
    · obtain ⟨k, visit⟩ := exec_nodeOf node reads
      exact visit.trans (visitNode_malformed reads type bad)
    · obtain ⟨k, visit⟩ := exec_nodeOf node reads
      exact visit.trans (visitNode_other reads other)
    · exact (exec_notANodeVisit reads).trans (if_neg (by omega))
    · exact (exec_notANodeVisit reads).trans (if_pos ⟨low, high⟩)
  · intro s w f t fd x fr wh rest k l walks frames state ptr body read
    exact exec_nodeWhile_again walks frames state ⟨ptr, body⟩ read
  · intro fr l
    exact ⟨fun q next => walkFrames_next next, walkFrames_last,
      fun last inner body => (walkFrames_end last inner).trans (if_pos body),
      fun last inner list => (walkFrames_end last inner).trans (if_neg (list.trans_ne Bool.false_ne_true))⟩
  · intro c j d last
    exact ⟨CtrlState.permits_started, fun idle more kind => CtrlState.permits_stream kind idle more,
      CtrlState.permits_pipe, CtrlState.permits_seq⟩

end Sys2Proof.Machine
end

section
/-! ASORT of two keys that fill a granule of the scratchpad (R65, R278): the granule is read whole, so one event takes both keys,
where the statement has each event take one. -/

namespace Sys2Proof.Machine

open Claims (running opens)

/-- An ASORT of two keys, from the start of the scratchpad, that emits nothing. -/
def pairSort : Cmd where
  id := 0
  word := BitVec.ofNat 128 (0x0D * 2 ^ 122 + 2 ^ 83 + 2 * 2 ^ 32)
  ext := 0
  actor := 0
  fidx := 0
  pc := 0
  zcap := 0
  phase := .run
  pos := 0
  ptr := 0
  region := false
  waiting := false
  lines := []
  stream := 0
  joined := 0
  seq := 0
  fed := 0
  last := 0
  started := 0

/-- An array in Winnow mode, for the two highest of keys of 8 digits. -/
def pairArray : Flail := { Flail.armed with winnow := true, len := 8, ksel := 2 }
/-- Bay 0 runs an instance, with that command at the head of its array port; the scratchpad holds zeros. -/
def pairState : State := { State.reset with
  modnum := 0
  islands := [(0, { Island.reset with k := 64 })]
  insts := [oneInst 0 1]
  bays := [(0, { Bay.idle with inst := some (0, 1), queues := [(arrayPort, [pairSort])], array := pairArray })] }

/-- The place of the command at the head of the array port of bay 0. -/
def sortPos (s : State) : Option Nat := (s.head 0 arrayPort).map Cmd.pos

/-- The place of the first key. -/
def pairKey : List Seg := [⟨pairState.ga (windowAddr 0 0), 16⟩]

theorem pairSort_running : running pairState 0 0x29 0x0D pairSort := by unfold running; decide +kernel

theorem pairKey_opens : opens pairState (pairState.cmdCtx 0 0x29) pairKey := by unfold opens; decide +kernel

/-- The first key is legal (R278). -/
theorem pairKey_legal : ¬ (bits (BitVec.ofNat 128 (gotNat (pairState.readSegs (pairState.cmdCtx 0 0x29) pairKey).2)).toNat 127 96 ≠ 0
    ∨ bits (BitVec.ofNat 128 (gotNat (pairState.readSegs (pairState.cmdCtx 0 0x29) pairKey).2)).toNat 63 0
      / 2 ^ (8 * (pairState.bay 0).array.len) ≠ 0) := by decide +kernel

/-- One event of the command takes both keys. -/
theorem pairSort_takes_both : (outState (exec (.asort 0) pairState)).map sortPos = some (some 2) := by decide +kernel

/-- Refutes O51: of two keys that fill a granule the statement has an event take the first alone, and the array takes both. -/
theorem not_arrayCommands : ¬ Obligations.ArrayCommands := by
  unfold Obligations.ArrayCommands
  intro claim
  obtain ⟨-, -, -, -, -, -, -, -, -, -, sort, -⟩ := claim pairState pairState 0 pairSort
  obtain ⟨-, -, keys, -⟩ := sort
  have small : ¬ (pairSort.word.getLsbD 31 = true ∧ pairSort.word.getLsbD 65 = true
      ∧ scratchSize < 8 * cb pairSort.word 64 48 + 16 * (pairState.bay 0).array.ksel) := by decide +kernel
  obtain ⟨-, takes⟩ := keys pairSort_running (by decide +kernel) (.inr small) (by decide +kernel) (by decide +kernel) pairKey_opens
  have moved := pairSort_takes_both
  rw [takes pairKey_legal, outState, Option.map_some] at moved
  exact absurd moved (by decide +kernel)

end Sys2Proof.Machine
end

section
/-! The ingress of a Granary (R289, R291): pairs on their way, the batch they join, and its order. -/

namespace Sys2Proof.Machine

/-! ### Pairs on their way (R289) -/

section
variable {s : State}

theorem State.samePath_iff {p q : Pair} : s.samePath p q = true ↔ (p.who = q.who ∨ ∃ b, p.who.bay = some b ∧ q.who.bay = some b)
    ∧ p.tenant = q.tenant ∧ s.sliceKey p.pa = s.sliceKey q.pa := by
  have stop : p.who.sameStop q.who = true ↔ p.who = q.who ∨ ∃ b, p.who.bay = some b ∧ q.who.bay = some b := by
    simp only [Who.sameStop, Bool.or_eq_true, Bool.and_eq_true, beq_iff_eq, Option.isSome_iff_exists]
    refine or_congr_right ⟨?_, ?_⟩
    · rintro ⟨⟨b, hb⟩, same⟩
      exact ⟨b, hb, same ▸ hb⟩
    · rintro ⟨b, hp, hq⟩
      exact ⟨⟨b, hp⟩, hp.trans hq.symm⟩
  simp only [State.samePath, Bool.and_eq_true, beq_iff_eq, stop, and_assoc]

theorem State.stays_iff {p : Pair} : s.stays p = true ↔ s.noRoute p.who p.pa = true ∨ ∃ b e x, p.who.bay = some b
    ∧ e ∈ (s.bay b).fwd ∧ p ∉ e.behind ∧ x ∈ e.segs ∧ isWindow (gaLocal x.1) = false ∧ s.sliceKey x.1 = s.sliceKey p.pa := by
  rw [State.stays, Bool.or_eq_true]
  refine or_congr_right ?_
  unfold State.behindStore
  split
  next none_ => simp [none_]
  next b bay =>
    rw [bay]
    simp

theorem exec_pairArrive {n : Nat} {p : Pair} (pair : s.pairs[n]? = some p) : exec (.pairArrive n) s =
    if s.pairReady n p then .next (({ s with pairs := dropAt s.pairs n } : State).serialise p) else .next s := by
  change execPairArrive n s = _
  unfold execPairArrive
  rw [pair]

theorem State.pairReady_iff {n : Nat} {p : Pair} :
    s.pairReady n p = true ↔ (∀ q ∈ s.pairs.take n, s.samePath q p = false) ∧ s.stays p = false := by
  simp [State.pairReady]

theorem State.settle_open {k : Nat} (open_ : (s.slice k).closed = false) : s.settle k = s := by
  unfold State.settle State.settleN
  rw [open_]
  rfl

theorem State.noteStreams_idle (h : s.streams = []) (l : List Seg) : s.noteStreams l = s := by
  unfold State.noteStreams
  rw [h]
  rfl

/-- An untagged pair joins the open batch of its slice. -/
theorem State.serialise_joins {p : Pair} (untagged : p.tag = 0) (streams : s.streams = []) (idle : s.waiters = [])
    (open_ : (s.slice (s.sliceKey p.pa)).closed = false) :
    s.serialise p = s.setSlice (s.sliceKey p.pa) { s.slice (s.sliceKey p.pa) with
      batch := (s.slice (s.sliceKey p.pa)).batch ++ [p], closed := decide (32 ≤ (s.slice (s.sliceKey p.pa)).batch.length + 1) } := by
  have here : ¬ (p.tag ≠ 0 ∧ gaMod p.pa ≠ s.own) := fun h => h.1 untagged
  unfold State.serialise
  simp only [if_neg here, State.noteStreams_idle streams, State.settle_open open_, State.setSlice_waiters, idle, List.any_nil]
  rfl

theorem exec_batchTimeout (n : Nat) : exec (.batchTimeout n) s =
    .next (if (s.slice n).batch = [] then s else s.setSlice n { s.slice n with closed := true }) := rfl
theorem exec_batchInsert (n : Nat) : exec (.batchInsert n) s = .next (s.settle n) := rfl
theorem exec_sweep (n key : Nat) : exec (.sweep n key) s = .next (s.sweepSlice n key) := rfl

end

/-! ### Sorting -/

section
variable {α : Type} {key : α → Nat}

theorem insertBy_perm (a : α) (l : List α) : (insertBy key a l).Perm (a :: l) := by
  induction l with
  | nil => exact .refl _
  | cons b l ih =>
    unfold insertBy
    split
    · exact .refl _
    · exact (ih.cons b).trans (.swap a b l)

theorem insertBy_sorted (a : α) {l : List α} (sorted : l.Pairwise (key · ≤ key ·)) :
    (insertBy key a l).Pairwise (key · ≤ key ·) := by
  induction l with
  | nil => exact List.pairwise_singleton ..
  | cons b l ih =>
    obtain ⟨least, rest⟩ := List.pairwise_cons.mp sorted
    unfold insertBy
    split
    next less =>
      refine List.pairwise_cons.mpr ⟨fun c hc => ?_, sorted⟩
      rcases List.mem_cons.mp hc with rfl | hc
      · exact less.le
      · exact less.le.trans (least c hc)
    next notLess =>
      refine List.pairwise_cons.mpr ⟨fun c hc => ?_, ih rest⟩
      rcases List.mem_cons.mp ((insertBy_perm a l).mem_iff.mp hc) with rfl | hc
      · exact Nat.le_of_not_lt notLess
      · exact least c hc

/-- Among the elements that `p` names, an element of their key comes last. -/
theorem filter_insertBy {p : α → Bool} (a : α) {l : List α} (sorted : l.Pairwise (key · ≤ key ·))
    (same : p a = true → ∀ x ∈ l, p x = true → key x ≤ key a) :
    (insertBy key a l).filter p = (l ++ [a]).filter p := by
  induction l with
  | nil => rfl
  | cons b l ih =>
    obtain ⟨least, rest⟩ := List.pairwise_cons.mp sorted
    unfold insertBy
    split
    next less =>
      cases named : p a with
      | false => simp [List.filter_cons, named]
      | true =>
        have none_ : (b :: l).filter p = [] := List.filter_eq_nil_iff.mpr fun x hx px => by
          have above : key b ≤ key x := by
            rcases List.mem_cons.mp hx with rfl | hx
            · exact le_refl _
            · exact least x hx
          have := same named x hx px
          omega
        rw [List.filter_append, List.filter_cons, if_pos named, none_, List.filter_singleton, named]
        rfl
    next notLess =>
      rw [List.filter_cons, List.cons_append, List.filter_cons, ih rest fun pa x hx => same pa x (List.mem_cons_of_mem b hx)]

theorem sortBy_append (l : List α) (a : α) : sortBy key (l ++ [a]) = insertBy key a (sortBy key l) := by
  unfold sortBy
  rw [List.foldl_append]
  rfl

theorem sortBy_perm (l : List α) : (sortBy key l).Perm l := by
  induction l using List.reverseRecOn with
  | nil => exact .refl _
  | append_singleton l a ih =>
    rw [sortBy_append]
    exact (insertBy_perm a _).trans ((ih.cons a).trans (List.perm_append_singleton a l).symm)

theorem sortBy_sorted (l : List α) : (sortBy key l).Pairwise (key · ≤ key ·) := by
  induction l using List.reverseRecOn with
  | nil => exact .nil
  | append_singleton l a ih => exact sortBy_append l a ▸ insertBy_sorted a ih

/-- Elements of one key keep their order. -/
theorem filter_sortBy {p : α → Bool} {l : List α} (same : ∀ x ∈ l, ∀ y ∈ l, p x = true → p y = true → key x = key y) :
    (sortBy key l).filter p = l.filter p := by
  induction l using List.reverseRecOn with
  | nil => rfl
  | append_singleton l a ih =>
    have before {x : α} (hx : x ∈ l) : x ∈ l ++ [a] := List.mem_append_left [a] hx
    rw [sortBy_append, filter_insertBy a (sortBy_sorted l) fun pa x hx px =>
        (same x (before ((sortBy_perm l).mem_iff.mp hx)) a (by simp) px pa).le,
      List.filter_append, ih fun x hx y hy => same x (before hx) y (before hy), List.filter_append]

end

/-! ### A batch (R291) -/

/-- The keys of the pairs of a line. -/
def lineKeys (l : List Pair) (n : Nat) : List Nat := (l.filter fun q => lineOf q.pa == n).map Pair.key

/-- The key that a batch is sorted by. -/
def batchKey (l : List Pair) (p : Pair) : Nat :=
  (lineKeys l (lineOf p.pa)).foldl Nat.min p.key * 64 + if (lineKeys l (lineOf p.pa)).all (· == p.key) then p.pa % 64 else 0

theorem sortBatch_eq (l : List Pair) : sortBatch l = sortBy (batchKey l) l := rfl

theorem le_foldl_min {m x : Nat} {l : List Nat} : m ≤ l.foldl Nat.min x ↔ m ≤ x ∧ ∀ y ∈ l, m ≤ y := by
  induction l generalizing x with
  | nil => simp
  | cons z l ih =>
    rw [List.foldl_cons, ih, List.forall_mem_cons, ← and_assoc]
    exact and_congr_left' Nat.le_min

section
variable {l : List Pair} {p q : Pair}

theorem key_mem_lineKeys (hp : p ∈ l) : p.key ∈ lineKeys l (lineOf p.pa) :=
  List.mem_map_of_mem (List.mem_filter.mpr ⟨hp, beq_self_eq_true _⟩)

/-- The least key of a line is the same, whichever of its pairs asks for it. -/
theorem leastKey_eq (hp : p ∈ l) (hq : q ∈ l) (line : lineOf p.pa = lineOf q.pa) :
    (lineKeys l (lineOf p.pa)).foldl Nat.min p.key = (lineKeys l (lineOf q.pa)).foldl Nat.min q.key := by
  have hp := key_mem_lineKeys hp
  have hq := key_mem_lineKeys hq
  rw [← line] at hq ⊢
  refine eq_of_forall_le_iff fun m => ?_
  rw [le_foldl_min, le_foldl_min]
  exact ⟨fun h => ⟨h.2 _ hq, h.2⟩, fun h => ⟨h.2 _ hp, h.2⟩⟩

/-- Pairs of one element stand under one key. -/
theorem batchKey_element (hp : p ∈ l) (hq : q ∈ l) (pa : p.pa = q.pa) : batchKey l p = batchKey l q := by
  have least := leastKey_eq hp hq (congrArg lineOf pa)
  have all : (lineKeys l (lineOf p.pa)).all (· == p.key) = (lineKeys l (lineOf q.pa)).all (· == q.key) := by
    have hp := key_mem_lineKeys hp
    have hq := key_mem_lineKeys hq
    rw [← pa] at hq ⊢
    rw [Bool.eq_iff_iff, List.all_eq_true, List.all_eq_true]
    simp only [beq_iff_eq]
    exact ⟨fun h x hx => (h x hx).trans (h _ hq).symm, fun h x hx => (h x hx).trans (h _ hp).symm⟩
  unfold batchKey
  rw [least, all, pa]

/-- So do the pairs of a line that holds two keys (R295). -/
theorem batchKey_line {n : Nat} (two : ∃ x ∈ l, ∃ y ∈ l, lineOf x.pa = n ∧ lineOf y.pa = n ∧ x.key ≠ y.key)
    (pn : lineOf p.pa = n) : batchKey l p = (lineKeys l n).foldl Nat.min p.key * 64 := by
  obtain ⟨x, hx, y, hy, rfl, yn, differ⟩ := two
  have mixed : (lineKeys l (lineOf x.pa)).all (· == p.key) = false := by
    rw [← Bool.not_eq_true, List.all_eq_true]
    intro all
    have xk := all _ (key_mem_lineKeys hx)
    have yk := all _ (yn ▸ key_mem_lineKeys hy)
    exact differ ((beq_iff_eq.mp xk).trans (beq_iff_eq.mp yk).symm)
  unfold batchKey
  rw [pn, mixed]
  rfl

end

theorem sortBatch_order (l : List Pair) (n : Nat) :
    (sortBatch l).Perm l ∧ (sortBatch l).filter (fun p => p.pa == n) = l.filter (fun p => p.pa == n)
    ∧ ((∃ p ∈ l, ∃ q ∈ l, lineOf p.pa = n ∧ lineOf q.pa = n ∧ p.key ≠ q.key) →
      (sortBatch l).filter (fun p => lineOf p.pa == n) = l.filter (fun p => lineOf p.pa == n)) := by
  rw [sortBatch_eq]
  refine ⟨sortBy_perm l, filter_sortBy fun x hx y hy xn yn => ?_, fun two => filter_sortBy fun x hx y hy xn yn => ?_⟩
  · exact batchKey_element hx hy ((beq_iff_eq.mp xn).trans (beq_iff_eq.mp yn).symm)
  · have xn := beq_iff_eq.mp xn
    have yn := beq_iff_eq.mp yn
    have least := leastKey_eq hx hy (xn.trans yn.symm)
    rw [xn, yn] at least
    calc batchKey l x = (lineKeys l n).foldl Nat.min x.key * 64 := batchKey_line two xn
      _ = (lineKeys l n).foldl Nat.min y.key * 64 := by rw [least]
      _ = batchKey l y := (batchKey_line two yn).symm

end Sys2Proof.Machine
end

section
/-! The bin store of a Granary (R291-R294): the bins that pairs join, what the limits remove, and the runs that are written. -/

namespace Sys2Proof.Machine

/-! ### The bins of pairs (R291) -/

theorem Bin.alike_iff (a b : Bin) : a.alike b = true ↔ a.tenant = b.tenant ∧ a.handle = b.handle ∧ a.op = b.op ∧ a.sync = b.sync
    ∧ a.tag = b.tag ∧ a.field = b.field := by
  simp only [Bin.alike, Bool.and_eq_true, beq_iff_eq]
  tauto

theorem Pair.bin_untagged {p : Pair} (untagged : p.tag = 0) : p.bin.field = 0 := if_pos untagged

section
variable {s : State} {pre : AtHome} {k : Nat} {p : Pair} {l : List Bin}

/-- A bin of the pair's line and key. -/
def Pair.fits (p : Pair) (b : Bin) : Bool := b.line == p.bin.line && b.alike p.bin
/-- A bin of the pair's line that has another key. -/
def Pair.clashes (p : Pair) (b : Bin) : Bool := b.line == p.bin.line && !p.fits b

theorem Pair.fits_iff (b : Bin) : p.fits b = true ↔ b.line = lineOf p.pa ∧ b.alike p.bin = true := by
  simp [Pair.fits, Pair.bin]

theorem Pair.clashes_iff (b : Bin) : p.clashes b = true ↔ b.line = lineOf p.pa ∧ ¬ b.alike p.bin = true := by
  rw [Pair.clashes, Bool.and_eq_true, Bool.not_eq_true', ← Bool.not_eq_true, Pair.fits_iff, beq_iff_eq, Pair.bin]
  tauto

theorem Pair.not_any_clashes : l.any p.clashes = false ↔ ∀ b ∈ l, b.line = lineOf p.pa → b.alike p.bin = true := by
  simp only [← Bool.not_eq_true, List.any_eq_true, Pair.clashes_iff, not_exists, not_and, not_not]

/-- A pair joins the bin of its key or opens one. -/
def State.placePair (pre : AtHome) (s : State) (k : Nat) (p : Pair) : State :=
  if (s.slice k).bins.any p.fits then s.setSlice k { s.slice k with
    bins := (s.slice k).bins.map fun b =>
      if p.fits b then { b with entries := p.bin.entries.foldl (fun l e => addEntry b.op e l) b.entries } else b }
  else
    let known := (s.slice k).copies.any fun c => c.tenant == p.tenant && c.handle == p.handle
    let s := if known || p.handle ≥ 4096 then s else pre s (s.entryAddr p.tenant p.handle)
    s.setSlice k { s.slice k with
      bins := (s.slice k).bins ++ [p.bin]
      copies := if known then (s.slice k).copies else (s.slice k).copies ++ [s.regionCopy p] }

theorem State.insertPair_eq : s.insertPair pre k p = State.placePair pre
    (if (s.slice k).bins.any p.clashes then s.applyLines pre k (fun n => n == lineOf p.pa) [] else s) k p := rfl

theorem State.insertPair_calm (calm : ∀ b ∈ (s.slice k).bins, b.line = lineOf p.pa → b.alike p.bin = true) :
    s.insertPair pre k p = State.placePair pre s k p := by
  rw [State.insertPair_eq, Pair.not_any_clashes.mpr calm, if_neg Bool.false_ne_true]

theorem State.insertPair_joins (alike : ∀ b ∈ (s.slice k).bins, b.line = lineOf p.pa → b.alike p.bin = true)
    (bin : ∃ b ∈ (s.slice k).bins, b.line = lineOf p.pa ∧ b.alike p.bin = true) :
    s.insertPair pre k p = s.setSlice k { s.slice k with
      bins := (s.slice k).bins.map fun b =>
        if b.line = lineOf p.pa then { b with entries := p.bin.entries.foldl (fun l e => addEntry b.op e l) b.entries } else b } := by
  obtain ⟨b, hb, fits⟩ := bin
  rw [State.insertPair_calm alike, State.placePair, if_pos (List.any_eq_true.mpr ⟨b, hb, (Pair.fits_iff b).mpr fits⟩)]
  have joined : ∀ b ∈ (s.slice k).bins,
      (if p.fits b then { b with entries := p.bin.entries.foldl (fun l e => addEntry b.op e l) b.entries } else b)
      = if b.line = lineOf p.pa then { b with entries := p.bin.entries.foldl (fun l e => addEntry b.op e l) b.entries } else b :=
    fun b hb => if_congr ((Pair.fits_iff b).trans (and_iff_left_of_imp (alike b hb))) rfl rfl
  rw [List.map_congr_left joined]

theorem State.insertPair_opens (new : ∀ b ∈ (s.slice k).bins, b.line ≠ lineOf p.pa)
    (known : ∃ c ∈ (s.slice k).copies, c.tenant = p.tenant ∧ c.handle = p.handle) :
    s.insertPair pre k p = s.setSlice k { s.slice k with bins := (s.slice k).bins ++ [p.bin] } := by
  have none_ : ¬ (s.slice k).bins.any p.fits = true := by
    rw [List.any_eq_true]
    rintro ⟨b, hb, fits⟩
    exact new b hb ((Pair.fits_iff b).mp fits).1
  have known : ((s.slice k).copies.any fun c => c.tenant == p.tenant && c.handle == p.handle) = true := by
    simpa using known
  rw [State.insertPair_calm fun b hb line => absurd line (new b hb), State.placePair, if_neg none_, known]
  rfl

/-- A bin of another key on the pair's line is applied first. -/
theorem State.insertPair_clashing {b : Bin} (hb : b ∈ (s.slice k).bins) (line : b.line = lineOf p.pa) (other : ¬ b.alike p.bin = true)
    {u : State} (applied : u = s.applyLines pre k (fun n => n == lineOf p.pa) [])
    (clear : (u.slice k).bins.all (fun b => b.line != lineOf p.pa) = true) :
    s.insertPair pre k p = u.insertPair pre k p := by
  have clash : (s.slice k).bins.any p.clashes = true := List.any_eq_true.mpr ⟨b, hb, (Pair.clashes_iff b).mpr ⟨line, other⟩⟩
  have calm : ∀ b ∈ (u.slice k).bins, b.line = lineOf p.pa → b.alike p.bin = true := fun b hb line =>
    absurd line (by simpa using List.all_eq_true.mp clear b hb)
  rw [State.insertPair_eq, if_pos clash, ← applied, State.insertPair_calm calm]

end

/-! ### Entries (R287, R291) -/

section
variable {op : Nat}

theorem addEntry_new {e : Entry} {l : List Entry} (new : ∀ x ∈ l, x.pa ≠ e.pa) : addEntry op e l = l ++ [e] := by
  induction l with
  | nil => rfl
  | cons x l ih =>
    obtain ⟨head, tail⟩ := List.forall_mem_cons.mp new
    rw [addEntry, if_neg head, ih tail]
    rfl

theorem addEntry_joins {e x : Entry} {a b : List Entry} (before : ∀ y ∈ a, y.pa ≠ e.pa) (here : x.pa = e.pa) :
    addEntry op e (a ++ x :: b) = a ++ { x with parts := e.parts.foldl (addPart op) x.parts, poison := x.poison || e.poison } :: b := by
  induction a with
  | nil => exact if_pos here
  | cons y a ih =>
    obtain ⟨head, tail⟩ := List.forall_mem_cons.mp before
    rw [List.cons_append, addEntry, if_neg head, ih tail]
    rfl

theorem addPart_float (float : opFloat op = true) (l : List Part) (v : Part) : addPart op l v = l ++ [v] := if_pos float

theorem addPart_same {x v : Part} (exact_ : opFloat op = false) (field : x.field = v.field) (inst : x.inst = v.inst) :
    addPart op [x] v = [{ v with value := BitVec.ofNat 64 (opCombine op x.value.toNat v.value.toNat) }] := by
  simp [addPart, exact_, field, inst]

end

theorem binEntries_eq (l : List Bin) : binEntries l = (l.map fun b => b.entries.length).sum := by
  rw [binEntries, List.sum_eq_foldl]

@[simp] theorem binEntries_cons (b : Bin) (l : List Bin) : binEntries (b :: l) = b.entries.length + binEntries l := by
  simp [binEntries_eq]

/-- The oldest bins go until the limit is kept. -/
theorem oldest_keeps (limit : Nat) (l : List Bin) :
    ∃ r, l = oldest limit (binEntries l) l ++ r ∧ binEntries r ≤ limit := by
  induction l with
  | nil => exact ⟨[], rfl, Nat.zero_le _⟩
  | cons b l ih =>
    rw [oldest]
    split
    next within => exact ⟨b :: l, rfl, within⟩
    next =>
      obtain ⟨r, split_, kept⟩ := ih
      rw [binEntries_cons, Nat.add_sub_cancel_left]
      exact ⟨r, congrArg (b :: ·) split_, kept⟩

/-! ### The store threshold (R292) -/

/-- The entries of a tenant. -/
def tenantEntries (l : List Bin) (t : Nat) : Nat := binEntries (l.filter fun b => b.tenant == t)

/-- The place of the greatest of the first values of `f`, the first of them on a tie. -/
theorem foldl_greatest (f : Nat → Nat) (n : Nat) :
    let r := (List.range n).foldl (fun t u => if f u > f t then u else t) 0
    r ≤ n ∧ ∀ u < n, f u ≤ f r ∧ (f u = f r → r ≤ u) := by
  induction n with
  | zero => exact ⟨le_refl 0, fun u hu => absurd hu (Nat.not_lt_zero u)⟩
  | succ n ih =>
    obtain ⟨bound, greatest⟩ := ih
    rw [List.range_succ, List.foldl_append, List.foldl_cons, List.foldl_nil]
    split
    next more =>
      refine ⟨Nat.le_succ n, fun u hu => ?_⟩
      rcases Nat.lt_succ_iff_lt_or_eq.mp hu with hu | rfl
      · have := (greatest u hu).1
        exact ⟨by omega, by omega⟩
      · exact ⟨le_refl _, fun _ => le_refl _⟩
    next notMore =>
      refine ⟨bound.trans (Nat.le_succ n), fun u hu => ?_⟩
      rcases Nat.lt_succ_iff_lt_or_eq.mp hu with hu | rfl
      · exact greatest u hu
      · exact ⟨Nat.le_of_not_lt notMore, fun _ => bound⟩

theorem fullest_greatest (l : List Bin) {u : Nat} (hu : u < 16) :
    tenantEntries l u ≤ tenantEntries l (fullest l) ∧ (tenantEntries l u = tenantEntries l (fullest l) → fullest l ≤ u) :=
  (foldl_greatest (tenantEntries l) 16).2 u hu

section
variable {limit : Nat} {l : List Bin} (tenants : ∀ b ∈ l, b.tenant < 16)
include tenants

/-- The tenant with the most entries has a bin, where there is any entry. -/
theorem exists_fullest (some_ : 0 < binEntries l) : ∃ b ∈ l, b.tenant = fullest l := by
  by_contra none_
  rw [binEntries_eq] at some_
  have empty : tenantEntries l (fullest l) = 0 := by
    rw [tenantEntries, List.filter_eq_nil_iff.mpr fun b hb tenant => none_ ⟨b, hb, beq_iff_eq.mp tenant⟩]
    rfl
  refine some_.ne' (List.sum_eq_zero fun n hn => ?_)
  obtain ⟨b, hb, rfl⟩ := List.mem_map.mp hn
  have below : b.entries.length ≤ tenantEntries l b.tenant := by
    rw [tenantEntries, binEntries_eq]
    exact List.le_sum_of_mem (List.mem_map_of_mem (List.mem_filter.mpr ⟨hb, beq_self_eq_true _⟩))
  have := (fullest_greatest l (tenants b hb)).1
  omega

theorem overflow_keeps {n : Nat} (fuel : l.length ≤ n) :
    binEntries (l.filter fun b => !(overflow limit n l).contains b) ≤ limit := by
  induction n generalizing l with
  | zero =>
    obtain rfl := List.length_eq_zero_iff.mp (Nat.le_zero.mp fuel)
    exact Nat.zero_le _
  | succ n ih =>
    unfold overflow
    split
    next within => simpa using within
    next above =>
      split
      next b found =>
        have hb := List.mem_of_find?_eq_some found
        have shorter : (l.filter fun q => q ≠ b).length < l.length :=
          List.length_filter_lt_length_iff_exists.mpr ⟨b, hb, by simp⟩
        have rest := ih (l := l.filter fun q => q ≠ b) (fun c hc => tenants c (List.mem_of_mem_filter hc)) (by omega)
        rw [List.filter_filter] at rest
        refine le_of_eq_of_le (congrArg binEntries (List.filter_congr fun c _ => ?_)) rest
        simp [Bool.and_comm]
      next none_ =>
        obtain ⟨b, hb, tenant⟩ := exists_fullest tenants (by omega)
        exact absurd (beq_iff_eq.mpr tenant) (List.find?_eq_none.mp none_ b hb)

end

theorem overflow_subset (limit : Nat) (n : Nat) (l : List Bin) : overflow limit n l ⊆ l := by
  induction n generalizing l with
  | zero => exact List.nil_subset _
  | succ n ih =>
    unfold overflow
    split
    · exact List.nil_subset _
    · split
      next b found =>
        exact List.cons_subset.mpr ⟨List.mem_of_find?_eq_some found, List.Subset.trans (ih _) (List.filter_subset_self _)⟩
      · exact List.nil_subset _

/-! ### Limits and runs (R292-R294) -/

section
variable {s u : State} {pre : AtHome} {k : Nat}

theorem State.quotaTest_within {c : RegionCopy}
    (within : c.binq = 0 ∨ binEntries ((s.slice k).bins.filter fun b => b.inRegion c.tenant c.handle) ≤ c.binq) :
    s.quotaTest pre k c = s := if_pos within

theorem State.quotaTest_over {c : RegionCopy} (quota : c.binq ≠ 0)
    (past : c.binq < binEntries ((s.slice k).bins.filter fun b => b.inRegion c.tenant c.handle)) :
    let bins := (s.slice k).bins.filter fun b => b.inRegion c.tenant c.handle
    let gone := oldest (3 * c.binq / 4) (binEntries bins) bins
    s.quotaTest pre k c = State.spillAll pre k gone.length (s.grn k c.tenant 63 48 1) gone :=
  if_neg (not_or.mpr ⟨quota, Nat.not_le_of_lt past⟩)

theorem State.storeTest_within (within : binEntries (s.slice k).bins ≤ 14336) : s.storeTest pre k = s := if_pos within

theorem State.spillArea_zero (t : Nat) : s.spillArea t 0 = none := rfl

theorem State.spillArea_usable {t h base bound : Nat} (area : s.spillArea t h = some (base, bound)) : 64 ≤ bound ∧ h ≠ 0 := by
  unfold State.spillArea at area
  split at area
  · exact absurd area nofun
  next named =>
    extract_lets r e at area
    split at area
    · exact absurd area nofun
    next usable =>
      simp only [Bool.or_eq_true, decide_eq_true_eq, not_or] at usable
      obtain ⟨-, rfl⟩ := Prod.mk.inj (Option.some.inj area)
      exact ⟨Nat.le_of_not_lt usable.2, named⟩

/-- The handle of the spill area that the Granary's copy of a region names, or 0. -/
def State.spillHandle (s : State) (k : Nat) (b : Bin) : Nat :=
  (((s.slice k).copies.find? fun c => c.tenant == b.tenant && c.handle == b.handle).map RegionCopy.spill).getD 0

/-- The runs of a bin's region. -/
def State.regionRuns (s : State) (k : Nat) (b : Bin) : List Run :=
  (s.slice k).runs.filter fun r => r.tenant == b.tenant && r.handle == b.handle

section
variable {b : Bin} {t : List Bin} (held : ∀ x ∈ b :: t, x ∈ (s.slice k).bins)
include held

/-- Bins that the store holds are all removed. -/
theorem State.spillBins_held : s.spillBins pre k (b :: t) =
    let u := if s.spillHandle k b = 0 then s else pre s (s.entryAddr b.tenant (s.spillHandle k b))
    if (u.spillArea b.tenant (s.spillHandle k b)).isNone then u.inPlace pre k (b :: t)
    else if (u.regionRuns k b).length ≥ 64 then u.mergeRuns pre k b (s.spillHandle k b) (b :: t)
    else
      let r := u.writeRun pre k b (s.spillHandle k b) false (sortEntries ((b :: t).flatMap Bin.entries))
      if r.2 then r.1.dropBins k (b :: t) else r.1.inPlace pre k (b :: t) := by
  have all : (b :: t).filter (s.slice k).bins.contains = b :: t :=
    List.filter_eq_self.mpr fun x hx => List.contains_iff_mem.mpr (held x hx)
  unfold State.spillBins
  rw [all]
  rfl

theorem State.spillBins_unnamed (none_ : s.spillHandle k b = 0) : s.spillBins pre k (b :: t) = s.inPlace pre k (b :: t) := by
  rw [State.spillBins_held held, none_]
  exact if_pos (congrArg Option.isNone (State.spillArea_zero b.tenant))

section
variable (named : s.spillHandle k b ≠ 0) (reached : u = pre s (s.entryAddr b.tenant (s.spillHandle k b)))
include named reached

theorem State.spillBins_unusable (area : u.spillArea b.tenant (s.spillHandle k b) = none) :
    s.spillBins pre k (b :: t) = u.inPlace pre k (b :: t) := by
  rw [State.spillBins_held held, if_neg named, ← reached]
  exact if_pos (Option.isNone_iff_eq_none.mpr area)

theorem State.spillBins_merges (area : u.spillArea b.tenant (s.spillHandle k b) ≠ none) (full : 64 ≤ (u.regionRuns k b).length) :
    s.spillBins pre k (b :: t) = u.mergeRuns pre k b (s.spillHandle k b) (b :: t) := by
  rw [State.spillBins_held held, if_neg named, ← reached]
  exact (if_neg (by simpa using area)).trans (if_pos full)

theorem State.spillBins_writes (area : u.spillArea b.tenant (s.spillHandle k b) ≠ none) (room : (u.regionRuns k b).length < 64) :
    let r := u.writeRun pre k b (s.spillHandle k b) false (sortEntries ((b :: t).flatMap Bin.entries))
    s.spillBins pre k (b :: t) = if r.2 then r.1.dropBins k (b :: t) else r.1.inPlace pre k (b :: t) := by
  rw [State.spillBins_held held, if_neg named, ← reached]
  exact (if_neg (by simpa using area)).trans (if_neg (Nat.not_le_of_lt room))

end
end

section
variable {b : Bin} {h base bound : Nat} {m : Bool} {es : List Entry} {hdr : List Seg}

theorem State.writeRun_unusable (area : s.spillArea b.tenant h = none) : s.writeRun pre k b h m es = (s, false) := by
  unfold State.writeRun
  rw [area]

variable (area : s.spillArea b.tenant h = some (base, bound)) (header : s.spillSegs pre k b.tenant base 0 64 = some (u, hdr))
include area header

/-- A run that passes the bound, or whose bytes are not formed, is refused (R293). -/
theorem State.writeRun_refused (refused :
      let v := pre.all u hdr
      bound < v.headerGet hdr 0 + (32 + 16 * es.length)
        ∨ v.spillSegs pre k b.tenant base (v.headerGet hdr 0) (32 + 16 * es.length) = none) :
    s.writeRun pre k b h m es = ((pre.all u hdr).headerAdd hdr 32 1, false) := by
  unfold State.writeRun
  simp only [area, header, List.length_map]
  rcases refused with past | unformed
  · rw [if_pos past]
  · rw [unformed, ite_self]

theorem State.writeRun_writes {w : State} {segs : List Seg}
    (room : (pre.all u hdr).headerGet hdr 0 + (32 + 16 * es.length) ≤ bound)
    (formed : (pre.all u hdr).spillSegs pre k b.tenant base ((pre.all u hdr).headerGet hdr 0) (32 + 16 * es.length) = some (w, segs)) :
    ∃ z : State, s.writeRun pre k b h m es = (z.setSlice k { z.slice k with
      runs := (z.slice k).runs ++ [⟨b.tenant, b.handle, b.op, b.sync, b.field, b.tag, segs.map fun x => (x.addr, x.len),
        hdr.map fun x => (x.addr, x.len), 32 + 16 * es.length, es.map ((pre.all u hdr).oneValue b.op)⟩] }, true) := by
  unfold State.writeRun
  simp only [area, header, List.length_map, if_neg (Nat.not_lt_of_le room), formed]
  exact ⟨_, rfl⟩

end
end

end Sys2Proof.Machine
end

section
/-! Pairs that are applied (R287, R295): which runs go together, the values of the operators, and the element they change. -/

namespace Sys2Proof.Machine

/-! ### Runs that go together (R295) -/

section
variable {pick : Run → Bool} {r : Run} {l : List Run}

/-- A run is chosen, or kept. -/
theorem chooseRuns_cases (pick : Run → Bool) (r : Run) (l : List Run) :
    let c := chooseRuns pick l
    let lines := r.entries.map fun e => lineOf e.pa
    ((pick r = true ∨ ∃ n ∈ lines, n ∈ c.2.2) ∧ chooseRuns pick (r :: l) = (r :: c.1, c.2.1, c.2.2 ++ lines))
    ∨ (¬ (pick r = true ∨ ∃ n ∈ lines, n ∈ c.2.2) ∧ chooseRuns pick (r :: l) = (c.1, r :: c.2.1, c.2.2)) := by
  intro c lines
  have taken : (pick r || lines.any c.2.2.contains) = true ↔ pick r = true ∨ ∃ n ∈ lines, n ∈ c.2.2 := by simp
  by_cases h : pick r = true ∨ ∃ n ∈ lines, n ∈ c.2.2
  · exact .inl ⟨h, if_pos (taken.mpr h)⟩
  · exact .inr ⟨h, if_neg (mt taken.mp h)⟩

theorem chooseRuns_subset_cons : (chooseRuns pick l).1 ⊆ (chooseRuns pick (r :: l)).1 := by
  rcases chooseRuns_cases pick r l with ⟨-, eq⟩ | ⟨-, eq⟩ <;> rw [eq]
  · exact List.subset_cons_self ..
  · exact List.Subset.refl _

theorem chooseRuns_subset_append (a : List Run) : (chooseRuns pick l).1 ⊆ (chooseRuns pick (a ++ l)).1 := by
  induction a with
  | nil => exact List.Subset.refl _
  | cons r a ih => exact List.Subset.trans ih chooseRuns_subset_cons

theorem chooseRuns_picks {x : Run} (hx : x ∈ l) (named : pick x = true) : x ∈ (chooseRuns pick l).1 := by
  induction l with
  | nil => exact absurd hx List.not_mem_nil
  | cons r l ih =>
    rcases List.mem_cons.mp hx with rfl | hx
    · rcases chooseRuns_cases pick x l with ⟨-, eq⟩ | ⟨kept, -⟩
      · exact eq ▸ List.mem_cons_self ..
      · exact absurd (.inl named) kept
    · exact chooseRuns_subset_cons (ih hx)

/-- The chosen and the kept runs are the runs, each in their order. -/
theorem chooseRuns_parts (pick : Run → Bool) (l : List Run) : (chooseRuns pick l).1.Sublist l ∧ (chooseRuns pick l).2.1.Sublist l
    ∧ (chooseRuns pick l).1.length + (chooseRuns pick l).2.1.length = l.length := by
  induction l with
  | nil => exact ⟨.slnil, .slnil, rfl⟩
  | cons r l ih =>
    obtain ⟨chosen, kept, length⟩ := ih
    rcases chooseRuns_cases pick r l with ⟨-, eq⟩ | ⟨-, eq⟩ <;> rw [eq]
    · exact ⟨chosen.cons_cons r, kept.cons r, by simp only [List.length_cons]; omega⟩
    · exact ⟨chosen.cons r, kept.cons_cons r, by simp only [List.length_cons]; omega⟩

theorem chooseRuns_lines {y : Run} {f : Entry} (hy : y ∈ (chooseRuns pick l).1) (hf : f ∈ y.entries) :
    lineOf f.pa ∈ (chooseRuns pick l).2.2 := by
  induction l with
  | nil => exact absurd hy List.not_mem_nil
  | cons r l ih =>
    rcases chooseRuns_cases pick r l with ⟨-, eq⟩ | ⟨-, eq⟩ <;> rw [eq] at hy ⊢
    · rcases List.mem_cons.mp hy with rfl | hy
      · exact List.mem_append_right _ (List.mem_map_of_mem hf)
      · exact List.mem_append_left _ (ih hy)
    · exact ih hy

/-- An older run that shares a line with a chosen one is chosen. -/
theorem chooseRuns_older {a : List Run} {x y : Run} {e f : Entry} (hy : y ∈ (chooseRuns pick l).1) (he : e ∈ x.entries)
    (hf : f ∈ y.entries) (line : lineOf e.pa = lineOf f.pa) : x ∈ (chooseRuns pick (a ++ x :: l)).1 := by
  refine chooseRuns_subset_append a ?_
  rcases chooseRuns_cases pick x l with ⟨-, eq⟩ | ⟨kept, -⟩
  · exact eq ▸ List.mem_cons_self ..
  · exact absurd (.inr ⟨_, List.mem_map_of_mem he, line ▸ chooseRuns_lines hy hf⟩) kept

end

/-! ### Pairs that are applied (R295) -/

theorem State.applyPend_nil (n : Nat) (s : State) : State.applyPend n s [] = s := by
  cases n <;> rfl

/-- Contributions to one element by one operator are applied together. -/
theorem State.applyPend_element (s : State) {x : Pend} {l : List Pend} (same : ∀ y ∈ l, y.pa = x.pa ∧ y.op = x.op) :
    State.applyPend (l.length + 1) s (x :: l) = s.applyElem x.pa x.op (x :: l) := by
  unfold State.applyPend
  extract_lets alike meets near
  have alike_all : ∀ y ∈ l, alike y = true := fun y hy => by simp [alike, same y hy]
  have near_eq : near = l := List.takeWhile_eq_self_iff.mpr fun y hy => by simp [alike_all y hy]
  have others : (near.filter fun y => !alike y) ++ l.dropWhile (fun y => alike y || !meets y) = [] := by
    rw [near_eq, List.filter_eq_nil_iff.mpr fun y hy => by simp [alike_all y hy],
      List.dropWhile_eq_nil_iff.mpr fun y hy => by simp [alike_all y hy]]
    rfl
  rw [others, State.applyPend_nil, near_eq, List.filter_eq_self.mpr alike_all]

theorem State.setSlice_setSlice (s : State) (k : Nat) (x y : Slice) : (s.setSlice k x).setSlice k y = s.setSlice k y := by
  unfold State.setSlice
  rw [tput_tput]

section
variable {s : State} {k : Nat}

/-- With no run and no bin at the slice, the contributions at hand are all that is applied. -/
theorem State.applyLines_bare {pre : AtHome} {want : Nat → Bool} {more : List Pend} (runs : (s.slice k).runs = [])
    (bins : (s.slice k).bins = []) (some_ : more ≠ []) :
    s.applyLines pre k want more = State.applyPend more.length (s.setSlice k (s.slice k).prune) more := by
  unfold State.applyLines State.applyWork
  have x : ({ s.slice k with runs := [], bins := [] } : Slice) = s.slice k := by rw [← runs, ← bins]
  simp only [runs, bins, chooseRuns, List.filter_nil, some_, and_false, if_false, List.foldl_nil, List.flatMap_nil,
    List.nil_append, x]

theorem State.applyAt_batch {x : Slice} {want : Nat → Bool} (listed : tget k s.slices = some x)
    (open_ : x.closed = false) (runs : x.runs = []) (bins : x.bins = []) (some_ : x.batch ≠ [])
    (wanted : ∀ p ∈ x.batch, want (lineOf p.pa) = true) :
    s.applyAt k want = State.applyPend x.batch.length (s.setSlice k ({ x with batch := [] } : Slice).prune) (x.batch.map Pair.pend) := by
  have slice : s.slice k = x := by
    unfold State.slice tgetD
    rw [listed]
    rfl
  have mine : x.batch.filter (fun p => want (lineOf p.pa)) = x.batch := List.filter_eq_self.mpr wanted
  have others : x.batch.filter (fun p => !want (lineOf p.pa)) = [] :=
    List.filter_eq_nil_iff.mpr fun p hp => by simp [wanted p hp]
  have taken : (s.setSlice k { x with batch := [], closed := false }).slice k = { x with batch := [] } := by
    rw [State.slice_setSlice, if_pos rfl, ← open_]
  unfold State.applyAt
  simp only [listed, State.settle_open (slice ▸ open_), slice, mine, others, List.isEmpty_eq_false_iff.mpr some_]
  refine (State.applyLines_bare ?_ ?_ ?_).trans ?_
  · exact (congrArg Slice.runs taken).trans runs
  · exact (congrArg Slice.bins taken).trans bins
  · simpa using some_
  · rw [List.length_map]
    exact congrArg (State.applyPend _ · _) ((State.setSlice_setSlice ..).trans (congrArg (s.setSlice k ·.prune) taken))

end

/-! ### Operators (R287) -/

section
variable {f : Nat → Nat → Nat}

/-- A fold of a choice between two values that never gets past either chooses among its values, and gets past none. -/
theorem foldl_chooses {r : Nat → Nat → Prop} (refl : ∀ x, r x x) (trans : ∀ x y z, r x y → r y z → r x z)
    (chooses : ∀ x y, (f x y = x ∨ f x y = y) ∧ r (f x y) x ∧ r (f x y) y) (x : Nat) (l : List Nat) :
    l.foldl f x ∈ x :: l ∧ ∀ y ∈ x :: l, r (l.foldl f x) y := by
  induction l generalizing x with
  | nil => exact ⟨List.mem_singleton_self x, fun y hy => List.mem_singleton.mp hy ▸ refl y⟩
  | cons z l ih =>
    obtain ⟨pick, first, second⟩ := chooses x z
    obtain ⟨member, least⟩ := ih (f x z)
    have head := least _ (List.mem_cons_self ..)
    rw [List.foldl_cons]
    constructor
    · rcases List.mem_cons.mp member with eq | tail
      · rw [eq]
        rcases pick with eq | eq <;> simp [eq]
      · exact List.mem_cons_of_mem _ (List.mem_cons_of_mem _ tail)
    · intro y hy
      rcases List.mem_cons.mp hy with rfl | hy
      · exact trans _ _ _ head first
      · rcases List.mem_cons.mp hy with rfl | hy
        · exact trans _ _ _ head second
        · exact least y (List.mem_cons_of_mem _ hy)

theorem foldl_sum_mod {n : Nat} (sum : ∀ x y, f x y = (x + y) % n) (x : Nat) (l : List Nat) :
    l.foldl f x % n = (x + l.sum) % n := by
  induction l generalizing x with
  | nil => rfl
  | cons y l ih => rw [List.foldl_cons, ih, sum, Nat.mod_add_mod, List.sum_cons, Nat.add_assoc]

theorem foldl_last (last : ∀ x y, f x y = y) (x : Nat) (l : List Nat) :
    l.foldl f x = (x :: l).getLast (List.cons_ne_nil x l) := by
  induction l generalizing x with
  | nil => rfl
  | cons y l ih => rw [List.foldl_cons, last, ih, List.getLast_cons (List.cons_ne_nil y l)]

theorem testBit_foldl_or (x : Nat) (l : List Nat) (i : Nat) :
    (l.foldl (· ||| ·) x).testBit i = (x :: l).any fun y => y.testBit i := by
  induction l generalizing x with
  | nil => simp
  | cons y l ih => simp [ih, Bool.or_assoc]

theorem testBit_foldl_and (x : Nat) (l : List Nat) (i : Nat) :
    (l.foldl (· &&& ·) x).testBit i = (x :: l).all fun y => y.testBit i := by
  induction l generalizing x with
  | nil => simp
  | cons y l ih => simp [ih, Bool.and_assoc]

end

theorem opCombine_minI32 (x y : Nat) : opCombine 5 x y = if sint 32 y < sint 32 x then y else x := rfl
theorem opCombine_maxI32 (x y : Nat) : opCombine 6 x y = if sint 32 x < sint 32 y then y else x := rfl

section
variable {op : Nat} (ch : Nat → Nat) (x : Nat) (l : List Nat)

theorem opFold_add32 (add : op = 1 ∨ op = 13) : opFold op ch (x :: l) % 2 ^ 32 = (x + l.sum) % 2 ^ 32 := by
  rcases add with rfl | rfl <;> exact foldl_sum_mod (fun _ _ => rfl) x l

theorem opFold_add64 : opFold 2 ch (x :: l) % 2 ^ 64 = (x + l.sum) % 2 ^ 64 := foldl_sum_mod (fun _ _ => rfl) x l

theorem opFold_minI32 : opFold 5 ch (x :: l) ∈ x :: l ∧ ∀ y ∈ x :: l, Claims.sg 32 (opFold 5 ch (x :: l)) ≤ Claims.sg 32 y :=
  foldl_chooses (r := fun x y => sint 32 x ≤ sint 32 y) (fun _ => le_refl _) (fun _ _ _ => le_trans) (fun x y => by
    rw [opCombine_minI32]
    split
    next less => exact ⟨.inr rfl, less.le, le_refl _⟩
    next notLess => exact ⟨.inl rfl, le_refl _, not_lt.mp notLess⟩) x l

theorem opFold_maxI32 : opFold 6 ch (x :: l) ∈ x :: l ∧ ∀ y ∈ x :: l, Claims.sg 32 y ≤ Claims.sg 32 (opFold 6 ch (x :: l)) :=
  foldl_chooses (r := fun x y => sint 32 y ≤ sint 32 x) (fun _ => le_refl _) (fun _ _ _ a b => le_trans b a) (fun x y => by
    rw [opCombine_maxI32]
    split
    next less => exact ⟨.inr rfl, less.le, le_refl _⟩
    next notLess => exact ⟨.inl rfl, le_refl _, not_lt.mp notLess⟩) x l

theorem opFold_minU32 : opFold 7 ch (x :: l) ∈ x :: l ∧ ∀ y ∈ x :: l, opFold 7 ch (x :: l) ≤ y :=
  foldl_chooses (r := (· ≤ ·)) le_refl (fun _ _ _ => le_trans)
    (fun x y => ⟨min_choice x y, Nat.min_le_left x y, Nat.min_le_right x y⟩) x l

theorem opFold_maxU32 : opFold 8 ch (x :: l) ∈ x :: l ∧ ∀ y ∈ x :: l, y ≤ opFold 8 ch (x :: l) :=
  foldl_chooses (r := (· ≥ ·)) le_refl (fun _ _ _ a b => le_trans b a)
    (fun x y => ⟨max_choice x y, Nat.le_max_left x y, Nat.le_max_right x y⟩) x l

theorem opFold_last : opFold 14 ch (x :: l) = (x :: l).getLast (List.cons_ne_nil x l) := foldl_last (fun _ _ => rfl) x l

theorem opInit_plain (notBf16 : op ≠ 4) (notCount : op ≠ 13) : opInit op x = x := by
  unfold opInit
  split
  · exact absurd rfl notBf16
  · exact absurd rfl notCount
  · rfl

theorem opWiden_plain (notBf16 : op ≠ 4) : opWiden op x = x ∧ opNarrow op x = x := ⟨if_neg notBf16, if_neg notBf16⟩

end

/-! ### An element that takes its contributions (R295) -/

section
variable {s : State}

theorem Memory.readList_map (m : Memory) (a n : Nat) : m.readList a n = (List.range n).map fun k => m.read (a + k) := by
  have read := Memory.readList_eq (m := m) (a := a) (l := (List.range n).map fun k => m.read (a + k)) fun k b h => by
    obtain ⟨j, hj, rfl⟩ := List.getElem?_eq_some_iff.mp h
    simp
  rwa [List.length_map, List.length_range] at read

/-- A marked byte of a write, and a byte that was marked, is marked after a write of marked bytes. -/
theorem State.rawWrite_marks {l : List (Nat × Byte × Bool)} (marked : ∀ x ∈ l, x.2.2 = true) {a : Nat} (wf : s.mpoison.wf = true)
    (at_ : a ∈ l.map Prod.fst ∨ s.mpoison.read a ≠ 0) : (s.rawWrite l).mpoison.read a ≠ 0 := by
  induction l generalizing s with
  | nil => exact at_.resolve_left List.not_mem_nil
  | cons x l ih =>
    obtain ⟨head, tail⟩ := List.forall_mem_cons.mp marked
    refine ih tail (Memory.wf_write wf ..) ?_
    by_cases here : a = x.1
    · refine .inr ?_
      rw [Memory.read_write wf, if_pos here, head, markAfter]
      split <;> decide
    · refine at_.imp (fun h => (List.mem_cons.mp h).resolve_left here) fun h => ?_
      rwa [Memory.read_write wf, if_neg here]

theorem State.noteBad_memory (f i : Nat) (as : List Nat) :
    (s.noteBad f i as).mem = s.mem ∧ (s.noteBad f i as).mpoison = s.mpoison ∧ (s.noteBad f i as).waiters = s.waiters := by
  unfold State.noteBad
  split <;> exact ⟨rfl, rfl, rfl⟩

theorem State.noteBads_memory (as : List Nat) (l : List Pend) :
    let t := l.foldl (fun s p => s.noteBad p.field p.inst as) s
    t.mem = s.mem ∧ t.mpoison = s.mpoison ∧ t.waiters = s.waiters := by
  induction l generalizing s with
  | nil => exact ⟨rfl, rfl, rfl⟩
  | cons p l ih =>
    obtain ⟨mem, mpoison, waiters⟩ := s.noteBad_memory p.field p.inst as
    obtain ⟨mem', mpoison', waiters'⟩ := ih (s := s.noteBad p.field p.inst as)
    exact ⟨mem'.trans mem, mpoison'.trans mpoison, waiters'.trans waiters⟩

theorem State.newElem_bytes (op pa : Nat) (old : List (Byte × Bool)) (l : List Pend) :
    s.newElem op pa old l = bytesAt pa
      (natLe (opSize op) (opNarrow op (opFold op (s.sumPicks pa) (opWiden op (leNat (old.map Prod.fst)) :: l.map Pend.value))))
      (old.any Prod.snd || l.any Pend.poison) := by
  unfold State.newElem bytesAt
  rw [length_natLe]

/-- The bytes of an element, with their marks. -/
def State.oldElem (s : State) (op pa : Nat) : List (Byte × Bool) :=
  ((List.range (opSize op)).map (pa + ·)).map fun a => (s.mem.read a, decide (s.mpoison.read a ≠ 0))

theorem State.oldElem_bytes (op pa : Nat) : (s.oldElem op pa).map Prod.fst = s.mem.readList pa (opSize op) := by
  rw [State.oldElem, List.map_map, List.map_map, Memory.readList_map]
  rfl

section
variable {l : List Pend} (some_ : l ≠ []) (untagged : ∀ p ∈ l, p.tag = 0) (flat : ∀ x ∈ s.insts, x.versioned = false)
include some_ untagged flat

/-- Untagged contributions, where there is no version, go to the committed element in one write. -/
theorem State.applyElem_committed (idle : s.waiters = []) (pa op : Nat) :
    s.applyElem pa op l = (l.filter Pend.poison).foldl (fun s p => s.noteBad p.field p.inst [pa])
      (s.rawWrite (s.newElem op pa (s.oldElem op pa) l)) := by
  have tagged : l.filter (fun p => decide (p.tag ≠ 0)) = [] :=
    List.filter_eq_nil_iff.mpr fun p hp => by simp [untagged p hp]
  have base : l.filter (fun p => !s.versions p) = l :=
    List.filter_eq_self.mpr fun p hp => by simp [State.versions, untagged p hp]
  have versions : s.insts.filter Inst.versioned = [] :=
    List.filter_eq_nil_iff.mpr fun x hx => by simp [flat x hx]
  unfold State.applyElem
  simp only [tagged, List.map_nil, List.dedup_nil, List.foldl_nil, base, versions, List.filterMap_nil,
    List.isEmpty_eq_false_iff.mpr some_, Bool.false_eq_true, if_false]
  refine State.noteWords_idle ?_ _
  exact (State.noteBads_memory ..).2.2.trans ((State.rawWrite_put _).2.trans idle)

theorem State.applyElem_memory (idle : s.waiters = []) (wf : s.mem.wf = true) (marks : s.mpoison.wf = true) (pa op : Nat) :
    (s.applyElem pa op l).mem.readList pa (opSize op)
      = natLe (opSize op) (opNarrow op (opFold op (s.sumPicks pa)
          (opWiden op (leNat (s.mem.readList pa (opSize op))) :: l.map Pend.value)))
    ∧ Claims.memSame s (s.applyElem pa op l) (fun a => pa ≤ a ∧ a < pa + opSize op)
    ∧ ((∃ p ∈ l, p.poison = true) → ∀ a, pa ≤ a → a < pa + opSize op → (s.applyElem pa op l).mpoison.read a ≠ 0) := by
  rw [State.applyElem_committed some_ untagged flat idle, State.newElem_bytes, State.oldElem_bytes]
  generalize opNarrow op _ = v
  obtain ⟨mem, mpoison, -⟩ := State.noteBads_memory (s := s.rawWrite (bytesAt pa (natLe (opSize op) v)
    ((s.oldElem op pa).any Prod.snd || l.any Pend.poison))) [pa] (l.filter Pend.poison)
  rw [Claims.memSame, mem, mpoison, (State.rawWrite_put _).1]
  have put := Memory.put_bytesAt wf pa (natLe (opSize op) v) ((s.oldElem op pa).any Prod.snd || l.any Pend.poison)
  rw [length_natLe] at put
  refine ⟨put.1, put.2, ?_⟩
  rintro ⟨p, hp, bad⟩ a low high
  refine State.rawWrite_marks (fun x hx => ?_) marks (.inl ?_)
  · obtain ⟨y, -, rfl⟩ := List.mem_map.mp hx
    exact Bool.or_eq_true_iff.mpr (.inr (List.any_eq_true.mpr ⟨p, hp, bad⟩))
  · rw [keys_bytesAt, length_natLe]
    exact List.mem_map.mpr ⟨a - pa, List.mem_range.mpr (by omega), by omega⟩

end
end

end Sys2Proof.Machine
end

section
/-! Messages and tokens on their way (R326, R348-R350), and the statement of the Granaries and the fabric. -/

namespace Sys2Proof.Machine

/-! ### Messages and tokens (R348-R350, R326) -/

section
variable {s : State} {n : Nat} {m : MsgFlight}

/-- The bay of a message can take it. -/
def State.takesMsg (s : State) (m : MsgFlight) : Prop :=
  (s.bay m.bay).halted = false ∧ (s.bay m.bay).msgs.length < Config.messageQueue
/-- A message is the oldest on its path. -/
def State.firstMsg (s : State) (n : Nat) (m : MsgFlight) : Prop :=
  ∀ q ∈ s.msgs.take n, ¬ (q.from_.bay = m.from_.bay ∧ q.bay = m.bay ∧ s.tenantOf q.field = s.tenantOf m.field)

theorem State.msgWaits_iff : ((s.bay m.bay).halted || decide ((s.bay m.bay).msgs.length ≥ Config.messageQueue)
      || (s.msgs.take n).any fun q => q.from_.bay == m.from_.bay && q.bay == m.bay && s.tenantOf q.field == s.tenantOf m.field) = true
    ↔ ¬ s.takesMsg m ∨ ¬ s.firstMsg n m := by
  unfold State.takesMsg State.firstMsg
  simp only [Bool.or_eq_true, decide_eq_true_eq, List.any_eq_true, Bool.and_eq_true, beq_iff_eq]
  grind

variable (message : s.msgs[n]? = some m)
include message

section
variable (here : (s.bay m.bay).inst = some (m.field, m.inst))
include here

theorem exec_messageDeliver_enters (takes : s.takesMsg m) (first : s.firstMsg n m) : exec (.messageDeliver n) s =
    .next (State.modBay { s with msgs := dropAt s.msgs n } m.bay fun y => { y with msgs := y.msgs ++ [m.msg] }) := by
  change execMessageDeliver n s = _
  unfold execMessageDeliver
  simp only [message]
  rw [if_neg (not_not.mpr here)]
  exact if_neg fun waits => (State.msgWaits_iff.mp waits).elim (· takes) (· first)

theorem exec_messageDeliver_waits (waits : ¬ s.takesMsg m ∨ ¬ s.firstMsg n m) : exec (.messageDeliver n) s = .next s := by
  change execMessageDeliver n s = _
  unfold execMessageDeliver
  simp only [message]
  rw [if_neg (not_not.mpr here)]
  exact if_pos (State.msgWaits_iff.mpr waits)

end

theorem exec_messageDeliver_away (away : ¬ (s.bay m.bay).inst = some (m.field, m.inst)) : exec (.messageDeliver n) s =
    if (s.inst? m.field m.inst).isNone then .next { s with msgs := dropAt s.msgs n } else .next s := by
  change execMessageDeliver n s = _
  unfold execMessageDeliver
  simp only [message]
  exact if_pos away

end

section
variable {s : State} {f i c : Nat} {x : Inst} {r : ChanRec}

theorem State.tokenReady_iff : s.tokenReady x c r = true ↔ (s.bayRuns (s.prodBay x r) = true ∧ s.bayRuns (s.consBay x r) = true)
    ∧ (s.crossing x r = true → 0 < (x.chan c).passed)
    ∧ ∀ d ∈ x.sends.takeWhile (· != c), ∀ q, x.image.chans[d]? = some q → s.sameWay x r q = false := by
  simp only [State.tokenReady, Bool.and_eq_true, Bool.or_eq_true, Bool.not_eq_true', decide_eq_true_eq, List.all_eq_true,
    Option.any_eq_false]
  refine and_assoc.trans (and_congr and_comm (and_congr_left' ?_))
  rw [gt_iff_lt, ← Bool.not_eq_true, or_iff_not_imp_left, not_not]

variable (inst : s.inst? f i = some x) (chan : x.image.chans[c]? = some r)
include inst chan

theorem exec_channelTokenArrive {t : Tok} {l : List Tok} (flight : (x.chan c).flight = t :: l) (ready : s.tokenReady x c r = true) :
    exec (.channelTokenArrive f i c) s = .next
      ((((s.modInst f i fun y => { y with sends := y.sends.erase c }).modChan f i c fun ch =>
          { ch with flight := l, passed := ch.passed - 1 }).landTok f i c t).modChan f i c fun ch =>
        { ch with closed := ch.closed || (ch.eosSent && l.isEmpty) }) := by
  change execChannelTokenArrive f i c s = _
  unfold execChannelTokenArrive
  simp only [inst, chan, flight, ready]
  rfl

theorem exec_channelTokenArrive_waits (waits : (x.chan c).flight = [] ∨ s.tokenReady x c r = false) :
    exec (.channelTokenArrive f i c) s = .next s := by
  change execChannelTokenArrive f i c s = _
  unfold execChannelTokenArrive
  simp only [inst, chan]
  cases flight : (x.chan c).flight with
  | nil => rfl
  | cons t l => exact if_pos (by simpa [flight] using waits)

theorem exec_coincidentEdge : exec (.coincidentEdge f i c) s =
    if s.bayRuns (s.prodBay x r) && s.bayRuns (s.consBay x r) then
      .next (s.modChan f i c fun ch => { ch with seen := ch.consumed, passed := min 8 ch.flight.length })
    else .next s := by
  change execCoincidentEdge f i c s = _
  unfold execCoincidentEdge
  simp only [inst, chan]

end

/-- Settles O56. The batch is sorted stably (`filter_sortBy`), and the key of a pair is its element's (`batchKey_element`) or,
where a line has two keys, its line's (`batchKey_line`); the threshold is kept because the fullest tenant has a bin to give
(`exists_fullest`); untagged contributions are one write of the committed element (`State.applyElem_committed`). -/
theorem granaryAndFabric : Obligations.GranaryAndFabric := by
  refine ⟨?way, fun _ _ => rfl, sortBatch_order, ?bins, fun _ _ _ => ⟨addEntry_new, ?entries⟩, ?parts, ?limits, ?threshold, ?spills,
    ?writes, ?runs, ?batch, fun s _ _ same => State.applyPend_element s same, ?element, ?operators, ?messages, ?tokens⟩
  case way =>
    intro s n
    refine ⟨fun p pair oldest free => ?_, fun p pair waits => ?_, fun p => State.stays_iff, fun p q => State.samePath_iff,
      fun p untagged streams idle => State.serialise_joins untagged streams idle,
      fun empty => ?_, fun some_ => ?_, exec_batchInsert n, exec_sweep n⟩
    · rw [exec_pairArrive pair, if_pos (State.pairReady_iff.mpr ⟨oldest, free⟩)]
    · rw [exec_pairArrive pair, if_neg fun ready => ?_]
      obtain ⟨oldest, free⟩ := State.pairReady_iff.mp ready
      rcases waits with ⟨q, hq, path⟩ | held
      · exact Bool.false_ne_true ((oldest q hq).symm.trans path)
      · exact Bool.false_ne_true (free.symm.trans held)
    · rw [exec_batchTimeout, if_pos empty]
    · rw [exec_batchTimeout, if_neg some_]
  case bins =>
    intro s pre k p x line same
    exact ⟨fun all bin => State.insertPair_joins (fun b hb here => (all b hb here).2) bin, State.insertPair_opens, Bin.alike_iff,
      Pair.bin_untagged, fun b hb here other =>
        ⟨_, rfl, State.insertPair_clashing hb here (fun alike => other ⟨here, alike⟩) rfl⟩⟩
  case entries =>
    rintro a x b rfl before here
    exact addEntry_joins before here
  case parts => exact fun op x v l => ⟨fun float => addPart_float float l v, addPart_same⟩
  case limits =>
    exact fun s pre k c => ⟨State.quotaTest_within, State.quotaTest_over, oldest_keeps _ _, State.storeTest_within⟩
  case threshold =>
    exact fun l tenants => ⟨overflow_keeps tenants (le_refl _), fun b hb => overflow_subset _ _ l hb, fun u hu => fullest_greatest l hu⟩
  case spills =>
    intro s pre k b t held h
    exact ⟨State.spillBins_unnamed held, fun named => ⟨State.spillBins_unusable held named rfl,
      State.spillBins_merges held named rfl, State.spillBins_writes held named rfl⟩⟩
  case writes =>
    intro s u pre k b h base bound m es hdr
    exact ⟨State.writeRun_unusable, fun area header => ⟨fun past => State.writeRun_refused area header (.inl past),
      fun _ unformed => State.writeRun_refused area header (.inr unformed),
      fun w segs room formed => State.writeRun_writes area header room formed⟩, fun _ _ => State.spillArea_usable⟩
  case runs =>
    intro pick l r
    obtain ⟨chosen, kept, length⟩ := chooseRuns_parts pick l
    refine ⟨fun x => chooseRuns_picks, chosen, kept, length, ?_⟩
    rintro a x b y e f rfl hy he hf line
    exact chooseRuns_older hy he hf line
  case batch => exact fun s k x want => State.applyAt_batch
  case element =>
    exact fun s pa op l some_ untagged flat idle wf marks => State.applyElem_memory some_ untagged flat idle wf marks pa op
  case operators =>
    intro op ch x l
    obtain ⟨minI, leI⟩ := opFold_minI32 ch x l
    obtain ⟨maxI, geI⟩ := opFold_maxI32 ch x l
    obtain ⟨minU, leU⟩ := opFold_minU32 ch x l
    obtain ⟨maxU, geU⟩ := opFold_maxU32 ch x l
    exact ⟨opFold_add32 ch x l, opFold_add64 ch x l, minI, leI, maxI, geI, minU, leU, maxU, geU, testBit_foldl_or x l,
      testBit_foldl_and x l, opFold_last ch x l, rfl, opInit_plain x, opWiden_plain x⟩
  case messages =>
    intro s n m message here free first
    refine ⟨fun at_ takes oldest => ⟨_, exec_messageDeliver_enters message at_ takes oldest, rfl, ?_, fun b other => ?_, rfl⟩,
      exec_messageDeliver_waits message, fun away gone => ?_, fun away live => ?_⟩
    · exact (State.bay_modBay ..).trans (if_pos rfl)
    · exact (State.bay_modBay ..).trans (if_neg other)
    · rw [exec_messageDeliver_away message away, gone]
      rfl
    · exact (exec_messageDeliver_away message away).trans (if_neg (by simpa using live))
  case tokens =>
    intro s f i c x r inst chan both
    refine ⟨fun t l flight ready => exec_channelTokenArrive inst chan flight ready, exec_channelTokenArrive_waits inst chan,
      State.tokenReady_iff, fun run => ?_, fun stopped => ?_⟩
    · exact (exec_coincidentEdge inst chan).trans (if_pos ((Bool.and_eq_true ..).mpr run))
    · exact (exec_coincidentEdge inst chan).trans (if_neg fun run => stopped ((Bool.and_eq_true ..).mp run))

end Sys2Proof.Machine
end
